-- ==== Sys2Proof/Word.lean ====
section
/-!
DEFINITION. The word types of the Kryber and the shapes of its register numbers (R13 to R15, R79).
-/

namespace Sys2Proof

/-- A byte of any store. -/
abbrev Byte := BitVec 8

/-- One instruction word (R77). -/
abbrev Word32 := BitVec 32

/-- A scalar register's value, a return-queue entry, a configuration word. -/
abbrev Word64 := BitVec 64

/-- A 5-bit field that names x0 to x31 (R79). -/
abbrev XReg := BitVec 5

/-- A 4-bit V-format field that names v0 to v15 (R79). -/
abbrev VReg := BitVec 4

/-- A 4-bit V-format field that names x0 to x15, "xs" in R87. -/
abbrev SReg := BitVec 4

/-- A mask register k0 to k3. -/
abbrev KReg := BitVec 2

/-- A predicate p0 to p7. -/
abbrev PReg := BitVec 3

end Sys2Proof
end

