-- ==== Sys2Proof/Syntax.lean ====
section
/-!
DEFINITION. The syntax: one constructor of Instr for each row of spec/opcode_table.json. The first
178 are the encoded instructions (R82 to R93). The others are the part's events, which have no
encoding; their operands say where the event happens.
-/

namespace Sys2Proof

set_option linter.constructorNameAsVariable false

/-- The issue fields of every instruction word: gap G (R63) and yield bit Y (R64). -/
structure Issue where
  g : BitVec 3
  y : Bool
deriving DecidableEq, Repr

/-- The types of the vector majors, in the order of R82 and of the codes of R88. -/
inductive VType | f32 | bf16 | f16 | i32 | i16 | i8
deriving DecidableEq, Repr

/-- Integer conditions (R84). -/
inductive Cond | eq | ne | lt | ltu | ge | geu
deriving DecidableEq, Repr

/-- Vector conditions (R140). -/
inductive VCond | eq | ne | lt | le | gt | ge
deriving DecidableEq, Repr

/-- Rounding modes that a word can select (R30, R88). -/
inductive RMode | rn | rz | ru | rd | sr
deriving DecidableEq, Repr

/-- The conversion codes of VPACK and VUNPK (R88). -/
inductive PackCode
  | f32bf16 | f32f16 | f32e4m3 | f32e5m2 | f32e2m1 | i32i16 | i32i8 | i16i8 | i8i4
  | bf16e4m3 | bf16e5m2
deriving DecidableEq, Repr

/-- Block element formats (R88). -/
inductive ElemFmt | e4m3 | e5m2 | e2m1
deriving DecidableEq, Repr

/-- Matrix formats (R89). -/
inductive MFmt | bf16 | f16 | e4m3 | e5m2 | e2m1 | kb8e4m3 | kb8e5m2 | kb4 | i8
deriving DecidableEq, Repr

/-- Access widths of LD and ST (R90). -/
inductive Width | b | h | w | d
deriving DecidableEq, Repr

/-- Order suffixes (R90, R199). -/
inductive Order | rlx | acq | rel | ar
deriving DecidableEq, Repr

/-- Scopes (R90, R277). -/
inductive Scope | c | h | w | p | s
deriving DecidableEq, Repr

/-- The special registers of R127, in the order of their numbers. -/
inductive SpecReg
  | fix | phs | mde | ctx | core | ldist | cyc | gkey | gseq | lmax | tmode | slast
  | six0 | six1 | six2 | six3
deriving DecidableEq, Repr

/-- What the self-test found of the blocks that it tests (R470): whether the base die and the security engine
pass, the HBM4 stacks and the physical halls that fail. -/
structure SelfTest where
  baseDie : Bool := true
  security : Bool := true
  hbm : List Nat := []
  halls : List Nat := []
deriving DecidableEq, Repr

/-- Where a soft error strikes (R469, R179): an 8-byte word, a bank's row, or, past the code of each word,
a 32-byte unit in memory or unit n of a packet's data in a router (R468). -/
inductive SramTarget
  | word (key : Nat)
  | row (core bank row : Nat)
  | unit (key : Nat)
  | flit (packet n : Nat)
deriving DecidableEq, Repr

/-- A Maelle link flit (R445): a 64-byte fabric flit, its check values (R468), its sequence number and
virtual channel, and the credits that it returns: a channel and a count (log 86). -/
structure LinkFlit where
  seq : BitVec 12
  vc : BitVec 3
  check0 : BitVec 16
  check1 : BitVec 16
  credit : Option (BitVec 3 × BitVec 14) := none
  data : List Byte
  /-- 8-byte words of the data that carry the poison mark (R50) -/
  poison : List Nat := []
deriving DecidableEq, Repr

/-- One constructor per row of spec/opcode_table.json. Core numbers of events are physical core
numbers, hall numbers physical hall numbers (R3). -/
inductive Instr
  -- major 0x00, register forms (R112, R113)
  | add (q : Issue) (d a b : XReg)
  | sub (q : Issue) (d a b : XReg)
  | mul (q : Issue) (d a b : XReg)
  | mulh (q : Issue) (d a b : XReg)
  | mulhu (q : Issue) (d a b : XReg)
  | div (q : Issue) (a b : XReg)
  | divu (q : Issue) (a b : XReg)
  | rem (q : Issue) (a b : XReg)
  | remu (q : Issue) (a b : XReg)
  | and (q : Issue) (d a b : XReg)
  | or (q : Issue) (d a b : XReg)
  | xor (q : Issue) (d a b : XReg)
  | andn (q : Issue) (d a b : XReg)
  | shl (q : Issue) (d a b : XReg)
  | shr (q : Issue) (d a b : XReg)
  | sra (q : Issue) (d a b : XReg)
  | rol (q : Issue) (d a b : XReg)
  | clz (q : Issue) (d a : XReg)
  | ctz (q : Issue) (d a : XReg)
  | popc (q : Issue) (d a : XReg)
  | min (q : Issue) (d a b : XReg)
  | max (q : Issue) (d a b : XReg)
  | minu (q : Issue) (d a b : XReg)
  | maxu (q : Issue) (d a b : XReg)
  | sel (q : Issue) (d a b : XReg) (p : PReg)
  | cmp (q : Issue) (c : Cond) (p : PReg) (a b : XReg)
  -- immediate and address forms (R115 to R118)
  | addi (q : Issue) (d a : XReg) (i : BitVec 11)
  | andi (q : Issue) (d a : XReg) (i : BitVec 11)
  | ori (q : Issue) (d a : XReg) (i : BitVec 11)
  | xori (q : Issue) (d a : XReg) (i : BitVec 11)
  | shli (q : Issue) (d a : XReg) (n : BitVec 6)
  | shri (q : Issue) (d a : XReg) (n : BitVec 6)
  | srai (q : Issue) (d a : XReg) (n : BitVec 6)
  | movi (q : Issue) (d : XReg) (i : BitVec 11)
  | moviLong (q : Issue) (d : XReg) (i : Word32)
  | lih (q : Issue) (d : XReg) (i : Word32)
  | lea (q : Issue) (d a : XReg) (i : BitVec 11)
  | cmpiEq (q : Issue) (p : PReg) (a : XReg) (i : BitVec 11)
  | cmpiNe (q : Issue) (p : PReg) (a : XReg) (i : BitVec 11)
  | cmpiLt (q : Issue) (p : PReg) (a : XReg) (i : BitVec 11)
  | cmpiLtu (q : Issue) (p : PReg) (a : XReg) (i : BitVec 11)
  | cmpiGe (q : Issue) (p : PReg) (a : XReg) (i : BitVec 11)
  | cmpiGeu (q : Issue) (p : PReg) (a : XReg) (i : BitVec 11)
  -- transfers (R121, R123)
  | br (q : Issue) (p : PReg) (off : BitVec 17)
  | brn (q : Issue) (p : PReg) (off : BitVec 17)
  | jmp (q : Issue) (off : BitVec 17)
  | jal (q : Issue) (off : BitVec 17)
  | jr (q : Issue) (a : XReg)
  | loop (q : Issue) (a : XReg) (i : BitVec 11)
  -- predicate logic and special registers (R120, R126, R70)
  | pand (q : Issue) (d a b : PReg)
  | por (q : Issue) (d a b : PReg)
  | pxor (q : Issue) (d a b : PReg)
  | pnot (q : Issue) (d a : PReg)
  | pset (q : Issue) (d : PReg) (v : Bool)
  | srd (q : Issue) (d : XReg) (r : SpecReg)
  | swr (q : Issue) (r : SpecReg) (b : XReg)
  | dpop (q : Issue) (d : XReg)
  -- typed vector operations (R137 to R141)
  | vadd (q : Issue) (t : VType) (d a b : VReg) (k : KReg)
  | vsub (q : Issue) (t : VType) (d a b : VReg) (k : KReg)
  | vmul (q : Issue) (t : VType) (d a b : VReg) (k : KReg)
  | vfma (q : Issue) (t : VType) (d a b : VReg) (k : KReg)
  | vfms (q : Issue) (t : VType) (d a b : VReg) (k : KReg)
  | vmin (q : Issue) (t : VType) (d a b : VReg) (k : KReg)
  | vmax (q : Issue) (t : VType) (d a b : VReg) (k : KReg)
  | vabs (q : Issue) (t : VType) (d a : VReg) (k : KReg)
  | vneg (q : Issue) (t : VType) (d a : VReg) (k : KReg)
  | vaddSat (q : Issue) (t : VType) (d a b : VReg) (k : KReg)
  | vsubSat (q : Issue) (t : VType) (d a b : VReg) (k : KReg)
  | vrcp (q : Issue) (d a : VReg) (k : KReg)
  | vrsq (q : Issue) (d a : VReg) (k : KReg)
  | vsqrt (q : Issue) (d a : VReg) (k : KReg)
  | vexp2 (q : Issue) (d a : VReg) (k : KReg)
  | vlog2 (q : Issue) (d a : VReg) (k : KReg)
  | vshl (q : Issue) (t : VType) (d a b : VReg) (k : KReg)
  | vshr (q : Issue) (t : VType) (d a b : VReg) (k : KReg)
  | vsra (q : Issue) (t : VType) (d a b : VReg) (k : KReg)
  | vcmp (q : Issue) (t : VType) (c : VCond) (m : KReg) (a b : VReg) (k : KReg)
  | vredsum (q : Issue) (t : VType) (d a : VReg) (k : KReg)
  | vredmax (q : Issue) (t : VType) (d a : VReg) (k : KReg)
  | vredmin (q : Issue) (t : VType) (d a : VReg) (k : KReg)
  | vredarg (q : Issue) (t : VType) (d a : VReg) (k : KReg)
  -- untyped vector operations (R142 to R145)
  | vand (q : Issue) (d a b : VReg) (k : KReg)
  | vor (q : Issue) (d a b : VReg) (k : KReg)
  | vxor (q : Issue) (d a b : VReg) (k : KReg)
  | vsel (q : Issue) (d a b : VReg) (k : KReg)
  | vkand (q : Issue) (d a b : KReg)
  | vkor (q : Issue) (d a b : KReg)
  | vknot (q : Issue) (d a : KReg)
  | vkpop (q : Issue) (d : SReg) (a : KReg)
  | vmov (q : Issue) (d a : VReg) (k : KReg)
  | vbcast (q : Issue) (d : VReg) (a : SReg) (k : KReg)
  | vext (q : Issue) (d : SReg) (a : VReg) (b : SReg)
  | vins (q : Issue) (d : VReg) (a b : SReg)
  | vperm (q : Issue) (d a b : VReg) (k : KReg)
  | vshuf (q : Issue) (d a b : VReg) (k : KReg)
  | vrot (q : Issue) (d a : VReg) (b : SReg) (k : KReg)
  -- conversions (R146 to R150)
  | vcvt (q : Issue) (d a : VReg) (m : RMode) (k : KReg) (sat : Bool) (src dst : VType)
  | vpack (q : Issue) (d a b : VReg) (part : BitVec 2) (m : RMode) (c : PackCode)
  | vunpk (q : Issue) (d a : VReg) (part : BitVec 4) (k : KReg) (c : PackCode)
  | vscale (q : Issue) (d a : VReg) (b : SReg) (k : KReg) (e : ElemFmt)
  | vscaleApply (q : Issue) (d a : VReg) (b : SReg) (k : KReg) (e : ElemFmt)
  -- vector memory (R151)
  | vld (q : Issue) (d : VReg) (a b : SReg) (k : KReg)
  | vst (q : Issue) (d : VReg) (a b : SReg) (k : KReg)
  | vlds (q : Issue) (d : VReg) (a b : SReg) (k : KReg)
  | vsts (q : Issue) (d : VReg) (a b : SReg) (k : KReg)
  | vgath (q : Issue) (d : VReg) (a : SReg) (b : VReg) (k : KReg)
  | vscat (q : Issue) (d : VReg) (a : SReg) (b : VReg) (k : KReg)
  -- random numbers, masks, sampling (R154 to R160)
  | vrng (q : Issue) (d a : VReg) (k : KReg)
  | vsamp (q : Issue) (d a : VReg) (b : SReg) (k : KReg) (p : PReg)
  | vsampGreedy (q : Issue) (d a : VReg) (b : SReg) (k : KReg) (p : PReg)
  | vmaskld (q : Issue) (m : KReg) (a b : SReg)
  -- matrix (R167, R175 to R178)
  | mma (q : Issue) (z : Bool) (a b : XReg) (f : MFmt) (kc : BitVec 6)
  | mmas (q : Issue) (z : Bool) (a b : XReg) (f : MFmt) (kc : BitVec 6)
  | mmai (q : Issue) (z : Bool) (a b : XReg) (kc : BitVec 6)
  | mzero (q : Issue) (z : Bool)
  | mldz (q : Issue) (z : Bool) (a : XReg)
  | mstz (q : Issue) (z : Bool) (a : XReg)
  | mrdv (q : Issue) (z : Bool) (a : XReg) (d : VReg)
  | mwait (q : Issue)
  | mstat (q : Issue) (z : Bool) (d : XReg)
  -- tile-store loads and stores (R182)
  | ld (q : Issue) (w : Width) (d a : XReg) (o : BitVec 9)
  | st (q : Issue) (w : Width) (d a : XReg) (o : BitVec 9)
  -- windows (R185)
  | wget (q : Issue) (d : XReg) (w : BitVec 4) (b : XReg)
  | wfree (q : Issue) (w : BitVec 4) (b : XReg)
  | wres (q : Issue) (w : BitVec 4) (b : XReg)
  | wput (q : Issue) (w : BitVec 4) (b : XReg)
  | wavail (q : Issue) (d : XReg) (w : BitVec 4)
  | wspace (q : Issue) (d : XReg) (w : BitVec 4)
  -- tile moves (R191)
  | tmovIn (q : Issue) (d a b : XReg)
  | tmovOut (q : Issue) (d a b : XReg)
  | twait (q : Issue) (n : BitVec 2)
  -- shared-space words (R197, R198)
  | ald (q : Issue) (acq : Bool) (s : Scope) (dw : Bool) (a : XReg)
  | ast (q : Issue) (rel : Bool) (s : Scope) (dw : Bool) (a b : XReg)
  | acas (q : Issue) (o : Order) (s : Scope) (dw : Bool) (a b : XReg)
  | atomAdd (q : Issue) (o : Order) (s : Scope) (a b : XReg)
  | atomSwap (q : Issue) (o : Order) (s : Scope) (a b : XReg)
  | atomAnd (q : Issue) (o : Order) (s : Scope) (a b : XReg)
  | atomOr (q : Issue) (o : Order) (s : Scope) (a b : XReg)
  | atomXor (q : Issue) (o : Order) (s : Scope) (a b : XReg)
  | atomMin (q : Issue) (o : Order) (s : Scope) (a b : XReg)
  | atomMax (q : Issue) (o : Order) (s : Scope) (a b : XReg)
  | atomMaxu (q : Issue) (o : Order) (s : Scope) (a b : XReg)
  -- full/empty words and fences (R202, R205)
  | ldf (q : Issue) (d a : XReg) (e : BitVec 8)
  | stf (q : Issue) (d a : XReg)
  | sete (q : Issue) (d a : XReg)
  | fence (q : Issue) (s : Scope)
  -- streams and stage queues (R206, R209)
  | sstart (q : Issue) (n : BitVec 5)
  | sstop (q : Issue) (n : BitVec 5)
  | sbar (q : Issue) (b : XReg)
  | sstat (q : Issue) (n : BitVec 5)
  | qclaim (q : Issue) (n : BitVec 5)
  | qput (q : Issue) (n : BitVec 5) (b : XReg)
  | qstat (q : Issue) (n : BitVec 5)
  -- firing and landing (R215 to R223)
  | fend (q : Issue)
  | resume (q : Issue)
  | land (q : Issue) (e : BitVec 8) (t : BitVec 4)
  | mode (q : Issue) (m : BitVec 3)
  | sig (q : Issue) (n : BitVec 6)
  | trapN (q : Issue) (c : BitVec 5)
  | trapS (q : Issue) (c : BitVec 5)
  | brk (q : Issue)
  -- grammar commands (R224)
  | gopen (q : Issue) (a b : XReg)
  | gstep (q : Issue) (a b : XReg)
  | gmask (q : Issue) (a b : XReg)
  | gclose (q : Issue) (a : XReg)
  | gqry (q : Issue) (a b : XReg)
  -- system forms (R226 to R235)
  | cfgw (q : Issue) (a b : XReg)
  | cfgr (q : Issue) (a b : XReg)
  | cfgcrc (q : Issue) (a b : XReg)
  | cfgcommit (q : Issue) (a b : XReg)
  | cfgabort (q : Issue) (b : XReg)
  | rtw (q : Issue) (a b : XReg)
  | sech (q : Issue) (a b : XReg)
  | secv (q : Issue) (a b : XReg)
  | eret (q : Issue) (a b : XReg)
  | preq (q : Issue) (a b : XReg)
  | frz (q : Issue) (a b : XReg)
  | dmap (q : Issue) (a b : XReg)
  -- events of the core (R66, R69, R245, R248, R257, R297 to R299)
  | resultWriteback (core ctx : Nat)
  | deferredResultArrival (core ctx id : Nat) (v : Word64) (po : Bool)
  | firingStart (core entry : Nat)
  | guardPoison (core entry : Nat)
  | windowClosed (core entry : Nat)
  | claimRequest (core entry : Nat)
  | claimDecide (core ctx : Nat)
  | claimAnswer (core ctx : Nat) (grant : Bool) (idx : Word32)
  | queueSlotCommit (id : Nat)
  | claimCopyRetire (id : Nat)
  | queueCredit (load queue : Nat) (freed : Word32)
  | queueClose (load queue : Nat) (final : Word32)
  -- events of routes and windows (R251 to R256, R187, R205)
  | routerForward (id : Nat)
  | tokenCommit (id : Nat)
  | wputReadDone (id : Nat)
  | creditArrival (id : Nat)
  | closePacketArrival (id : Nat)
  | commitAck (core ctx id : Nat)
  -- events of engines (R192, R169, R226)
  | tmovRetire (id : Nat)
  | matrixCommandStart (core : Nat)
  | matrixStreamEnd (core : Nat)
  | matrixCommandRetire (core : Nat)
  | resultAreaWrite (id : Nat)
  -- events of the corridor and of modes (R261 to R264)
  | corridorArrival (core sig : Nat)
  | corridorApply (core ctx : Nat)
  | drainStart (load : Nat) (m : BitVec 3)
  -- events of streams and translation (R272, R287, R381 to R386)
  | streamToken (hall stream : Nat)
  | orderedAccessPerform (hall stream : Nat)
  | walkResult (id : Nat)
  | rewalk (id : Nat)
  | flimExpiry (id : Nat)
  | invalidatePage (wing : Nat) (va : BitVec 35) (asn : BitVec 11)
  | invalidateRegion (wing : Nat) (va : BitVec 35) (asn : BitVec 11)
  | invalidateAsn (wing : Nat) (asn : BitVec 11)
  | invalidateAll (wing : Nat)
  -- events of pre-emption, freeze and stop (R398 to R411, R455, R463)
  | preemptFlagSet (core : Nat)
  | hallWriteOut (load slot : Nat)
  | freezeArrival (load hall : Nat)
  | stopFlagArrival (core : Nat)
  | hang (load : Nat) (drain : Bool) (stalled : Option (Nat × Nat))
  -- events of the balance unit (R304 to R309)
  | moveEntriesValid (core : Nat)
  | benRestart (wing : Nat)
  | grammarCommandPerform (id : Nat)
  -- events of launches (R353 to R369)
  | doorbellWrite (queue : BitVec 6) (v : Word64)
  | launchCold (queue : BitVec 6)
  | launchColdResident (queue : BitVec 6)
  | launchResidentRun (queue : BitVec 6)
  | launchRelease (queue : BitVec 6)
  | msixUnmask (vector : Nat)
  | placingOutcome (launch : Nat) (word : Word64)
  -- events of the host, health and power (R436 to R440, R469 to R477)
  | bar2Write (off : BitVec 28) (data : List Byte) (ep : Bool)
  | bar2Read (off : BitVec 28) (n : Nat)
  | registerWrite (off : BitVec 14) (v : Word64)
  | voltageReplan (wing hall : Nat) (voff : Option (BitVec 8))
  | thermalTrip (tj : BitVec 8)
  | powerTrip (pwr : BitVec 16)
  | selfTestDone (r : SelfTest)
  | cxlTimeout (port : Nat)
  | cxlLinkDown (port : Nat)
  -- events of Maelle links, arcs and collectives (R446, R450 to R453)
  | linkFlitReceive (port : Nat) (f : LinkFlit)
  | linkRetry (port : Nat) (seq : BitVec 12)
  | linkRetrainDone (port : Nat) (up : Bool)
  -- events of memory and power (R273, R469, R9, R472)
  | accessReachesBank (id : Nat)
  | sramError (t : SramTarget) (correctable : Bool)
  | powerEnvelopeControl (wing : Nat) (afl : Word32)
  -- events whose place the state tells: the first that is due
  | balanceSample
  | balanceIntervalEnd
  | admissionWindowStart
  | loadStopped
  | preqComplete
  | pageStall
  | arcLate
  | loadComplete
  | drainTargetSet
  | quiescentPoint
  | candidateStart
  | nextLoadStart
  | completionWord
  | invalidationComplete
  | stageRetire
  | outputQueueClose
  | moveBoundary
  | collectiveRound
  | arcTolerance
  | alimExpiry
  | collectiveTolerance
  | collectiveLimit
  | healthRead
  | enterSafeState
  | powerOn
  | powerOff
deriving DecidableEq, Repr

end Sys2Proof
end

