-- ==== Sys2Proof/WellFormed.lean ====
section
/-!
DEFINITION. Which terms of Instr an encoding can carry (R83 to R93), and which operands of an event
name a place that the part has (R1 to R7).
-/

namespace Sys2Proof

set_option linter.constructorNameAsVariable false

/-- The float types of R86. -/
def VType.isFloat : VType → Bool
  | .f32 | .bf16 | .f16 => true
  | .i32 | .i16 | .i8 => false

/-- Bits of one element of a vector type. -/
def VType.bits : VType → Nat
  | .f32 | .i32 => 32
  | .bf16 | .f16 | .i16 => 16
  | .i8 => 8

/-- R88: .sat is legal when both types are integer and the destination is the narrower; equal types
are unassigned. -/
def VType.cvtOk (src dst : VType) (sat : Bool) : Bool :=
  src != dst && (!sat || (!src.isFloat && !dst.isFloat && dst.bits < src.bits))

/-- R126, R127: the special registers that SWR may name. -/
def SpecReg.writable : SpecReg → Bool
  | .gkey | .gseq | .lmax | .tmode => true
  | _ => false

/-- R89: the formats of MMA, codes 0 to 4. -/
def MFmt.plain : MFmt → Bool
  | .bf16 | .f16 | .e4m3 | .e5m2 | .e2m1 => true
  | _ => false

/-- R89: the formats of MMAS, codes 5 to 7. -/
def MFmt.scaled : MFmt → Bool
  | .kb8e4m3 | .kb8e5m2 | .kb4 => true
  | _ => false

/-- A physical core: wing below 4, hall below 67, core below 17 (R1 to R3), packed as
wing [13:12], hall [11:5], core [4:0]. -/
def coreOk (c : Nat) : Bool := c < 16384 && (c / 32) % 128 < 67 && c % 32 < 17

/-- A physical hall: wing [8:7], hall [6:0]. -/
def hallOk (h : Nat) : Bool := h < 512 && h % 128 < 67

/-- What an encoding admits of an encoded instruction, and what the part has of an event. -/
def Instr.wf : Instr → Bool
  | .loop _ _ i => 0 < i.toInt
  | .swr _ r _ => r.writable
  | .vfma _ t _ _ _ _ | .vfms _ t _ _ _ _ => t.isFloat
  | .vaddSat _ t _ _ _ _ | .vsubSat _ t _ _ _ _ => !t.isFloat
  | .vshl _ t _ _ _ _ | .vshr _ t _ _ _ _ | .vsra _ t _ _ _ _ => !t.isFloat
  | .vcvt _ _ _ m _ sat src dst => VType.cvtOk src dst sat && m != .sr
  | .mma _ _ _ _ f _ => f.plain
  | .mmas _ _ a b f _ => f.scaled && a != 31 && b != 31
  | .acas _ _ _ _ _ b => b != 31
  | .resultWriteback c x | .claimDecide c x | .claimAnswer c x _ _ | .commitAck c x _
  | .corridorApply c x | .deferredResultArrival c x _ _ _ => coreOk c && x < 4
  | .firingStart c e | .guardPoison c e | .windowClosed c e | .claimRequest c e =>
      coreOk c && e < 16
  | .queueCredit l q _ | .queueClose l q _ => l < 28 && q < 32
  | .matrixCommandStart c | .matrixStreamEnd c | .matrixCommandRetire c | .preemptFlagSet c
  | .stopFlagArrival c | .moveEntriesValid c => coreOk c
  | .corridorArrival c s => coreOk c && s < 64
  | .drainStart l _ | .hang l _ _ => l < 28
  | .streamToken h n | .orderedAccessPerform h n => hallOk h && n < 32
  | .invalidatePage w _ _ | .invalidateRegion w _ _ | .invalidateAsn w _ | .invalidateAll w
  | .benRestart w | .powerEnvelopeControl w _ => w < 4
  | .hallWriteOut l _ => l < 28
  | .freezeArrival l h => l < 28 && hallOk h
  | .voltageReplan w h _ => w < 4 && h < 67
  | .selfTestDone r => r.hbm.all (· < 8) && r.halls.all hallOk
  | .cxlTimeout p | .cxlLinkDown p => p < 4
  | .linkFlitReceive p f => p < 16 && f.data.length == 64
  | .linkRetry p _ | .linkRetrainDone p _ => p < 16
  | .msixUnmask v => v < 65
  | .bar2Write o d _ => o.toNat + d.length ≤ 2 ^ 28
  | .bar2Read o n => o.toNat + n ≤ 2 ^ 28
  | .sramError (.row c b r) _ => coreOk c && b < 2 && r < 32
  | _ => true

/-- The rows of the opcode table that have an encoding (R77 to R93). The others are events. -/
def Instr.encoded : Instr → Bool
  | .resultWriteback .. | .deferredResultArrival .. | .firingStart .. | .guardPoison ..
  | .windowClosed .. | .claimRequest .. | .claimDecide .. | .claimAnswer ..
  | .queueSlotCommit .. | .claimCopyRetire .. | .queueCredit .. | .queueClose ..
  | .stageRetire | .outputQueueClose | .routerForward .. | .tokenCommit ..
  | .wputReadDone .. | .creditArrival .. | .closePacketArrival .. | .commitAck ..
  | .tmovRetire .. | .matrixCommandStart .. | .matrixStreamEnd .. | .matrixCommandRetire ..
  | .resultAreaWrite .. | .corridorArrival .. | .corridorApply .. | .drainStart ..
  | .drainTargetSet | .quiescentPoint | .streamToken .. | .orderedAccessPerform ..
  | .walkResult .. | .rewalk .. | .flimExpiry .. | .pageStall | .invalidatePage ..
  | .invalidateRegion .. | .invalidateAsn .. | .invalidateAll .. | .invalidationComplete
  | .preemptFlagSet .. | .preqComplete | .hallWriteOut .. | .freezeArrival ..
  | .stopFlagArrival .. | .loadStopped | .hang .. | .balanceSample
  | .balanceIntervalEnd | .moveBoundary | .moveEntriesValid .. | .benRestart ..
  | .admissionWindowStart | .grammarCommandPerform .. | .doorbellWrite .. | .launchCold ..
  | .launchColdResident .. | .launchResidentRun .. | .launchRelease .. | .candidateStart
  | .nextLoadStart | .loadComplete | .completionWord | .msixUnmask ..
  | .placingOutcome .. | .bar2Write .. | .bar2Read .. | .healthRead | .registerWrite ..
  | .voltageReplan .. | .enterSafeState | .thermalTrip .. | .powerTrip .. | .powerOn
  | .selfTestDone .. | .cxlTimeout .. | .cxlLinkDown .. | .linkFlitReceive ..
  | .linkRetry .. | .linkRetrainDone .. | .arcTolerance | .alimExpiry | .arcLate
  | .collectiveRound | .collectiveTolerance | .collectiveLimit
  | .accessReachesBank .. | .sramError .. | .powerOff | .powerEnvelopeControl .. => false
  | _ => true

end Sys2Proof
end

