-- ==== Sys2Proof/Decode.lean ====
section
/-!
DEFINITION. Decoding of one or two code-store words (R77 to R97), the encoder written from the same
tables, and the byte layout of the code store (R15).
-/

namespace Sys2Proof

set_option linter.constructorNameAsVariable false

/-- Why bytes are no instruction. The first two raise CODE_BOUND (R94, R96), the others ILLEGAL_OP
(R97 step 2). -/
inductive DecodeError
  /-- fewer bytes than the word needs -/
  | truncated
  /-- the fill word 0xFFFF_FFFF (R94) -/
  | fillWord
  /-- a major opcode that R82 does not assign -/
  | unassignedMajor
  /-- an fn, lfn, subfield value, special register or type pairing that is not assigned -/
  | unassignedValue
  /-- a nonzero reserved bit in either word of a form, whose holds are tested all the same (R61) -/
  | reservedBits (form : Instr)
deriving DecidableEq, Repr

/-- Accept an instruction when its reserved bits are zero. -/
def rsv (ok : Bool) (i : Instr) : Except DecodeError Instr :=
  if ok then .ok i else .error (.reservedBits i)

/-- Accept an instruction when a subfield value is assigned. -/
def asg (ok : Bool) (i : Instr) : Except DecodeError Instr :=
  if ok then .ok i else .error .unassignedValue

/-- An assigned subfield value, or the error of an unassigned one. -/
def sub {α : Type} (o : Option α) (f : α → Except DecodeError Instr) : Except DecodeError Instr :=
  match o with
  | some x => f x
  | none => .error .unassignedValue

/-- The predicate that a 5-bit field names in its low bits (R79). -/
def lowP (r : XReg) : PReg := r.extractLsb' 0 3

/-- R79: the high 2 bits of a predicate field are reserved. -/
def highP (r : XReg) : Bool := r.extractLsb' 3 2 == 0

/-- The mask that a 4-bit field names in its low bits (R79). -/
def lowK (r : VReg) : KReg := r.extractLsb' 0 2

/-- R79: the high 2 bits of a mask field are reserved. -/
def highK (r : VReg) : Bool := r.extractLsb' 2 2 == 0

/-- R84. -/
def Cond.ofCode (c : BitVec 3) : Option Cond :=
  match c.toNat with
  | 0 => some .eq | 1 => some .ne | 2 => some .lt | 3 => some .ltu | 4 => some .ge | 5 => some .geu
  | _ => none

/-- R84. -/
def Cond.code : Cond → BitVec 3
  | .eq => 0 | .ne => 1 | .lt => 2 | .ltu => 3 | .ge => 4 | .geu => 5

/-- R86: VCMP's fn low bits. -/
def VCond.ofCode (c : BitVec 3) : Option VCond :=
  match c.toNat with
  | 0 => some .eq | 1 => some .ne | 2 => some .lt | 3 => some .le | 4 => some .gt | 5 => some .ge
  | _ => none

/-- R86. -/
def VCond.code : VCond → BitVec 3
  | .eq => 0 | .ne => 1 | .lt => 2 | .le => 3 | .gt => 4 | .ge => 5

/-- R88: type codes; the typed majors of R82 follow the same order. -/
def VType.ofCode (c : BitVec 3) : Option VType :=
  match c.toNat with
  | 0 => some .f32 | 1 => some .bf16 | 2 => some .f16 | 3 => some .i32 | 4 => some .i16
  | 5 => some .i8
  | _ => none

/-- R88. -/
def VType.code : VType → BitVec 3
  | .f32 => 0 | .bf16 => 1 | .f16 => 2 | .i32 => 3 | .i16 => 4 | .i8 => 5

/-- R88: rounding mode codes of VPACK; VCVT has the first four. -/
def RMode.ofCode (c : BitVec 3) : Option RMode :=
  match c.toNat with
  | 0 => some .rn | 1 => some .rz | 2 => some .ru | 3 => some .rd | 4 => some .sr
  | _ => none

/-- R88. -/
def RMode.code : RMode → BitVec 3
  | .rn => 0 | .rz => 1 | .ru => 2 | .rd => 3 | .sr => 4

/-- R88: conversion codes. -/
def PackCode.ofCode (c : BitVec 4) : Option PackCode :=
  match c.toNat with
  | 0 => some .f32bf16 | 1 => some .f32f16 | 2 => some .f32e4m3 | 3 => some .f32e5m2
  | 4 => some .f32e2m1 | 5 => some .i32i16 | 6 => some .i32i8 | 7 => some .i16i8
  | 8 => some .i8i4 | 9 => some .bf16e4m3 | 10 => some .bf16e5m2
  | _ => none

/-- R88. -/
def PackCode.code : PackCode → BitVec 4
  | .f32bf16 => 0 | .f32f16 => 1 | .f32e4m3 => 2 | .f32e5m2 => 3 | .f32e2m1 => 4 | .i32i16 => 5
  | .i32i8 => 6 | .i16i8 => 7 | .i8i4 => 8 | .bf16e4m3 => 9 | .bf16e5m2 => 10

/-- R88: element formats of VSCALE. -/
def ElemFmt.ofCode (c : BitVec 3) : Option ElemFmt :=
  match c.toNat with
  | 0 => some .e4m3 | 1 => some .e5m2 | 2 => some .e2m1
  | _ => none

/-- R88. -/
def ElemFmt.code : ElemFmt → BitVec 3
  | .e4m3 => 0 | .e5m2 => 1 | .e2m1 => 2

/-- R89. -/
def MFmt.ofCode (c : BitVec 4) : Option MFmt :=
  match c.toNat with
  | 0 => some .bf16 | 1 => some .f16 | 2 => some .e4m3 | 3 => some .e5m2 | 4 => some .e2m1
  | 5 => some .kb8e4m3 | 6 => some .kb8e5m2 | 7 => some .kb4 | 8 => some .i8
  | _ => none

/-- R89. -/
def MFmt.code : MFmt → BitVec 4
  | .bf16 => 0 | .f16 => 1 | .e4m3 => 2 | .e5m2 => 3 | .e2m1 => 4 | .kb8e4m3 => 5 | .kb8e5m2 => 6
  | .kb4 => 7 | .i8 => 8

/-- R90: access widths. -/
def Width.ofCode (c : BitVec 2) : Width :=
  match c.toNat with
  | 0 => .b | 1 => .h | 2 => .w | _ => .d

/-- R90. -/
def Width.code : Width → BitVec 2
  | .b => 0 | .h => 1 | .w => 2 | .d => 3

/-- R90: order codes. -/
def Order.ofCode (c : BitVec 2) : Order :=
  match c.toNat with
  | 0 => .rlx | 1 => .acq | 2 => .rel | _ => .ar

/-- R90. -/
def Order.code : Order → BitVec 2
  | .rlx => 0 | .acq => 1 | .rel => 2 | .ar => 3

/-- R90: scope codes. -/
def Scope.ofCode (c : BitVec 3) : Option Scope :=
  match c.toNat with
  | 0 => some .c | 1 => some .h | 2 => some .w | 3 => some .p | 4 => some .s
  | _ => none

/-- R90. -/
def Scope.code : Scope → BitVec 3
  | .c => 0 | .h => 1 | .w => 2 | .p => 3 | .s => 4

/-- R127: special register numbers; 0x10 to 0x1F are reserved. -/
def SpecReg.ofCode (c : BitVec 5) : Option SpecReg :=
  match c.toNat with
  | 0 => some .fix | 1 => some .phs | 2 => some .mde | 3 => some .ctx | 4 => some .core
  | 5 => some .ldist | 6 => some .cyc | 7 => some .gkey | 8 => some .gseq | 9 => some .lmax
  | 10 => some .tmode | 11 => some .slast | 12 => some .six0 | 13 => some .six1
  | 14 => some .six2 | 15 => some .six3
  | _ => none

/-- R127. -/
def SpecReg.code : SpecReg → BitVec 5
  | .fix => 0 | .phs => 1 | .mde => 2 | .ctx => 3 | .core => 4 | .ldist => 5 | .cyc => 6
  | .gkey => 7 | .gseq => 8 | .lmax => 9 | .tmode => 10 | .slast => 11 | .six0 => 12
  | .six1 => 13 | .six2 => 14 | .six3 => 15

/-- Major 0x00 (R83). -/
def decodeReg (q : Issue) (d a b : XReg) (fn : BitVec 6) : Except DecodeError Instr :=
  match fn.toNat with
  | 0x00 => .ok (.add q d a b)
  | 0x01 => .ok (.sub q d a b)
  | 0x02 => .ok (.mul q d a b)
  | 0x03 => .ok (.mulh q d a b)
  | 0x04 => .ok (.mulhu q d a b)
  | 0x05 => rsv (d == 0) (.div q a b)
  | 0x06 => rsv (d == 0) (.divu q a b)
  | 0x07 => rsv (d == 0) (.rem q a b)
  | 0x08 => rsv (d == 0) (.remu q a b)
  | 0x09 => .ok (.and q d a b)
  | 0x0A => .ok (.or q d a b)
  | 0x0B => .ok (.xor q d a b)
  | 0x0C => .ok (.andn q d a b)
  | 0x0D => .ok (.shl q d a b)
  | 0x0E => .ok (.shr q d a b)
  | 0x0F => .ok (.sra q d a b)
  | 0x10 => .ok (.rol q d a b)
  | 0x11 => rsv (b == 0) (.clz q d a)
  | 0x12 => rsv (b == 0) (.ctz q d a)
  | 0x13 => rsv (b == 0) (.popc q d a)
  | 0x14 => .ok (.min q d a b)
  | 0x15 => .ok (.max q d a b)
  | 0x16 => .ok (.minu q d a b)
  | 0x17 => .ok (.maxu q d a b)
  | _ => .error .unassignedValue

/-- Major 0x28, predicate logic (R85). -/
def decodePred (q : Issue) (d a b : XReg) (fn : BitVec 6) : Except DecodeError Instr :=
  match fn.toNat with
  | 0 => rsv (highP d && highP a && highP b) (.pand q (lowP d) (lowP a) (lowP b))
  | 1 => rsv (highP d && highP a && highP b) (.por q (lowP d) (lowP a) (lowP b))
  | 2 => rsv (highP d && highP a && highP b) (.pxor q (lowP d) (lowP a) (lowP b))
  | 3 => rsv (highP d && highP a && b == 0) (.pnot q (lowP d) (lowP a))
  | 4 => rsv (highP d && a == 0 && b.extractLsb' 1 4 == 0) (.pset q (lowP d) (b.getLsbD 0))
  | _ => .error .unassignedValue

/-- Major 0x29, special registers and DPOP (R85, R126). -/
def decodeSpec (q : Issue) (d a b : XReg) (fn : BitVec 6) : Except DecodeError Instr :=
  match fn.toNat with
  | 0 => sub (SpecReg.ofCode a) fun r => rsv (b == 0) (.srd q d r)
  | 1 => sub (SpecReg.ofCode d) fun r =>
      if r.writable then rsv (a == 0) (.swr q r b) else .error .unassignedValue
  | 2 => rsv (a == 0 && b == 0) (.dpop q d)
  | _ => .error .unassignedValue

/-- Majors 0x10 to 0x1E and 0x24, format I (R84, R115, R118, R123). -/
def decodeImm (q : Issue) (m : Nat) (d a : XReg) (i : BitVec 11) : Except DecodeError Instr :=
  match m with
  | 0x10 => .ok (.addi q d a i)
  | 0x11 => .ok (.andi q d a i)
  | 0x12 => .ok (.ori q d a i)
  | 0x13 => .ok (.xori q d a i)
  | 0x14 => rsv (i.extractLsb' 6 5 == 0) (.shli q d a (i.extractLsb' 0 6))
  | 0x15 => rsv (i.extractLsb' 6 5 == 0) (.shri q d a (i.extractLsb' 0 6))
  | 0x16 => rsv (i.extractLsb' 6 5 == 0) (.srai q d a (i.extractLsb' 0 6))
  | 0x17 => rsv (a == 0) (.movi q d i)
  | 0x18 => .ok (.lea q d a i)
  | 0x19 => rsv (highP d) (.cmpiEq q (lowP d) a i)
  | 0x1A => rsv (highP d) (.cmpiNe q (lowP d) a i)
  | 0x1B => rsv (highP d) (.cmpiLt q (lowP d) a i)
  | 0x1C => rsv (highP d) (.cmpiLtu q (lowP d) a i)
  | 0x1D => rsv (highP d) (.cmpiGe q (lowP d) a i)
  | 0x1E => rsv (highP d) (.cmpiGeu q (lowP d) a i)
  | 0x24 => if d == 0 then asg (decide (0 < i.toInt)) (.loop q a i)
    else .error (.reservedBits (.loop q a i))
  | _ => .error .unassignedMajor

/-- Majors 0x20 to 0x22, format B (R82, R121). -/
def decodeBranch (q : Issue) (m : Nat) (p : PReg) (s : Bool) (off : BitVec 17) :
    Except DecodeError Instr :=
  match m with
  | 0x20 => .ok (if s then .brn q p off else .br q p off)
  | 0x21 => rsv (p == 0 && !s) (.jmp q off)
  | 0x22 => rsv (p == 0 && !s) (.jal q off)
  | _ => .error .unassignedMajor

/-- Majors 0x30 to 0x35, typed vector operations (R86). -/
def decodeTyped (q : Issue) (t : VType) (d a b : VReg) (k : KReg) (fn : BitVec 7) :
    Except DecodeError Instr :=
  match fn.toNat with
  | 0x00 => .ok (.vadd q t d a b k)
  | 0x01 => .ok (.vsub q t d a b k)
  | 0x02 => .ok (.vmul q t d a b k)
  | 0x03 => asg t.isFloat (.vfma q t d a b k)
  | 0x04 => asg t.isFloat (.vfms q t d a b k)
  | 0x05 => .ok (.vmin q t d a b k)
  | 0x06 => .ok (.vmax q t d a b k)
  | 0x07 => rsv (b == 0) (.vabs q t d a k)
  | 0x08 => rsv (b == 0) (.vneg q t d a k)
  | 0x09 => asg (!t.isFloat) (.vaddSat q t d a b k)
  | 0x0A => asg (!t.isFloat) (.vsubSat q t d a b k)
  | 0x10 => if t == .f32 then rsv (b == 0) (.vrcp q d a k) else .error .unassignedValue
  | 0x11 => if t == .f32 then rsv (b == 0) (.vrsq q d a k) else .error .unassignedValue
  | 0x12 => if t == .f32 then rsv (b == 0) (.vsqrt q d a k) else .error .unassignedValue
  | 0x13 => if t == .f32 then rsv (b == 0) (.vexp2 q d a k) else .error .unassignedValue
  | 0x14 => if t == .f32 then rsv (b == 0) (.vlog2 q d a k) else .error .unassignedValue
  | 0x18 => asg (!t.isFloat) (.vshl q t d a b k)
  | 0x19 => asg (!t.isFloat) (.vshr q t d a b k)
  | 0x1A => asg (!t.isFloat) (.vsra q t d a b k)
  | 0x20 => rsv (highK d) (.vcmp q t .eq (lowK d) a b k)
  | 0x21 => rsv (highK d) (.vcmp q t .ne (lowK d) a b k)
  | 0x22 => rsv (highK d) (.vcmp q t .lt (lowK d) a b k)
  | 0x23 => rsv (highK d) (.vcmp q t .le (lowK d) a b k)
  | 0x24 => rsv (highK d) (.vcmp q t .gt (lowK d) a b k)
  | 0x25 => rsv (highK d) (.vcmp q t .ge (lowK d) a b k)
  | 0x28 => rsv (b == 0) (.vredsum q t d a k)
  | 0x29 => rsv (b == 0) (.vredmax q t d a k)
  | 0x2A => rsv (b == 0) (.vredmin q t d a k)
  | 0x2B => rsv (b == 0) (.vredarg q t d a k)
  | _ => .error .unassignedValue

/-- Major 0x38, untyped vector operations (R87). -/
def decodeUntyped (q : Issue) (d a b : VReg) (k : KReg) (fn : BitVec 7) :
    Except DecodeError Instr :=
  match fn.toNat with
  | 0x00 => .ok (.vand q d a b k)
  | 0x01 => .ok (.vor q d a b k)
  | 0x02 => .ok (.vxor q d a b k)
  | 0x08 => .ok (.vsel q d a b k)
  | 0x10 => rsv (highK d && highK a && highK b && k == 0) (.vkand q (lowK d) (lowK a) (lowK b))
  | 0x11 => rsv (highK d && highK a && highK b && k == 0) (.vkor q (lowK d) (lowK a) (lowK b))
  | 0x12 => rsv (highK d && highK a && b == 0 && k == 0) (.vknot q (lowK d) (lowK a))
  | 0x13 => rsv (highK a && b == 0 && k == 0) (.vkpop q d (lowK a))
  | 0x18 => rsv (b == 0) (.vmov q d a k)
  | 0x19 => rsv (b == 0) (.vbcast q d a k)
  | 0x1A => rsv (k == 0) (.vext q d a b)
  | 0x1B => rsv (k == 0) (.vins q d a b)
  | 0x1C => .ok (.vperm q d a b k)
  | 0x1D => .ok (.vshuf q d a b k)
  | 0x1E => .ok (.vrot q d a b k)
  | _ => .error .unassignedValue

/-- Major 0x39, VCVT (R88). -/
def decodeVcvt (q : Issue) (d a b : VReg) (k : KReg) (fn : BitVec 7) : Except DecodeError Instr :=
  sub (VType.ofCode (fn.extractLsb' 3 3)) fun src =>
  sub (VType.ofCode (fn.extractLsb' 0 3)) fun dst =>
  sub (RMode.ofCode (0#1 ++ b.extractLsb' 0 2)) fun m =>
  if highK b then
    asg (VType.cvtOk src dst (fn.getLsbD 6)) (.vcvt q d a m k (fn.getLsbD 6) src dst)
  else .error (.reservedBits (.vcvt q d a m k (fn.getLsbD 6) src dst))

/-- Major 0x3A, VPACK (R88); the k field is the part (R147). -/
def decodeVpack (q : Issue) (d a b : VReg) (k : KReg) (fn : BitVec 7) : Except DecodeError Instr :=
  sub (RMode.ofCode (fn.extractLsb' 4 3)) fun m =>
  sub (PackCode.ofCode (fn.extractLsb' 0 4)) fun c => .ok (.vpack q d a b k m c)

/-- Major 0x3B, VUNPK (R88); the vb field is the part (R147). -/
def decodeVunpk (q : Issue) (d a b : VReg) (k : KReg) (fn : BitVec 7) : Except DecodeError Instr :=
  sub (PackCode.ofCode (fn.extractLsb' 0 4)) fun c =>
  rsv (fn.extractLsb' 4 3 == 0) (.vunpk q d a b k c)

/-- Major 0x3C, VSCALE (R88). -/
def decodeVscale (q : Issue) (d a b : VReg) (k : KReg) (fn : BitVec 7) :
    Except DecodeError Instr :=
  sub (ElemFmt.ofCode (fn.extractLsb' 0 3)) fun e =>
  rsv (fn.extractLsb' 4 3 == 0)
    (if fn.getLsbD 3 then .vscaleApply q d a b k e else .vscale q d a b k e)

/-- Major 0x3D, vector memory (R87). -/
def decodeVmem (q : Issue) (d a b : VReg) (k : KReg) (fn : BitVec 7) : Except DecodeError Instr :=
  match fn.toNat with
  | 0 => .ok (.vld q d a b k)
  | 1 => .ok (.vst q d a b k)
  | 2 => .ok (.vlds q d a b k)
  | 3 => .ok (.vsts q d a b k)
  | 4 => .ok (.vgath q d a b k)
  | 5 => .ok (.vscat q d a b k)
  | _ => .error .unassignedValue

/-- Major 0x3E, vector special (R87). -/
def decodeVspec (q : Issue) (d a b : VReg) (k : KReg) (fn : BitVec 7) : Except DecodeError Instr :=
  match (fn.extractLsb' 3 4).toNat with
  | 0 => if fn == 0 then rsv (b == 0) (.vrng q d a k) else .error .unassignedValue
  | 2 => .ok (.vsamp q d a b k (fn.extractLsb' 0 3))
  | 4 => .ok (.vsampGreedy q d a b k (fn.extractLsb' 0 3))
  | 6 => if fn == 0x30 then rsv (highK d && k == 0) (.vmaskld q (lowK d) a b)
         else .error .unassignedValue
  | _ => .error .unassignedValue

/-- Majors 0x50 to 0x57, format M (R89). -/
def decodeMatrix (q : Issue) (m : Nat) (z : Bool) (a b : XReg) (f : BitVec 4) (kc : BitVec 6) :
    Except DecodeError Instr :=
  match m with
  | 0x50 => sub (MFmt.ofCode f) fun f => asg f.plain (.mma q z a b f kc)
  | 0x51 => sub (MFmt.ofCode f) fun f =>
      if f.scaled then rsv (a != 31 && b != 31) (.mmas q z a b f kc) else .error .unassignedValue
  | 0x52 => asg (f == 8) (.mmai q z a b kc)
  | 0x53 => rsv (a == 0 && b == 0 && f == 0 && kc == 0) (.mzero q z)
  | 0x54 => rsv (b == 0 && f == 0 && kc == 0) (.mldz q z a)
  | 0x55 => rsv (b == 0 && f == 0 && kc == 0) (.mstz q z a)
  | 0x56 => rsv (b.extractLsb' 4 1 == 0 && f == 0 && kc == 0) (.mrdv q z a (b.extractLsb' 0 4))
  | 0x57 =>
    match kc.toNat with
    | 0 => rsv (!z && a == 0 && b == 0 && f == 0) (.mwait q)
    | 1 => rsv (b == 0 && f == 0) (.mstat q z a)
    | _ => .error .unassignedValue
  | _ => .error .unassignedMajor

/-- Major 0x5A, window operations (R90). -/
def decodeWin (q : Issue) (d a b : XReg) (fn : BitVec 6) : Except DecodeError Instr :=
  let w : BitVec 4 := a.extractLsb' 0 4
  let a0 := a.extractLsb' 4 1 == 0
  match fn.toNat with
  | 0 => rsv a0 (.wget q d w b)
  | 1 => rsv (a0 && d == 0) (.wfree q w b)
  | 2 => rsv (a0 && d == 0) (.wres q w b)
  | 3 => rsv (a0 && d == 0) (.wput q w b)
  | 4 => rsv (a0 && b == 0) (.wavail q d w)
  | 5 => rsv (a0 && b == 0) (.wspace q d w)
  | _ => .error .unassignedValue

/-- Major 0x5B, tile moves (R90). -/
def decodeTmov (q : Issue) (d a b : XReg) (fn : BitVec 6) : Except DecodeError Instr :=
  match fn.toNat with
  | 0 => .ok (.tmovIn q d a b)
  | 1 => .ok (.tmovOut q d a b)
  | 2 => rsv (d == 0 && b == 0 && a.extractLsb' 2 3 == 0) (.twait q (a.extractLsb' 0 2))
  | _ => .error .unassignedValue

/-- Majors 0x5C to 0x5E, shared loads, stores and compare-and-swap (R90). -/
def decodeShared (q : Issue) (m : Nat) (d a b : XReg) (fn : BitVec 6) :
    Except DecodeError Instr :=
  sub (Scope.ofCode (fn.extractLsb' 1 3)) fun s =>
  let o := fn.extractLsb' 4 2
  let dw := fn.getLsbD 0
  match m with
  | 0x5C =>
    if o == 0 || o == 1 then rsv (d == 0 && b == 0) (.ald q (o == 1) s dw a)
    else .error .unassignedValue
  | 0x5D =>
    if o == 0 || o == 2 then rsv (d == 0) (.ast q (o == 2) s dw a b)
    else .error .unassignedValue
  | _ => rsv (d == 0 && b != 31) (.acas q (Order.ofCode o) s dw a b)

/-- Majors 0x5F to 0x62, ATOM (R90). -/
def decodeAtom (q : Issue) (m : Nat) (d a b : XReg) (fn : BitVec 6) : Except DecodeError Instr :=
  sub (Scope.ofCode (fn.extractLsb' 0 3)) fun s =>
  let o := Order.ofCode (fn.extractLsb' 3 2)
  rsv (d == 0)
    (match m, fn.getLsbD 5 with
    | 0x5F, false => .atomAdd q o s a b
    | 0x5F, true => .atomSwap q o s a b
    | 0x60, false => .atomAnd q o s a b
    | 0x60, true => .atomOr q o s a b
    | 0x61, false => .atomXor q o s a b
    | 0x61, true => .atomMin q o s a b
    | _, false => .atomMax q o s a b
    | _, true => .atomMaxu q o s a b)

/-- Major 0x63, full/empty words (R90). -/
def decodeFull (q : Issue) (d a : XReg) (i : BitVec 11) : Except DecodeError Instr :=
  match (i.extractLsb' 8 3).toNat with
  | 0 => .ok (.ldf q d a (i.extractLsb' 0 8))
  | 1 => rsv (i.extractLsb' 0 8 == 0) (.stf q d a)
  | 2 => rsv (i.extractLsb' 0 8 == 0) (.sete q d a)
  | _ => .error .unassignedValue

/-- Majors 0x64 to 0x66: FENCE, streams, stage queues (R90). -/
def decodeQueue (q : Issue) (m : Nat) (d a b : XReg) (fn : BitVec 6) : Except DecodeError Instr :=
  match m with
  | 0x64 =>
    sub (Scope.ofCode (fn.extractLsb' 0 3)) fun s =>
    rsv (d == 0 && a == 0 && b == 0 && fn.extractLsb' 3 3 == 0) (.fence q s)
  | 0x65 =>
    match fn.toNat with
    | 0 => rsv (d == 0 && b == 0) (.sstart q a)
    | 1 => rsv (d == 0 && b == 0) (.sstop q a)
    | 2 => rsv (d == 0 && a == 0) (.sbar q b)
    | 3 => rsv (d == 0 && b == 0) (.sstat q a)
    | _ => .error .unassignedValue
  | _ =>
    match fn.toNat with
    | 0 => rsv (d == 0 && b == 0) (.qclaim q a)
    | 1 => rsv (d == 0) (.qput q a b)
    | 2 => rsv (d == 0 && b == 0) (.qstat q a)
    | _ => .error .unassignedValue

/-- Majors 0x68 to 0x6E, firing, mode and engine (R91). -/
def decodeFiring (q : Issue) (m : Nat) (d a b : XReg) (fn : BitVec 6) : Except DecodeError Instr :=
  let none3 := d == 0 && a == 0 && b == 0
  match m with
  | 0x68 => rsv (none3 && fn == 0) (.fend q)
  | 0x69 => rsv (none3 && fn == 0) (.resume q)
  | 0x6A => rsv (none3 && fn.extractLsb' 3 3 == 0) (.mode q (fn.extractLsb' 0 3))
  | 0x6B => rsv none3 (.sig q fn)
  | 0x6C => rsv none3
      (if fn.getLsbD 5 then .trapS q (fn.extractLsb' 0 5) else .trapN q (fn.extractLsb' 0 5))
  | 0x6D => rsv (none3 && fn == 0) (.brk q)
  | _ =>
    match fn.toNat with
    | 0 => rsv (d == 0) (.gopen q a b)
    | 1 => rsv (d == 0) (.gstep q a b)
    | 2 => rsv (d == 0) (.gmask q a b)
    | 3 => rsv (d == 0 && b == 0) (.gclose q a)
    | 4 => rsv (d == 0) (.gqry q a b)
    | _ => .error .unassignedValue

/-- Majors 0x70 to 0x76, system forms (R92). -/
def decodeSystem (q : Issue) (m : Nat) (d a b : XReg) (fn : BitVec 6) : Except DecodeError Instr :=
  match m with
  | 0x70 =>
    match fn.toNat with
    | 0 => rsv (d == 0) (.cfgw q a b)
    | 1 => rsv (d == 0) (.cfgr q a b)
    | 2 => rsv (d == 0) (.cfgcrc q a b)
    | 3 => rsv (d == 0) (.cfgcommit q a b)
    | 4 => rsv (d == 0 && a == 0) (.cfgabort q b)
    | _ => .error .unassignedValue
  | 0x71 => rsv (d == 0 && fn == 0) (.rtw q a b)
  | 0x72 =>
    match fn.toNat with
    | 0 => rsv (d == 0) (.sech q a b)
    | 1 => rsv (d == 0) (.secv q a b)
    | _ => .error .unassignedValue
  | 0x73 => rsv (d == 0 && fn == 0) (.eret q a b)
  | 0x74 => rsv (d == 0 && fn == 0) (.preq q a b)
  | 0x75 => rsv (d == 0 && fn == 0) (.frz q a b)
  | _ => rsv (d == 0 && fn == 0) (.dmap q a b)

/-- Majors 0x78 and 0x79, with the second word (R93). -/
def decodeLong (q : Issue) (m : Nat) (d a : XReg) (r : BitVec 5) (lfn : BitVec 6) (w2 : Word32) :
    Except DecodeError Instr :=
  match m, lfn.toNat with
  | 0x78, 0 => rsv (a == 0 && r == 0) (.moviLong q d w2)
  | 0x78, 1 => rsv (a == 0 && r == 0) (.lih q d w2)
  | 0x79, 0 => rsv (d == 0 && a == 0 && r == 0 && w2.extractLsb' 12 20 == 0)
      (.land q (w2.extractLsb' 0 8) (w2.extractLsb' 8 4))
  | _, _ => .error .unassignedValue

/-- R77. -/
def wordQ (w : Word32) : Issue := ⟨w.extractLsb' 29 3, w.getLsbD 28⟩

/-- R77. -/
def wordMajor (w : Word32) : BitVec 7 := w.extractLsb' 21 7

/-- R97: the majors whose words have a second word. -/
def wordLong (w : Word32) : Bool := wordMajor w == 0x78 || wordMajor w == 0x79

/-- One instruction from its first word and, for a long one, its second (R82, R97). -/
def decodeWords (w w2 : Word32) : Except DecodeError Instr :=
  let q := wordQ w
  let m := (wordMajor w).toNat
  let d : XReg := w.extractLsb' 16 5
  let a : XReg := w.extractLsb' 11 5
  let b : XReg := w.extractLsb' 6 5
  let fn : BitVec 6 := w.extractLsb' 0 6
  let vd : VReg := w.extractLsb' 17 4
  let va : VReg := w.extractLsb' 13 4
  let vb : VReg := w.extractLsb' 9 4
  let k : KReg := w.extractLsb' 7 2
  let vf : BitVec 7 := w.extractLsb' 0 7
  if w == 0xFFFFFFFF#32 then .error .fillWord
  else if m = 0x00 then decodeReg q d a b fn
  else if m = 0x01 then rsv (fn.extractLsb' 3 3 == 0) (.sel q d a b (fn.extractLsb' 0 3))
  else if m = 0x02 then
    sub (Cond.ofCode (fn.extractLsb' 0 3)) fun c =>
      rsv (highP d && fn.extractLsb' 3 3 == 0) (.cmp q c (lowP d) a b)
  else if m < 0x10 then .error .unassignedMajor
  else if m < 0x20 then decodeImm q m d a (w.extractLsb' 0 11)
  else if m < 0x23 then decodeBranch q m (w.extractLsb' 18 3) (w.getLsbD 17) (w.extractLsb' 0 17)
  else if m = 0x23 then rsv (d == 0 && b == 0 && fn == 0) (.jr q a)
  else if m = 0x24 then decodeImm q m d a (w.extractLsb' 0 11)
  else if m = 0x28 then decodePred q d a b fn
  else if m = 0x29 then decodeSpec q d a b fn
  else if m < 0x30 then .error .unassignedMajor
  else if m < 0x36 then
    sub (VType.ofCode ((wordMajor w).extractLsb' 0 3)) fun t => decodeTyped q t vd va vb k vf
  else if m < 0x38 then .error .unassignedMajor
  else if m = 0x38 then decodeUntyped q vd va vb k vf
  else if m = 0x39 then decodeVcvt q vd va vb k vf
  else if m = 0x3A then decodeVpack q vd va vb k vf
  else if m = 0x3B then decodeVunpk q vd va vb k vf
  else if m = 0x3C then decodeVscale q vd va vb k vf
  else if m = 0x3D then decodeVmem q vd va vb k vf
  else if m = 0x3E then decodeVspec q vd va vb k vf
  else if m < 0x50 then .error .unassignedMajor
  else if m < 0x58 then
    decodeMatrix q m (w.getLsbD 20) (w.extractLsb' 15 5) (w.extractLsb' 10 5) (w.extractLsb' 6 4) fn
  else if m = 0x58 then .ok (.ld q (Width.ofCode (w.extractLsb' 9 2)) d a (w.extractLsb' 0 9))
  else if m = 0x59 then .ok (.st q (Width.ofCode (w.extractLsb' 9 2)) d a (w.extractLsb' 0 9))
  else if m = 0x5A then decodeWin q d a b fn
  else if m = 0x5B then decodeTmov q d a b fn
  else if m < 0x5F then decodeShared q m d a b fn
  else if m < 0x63 then decodeAtom q m d a b fn
  else if m = 0x63 then decodeFull q d a (w.extractLsb' 0 11)
  else if m < 0x67 then decodeQueue q m d a b fn
  else if m < 0x68 then .error .unassignedMajor
  else if m < 0x6F then decodeFiring q m d a b fn
  else if m < 0x70 then .error .unassignedMajor
  else if m < 0x77 then decodeSystem q m d a b fn
  else if m = 0x78 ∨ m = 0x79 then decodeLong q m d a b fn w2
  else .error .unassignedMajor

/-- A 32-bit word from its bytes, the first at the lowest address (R15). -/
def wordOfBytes (b0 b1 b2 b3 : Byte) : Word32 := b3 ++ b2 ++ b1 ++ b0

/-- One instruction from bytes as the code store holds them, with the bytes that follow it. -/
def decode : List Byte → Except DecodeError (Instr × List Byte)
  | b0 :: b1 :: b2 :: b3 :: rest =>
    let w := wordOfBytes b0 b1 b2 b3
    if wordLong w then
      match rest with
      | c0 :: c1 :: c2 :: c3 :: rest' =>
        (decodeWords w (wordOfBytes c0 c1 c2 c3)).map fun i => (i, rest')
      | _ => .error .truncated
    else (decodeWords w 0).map fun i => (i, rest)
  | _ => .error .truncated

/-- Format A and, with lfn for fn, the first word of format L (R77, R78). -/
def wordA (q : Issue) (m : BitVec 7) (d a b : XReg) (fn : BitVec 6) : Word32 :=
  q.g ++ BitVec.ofBool q.y ++ m ++ d ++ a ++ b ++ fn

/-- Format I. -/
def wordI (q : Issue) (m : BitVec 7) (d a : XReg) (i : BitVec 11) : Word32 :=
  q.g ++ BitVec.ofBool q.y ++ m ++ d ++ a ++ i

/-- Format B. -/
def wordB (q : Issue) (m : BitVec 7) (p : PReg) (s : Bool) (off : BitVec 17) : Word32 :=
  q.g ++ BitVec.ofBool q.y ++ m ++ p ++ BitVec.ofBool s ++ off

/-- Format V. -/
def wordV (q : Issue) (m : BitVec 7) (d a b : VReg) (k : KReg) (fn : BitVec 7) : Word32 :=
  q.g ++ BitVec.ofBool q.y ++ m ++ d ++ a ++ b ++ k ++ fn

/-- Format M. -/
def wordM (q : Issue) (m : BitVec 7) (z : Bool) (a b : XReg) (f : BitVec 4) (kc : BitVec 6) :
    Word32 :=
  q.g ++ BitVec.ofBool q.y ++ m ++ BitVec.ofBool z ++ a ++ b ++ f ++ kc

/-- A predicate in a 5-bit field. -/
def fieldP (p : PReg) : XReg := 0#2 ++ p

/-- A mask in a 4-bit field. -/
def fieldK (k : KReg) : VReg := 0#2 ++ k

/-- A typed vector word (R86). -/
def wordT (q : Issue) (t : VType) (d a b : VReg) (k : KReg) (fn : BitVec 7) : Word32 :=
  wordV q (0x6#4 ++ t.code) d a b k fn

/-- The words of a well-formed encoded instruction; an event has none. -/
def encode : Instr → List Word32
  | .add q d a b => [wordA q 0x00 d a b 0x00]
  | .sub q d a b => [wordA q 0x00 d a b 0x01]
  | .mul q d a b => [wordA q 0x00 d a b 0x02]
  | .mulh q d a b => [wordA q 0x00 d a b 0x03]
  | .mulhu q d a b => [wordA q 0x00 d a b 0x04]
  | .div q a b => [wordA q 0x00 0 a b 0x05]
  | .divu q a b => [wordA q 0x00 0 a b 0x06]
  | .rem q a b => [wordA q 0x00 0 a b 0x07]
  | .remu q a b => [wordA q 0x00 0 a b 0x08]
  | .and q d a b => [wordA q 0x00 d a b 0x09]
  | .or q d a b => [wordA q 0x00 d a b 0x0A]
  | .xor q d a b => [wordA q 0x00 d a b 0x0B]
  | .andn q d a b => [wordA q 0x00 d a b 0x0C]
  | .shl q d a b => [wordA q 0x00 d a b 0x0D]
  | .shr q d a b => [wordA q 0x00 d a b 0x0E]
  | .sra q d a b => [wordA q 0x00 d a b 0x0F]
  | .rol q d a b => [wordA q 0x00 d a b 0x10]
  | .clz q d a => [wordA q 0x00 d a 0 0x11]
  | .ctz q d a => [wordA q 0x00 d a 0 0x12]
  | .popc q d a => [wordA q 0x00 d a 0 0x13]
  | .min q d a b => [wordA q 0x00 d a b 0x14]
  | .max q d a b => [wordA q 0x00 d a b 0x15]
  | .minu q d a b => [wordA q 0x00 d a b 0x16]
  | .maxu q d a b => [wordA q 0x00 d a b 0x17]
  | .sel q d a b p => [wordA q 0x01 d a b (0#3 ++ p)]
  | .cmp q c p a b => [wordA q 0x02 (fieldP p) a b (0#3 ++ c.code)]
  | .addi q d a i => [wordI q 0x10 d a i]
  | .andi q d a i => [wordI q 0x11 d a i]
  | .ori q d a i => [wordI q 0x12 d a i]
  | .xori q d a i => [wordI q 0x13 d a i]
  | .shli q d a n => [wordI q 0x14 d a (0#5 ++ n)]
  | .shri q d a n => [wordI q 0x15 d a (0#5 ++ n)]
  | .srai q d a n => [wordI q 0x16 d a (0#5 ++ n)]
  | .movi q d i => [wordI q 0x17 d 0 i]
  | .moviLong q d i => [wordA q 0x78 d 0 0 0, i]
  | .lih q d i => [wordA q 0x78 d 0 0 1, i]
  | .lea q d a i => [wordI q 0x18 d a i]
  | .cmpiEq q p a i => [wordI q 0x19 (fieldP p) a i]
  | .cmpiNe q p a i => [wordI q 0x1A (fieldP p) a i]
  | .cmpiLt q p a i => [wordI q 0x1B (fieldP p) a i]
  | .cmpiLtu q p a i => [wordI q 0x1C (fieldP p) a i]
  | .cmpiGe q p a i => [wordI q 0x1D (fieldP p) a i]
  | .cmpiGeu q p a i => [wordI q 0x1E (fieldP p) a i]
  | .br q p off => [wordB q 0x20 p false off]
  | .brn q p off => [wordB q 0x20 p true off]
  | .jmp q off => [wordB q 0x21 0 false off]
  | .jal q off => [wordB q 0x22 0 false off]
  | .jr q a => [wordA q 0x23 0 a 0 0]
  | .loop q a i => [wordI q 0x24 0 a i]
  | .pand q d a b => [wordA q 0x28 (fieldP d) (fieldP a) (fieldP b) 0]
  | .por q d a b => [wordA q 0x28 (fieldP d) (fieldP a) (fieldP b) 1]
  | .pxor q d a b => [wordA q 0x28 (fieldP d) (fieldP a) (fieldP b) 2]
  | .pnot q d a => [wordA q 0x28 (fieldP d) (fieldP a) 0 3]
  | .pset q d v => [wordA q 0x28 (fieldP d) 0 (0#4 ++ BitVec.ofBool v) 4]
  | .srd q d r => [wordA q 0x29 d r.code 0 0]
  | .swr q r b => [wordA q 0x29 r.code 0 b 1]
  | .dpop q d => [wordA q 0x29 d 0 0 2]
  | .vadd q t d a b k => [wordT q t d a b k 0x00]
  | .vsub q t d a b k => [wordT q t d a b k 0x01]
  | .vmul q t d a b k => [wordT q t d a b k 0x02]
  | .vfma q t d a b k => [wordT q t d a b k 0x03]
  | .vfms q t d a b k => [wordT q t d a b k 0x04]
  | .vmin q t d a b k => [wordT q t d a b k 0x05]
  | .vmax q t d a b k => [wordT q t d a b k 0x06]
  | .vabs q t d a k => [wordT q t d a 0 k 0x07]
  | .vneg q t d a k => [wordT q t d a 0 k 0x08]
  | .vaddSat q t d a b k => [wordT q t d a b k 0x09]
  | .vsubSat q t d a b k => [wordT q t d a b k 0x0A]
  | .vrcp q d a k => [wordV q 0x30 d a 0 k 0x10]
  | .vrsq q d a k => [wordV q 0x30 d a 0 k 0x11]
  | .vsqrt q d a k => [wordV q 0x30 d a 0 k 0x12]
  | .vexp2 q d a k => [wordV q 0x30 d a 0 k 0x13]
  | .vlog2 q d a k => [wordV q 0x30 d a 0 k 0x14]
  | .vshl q t d a b k => [wordT q t d a b k 0x18]
  | .vshr q t d a b k => [wordT q t d a b k 0x19]
  | .vsra q t d a b k => [wordT q t d a b k 0x1A]
  | .vcmp q t c m a b k => [wordT q t (fieldK m) a b k (0x4#4 ++ c.code)]
  | .vredsum q t d a k => [wordT q t d a 0 k 0x28]
  | .vredmax q t d a k => [wordT q t d a 0 k 0x29]
  | .vredmin q t d a k => [wordT q t d a 0 k 0x2A]
  | .vredarg q t d a k => [wordT q t d a 0 k 0x2B]
  | .vand q d a b k => [wordV q 0x38 d a b k 0x00]
  | .vor q d a b k => [wordV q 0x38 d a b k 0x01]
  | .vxor q d a b k => [wordV q 0x38 d a b k 0x02]
  | .vsel q d a b k => [wordV q 0x38 d a b k 0x08]
  | .vkand q d a b => [wordV q 0x38 (fieldK d) (fieldK a) (fieldK b) 0 0x10]
  | .vkor q d a b => [wordV q 0x38 (fieldK d) (fieldK a) (fieldK b) 0 0x11]
  | .vknot q d a => [wordV q 0x38 (fieldK d) (fieldK a) 0 0 0x12]
  | .vkpop q d a => [wordV q 0x38 d (fieldK a) 0 0 0x13]
  | .vmov q d a k => [wordV q 0x38 d a 0 k 0x18]
  | .vbcast q d a k => [wordV q 0x38 d a 0 k 0x19]
  | .vext q d a b => [wordV q 0x38 d a b 0 0x1A]
  | .vins q d a b => [wordV q 0x38 d a b 0 0x1B]
  | .vperm q d a b k => [wordV q 0x38 d a b k 0x1C]
  | .vshuf q d a b k => [wordV q 0x38 d a b k 0x1D]
  | .vrot q d a b k => [wordV q 0x38 d a b k 0x1E]
  | .vcvt q d a m k sat src dst =>
    [wordV q 0x39 d a (0#2 ++ m.code.extractLsb' 0 2) k (BitVec.ofBool sat ++ src.code ++ dst.code)]
  | .vpack q d a b part m c => [wordV q 0x3A d a b part (m.code ++ c.code)]
  | .vunpk q d a part k c => [wordV q 0x3B d a part k (0#3 ++ c.code)]
  | .vscale q d a b k e => [wordV q 0x3C d a b k (0#4 ++ e.code)]
  | .vscaleApply q d a b k e => [wordV q 0x3C d a b k (1#4 ++ e.code)]
  | .vld q d a b k => [wordV q 0x3D d a b k 0]
  | .vst q d a b k => [wordV q 0x3D d a b k 1]
  | .vlds q d a b k => [wordV q 0x3D d a b k 2]
  | .vsts q d a b k => [wordV q 0x3D d a b k 3]
  | .vgath q d a b k => [wordV q 0x3D d a b k 4]
  | .vscat q d a b k => [wordV q 0x3D d a b k 5]
  | .vrng q d a k => [wordV q 0x3E d a 0 k 0]
  | .vsamp q d a b k p => [wordV q 0x3E d a b k (2#4 ++ p)]
  | .vsampGreedy q d a b k p => [wordV q 0x3E d a b k (4#4 ++ p)]
  | .vmaskld q m a b => [wordV q 0x3E (fieldK m) a b 0 0x30]
  | .mma q z a b f kc => [wordM q 0x50 z a b f.code kc]
  | .mmas q z a b f kc => [wordM q 0x51 z a b f.code kc]
  | .mmai q z a b kc => [wordM q 0x52 z a b 8 kc]
  | .mzero q z => [wordM q 0x53 z 0 0 0 0]
  | .mldz q z a => [wordM q 0x54 z a 0 0 0]
  | .mstz q z a => [wordM q 0x55 z a 0 0 0]
  | .mrdv q z a d => [wordM q 0x56 z a (0#1 ++ d) 0 0]
  | .mwait q => [wordM q 0x57 false 0 0 0 0]
  | .mstat q z d => [wordM q 0x57 z d 0 0 1]
  | .ld q w d a o => [wordI q 0x58 d a (w.code ++ o)]
  | .st q w d a o => [wordI q 0x59 d a (w.code ++ o)]
  | .wget q d w b => [wordA q 0x5A d (0#1 ++ w) b 0]
  | .wfree q w b => [wordA q 0x5A 0 (0#1 ++ w) b 1]
  | .wres q w b => [wordA q 0x5A 0 (0#1 ++ w) b 2]
  | .wput q w b => [wordA q 0x5A 0 (0#1 ++ w) b 3]
  | .wavail q d w => [wordA q 0x5A d (0#1 ++ w) 0 4]
  | .wspace q d w => [wordA q 0x5A d (0#1 ++ w) 0 5]
  | .tmovIn q d a b => [wordA q 0x5B d a b 0]
  | .tmovOut q d a b => [wordA q 0x5B d a b 1]
  | .twait q n => [wordA q 0x5B 0 (0#3 ++ n) 0 2]
  | .ald q acq s dw a => [wordA q 0x5C 0 a 0 (0#1 ++ BitVec.ofBool acq ++ s.code ++ BitVec.ofBool dw)]
  | .ast q rel s dw a b =>
    [wordA q 0x5D 0 a b (BitVec.ofBool rel ++ 0#1 ++ s.code ++ BitVec.ofBool dw)]
  | .acas q o s dw a b => [wordA q 0x5E 0 a b (o.code ++ s.code ++ BitVec.ofBool dw)]
  | .atomAdd q o s a b => [wordA q 0x5F 0 a b (0#1 ++ o.code ++ s.code)]
  | .atomSwap q o s a b => [wordA q 0x5F 0 a b (1#1 ++ o.code ++ s.code)]
  | .atomAnd q o s a b => [wordA q 0x60 0 a b (0#1 ++ o.code ++ s.code)]
  | .atomOr q o s a b => [wordA q 0x60 0 a b (1#1 ++ o.code ++ s.code)]
  | .atomXor q o s a b => [wordA q 0x61 0 a b (0#1 ++ o.code ++ s.code)]
  | .atomMin q o s a b => [wordA q 0x61 0 a b (1#1 ++ o.code ++ s.code)]
  | .atomMax q o s a b => [wordA q 0x62 0 a b (0#1 ++ o.code ++ s.code)]
  | .atomMaxu q o s a b => [wordA q 0x62 0 a b (1#1 ++ o.code ++ s.code)]
  | .ldf q d a e => [wordI q 0x63 d a (0#3 ++ e)]
  | .stf q d a => [wordI q 0x63 d a (1#3 ++ 0#8)]
  | .sete q d a => [wordI q 0x63 d a (2#3 ++ 0#8)]
  | .fence q s => [wordA q 0x64 0 0 0 (0#3 ++ s.code)]
  | .sstart q n => [wordA q 0x65 0 n 0 0]
  | .sstop q n => [wordA q 0x65 0 n 0 1]
  | .sbar q b => [wordA q 0x65 0 0 b 2]
  | .sstat q n => [wordA q 0x65 0 n 0 3]
  | .qclaim q n => [wordA q 0x66 0 n 0 0]
  | .qput q n b => [wordA q 0x66 0 n b 1]
  | .qstat q n => [wordA q 0x66 0 n 0 2]
  | .fend q => [wordA q 0x68 0 0 0 0]
  | .resume q => [wordA q 0x69 0 0 0 0]
  | .land q e t => [wordA q 0x79 0 0 0 0, 0#20 ++ t ++ e]
  | .mode q m => [wordA q 0x6A 0 0 0 (0#3 ++ m)]
  | .sig q n => [wordA q 0x6B 0 0 0 n]
  | .trapN q c => [wordA q 0x6C 0 0 0 (0#1 ++ c)]
  | .trapS q c => [wordA q 0x6C 0 0 0 (1#1 ++ c)]
  | .brk q => [wordA q 0x6D 0 0 0 0]
  | .gopen q a b => [wordA q 0x6E 0 a b 0]
  | .gstep q a b => [wordA q 0x6E 0 a b 1]
  | .gmask q a b => [wordA q 0x6E 0 a b 2]
  | .gclose q a => [wordA q 0x6E 0 a 0 3]
  | .gqry q a b => [wordA q 0x6E 0 a b 4]
  | .cfgw q a b => [wordA q 0x70 0 a b 0]
  | .cfgr q a b => [wordA q 0x70 0 a b 1]
  | .cfgcrc q a b => [wordA q 0x70 0 a b 2]
  | .cfgcommit q a b => [wordA q 0x70 0 a b 3]
  | .cfgabort q b => [wordA q 0x70 0 0 b 4]
  | .rtw q a b => [wordA q 0x71 0 a b 0]
  | .sech q a b => [wordA q 0x72 0 a b 0]
  | .secv q a b => [wordA q 0x72 0 a b 1]
  | .eret q a b => [wordA q 0x73 0 a b 0]
  | .preq q a b => [wordA q 0x74 0 a b 0]
  | .frz q a b => [wordA q 0x75 0 a b 0]
  | .dmap q a b => [wordA q 0x76 0 a b 0]
  | _ => []

/-- A word as the code store holds it (R15). -/
def bytesOfWord (w : Word32) : List Byte :=
  [w.extractLsb' 0 8, w.extractLsb' 8 8, w.extractLsb' 16 8, w.extractLsb' 24 8]

/-- The bytes of an instruction's words, the first word at the lower address (R15). -/
def bytesOfWords : List Word32 → List Byte
  | [] => []
  | w :: ws => bytesOfWord w ++ bytesOfWords ws

/-- The instruction that the decoder reads from an instruction of spec/opcode_table.json whose bits,
bit 0 the least significant of the first word, are `w`; bits from `nbits` up are 0. -/
def decodeTableWord (nbits w : Nat) : Option Instr :=
  let v := w % 2 ^ nbits
  match decode (bytesOfWords [BitVec.ofNat 32 v, BitVec.ofNat 32 (v >>> 32)]) with
  | .ok (i, _) => some i
  | .error _ => none

end Sys2Proof
end

