-- ==== Sys2Proof/Config.lean ====
section
/-!
DEFINITION. What the spec leaves to an implementation or leaves open: free values, each a constant
with no body (log entries 2, 5, 6, 7, 13, 79, 80, 86, 113). Nothing can evaluate them, so a claim holds whatever
they are.
-/

namespace Sys2Proof.Config

/-- An open delay, in cycles after the earliest cycle that the spec allows, by the count of open
delays drawn before (log 2). -/
opaque delay : Nat → Nat

/-- The value of a register that the spec calls unspecified when a firing or stub begins (R10, R395),
by the epoch of the firing and the register's key (log 5). -/
opaque freeReg : Nat → Nat → Word64

/-- Bits that the spec calls unspecified (R54, R180), by the count of free values drawn before
(log 6). -/
opaque freeBits : Nat → Word64

/-- The cycles a division takes beyond the least of R114, which depend on the operand magnitudes and
on nothing else; the model clamps it to R114's limits (log 7). -/
opaque divTime : Word64 → Word64 → Nat

/-- Which of the entries of a full TLB is replaced (R379), by the count of free values (log 6). -/
opaque tlbVictim : Nat → Nat

/-- Whether a load was declared `ordered` (R106, R285), which no word of an image or of a transaction
holds, by the bytes that describe the load (log 80). -/
opaque ordered : List Byte → Bool

/-- Where in the gallery of a load's first wing the loader graph keeps the staged image, and where its
outcome word (R423, R425, R426), by the launch and which of the two (log 79). -/
opaque loaderOffset : Nat → Bool → BitVec 26

/-- AFL that the health firmware sets in a wing while PWR exceeds the envelope (R472), by the wing, PWR, the
power envelope and the AFL that it would set else; R472 gives it no formula (log 113). -/
opaque envelopeFlits : Nat → Nat → Nat → Nat → Word32

/-- The ECDSA P-521 signature that the engine's hidden identity key gives a digest (R234, R477), by
the count of free values, since a nonce may enter it (log 13). -/
opaque signature : Nat → List Byte → List Byte

/-- Flits that the other end of a Maelle port takes in a virtual channel before it returns credits (R447),
by package port and channel; the model takes at least 1 (log 86). -/
opaque linkCredits : Nat → Nat → Nat

end Sys2Proof.Config
end

