-- ==== Sys2Proof/Machine/Maps.lean ====
section
/-!
DEFINITION. The bytes of a number, and finite maps and sets as sorted lists without repeats, so that equal
maps are equal lists.
-/

namespace Sys2Proof.Machine

/-- The n low bytes of a value, little-endian (R15). -/
def natToBytes (n v : Nat) : List Byte :=
  match n with
  | 0 => []
  | n + 1 => BitVec.ofNat 8 v :: natToBytes n (v / 256)

/-- The value at a key, if the map has one. -/
def mapFind {α : Type} (k : Nat) : List (Nat × α) → Option α
  | [] => none
  | (j, v) :: m => if j = k then some v else mapFind k m

/-- The value at a key, or a default. -/
def mapGet {α : Type} (d : α) (k : Nat) (m : List (Nat × α)) : α := (mapFind k m).getD d

/-- The map with a value at a key. -/
def mapPut {α : Type} (k : Nat) (v : α) : List (Nat × α) → List (Nat × α)
  | [] => [(k, v)]
  | (j, w) :: m =>
    if k < j then (k, v) :: (j, w) :: m
    else if k = j then (k, v) :: m
    else (j, w) :: mapPut k v m

/-- The map with nothing at a key. -/
def mapDel {α : Type} (k : Nat) : List (Nat × α) → List (Nat × α)
  | [] => []
  | (j, w) :: m => if k = j then m else if k < j then (j, w) :: m else (j, w) :: mapDel k m

/-- The entries whose keys lie in a range of n keys from k. -/
def mapRange {α : Type} (k n : Nat) (m : List (Nat × α)) : List (Nat × α) :=
  m.filter fun e => k ≤ e.1 && e.1 < k + n

/-- The map without the entries whose keys lie in a range of n keys from k. -/
def mapDelRange {α : Type} (k n : Nat) (m : List (Nat × α)) : List (Nat × α) :=
  m.filter fun e => !(k ≤ e.1 && e.1 < k + n)

/-- The map that holds a value only where it differs from the default. -/
def mapPutD {α : Type} [DecidableEq α] (d : α) (k : Nat) (v : α) : List (Nat × α) → List (Nat × α)
  | [] => if v = d then [] else [(k, v)]
  | (j, w) :: m =>
    if k < j then (if v = d then (j, w) :: m else (k, v) :: (j, w) :: m)
    else if k = j then (if v = d then m else (k, v) :: m)
    else (j, w) :: mapPutD d k v m

/-- Whether a set holds a key. -/
def setHas (k : Nat) (s : List Nat) : Bool := s.contains k

/-- The set with a key. -/
def setAdd (k : Nat) : List Nat → List Nat
  | [] => [k]
  | j :: s => if k < j then k :: j :: s else if k = j then j :: s else j :: setAdd k s

/-- The set without a key. -/
def setDel (k : Nat) (s : List Nat) : List Nat := s.filter (· != k)

/-- The set with a key in it or not. -/
def setPut (k : Nat) (b : Bool) (s : List Nat) : List Nat := if b then setAdd k s else setDel k s

/-- The set without the keys of a range of n keys from k. -/
def setDelRange (k n : Nat) (s : List Nat) : List Nat :=
  s.filter fun j => !(k ≤ j && j < k + n)

/-- Keys strictly rising: the canonical form of a map. -/
def mapSorted {α : Type} : List (Nat × α) → Bool
  | [] => true
  | [_] => true
  | (i, _) :: (j, w) :: m => i < j && mapSorted ((j, w) :: m)

end Sys2Proof.Machine
end

