-- ==== Sys2Proof/Machine/State.lean ====
section
/-!
DEFINITION. The state of the machine as plain data: the device, its memory and configuration words,
every core with its four contexts, every load, everything in flight, and the state after reset.
Physical cores are numbered wing [13:12], hall [11:5], core [4:0]; physical halls wing [8:7],
hall [6:0].
-/

namespace Sys2Proof.Machine

/-- Why the machine stops with a fault. The spec's own faults (R454) are next states. -/
inductive Fault
  /-- raised by `step` when the agenda holds an event whose operands name no place of the part; the
  host of the model wrote it there. Safe: no such event exists on the hardware. -/
  | illFormedEvent
deriving DecidableEq, Repr

/-- Why an instruction has no meaning. -/
inductive Refusal
  /-- raised by an arm of `exec` that has no meaning yet. Safe: nothing follows from it. -/
  | notModelled (mnemonic : String)
deriving DecidableEq, Repr

/-- A value with its poison mark (R50). -/
structure PVal where
  v : Word64 := 0
  po : Bool := false
deriving DecidableEq, Repr

/-- A return-queue entry (R69): the operation that fills it, whether it has arrived, its value. -/
structure RqEntry where
  id : Nat
  arrived : Bool
  val : PVal
  /-- an access, which a fence waits for (R205); a division is none -/
  mem : Bool := true
deriving DecidableEq, Repr

/-- A loop-stack entry (R74, R123). -/
structure LoopEntry where
  start : Nat
  stop : Nat
  remaining : BitVec 32
deriving DecidableEq, Repr

/-- What a context runs (R61). -/
inductive RunState | idle | firing | stub
deriving DecidableEq, Repr

/-- The parking places of R391, in the order of their codes in R406. -/
inductive ParkKind | idle | fend | land | ldf
deriving DecidableEq, Repr

/-- Where a context is parked (R406). -/
structure Park where
  kind : ParkKind
  entry : BitVec 8 := 0
  pc : BitVec 13 := 0
deriving DecidableEq, Repr

/-- A register write that takes effect at the start of a later cycle (R66). -/
structure PendWrite where
  due : Nat
  writes : List (Nat × PVal)
deriving DecidableEq, Repr

/-- One word written in a transaction: address and data as read back (R229, R230). -/
structure CfgWrite where
  addr : Word64
  data : Word64
  rejected : Bool
deriving DecidableEq, Repr

/-- A system context's open transaction (R229): words in order, and each route entry with its value
from before. -/
structure Txn where
  words : List CfgWrite := []
  routes : List (Nat × Word64) := []
deriving DecidableEq, Repr

/-- One trigger context (R55). -/
structure Ctx where
  /-- registers by key: x n at n, lane l of v n at 64 + 32 n + l, k n at 600 + n, p n at 610 + n -/
  regs : List (Nat × PVal) := []
  /-- the epoch whose free values unlisted registers hold (R10, R395); none: they read 0 -/
  base : Option Nat := none
  /-- registers that other actors of the context keep, out of sight of the running one (R10) -/
  stash : List (Nat × PVal) := []
  regDirty : List Nat := []
  regSaved : List Nat := []
  pc : BitVec 13 := 0
  /-- the PC names a word outside the code store (R122) -/
  wild : Bool := false
  prevPc : BitVec 13 := 0
  /-- first cycle in which its entries are evaluated, after a restore (R218) -/
  evalFrom : Nat := 0
  /-- first cycle in which the context may issue again (gap count and branch hold, R63, R73) -/
  ready : Nat := 0
  /-- yielding (R64); an issue with Y set in the last cycle, whose contexts are still to be fixed; the
  contexts waited for -/
  yielding : Bool := false
  yieldNew : Bool := false
  yieldFor : Option (List Nat) := none
  pend : List PendWrite := []
  loops : List LoopEntry := []
  savedLoops : List LoopEntry := []
  rq : List RqEntry := []
  /-- TMOV tags in use, with the copy that holds each (R192) -/
  tags : List (Nat × Nat) := []
  ldist : BitVec 16 := 0
  stair0 : BitVec 32 := 0
  stair1 : BitVec 32 := 0
  stair2 : BitVec 32 := 0
  stair3 : BitVec 32 := 0
  gkey : Word64 := 0
  gseq : Word64 := 0
  lmax : BitVec 16 := 8192
  tmode : BitVec 2 := 0
  run : RunState := .idle
  /-- stopped by a fault (R455), its firing state in place -/
  halted : Bool := false
  /-- the actor whose firing or guard the fault was (R456) -/
  faulted : Option Nat := none
  park : Option Park := none
  /-- where the firing that a stub rebuilds had parked (R218) -/
  resumeAt : Park := { kind := .land }
  actor : Nat := 0
  phase : BitVec 3 := 0
  fix : Word64 := 0
  slast : BitVec 4 := 0
  six0 : BitVec 32 := 0
  six1 : BitVec 32 := 0
  six2 : BitVec 32 := 0
  six3 : BitVec 32 := 0
  /-- counts per window of the running firing (R186) -/
  freed : List (Nat × Nat) := []
  reserved : List (Nat × Nat) := []
  sent : List (Nat × Nat) := []
  /-- the firing's claim and put (R210) -/
  claimMade : Bool := false
  putMade : Bool := false
  /-- the index that the claim granted to the running firing -/
  claimIdx : Option Word32 := none
  /-- a granted claim bound to a trigger entry (R298) -/
  bound : Option (Nat × Word32) := none
  /-- the entry whose claim request is outstanding (R298) -/
  asking : Option Nat := none
  /-- operations that hold later memory-class instructions (R199, R284) -/
  acq : List Nat := []
  /-- a FENCE: operations numbered below this hold later memory-class instructions (R205) -/
  fence : Option (Nat × Scope) := none
  /-- result areas outstanding (R226) -/
  areas : List Nat := []
  stall : Nat := 0
  /-- the firing has entered its elastic side effect (R301) -/
  elastic : Bool := false
  txn : Option Txn := none
  /-- corridor signals pending (R262, R405) -/
  corridor : List Nat := []
  /-- keep map or live map in force when parked (R406) -/
  live : Word64 := 0
deriving DecidableEq, Repr

/-- A range of the tile store that holds later accesses (R173, R187, R192, R226). -/
structure ScoreEntry where
  id : Nat
  lo : Nat
  len : Nat
  write : Bool
  /-- takes one of the 8 entries -/
  slot : Bool
deriving DecidableEq, Repr

/-- A queued matrix command with its operands as they stood at issue (R168, R169, R173). -/
structure MCmd where
  id : Nat
  instr : Instr
  word : Word32
  start : Nat
  stop : Nat
  retire : Nat
  started : Bool := false
  streamed : Bool := false
  base : Nat := 0
  aElems : List Byte := []
  bElems : List Byte := []
  aScales : List Byte := []
  bScales : List Byte := []
  rowPoison : BitVec 32 := 0
deriving DecidableEq, Repr

/-- A move of the balance unit at its core (R307): the actor records of the donor and the recipient
stage, and whether the boundary is reached. -/
structure Move where
  donor : Nat
  recipient : Nat
  passed : Bool
deriving DecidableEq, Repr

/-- One core (R56). Before any commit, as after one, its banks hold +0, clean rows and type tags 0 (R162; DESIGN
CHOICE, log 106). -/
structure Core where
  c0 : Ctx := {}
  c1 : Ctx := {}
  c2 : Ctx := {}
  c3 : Ctx := {}
  load : Option Nat := none
  armed : Bool := false
  /-- the arbiter's recorded number (R62) -/
  last : BitVec 2 := 3
  /-- wait counts of the trigger entries and the promoted entry (R244) -/
  waits : List (Nat × Nat) := []
  promoted : Option Nat := none
  score : List ScoreEntry := []
  mq : List MCmd := []
  /-- accumulators that are not +0, by 2048 bank + 64 row + column (R162) -/
  z : List (Nat × Word32) := []
  zPoison0 : BitVec 32 := 0
  zPoison1 : BitVec 32 := 0
  /-- rows that a soft error has struck and that nothing has read since (R179) -/
  zErr0 : BitVec 32 := 0
  zErr1 : BitVec 32 := 0
  zTag0 : BitVec 2 := 0
  zTag1 : BitVec 2 := 0
  zDirty0 : Bool := false
  zDirty1 : Bool := false
  zSaved0 : Bool := false
  zSaved1 : Bool := false
  preFlag : Bool := false
  stopFlag : Bool := false
  /-- QPUTs issued since commit per queue (R210) -/
  puts : List (Nat × Nat) := []
  /-- FREED last credited per queue (R297) -/
  credited : List (Nat × Word32) := []
  pin : Nat := 0
  move : Option Move := none
deriving DecidableEq, Repr

/-- The identity of the last firing that reached a word by an atomic (R466): its load, where it has one,
and its physical core. -/
structure AtomId where
  load : Option Nat
  core : Nat
  ctx : Nat
  fix : Word64
deriving DecidableEq, Repr

/-- A hall of a load. -/
structure LoadHall where
  logical : Nat
  phys : Nat
  user : Nat
  inPlace : Bool := true
  slot : Nat := 0
  writtenOut : Bool := false
  restored : Bool := false
  /-- the launch unit's note at a write-out: items of the live maps with D = 0, which the slot does not
  hold (R407), and contexts whose firing has entered its side effect (R301) -/
  clean : List Nat := []
  entered : List Nat := []
  /-- the clean items' values and marks, by 1024 (4 position + context) + register key (R407); for each
  context, by 4 position + context, the entry that its bound claim waits for (R298) and the PC of its
  last instruction (R96) -/
  values : List (Nat × PVal) := []
  /-- and the registers that other actors of a parked context keep, by 4 position + context: the record has no
  section for them (R11, R406, R410) -/
  aside : List (Nat × List (Nat × PVal)) := []
  bounds : List (Nat × Nat) := []
  lastPcs : List (Nat × BitVec 13) := []
  /-- and the streams with a withheld token in hand, what each stream's SBAR waits for, each stream's FCNT
  and TGT, and the tokens that a source has read and not sent (R206, R265, R286, R387, R481) -/
  inHand : List Nat := []
  bars : List (Nat × List Nat) := []
  counts : List (Nat × Nat × Nat) := []
  unsent : List (Nat × Nat) := []
  /-- and the identities that the hall store's words keep, by word (R410, R466) -/
  atoms : List (Nat × AtomId) := []
  /-- and the bytes of its store, by offset, and from 2^20 on those of its tile stores, by program position: the
  slot leaves out lines with D = 0, of which the image need not cover every byte (R395, R407) -/
  cells : List Host.Cell := []
deriving DecidableEq, Repr

/-- The state of a load handle. -/
inductive LoadState
  | free | running | preempting | suspended | stopping | stopped | frozen | residentIdle
deriving DecidableEq, Repr

/-- An entry of the determinism cause record (R467). -/
structure DetEntry where
  code : BitVec 8
  ctx : BitVec 8
  core : BitVec 16
  pc : BitVec 16
  count : BitVec 32
  first : BitVec 32
deriving DecidableEq, Repr

/-- The schedule certificate as the machine uses it (R111): repetition entries by
mode × actors + actor, initial tokens by window end, and the actor number of each core's record. -/
structure Cert where
  modes : Nat := 1
  actors : Nat := 0
  reps : List (Nat × Nat) := []
  initial : List (Nat × Nat) := []
  actorOf : List (Nat × Nat) := []
  streamOf : List (Nat × Nat) := []
  stageOf : List (Nat × Nat) := []
deriving DecidableEq, Repr

/-- One of the 28 load handles (R228). -/
structure Load where
  state : LoadState := .free
  halls : List LoadHall := []
  cores : List Nat := []
  /-- virtual channel per wing (R366) -/
  vcs : List (Nat × Nat) := []
  debug : Bool := false
  ordered : Bool := false
  mode : BitVec 3 := 0
  draining : Bool := false
  paused : Bool := false
  target : BitVec 3 := 0
  targets : Bool := false
  modes : List Nat := [0]
  signals : List Nat := []
  cert : Cert := {}
  det : List DetEntry := []
  overflow : BitVec 32 := 0
  /-- the first fault's code, and the page or arc stop that waits for parking (R386, R450) -/
  code : Option (BitVec 8) := none
  /-- the cycle of that fault (R457) -/
  stopAt : Nat := 0
  late : Option (List Nat) := none
  /-- PREQ result areas that wait for parking: core, context, result operation -/
  preqs : List (Nat × Nat × Nat) := []
  hang : Nat := 0
  drainAge : Nat := 0
  /-- the launch that runs it, its index in the graph, its image -/
  launch : Option Nat := none
  index : Nat := 0
  image : Nat := 0
  imageLen : Nat := 0
  /-- the counts of launches per wing from which LSEQ of its halls' identity words is taken (R366) -/
  lseq : List (Nat × BitVec 32) := []
  /-- queue descriptor words that a chain binding has replaced, by configuration address (R368) -/
  ownWords : List (Nat × Word64) := []
  wings : List (Nat × Nat) := []
  /-- save area base per wing (R402) -/
  areas : List (Nat × Nat) := []
  /-- the stream and range words of system halls that its transaction wrote, by configuration address (R9,
  R229) -/
  sysWords : List Nat := []
  /-- trigger VALID bits as they stood at commit, by core (R360) -/
  valids : List (Nat × BitVec 16) := []
  /-- the trigger entries that its configuration wrote, by core (R307) -/
  entries : List (Nat × BitVec 16) := []
  /-- timers of window ends that wait on arcs, by 16 core + window (R450) -/
  timers : List (Nat × Nat) := []
  /-- memory ports whose error has stopped it (R444) -/
  deadPorts : List Nat := []
  resident : Option Nat := none
  since : Nat := 0
deriving DecidableEq, Repr

/-- A packet in flight (R254), at the router it has reached. -/
structure Packet where
  id : Nat
  load : Nat
  rc : BitVec 8
  kind : BitVec 3
  fan : BitVec 2
  size : BitVec 8
  seq : Word32
  data : List Byte
  poison : List Nat
  hall : Nat
  /-- core, context of a WPUT, for acknowledgements (R205) -/
  src : Option (Nat × Nat) := none
  op : Nat := 0
  /-- accesses that the release covers and that are not performed yet (R187) -/
  covers : List Nat := []
  /-- flits that the hall's input ports have still to take in (R309) -/
  owed : Nat := 0
  /-- the router at which those wait: its hall, and the packet's port and order of arrival there -/
  waitsIn : Option (Nat × Nat × Nat) := none
  /-- delivered to a destination of this hall: core, or stream unit 32 + u; descriptor -/
  dest : Option (Nat × Nat) := none
  /-- waits at a Maelle port for its arc-table entry (R448) -/
  atPort : Option Nat := none
  /-- the router port at which it arrived (log 83), and the order of its arrival (R411) -/
  port : Nat := 6
  stamp : Nat := 0
  /-- the virtual channel of the link that it came by (R447), and that port with its class there, to which
  its acknowledgement returns (R205) -/
  linkVc : Nat := 0
  link : Option (Nat × BitVec 8) := none
deriving DecidableEq, Repr

/-- What a shared-space access does (R197, R198, R202). -/
inductive AccKind
  | load | store | cas | add | swap | and | or | xor | min | max | maxu | storeFull | setEmpty
deriving DecidableEq, Repr

/-- A shared-space access in flight (R273). -/
structure Access where
  id : Nat
  core : Nat
  ctx : Nat
  kind : AccKind
  key : Nat
  bytes : Nat
  a : Word64 := 0
  b : Word64 := 0
  pc : BitVec 13 := 0
  fix : Word64 := 0
  /-- performed only after these (R199, R275, R280) -/
  after : List Nat := []
  /-- has reached the egress of its hall, or of its core (R280) -/
  merged : Bool := false
  atCore : Bool := false
deriving DecidableEq, Repr

/-- A copy of the tile-move engine (R192, R209). -/
inductive CopyKind | tmovIn | tmovOut | qclaim | qput
deriving DecidableEq, Repr

/-- A TMOV, QCLAIM or QPUT in flight. -/
structure Copy where
  id : Nat
  core : Nat
  ctx : Nat
  kind : CopyKind
  tile : Nat
  key : Nat
  len : Nat
  /-- bytes that a TMOV has moved (R283) -/
  moved : Nat := 0
  load : Nat := 0
  queue : Nat := 0
  index : Word32 := 0
  data : List Byte := []
  poison : List Nat := []
  landed : Bool := false
  covers : List Nat := []
  after : List Nat := []
  /-- has reached the egress of its hall, or of its core (R280) -/
  merged : Bool := false
  atCore : Bool := false
deriving DecidableEq, Repr

/-- A corridor signal on its way to one core (R222, R261): the context that sent it, where it goes. -/
structure SigFlight where
  core : Nat
  ctx : Nat
  target : Nat
  signal : Nat
deriving DecidableEq, Repr

/-- The states of R208. -/
inductive StreamMode | idle | running | stopping | held | finished
deriving DecidableEq, Repr

/-- A stream unit's state of one stream (R208, R272, R285, R481). -/
structure Stream where
  mode : StreamMode := .idle
  page : Bool := false
  /-- walk position of the next token to begin -/
  pos : Nat := 0
  done : Word32 := 0
  /-- cumulative token number (R285) -/
  cumulative : Nat := 0
  fcnt : Nat := 0
  tgt : Nat := 0
  /-- tokens read ahead into the ring and not sent -/
  ahead : Nat := 0
  /-- streams whose accesses an SBAR awaits (R206) -/
  bar : List Nat := []
  /-- first unwritten line of a withheld sink token (R387) -/
  line : Nat := 0
  busy : Bool := false
  /-- the cycle in which the token in hand was begun, or from which its request waits for an answer; the CXL
  port that gives it none (R444) -/
  issued : Nat := 0
  lost : Option Nat := none
  /-- its access was discarded with those of its stopped load to a memory port (R444) -/
  cut : Bool := false
deriving DecidableEq, Repr

/-- A stream token whose access waits at the edge port (R372, R382, R385). -/
structure Withheld where
  id : Nat
  load : Nat
  hall : Nat
  stream : Nat
  token : Nat
  va : BitVec 56
  asn : BitVec 11
  sink : Bool
  since : Nat
  failed : Bool
  cause : BitVec 8
  /-- the walk whose token it waits for, or that it waits for a free port tag (R382) -/
  walk : Option Nat := none
  wants : Bool := false
  /-- its walk was discarded by the invalidation in progress, and the next has not ended (R384) -/
  again : Bool := false
  /-- the cycle of its next timed re-walk (R385) -/
  retryAt : Nat := 0
deriving DecidableEq, Repr

/-- What a walk finds (R378): a leaf, a page fault's cause, or a poisoned entry. -/
inductive Walk
  | leaf (base : Nat) (large rd wr : Bool)
  | fail (cause : Nat)
  | poisoned
deriving DecidableEq, Repr

/-- A walk in flight (R381, R382): its miss token with the edge port (4 x wing + port) and port tag, the
level whose stage it has reached with the table there, and the token that returns. -/
structure WalkToken where
  port : Nat
  tag : BitVec 8
  va : BitVec 56
  asn : BitVec 11
  sink : Bool
  level : Nat := 0
  table : Nat := 0
  found : Option Walk := none
deriving DecidableEq, Repr

/-- What reaches the part from outside beside the events of the opcode table: a write to CXL device memory
by another of the device's users, performed at the device (R334, R443), an aligned or other read of BAR0
(R436), one over I3C (R472), the MSI-X function mask set or cleared (R438), credits that come back on a link
alone (R447), the device of a CXL port that completes no further request (R444), and the offsets, from −16 on,
at which a path-delay monitor of a hall now shows positive slack (R474). -/
inductive OutsideInput
  | cxlWrite (addr : Nat) (data : List Byte) (poison : List Nat)
  | bar0Read (off size : Nat)
  | functionMask (on : Bool)
  | linkCredit (port vc n : Nat)
  | cxlSilent (port : Nat)
  | i3cRead (target index : Nat)
  | slack (hall monitor : Nat) (good : BitVec 37)
deriving DecidableEq, Repr

/-- A TLB entry (R379). -/
structure TlbEntry where
  asn : BitVec 11
  large : Bool
  vpn : Nat
  base : Nat
  rd : Bool
  wr : Bool
deriving DecidableEq, Repr

/-- A registered ordered access (R287) or an unperformed stream access (R289). -/
structure StreamAcc where
  load : Nat
  hall : Nat
  stream : Nat
  seq : Nat
  write : Bool
  lines : List Nat
deriving DecidableEq, Repr

/-- Session states (R316). -/
inductive SessState | closed | opened | done | faulted
deriving DecidableEq, Repr

/-- What a session keeps of its image's header (R311): the image's place in memory, its limits and
the offsets of its parts. -/
structure GImage where
  base : Nat := 0
  nv : Nat := 0
  smax : Nat := 0
  eos : Nat := 0
  trans : Nat := 0
  states : Nat := 0
  bitmaps : Nat := 0
  uncertain : Nat := 0
  nodes : Nat := 0
  tokens : Nat := 0
deriving DecidableEq, Repr

/-- A grammar session (R316, R322). -/
structure Session where
  state : SessState := .closed
  owner : Nat := 0
  pda : BitVec 16 := 0
  stack : List (BitVec 16) := []
  slot : BitVec 3 := 0
  seq : Word32 := 0
  empty : Word32 := 0
  acc : Word32 := 0
  rej : Word32 := 0
  masks : Word32 := 0
  digest : Word32 := 0
  last : BitVec 8 := 0
  lcmd : BitVec 3 := 0
  image : GImage := {}
  /-- a GOPEN has opened it, and the residency of the load that it belongs to goes on (R316, R321) -/
  live : Bool := false
  /-- contexts that changed the session since GOPEN, and whether the race is entered (R321) -/
  users : List Nat := []
  raced : Bool := false
deriving DecidableEq, Repr

/-- A grammar command in flight (R317). -/
structure GramCmd where
  id : Nat
  core : Nat
  ctx : Nat
  load : Nat
  fn : BitVec 3
  a : Word64
  b : Word64
  after : List Nat
deriving DecidableEq, Repr

/-- A system form's result in flight (R226, R227). -/
structure Result where
  id : Nat
  core : Nat
  ctx : Nat
  group : Nat
  instr : Instr
  a : Word64
  area : Nat
  block : List Byte := []
  blockPoison : Bool := false
deriving DecidableEq, Repr

/-- A launch that waits or runs (R356, R362). -/
structure Launch where
  queue : Nat
  /-- the record's KIND; 4 for a record that is not run (R356) -/
  kind : Nat
  chain : Bool := false
  debug : Bool := false
  evid : Bool := false
  tag : BitVec 16 := 0
  gid : Nat := 0
  image : Nat := 0
  imageLen : Nat := 0
  caddr : Nat := 0
  eaddr : Nat := 0
  wmask : BitVec 4 := 0
  chb : Word64 := 0
  started : Bool := false
  /-- of kind 1: it has registered its graph (R359) -/
  registered : Bool := false
  next : Nat := 0
  done : Nat := 0
  loads : Nat := 0
  prio : Nat := 0
  /-- the order of its start among all launches, and the launches started in each wing by then (R366) -/
  start : Nat := 0
  lseq : List (Nat × BitVec 32) := []
  /-- the first load's handle; the handle of the load that runs or is being placed -/
  handle : Nat := 0
  current : Option Nat := none
  suspended : Bool := false
  claimed : List Nat := []
  excluded : List Nat := []
  records : List (Nat × List Byte) := []
  status : Option (Nat × Nat × Nat) := none
  pred : Option Nat := none
  /-- a load of it is being placed: its halls are `claimed`, its handle `current`, and these its
  channels and save areas -/
  placing : Bool := false
  vcs : List (Nat × Nat) := []
  areas : List (Nat × Nat) := []
  /-- the image has been staged, and every load of it admitted (R423) -/
  staged : Bool := false
  /-- the job token of the placing stage (R425) -/
  job : List Byte := []
  /-- CFG_REJECT's detail word of a refusal by admission (R111, R266) -/
  detail : Word64 := 0
deriving DecidableEq, Repr

/-- A resident graph (R359): its launch data and its loads in order. -/
structure Resident where
  loads : List Nat := []
  running : Bool := false
  image : Nat := 0
  imageLen : Nat := 0
deriving DecidableEq, Repr

/-- A launch queue's read-only words (R353). -/
structure LaunchQueue where
  head : BitVec 16 := 0
  tail : BitVec 16 := 0
  err : Bool := false
  busy : Bool := false
deriving DecidableEq, Repr

/-- A Maelle port (R446). -/
structure LinkPort where
  up : Bool := true
  training : Bool := false
  expect : BitVec 12 := 0
  nextSeq : BitVec 12 := 0
  retry : List LinkFlit := []
  fails : Nat := 0
  /-- where the last retry request asked the sender to resend from -/
  asked : Option (BitVec 12) := none
  /-- the cycle in which it began to retrain -/
  since : Nat := 0
  /-- a retry request of its own has not been answered yet, and how far past the flit that it named the
  last flit lay that came out of sequence since -/
  seeking : Bool := false
  past : Nat := 0
  /-- by virtual channel: flits that wait for a credit, credits in use, and credits to return (R447) -/
  waiting : List (Nat × List (List Byte × List Nat)) := []
  used : List (Nat × Nat) := []
  owed : List (Nat × Nat) := []
  /-- tokens of WPUTs that have left by the port and may not have committed yet (R199, R205) -/
  unacked : List Nat := []
  /-- flits received of a packet that has not ended, by virtual channel -/
  inbox : List (Nat × List LinkFlit) := []
deriving DecidableEq, Repr

/-- A collective round in progress (R452, R453). -/
structure Round where
  next : Nat := 0
  /-- contributions by 64 round + rank -/
  contrib : List (Nat × List Byte) := []
  poison : List (Nat × List Nat) := []
  /-- the cycle in which a round's timer started -/
  starts : List (Nat × Nat) := []
deriving DecidableEq, Repr

/-- What the outside has seen (R436, R438, R445 to R447). -/
inductive HostOut
  | answer (v : Word64)
  | data (bytes : List Byte) (ep : Bool)
  | unsupported
  | i3c (v : Word64)
  | msix (vector : Nat)
  | flit (port : Nat) (f : LinkFlit)
  | retryRequest (port : Nat) (seq : BitVec 12)
  | creditReturn (port vc n : Nat)
  /-- the acknowledgement of a token that came by a port (R205; log 24) -/
  | acknowledge (port : Nat) (rc : BitVec 8) (seq : Word32)
deriving DecidableEq, Repr

/-- STATUS.STATE (R437). -/
inductive DevState | selfTest | vestibule | running | safe
deriving DecidableEq, Repr

/-- What a core or the balance clock has still to do in this cycle (log 1). -/
inductive Slot
  /-- the timers of arc ends, at the cycle's evaluation (R450) -/
  | timers
  | fire (core : Nat)
  | issue (core : Nat)
deriving DecidableEq, Repr

/-- The signed firmware store on the module (R477), whose defect map is the machine's own: the firmware, its
signature, the keys of slots 1 to 15 that it brings, the identity record, which holds the identity public key,
with its signature, and the signature of the defect map. -/
structure FirmwareStore where
  image : List Byte := []
  sig : List Byte := []
  slots : List (Nat × List Byte) := []
  identity : List Byte := []
  identitySig : List Byte := []
  mapSig : List Byte := []
deriving DecidableEq, Repr

/-- The key in slot 0 and the signature of the firmware that the model starts with, an empty one: the spec
gives neither (DESIGN CHOICE, log 111). -/
def firmwareRoot : List Byte := natToBytes 132
  0x275611875b3e9ac768ca3a6ec30498b30b96550c697331593065430298a0d1e2c6e20045ebc36a19804f625e102690e875f6c6fd63344c771c7c52414b2086d5f20173f39063d634f4782b589fe4bf4cf35ff003f0702832c5d945c64f0f899ad96c01b8822ef426b47fcab5178b45450b77fba71c9534a9e09264d806f4d7eab2289700
def firmwareSig : List Byte := natToBytes 132
  0x3eda27f97a3238a5817a4147bd31b9632fec7e87d21883ffb0f2855d3cd1d047cee96cd321a9f483dc15570b05e420d607806dd6502854f1bdb8ef7e35e183cf00007cb44ff2f564704a03f5828e7a6372c75ed8fd0ea53106ff61e50bbb78a2a18f9cd3d9a64352e907b92bae160ac841ac0f00dbaca150a8e27b71dffd6ac2079f0100

/-- The device identity record that the model starts with, the public key of an identity key of its own making,
and the signatures by that key of the record and of the default defect map: the spec gives none of them (DESIGN
CHOICE, log 111). -/
def identityRecord : List Byte := natToBytes 132
  0xcdd04ee2042884a4bec5e4581bc23533a5a61ddb5c6a00063176da097de821be801cf2b6e2ce55d3acf61eaa798830d147ea8158b3effda8a6070e1ff38ee73f0a0018be1d48a000d2c5742abff8dacfdd0d763b06ca39965921e6ca8b2f2b97a2ad9e90bd0ae13e0dc7fbe0faab584a7056a8f05716c7f2c01db6e70ae0112869d8cf01
def identitySignature : List Byte := natToBytes 132
  0x3037e571a8a2d10380a0fc6921a734ea935f99bb173ed0592a06f6dacfd554a6d41d7a4b64803de7cf77dad639ea6493bafe3495b1f1229b17516eaf5a7d5bc8fb01f368ef9b35b02cbe8b79fa016c1caebb2380ea6811bdaeb3c0d5ad444e998b535572898a1c77d2969a7c6a463cd244d3ab9728e7ca9657b5a84487b748145c918600
def mapSignature : List Byte := natToBytes 132
  0x1c88d359d1f28033a2db56a91f809c048374d8285d32eafc67795d8ecab00cc42bca3eae0b1df92a4bf87df8af2c5107fa9f150d9c5627d2fde7e296ce8992fab6013f950a4ee5f74e1b84b8f16f46b12ad4244be2253d3f723299539a224c6c3d905b5058a89c0f1e3271d97218360a84060eaafd0e0fba3361e179ee0d18d917c2a601

/-- The machine. -/
structure State where
  -- device and time
  cycle : Nat
  power : Bool
  dev : DevState
  failBlk : BitVec 16
  -- the model's own bookkeeping (logs 1, 2, 6)
  agenda : List (Nat × Instr)
  todo : List Slot
  curCore : Nat
  curCtx : Nat
  fresh : Nat
  nextId : Nat
  -- memory (log 3)
  mem : List Host.Cell
  poison : List Nat
  full : List Nat
  dirty : List Nat
  saved : List Nat
  atoms : List (Nat × AtomId)
  -- configuration words (R229) and route entries (R253)
  cfg : List (Nat × Word64)
  routes : List (Nat × Word64)
  -- cores and loads
  cores : List (Nat × Core)
  loads : List (Nat × Load)
  -- in flight
  packets : List (Nat × Packet)
  accs : List (Nat × Access)
  copies : List (Nat × Copy)
  acks : List (Nat × Nat)
  results : List (Nat × Result)
  gcmds : List (Nat × GramCmd)
  sigs : List (Nat × SigFlight)
  -- streams and translation
  streams : List (Nat × Stream)
  withheld : List (Nat × Withheld)
  walks : List (Nat × WalkToken)
  saccs : List (Nat × StreamAcc)
  tlbs : List (Nat × List TlbEntry)
  -- invalidations waiting in each wing, the first in progress (R384): ISEL, VA, ASN
  invals : List (Nat × List (Nat × Nat × Nat))
  -- stage queues of a load: FCNT and TGT by 32 load + queue (R481)
  qfcnt : List (Nat × Nat)
  qtgt : List (Nat × Nat)
  -- queues bound by CHB (R368): 32 load + queue of the successor to that of the predecessor
  qbind : List (Nat × Nat)
  -- grammar engines: sessions by 256 wing + session
  sessions : List (Nat × Session)
  -- balance units: accumulators by 32 wing + stage; the cycle of sample 0 of each wing's clock
  balAcc : List (Nat × Int)
  balBase : List (Nat × Nat)
  -- admission limiter: flits admitted per hall in the current window (R309)
  admitted : List (Nat × Nat)
  -- launch units
  queues : List (Nat × LaunchQueue)
  launches : List (Nat × Launch)
  lseq : List (Nat × BitVec 32)
  rotation : List (Nat × Nat)
  -- halls that the launch units have reported to the health monitor (R426)
  reports : List Nat
  residents : List (Nat × Resident)
  -- links and the collective engines (by 16 wing + descriptor)
  ports : List (Nat × LinkPort)
  -- CXL ports whose link is down, and those whose device completes no request (R444)
  cxlDown : List Nat
  cxlSilent : List Nat
  -- inputs to come, each with its cycle
  outside : List (Nat × OutsideInput)
  rounds : List (Nat × Round)
  -- package
  dmap : List (Nat × Word64)
  ien : Word64
  ipend : Word64
  msixTable : List (Nat × Word64)
  msixPending : List Nat
  msixFunctionMask : Bool
  cm : BitVec 16
  ce : BitVec 16
  pwr : BitVec 16
  tj : BitVec 8
  plim : BitVec 12
  mcmd : BitVec 2
  retn : BitVec 8
  keys : List (Nat × List Byte)
  -- the firmware store (R477), and by 4 hall + monitor the offsets, from −16 on, at which each path-delay
  -- monitor shows positive slack (R474; log 112)
  firmware : FirmwareStore
  monitors : List (Nat × BitVec 37)
  hostOut : List HostOut
deriving DecidableEq, Repr

/-- The DMAP record of a hall of the default map (R233, log 4): halls 0 to 63 carry the user halls of
the same numbers, 64 and 65 are spare, 66 is the system hall; all cores are good. -/
def defaultDmap (ph : Nat) : Word64 :=
  let user : Nat := if ph < 64 then ph else 0xFF
  let spare : Nat := if ph = 64 ∨ ph = 65 then 1 else 0
  let sys : Nat := if ph = 66 then 1 else 0
  BitVec.ofNat 64 (user * 2 ^ 24 + sys * 2 ^ 19 + spare * 2 ^ 18 + 2 ^ 17 + 0x1FFFF)

/-- Configuration words that are not 0 after power, by the word's offset in space 6 of a system hall
(R304, R383, R448, R459). -/
def systemWordReset (off : Nat) : Word64 :=
  if off = 384 then 0x2040
  else if off = 2305 then 0x10000000CD14
  else if off = 2322 then 20
  else if off = 3840 then 1048576
  else 0

/-- The machine right after the power-on self-test has passed (R9, R470; logs 3 to 6, 13, 14,
20 to 22). -/
def State.reset : State where
  cycle := 0
  power := true
  dev := .running
  failBlk := 0
  agenda := []
  todo := []
  curCore := 0
  curCtx := 0
  fresh := 0
  nextId := 0
  mem := []
  poison := []
  full := []
  dirty := []
  saved := []
  atoms := []
  cfg := []
  routes := []
  cores := []
  loads := []
  packets := []
  accs := []
  copies := []
  acks := []
  results := []
  gcmds := []
  sigs := []
  streams := []
  withheld := []
  walks := []
  saccs := []
  tlbs := []
  invals := []
  qfcnt := []
  qtgt := []
  qbind := []
  sessions := []
  balAcc := []
  balBase := []
  admitted := []
  queues := []
  launches := []
  lseq := []
  rotation := []
  reports := []
  residents := []
  ports := []
  cxlDown := []
  cxlSilent := []
  outside := []
  rounds := []
  dmap := []
  ien := 0
  ipend := 0
  msixTable := []
  msixPending := []
  msixFunctionMask := false
  cm := 0
  ce := 0
  pwr := 0
  tj := 0
  plim := 2400
  mcmd := 0
  retn := 0
  keys := [(0, firmwareRoot)]
  firmware := { sig := firmwareSig, identity := identityRecord, identitySig := identitySignature,
                mapSig := mapSignature }
  monitors := []
  hostOut := []

end Sys2Proof.Machine
end

