-- ==== Sys2Proof/Machine/Memory.lean ====
section
/-!
DEFINITION. The one memory of the model: the keys under which the stores of R268 and the physical map
of R370 lie in it, reading and writing bytes in its canonical form, and the marks of 8-byte words
(poison R50, full R201) and 256-byte lines (R407). Log 3.
-/

namespace Sys2Proof.Machine

/-- The byte of an address that memory does not list: code stores hold the fill word (R94), every
other store 0 (R201; log 3). -/
def unlisted (key : Nat) : Byte := if key / 2 ^ 60 = 1 then 0xFF else 0

/-- Key of a byte of a core's code store. -/
def codeKey (pk off : Nat) : Nat := 2 ^ 60 + pk * 2 ^ 15 + off

/-- Key of a byte of a core's tile store. -/
def tileKey (pk off : Nat) : Nat := 2 * 2 ^ 60 + pk * 2 ^ 17 + off

/-- Key of a byte of a physical hall's store. -/
def hallKey (hk off : Nat) : Nat := 3 * 2 ^ 60 + hk * 2 ^ 20 + off

/-- Key of a byte of a wing's gallery. -/
def galleryKey (wing off : Nat) : Nat := 4 * 2 ^ 60 + wing * 2 ^ 26 + off

/-- Key of a byte of the physical map. -/
def physKey (pa : Nat) : Nat := 5 * 2 ^ 60 + pa

/-- Whether a key lies in a gallery. -/
def isGalleryKey (key : Nat) : Bool := key / 2 ^ 60 == 4

/-- Whether a key lies in a hall store. -/
def isHallKey (key : Nat) : Bool := key / 2 ^ 60 == 3

/-- Whether a key lies in a tile store. -/
def isTileKey (key : Nat) : Bool := key / 2 ^ 60 == 2

/-- One byte of memory. -/
def memByte (m : List Host.Cell) (key : Nat) : Byte := mapGet (unlisted key) key m

/-- Memory with one byte written, in canonical form. -/
def memSetByte (m : List Host.Cell) (key : Nat) (b : Byte) : List Host.Cell :=
  mapPutD (unlisted key) key b m

/-- Memory with bytes written from a key upward. -/
def memSetBytes (m : List Host.Cell) (key : Nat) : List Byte → List Host.Cell
  | [] => m
  | b :: bs => memSetBytes (memSetByte m key b) (key + 1) bs

/-- The bytes of memory from a key upward. -/
def memBytes (m : List Host.Cell) (key : Nat) : Nat → List Byte
  | 0 => []
  | n + 1 => memByte m key :: memBytes m (key + 1) n

/-- The canonical form: keys strictly rising, and no byte equal to what its address reads as when it
is not listed. -/
def memWf (m : List Host.Cell) : Bool := mapSorted m && m.all fun c => c.2 != unlisted c.1

/-- The little-endian value of bytes (R15). -/
def bytesToNat : List Byte → Nat
  | [] => 0
  | b :: bs => b.toNat + 256 * bytesToNat bs

/-- The value of n bytes from a key. -/
def State.load (s : State) (key n : Nat) : Nat := bytesToNat (memBytes s.mem key n)

/-- The 8-byte word at a key. -/
def State.load64 (s : State) (key : Nat) : Word64 := BitVec.ofNat 64 (s.load key 8)

/-- The 32-bit word at a key. -/
def State.load32 (s : State) (key : Nat) : Word32 := BitVec.ofNat 32 (s.load key 4)

/-- The numbers first, first + step, … of n elements. -/
def steps (first step : Nat) : Nat → List Nat
  | 0 => []
  | n + 1 => first :: steps (first + step) step n

/-- The units of a size that n bytes from a key touch. -/
def unitsOf (size key n : Nat) : List Nat :=
  if n = 0 then [] else steps (key / size) 1 ((key + n - 1) / size + 1 - key / size)

/-- Whether some 8-byte word that n bytes from a key touch is poisoned. -/
def State.poisoned (s : State) (key n : Nat) : Bool :=
  (unitsOf 8 key n).any fun w => setHas w s.poison

/-- Lines written: D set, S clear, in tile and hall stores (R407). -/
def touchLines (s : State) (key n : Nat) : State :=
  if isTileKey key || isHallKey key then
    (unitsOf 256 key n).foldl
      (fun s l => { s with dirty := setAdd l s.dirty, saved := setDel l s.saved }) s
  else s

/-! ### Check values (R468) -/

/-- The CRC-16 of polynomial 0x8BB7 after one more bit of a byte's value, which enters at the top. -/
def crc16Bit (c : BitVec 16) (b : Bool) : BitVec 16 :=
  if c.getLsbD 15 != b then c <<< 1 ^^^ 0x8BB7#16 else c <<< 1

/-- And after one more byte, its highest bit first. -/
def crc16Byte (c : BitVec 16) (b : Byte) : BitVec 16 :=
  (steps 0 1 8).foldl (fun c i => crc16Bit c (b.getLsbD (7 - i))) c

/-- The check value of a unit of data, beginning at 0, with no reflection. -/
def checkValue (l : List Byte) : BitVec 16 := l.foldl crc16Byte 0

/-- Bytes written, with the marks of the lines they touch. -/
def State.store (s : State) (key : Nat) (data : List Byte) : State :=
  touchLines { s with mem := memSetBytes s.mem key data } key data.length

/-- R51: a store of poisoned data marks every word it touches; a clean one clears the words that it
overwrites whole. -/
def markStore (s : State) (key n : Nat) (po : Bool) : State :=
  let mark := fun p w =>
    if po then setAdd w p
    else if key ≤ 8 * w && 8 * w + 8 ≤ key + n then setDel w p else p
  { s with poison := (unitsOf 8 key n).foldl mark s.poison }

/-- A store of n low bytes of a value with its mark. -/
def State.storeVal (s : State) (key n : Nat) (v : Word64) (po : Bool) : State :=
  markStore (s.store key (natToBytes n v.toNat)) key n po

/-- Words set full (R201). -/
def State.setFull (s : State) (key n : Nat) : State :=
  { s with full := (unitsOf 8 key n).foldl (fun f w => setAdd w f) s.full }

/-- Words set empty (R202). -/
def State.setEmpty (s : State) (key n : Nat) : State :=
  { s with full := (unitsOf 8 key n).foldl (fun f w => setDel w f) s.full }

/-- Poison marks of the words of n bytes from a key, as word numbers from the key's own word. -/
def State.poisonOf (s : State) (key n : Nat) : List Nat :=
  ((unitsOf 8 key n).filter fun w => setHas w s.poison).map fun w => w - key / 8

/-- Bytes that start at a multiple of 8, written with the marks of their words. -/
def State.storeMarked (s : State) (key : Nat) (data : List Byte) (po : List Nat) : State :=
  let s := markStore (s.store key data) key data.length false
  { s with poison := po.foldl (fun p w => setAdd (key / 8 + w) p) s.poison }

/-- A word written full with clean data (R201, R282). -/
def State.storeFull (s : State) (key : Nat) (v : Word64) : State :=
  (s.storeVal key 8 v false).setFull key 8

/-- Bit field of a word: n bits from bit lo. -/
def bits (w : Word64) (lo n : Nat) : Nat := w.toNat / 2 ^ lo % 2 ^ n

/-- A word with n bits from bit lo replaced. -/
def withBits (w : Word64) (lo n v : Nat) : Word64 :=
  BitVec.ofNat 64 (w.toNat - bits w lo n * 2 ^ lo + v % 2 ^ n * 2 ^ lo)

/-- One bit of a word. -/
def bitAt (w : Word64) (n : Nat) : Bool := w.getLsbD n

/-- The configuration address (R228's table) of a word: physical core or hall units, space, offset. -/
def cfgKey (pk space off : Nat) : Nat := pk * 2 ^ 34 + space * 2 ^ 30 + off

/-- The unit number, PCORE 31, of a hall. -/
def hallUnits (hk : Nat) : Nat := hk * 32 + 31

/-- A descriptor word after power: 0 but for the fields whose maps say otherwise. CORE of a system-hall
core, which no image need place, is its own position (R128; log 78). -/
def cfgDefault (key : Nat) : Word64 :=
  let space := key / 2 ^ 30 % 16
  if key / 2 ^ 39 % 128 = 66 then
    if space = 6 then systemWordReset (key % 2 ^ 30)
    else if space = 5 ∧ key % 2 ^ 30 = 50 then
      BitVec.ofNat 64 (2 ^ 12 + key / 2 ^ 46 * 2 ^ 10 + key / 2 ^ 34 % 16)
    else 0
  else 0

/-- A configuration word of spaces 2 to 6. -/
def State.cfgAt (s : State) (pk space off : Nat) : Word64 :=
  let k := cfgKey pk space off
  mapGet (cfgDefault k) k s.cfg

/-- A configuration word written. -/
def State.setCfg (s : State) (pk space off : Nat) (v : Word64) : State :=
  let k := cfgKey pk space off
  { s with cfg := mapPutD (cfgDefault k) k v s.cfg }

/-- A word of a hall's space 6. -/
def State.hallCfg (s : State) (hk off : Nat) : Word64 := s.cfgAt (hallUnits hk) 6 off

/-- A word of a hall's space 6 written. -/
def State.setHallCfg (s : State) (hk off : Nat) (v : Word64) : State :=
  s.setCfg (hallUnits hk) 6 off v

/-- The system hall of a wing. -/
def systemHall (wing : Nat) : Nat := wing * 128 + 66

/-- A word of a wing's system hall. -/
def State.sysCfg (s : State) (wing off : Nat) : Word64 := s.hallCfg (systemHall wing) off

/-- A word of a wing's system hall written. -/
def State.setSysCfg (s : State) (wing off : Nat) (v : Word64) : State :=
  s.setHallCfg (systemHall wing) off v

/-- The DMAP record of a physical hall (R233). -/
def State.dmapAt (s : State) (hk : Nat) : Word64 := mapGet (defaultDmap (hk % 128)) hk s.dmap

/-- The physical hall that carries a user hall number of a wing, if one does (R364, R486). -/
def State.hallOfUser (s : State) (wing user : Nat) : Option Nat :=
  ((steps (wing * 128) 1 66).filter fun hk => bits (s.dmapAt hk) 24 8 == user).head?

/-- The user hall number that a physical hall carries, 0 where it carries none. -/
def State.userOfHall (s : State) (hk : Nat) : Nat :=
  let u := bits (s.dmapAt hk) 24 8
  if u < 64 then u else 0

/-- Whether a hall is a system hall. -/
def isSystemHall (hk : Nat) : Bool := hk % 128 == 66

/-- R195, R196, R486: the key of a well-formed shared range of n bytes. -/
def State.sharedKey (s : State) (a : Word64) (n : Nat) : Option Nat :=
  let wing := bits a 38 2
  if bits a 40 24 = 0 ∧ bits a 26 5 = 0 then
    if bitAt a 37 then
      if bits a 31 6 = 0 ∧ bits a 0 26 + n ≤ 2 ^ 26 then some (galleryKey wing (bits a 0 26))
      else none
    else if bits a 20 6 = 0 ∧ bits a 0 20 + n ≤ 2 ^ 20 then
      (s.hallOfUser wing (bits a 31 6)).map fun hk => hallKey hk (bits a 0 20)
    else none
  else none

/-- The wing of a gallery, hall-store or tile-store key. -/
def wingOfKey (key : Nat) : Nat :=
  if isGalleryKey key then key / 2 ^ 26 % 4
  else if isHallKey key then key / 2 ^ 27 % 4
  else key / 2 ^ 29 % 4

end Sys2Proof.Machine
end

