-- ==== Sys2Proof/Machine/Ops.lean ====
section
/-!
DEFINITION. The named operations that the meanings share: cores, contexts and registers, the agenda,
the return queue, the range scoreboard, the determinism cause record, taking a fault (R97, R454 to
R462) and the issue of one instruction (R61 to R76, R97).
-/

namespace Sys2Proof.Machine

/-- What an instruction or event answers. -/
abbrev Answer := Host.Outcome State Fault Refusal

/-! ### Cores, contexts, loads -/

/-- A core's state. -/
def State.core (s : State) (c : Nat) : Core := mapGet {} c s.cores

/-- A core's state replaced. -/
def State.setCore (s : State) (c : Nat) (k : Core) : State :=
  { s with cores := mapPut c k s.cores }

/-- A context of a core. -/
def Core.ctx (k : Core) (x : Nat) : Ctx :=
  if x = 0 then k.c0 else if x = 1 then k.c1 else if x = 2 then k.c2 else k.c3

/-- A context of a core replaced. -/
def Core.setCtx (k : Core) (x : Nat) (t : Ctx) : Core :=
  if x = 0 then { k with c0 := t } else if x = 1 then { k with c1 := t }
  else if x = 2 then { k with c2 := t } else { k with c3 := t }

/-- A context. -/
def State.ctx (s : State) (c x : Nat) : Ctx := (s.core c).ctx x

/-- A context replaced. -/
def State.setCtx (s : State) (c x : Nat) (t : Ctx) : State := s.setCore c ((s.core c).setCtx x t)

/-- The core whose instruction executes. -/
def State.curK (s : State) : Core := s.core s.curCore

/-- The context whose instruction executes. -/
def State.cur (s : State) : Ctx := s.ctx s.curCore s.curCtx

/-- The executing core replaced. -/
def State.setCurK (s : State) (k : Core) : State := s.setCore s.curCore k

/-- The executing context replaced. -/
def State.setCur (s : State) (t : Ctx) : State := s.setCtx s.curCore s.curCtx t

/-- A load handle's state. -/
def State.loadAt (s : State) (h : Nat) : Load := mapGet {} h s.loads

/-- A load handle's state replaced. -/
def State.setLoad (s : State) (h : Nat) (l : Load) : State := { s with loads := mapPut h l s.loads }

/-- The hall of a core. -/
def hallOfCore (c : Nat) : Nat := c / 32

/-- The wing of a core. -/
def wingOfCore (c : Nat) : Nat := c / 4096

/-- Whether a core is a system-hall core. -/
def isSystemCore (c : Nat) : Bool := isSystemHall (hallOfCore c)

/-- R128: the program-visible position, from word 50 of space 5. A system-hall core reads SYS set, its
wing, HALL 0, and ROW and COL from the word. -/
def State.visibleCore (s : State) (c : Nat) : BitVec 13 :=
  let w := s.cfgAt c 5 50
  if isSystemCore c then BitVec.ofNat 13 (4096 + wingOfCore c * 1024 + bits w 0 4)
  else BitVec.ofNat 13 (bits w 0 13)

/-- MDE of a core: the mode of its load (R127). -/
def State.modeOf (s : State) (c : Nat) : BitVec 3 :=
  match (s.core c).load with
  | some h => (s.loadAt h).mode
  | none => 0

/-- Whether a load is committed: it holds its handle (R231). -/
def Load.committed (l : Load) : Bool := l.state != .free

/-! ### Actor records and rate counts (R240 to R242) -/

/-- Word i of actor record a. -/
def State.actorWord (s : State) (c a i : Nat) : Word64 := s.cfgAt c 3 (16 + 4 * a + i)

/-- Word i of actor record a replaced. -/
def State.setActorWord (s : State) (c a i : Nat) (v : Word64) : State :=
  s.setCfg c 3 (16 + 4 * a + i) v

/-- R242: the declared count for a mode, phase and window. -/
def State.rate (s : State) (c m p w : Nat) : Nat :=
  let n := 128 * m + 16 * p + w
  bits (s.cfgAt c 3 (48 + n / 5)) (12 * (n % 5)) 12

/-- R59: whether a context owns its core's matrix. -/
def State.ownsMatrix (s : State) (c x : Nat) : Bool :=
  (steps 0 1 8).any fun a =>
    let w := s.actorWord c a 0
    bitAt w 54 && bitAt w 60 && bits w 55 2 == x

/-- The actor records of a core that are in use. -/
def State.actorsOf (s : State) (c : Nat) : List Nat :=
  (steps 0 1 8).filter fun a => bitAt (s.actorWord c a 0) 54

/-! ### Registers (R55, R57, R66) -/

/-- Key of x n. -/
def xKey (r : XReg) : Nat := r.toNat

/-- Key of lane l of v n. -/
def laneKey (r : VReg) (l : Nat) : Nat := 64 + 32 * r.toNat + l

/-- Key of k n. -/
def kKey (r : KReg) : Nat := 600 + r.toNat

/-- Key of p n. -/
def pKey (r : PReg) : Nat := 610 + r.toNat

/-- The bits that a register of a key holds. -/
def keyMask (k : Nat) : Word64 :=
  if k < 64 then 0xFFFFFFFFFFFFFFFF else if k < 610 then 0xFFFFFFFF else 1

/-- Registers x0, k0 and p0 (R57). -/
def keyConst (k : Nat) : Option Word64 :=
  if k = 0 then some 0 else if k = 600 then some 0xFFFFFFFF else if k = 610 then some 1 else none

/-- A register's value and mark as they stand. -/
def Ctx.reg (t : Ctx) (k : Nat) : PVal :=
  match keyConst k with
  | some v => ⟨v, false⟩
  | none =>
    match mapFind k t.regs with
    | some v => v
    | none =>
      match t.base with
      | none => ⟨0, false⟩
      | some e => ⟨Config.freeReg e k &&& keyMask k, false⟩

/-- A key whose value or mark is replaced, noted as written (R407). A value of it that another actor of the
context keeps is gone (R10; DESIGN CHOICE, log 5). -/
def Ctx.putReg (t : Ctx) (k : Nat) (v : PVal) : Ctx :=
  match keyConst k with
  | some _ => t
  | none => { t with regs := mapPut k v t.regs, regDirty := setAdd k t.regDirty,
                     regSaved := setDel k t.regSaved, stash := mapDel k t.stash }

/-- A register written at once; the constants discard the write (R57). A key of 1000 + k only marks k
poisoned (R135), and a key of 2000 + 32 n + i writes bit i of k n and keeps its mark (R140). -/
def Ctx.setReg (t : Ctx) (k : Nat) (v : PVal) : Ctx :=
  if k < 1000 then t.putReg k v
  else if k < 2000 then t.putReg (k - 1000) { t.reg (k - 1000) with po := true }
  else
    let n := 600 + (k - 2000) / 32
    let i := (k - 2000) % 32
    let old := t.reg n
    let b : Word64 := BitVec.ofNat 64 (2 ^ i)
    t.putReg n ⟨if v.v = 0 then old.v &&& ~~~b else old.v ||| b, old.po || v.po⟩

/-- Registers written at once, in order. -/
def Ctx.setRegs (t : Ctx) (ws : List (Nat × PVal)) : Ctx :=
  ws.foldl (fun t w => t.setReg w.1 w.2) t

/-- Register writes that take effect `lat` cycles after this one (R66). -/
def State.writeRegs (s : State) (lat : Nat) (ws : List (Nat × PVal)) : State :=
  s.setCur { s.cur with pend := s.cur.pend ++ [⟨s.cycle + lat, ws⟩] }

/-- x n of the executing context. -/
def State.x (s : State) (r : XReg) : PVal := s.cur.reg (xKey r)

/-- p n of the executing context. -/
def State.p (s : State) (r : PReg) : PVal := s.cur.reg (pKey r)

/-- k n of the executing context. -/
def State.k (s : State) (r : KReg) : PVal := s.cur.reg (kKey r)

/-- The scalar register that a V-format field names (R79). -/
def scalarOf (r : SReg) : XReg := 0#1 ++ r

/-- A write of x n with a latency. -/
def State.writeX (s : State) (lat : Nat) (d : XReg) (v : Word64) (po : Bool) : State :=
  s.writeRegs lat [(xKey d, ⟨v, po⟩)]

/-- A write of p n with a latency. -/
def State.writeP (s : State) (lat : Nat) (d : PReg) (v po : Bool) : State :=
  s.writeRegs lat [(pKey d, ⟨if v then 1 else 0, po⟩)]

/-- The writes of a context that are due, in order, and those that are not (R66, R67). -/
def Ctx.writeback (t : Ctx) (now : Nat) : Ctx :=
  let due := t.pend.filter fun w => w.due ≤ now
  let t := due.foldl (fun t w => t.setRegs w.writes) t
  { t with pend := t.pend.filter fun w => !(w.due ≤ now) }

/-- The special register values that SRD reads (R127). -/
def State.special (s : State) (r : SpecReg) : Word64 :=
  let t := s.cur
  match r with
  | .fix => t.fix
  | .phs => t.phase.setWidth 64
  | .mde => (s.modeOf s.curCore).setWidth 64
  | .ctx => BitVec.ofNat 64 s.curCtx
  | .core => (s.visibleCore s.curCore).setWidth 64
  | .ldist => t.ldist.setWidth 64
  | .cyc => BitVec.ofNat 64 s.cycle
  | .gkey => t.gkey
  | .gseq => t.gseq
  | .lmax => t.lmax.setWidth 64
  | .tmode => t.tmode.setWidth 64
  | .slast => t.slast.setWidth 64
  | .six0 => t.six0.setWidth 64
  | .six1 => t.six1.setWidth 64
  | .six2 => t.six2.setWidth 64
  | .six3 => t.six3.setWidth 64

/-! ### The agenda (logs 1, 2, 6) -/

/-- An agenda with an event in its place: by due cycle, later entries after earlier ones. -/
def agendaInsert (due : Nat) (i : Instr) : List (Nat × Instr) → List (Nat × Instr)
  | [] => [(due, i)]
  | (d, j) :: a => if due < d then (due, i) :: (d, j) :: a else (d, j) :: agendaInsert due i a

/-- An event due at a cycle. -/
def State.at (s : State) (due : Nat) (i : Instr) : State :=
  { s with agenda := agendaInsert due i s.agenda }

/-- An event after an open delay of at least `lo` cycles (log 2). -/
def State.later (s : State) (lo : Nat) (i : Instr) : State :=
  { (s.at (s.cycle + lo + Config.delay s.fresh) i) with fresh := s.fresh + 1 }

/-- An event after an open delay of `lo` to `hi` cycles. -/
def State.within (s : State) (lo hi : Nat) (i : Instr) : State :=
  { (s.at (s.cycle + min (lo + Config.delay s.fresh) hi) i) with fresh := s.fresh + 1 }

/-- An event that must wait is tried again in the next cycle. -/
def State.retry (s : State) (i : Instr) : State := s.at (s.cycle + 1) i

/-- A new operation number. -/
def State.newId (s : State) : State := { s with nextId := s.nextId + 1 }

/-! ### The return queue (R69 to R72) -/

/-- A deferred instruction's entry, filled by operation `id`. -/
def State.pushEntry (s : State) (id : Nat) (mem : Bool) : State :=
  s.setCur { s.cur with rq := s.cur.rq ++ [⟨id, false, {}, mem⟩] }

/-- An entry's value arrives. -/
def arriveEntry (id : Nat) (v : PVal) : List RqEntry → List RqEntry
  | [] => []
  | e :: q => if e.id = id then { e with arrived := true, val := v } :: q else e :: arriveEntry id v q

/-- A deferred result arrives in its context's queue and no longer holds it (R69, R199). -/
def State.arrive (s : State) (c x id : Nat) (v : PVal) : State :=
  let t := s.ctx c x
  s.setCtx c x { t with rq := arriveEntry id v t.rq, acq := setDel id t.acq }

/-- Every deferred result has arrived (R72). -/
def Ctx.allArrived (t : Ctx) : Bool := t.rq.all (·.arrived)

/-- The return queue is full (R71). -/
def Ctx.rqFull (t : Ctx) : Bool := 8 ≤ t.rq.length

/-! ### The range scoreboard (R173, R184, R187, R192, R226) -/

/-- Two ranges share a byte. -/
def overlaps (a n b m : Nat) : Bool := a < b + m && b < a + n

/-- R173: an access to a range is held by an entry of the scoreboard. -/
def Core.rangeHeld (k : Core) (lo len : Nat) (write : Bool) : Bool :=
  k.score.any fun e => (e.write || write) && overlaps e.lo e.len lo len

/-- R61: the range rule for an address; one outside the store overlaps no range. -/
def Core.addrHeld (k : Core) (a : Word64) (len : Nat) (write : Bool) : Bool :=
  len != 0 && a.toNat + len ≤ 2 ^ 17 && k.rangeHeld a.toNat len write

/-- All 8 entries are taken. -/
def Core.noEntry (k : Core) : Bool := 8 ≤ (k.score.filter (·.slot)).length

/-- A range enters the scoreboard of the executing core. -/
def State.addRange (s : State) (id lo len : Nat) (write slot : Bool) : State :=
  s.setCurK { s.curK with score := s.curK.score ++ [⟨id, lo, len, write, slot⟩] }

/-- The ranges of an operation leave a core's scoreboard. -/
def State.dropRanges (s : State) (c id : Nat) : State :=
  s.setCore c { s.core c with score := (s.core c).score.filter (·.id != id) }

/-! ### The determinism cause record (R465 to R467) -/

/-- An event in the record's list: counted in its entry, or in a new one, or not held. -/
def detAdd (code ctx : BitVec 8) (core pc : BitVec 16) (first : BitVec 32) :
    List DetEntry → Option (List DetEntry)
  | [] => none
  | e :: es =>
    if e.code = code ∧ e.ctx = ctx ∧ e.core = core ∧ e.pc = pc then
      some ({ e with count := if e.count = BitVec.allOnes 32 then e.count else e.count + 1 } :: es)
    else (detAdd code ctx core pc first es).map (e :: ·)

/-- The identities that words keep, in the machine and in the notes of halls written out (R410, R466), each
mapped or dropped. -/
def State.mapAtoms (s : State) (f : AtomId → Option AtomId) : State :=
  let go := fun (m : List (Nat × AtomId)) => m.filterMap fun e => (f e.2).map fun a => (e.1, a)
  { s with atoms := go s.atoms,
           loads := s.loads.map fun e =>
             (e.1, { e.2 with halls := e.2.halls.map fun x => { x with atoms := go x.atoms } }) }

/-- An epoch of a load ends: no word keeps the identity of a firing of it (R466). -/
def State.endEpoch (s : State) (h : Nat) : State :=
  s.mapAtoms fun a => if a.load = some h then none else some a

/-- An event enters a load's record (R467). -/
def State.detEvent (s : State) (h : Nat) (code ctx : BitVec 8) (core pc : BitVec 16)
    (first : BitVec 32) : State :=
  let l := s.loadAt h
  match detAdd code ctx core pc first l.det with
  | some d => s.setLoad h { l with det := d }
  | none =>
    if l.det.length < 16 then
      s.setLoad h { l with det := l.det ++ [⟨code, ctx, core, pc, 1, first⟩] }
    else s.setLoad h { l with overflow := l.overflow + 1 }

/-- R301: an elastic firing's side effect, entered once a firing. -/
def State.elasticEffect (s : State) : State :=
  let t := s.cur
  match s.curK.load with
  | some h =>
    if bitAt (s.actorWord s.curCore t.actor 0) 57 && !t.elastic && t.run == .firing then
      (s.setCur { t with elastic := true }).detEvent h 3 (BitVec.ofNat 8 s.curCtx)
        ((s.visibleCore s.curCore).setWidth 16) (t.pc.setWidth 16) (t.fix.setWidth 32)
    else s
  | none => s

/-! ### Faults (R97, R454 to R462, R483) -/

/-- A fault with what its rule puts into the record (R454, R461). -/
structure FaultInfo where
  code : Nat
  detail : Word64 := 0
  /-- UNIT: kind 1 window, 2 stage queue, 3 stream or descriptor; number -/
  kind : Nat := 0
  unit : Nat := 0
  token : Nat := 0
  decl : Nat := 0
  act : Nat := 0
  /-- the load that a system form named (R458) -/
  named : Option Nat := none
deriving DecidableEq, Repr

/-- The codes of R454. -/
def codeIllegal : Nat := 1
def codePriv : Nat := 2
def codeBound : Nat := 3
def codeAlign : Nat := 4
def codeRange : Nat := 5
def codeRate : Nat := 6
def codeOverrun : Nat := 7
def codePending : Nat := 8
def codeStub : Nat := 9
def codeClosed : Nat := 10
def codePoison : Nat := 11
def codePage : Nat := 12
def codeArc : Nat := 13
def codeHang : Nat := 14
def codeTrap : Nat := 15
def codeReject : Nat := 16

/-- The class of a code (R454). -/
def faultClass (code : Nat) : Nat :=
  if code < 4 then 0 else if code < 6 then 1 else if code < 10 then 2 else if code = 10 then 3
  else if code = 11 then 4 else if code < 15 then 5 else if code = 15 then 6 else 7

/-- Whether ERET resume restarts a load stopped by a code (R454). -/
def resumable (code : Nat) : Bool := code == codePage || code == codeArc

/-- RANGE of the scalar forms (R133). -/
def scalarRange (cause : Nat) (operand : Word64) : FaultInfo :=
  { code := codeRange, detail := BitVec.ofNat 64 (cause + 2 ^ 32 * bits operand 0 32) }

/-- POISON of an x register (R134). -/
def poisonX (r : XReg) : FaultInfo := { code := codePoison, detail := r.setWidth 64 }

/-- POISON of a predicate (R134). -/
def poisonP (p : PReg) : FaultInfo :=
  { code := codePoison, detail := BitVec.ofNat 64 (32 + p.toNat) }

/-- POISON of a tile-store word (R214). -/
def poisonTile (addr : Nat) : FaultInfo :=
  { code := codePoison, detail := BitVec.ofNat 64 (96 + 2 ^ 32 * (addr % 2 ^ 32)) }

/-- The detail word of R214. -/
def memDetail (cause unit addr : Nat) : Word64 :=
  BitVec.ofNat 64 (cause + 2 ^ 16 * unit + 2 ^ 32 * (addr % 2 ^ 32))

/-- ALIGN by R214. -/
def alignFault (addr : Word64) : FaultInfo :=
  { code := codeAlign, detail := memDetail 0 0 addr.toNat }

/-- RANGE by R214. -/
def rangeFault (cause unit : Nat) (addr : Word64) : FaultInfo :=
  { code := codeRange, detail := memDetail cause unit addr.toNat }

/-- STUB_VIOLATION (R219). -/
def stubFault (w : Word32) : FaultInfo := { code := codeStub, detail := w.setWidth 64 }

/-- ILLEGAL_OP of one word or two (R81, R97). -/
def illegalFault (w w2 : Word32) : FaultInfo :=
  { code := codeIllegal, detail := w2 ++ w }

/-- PRIV (R97); its detail word is left to zero by R461. -/
def privFault : FaultInfo := { code := codePriv }

/-- The first condition that holds. -/
def firstFault : List (Bool × FaultInfo) → Option FaultInfo
  | [] => none
  | (b, f) :: fs => if b then some f else firstFault fs

/-- The mask bit of an MSI-X vector: bit 32 of the second word of its table entry, set after power
(log 22). -/
def State.msixMasked (s : State) (v : Nat) : Bool :=
  s.msixFunctionMask || bitAt (mapGet 0x100000000 (2 * v + 1) s.msixTable) 32

/-- R438: a vector is raised. -/
def State.raiseMsix (s : State) (v : Nat) : State :=
  if s.msixMasked v then { s with msixPending := setAdd v s.msixPending }
  else { s with hostOut := s.hostOut ++ [.msix v] }

/-- WIDX of a wing's fault log (R459). -/
def State.logIndex (s : State) (wing : Nat) : Nat := bits (s.sysCfg wing 2321) 32 16

/-- Whether a wing's log takes a record: one that would make (WIDX − RIDX) mod 2^16 exceed 64 is not written
(R459, R460). -/
def State.logOpen (s : State) (wing : Nat) : Bool :=
  let w := s.sysCfg wing 2321
  bitAt (s.sysCfg wing 2320) 63 && (bits w 32 16 + 1 + 2 ^ 16 - bits w 0 16) % 2 ^ 16 ≤ 64

/-- R460: a record of 64 bytes goes to the next slot of a wing's fault log, each word set full, or is
counted in LOST. -/
def State.logRecord (s : State) (wing : Nat) (record : List Byte) : State :=
  let w := s.sysCfg wing 2321
  if s.logOpen wing then
    let n := bits w 32 16
    let key := galleryKey wing ((bits (s.sysCfg wing 2320) 0 26 + 64 * (n % 64)) % 2 ^ 26)
    ((s.storeMarked key record []).setFull key 64).setSysCfg wing 2321 (withBits w 32 16 (n + 1))
  else
    s.setSysCfg wing 2321
      (if bits w 48 16 = 0xFFFF then w else withBits w 48 16 (bits w 48 16 + 1))

/-- Where and in what a fault arises, for the record of R461. -/
structure FaultPlace where
  wing : Nat
  flags : Nat
  load : Nat
  core : Nat
  ctx : Nat := 0
  phase : Nat := 0
  mode : Nat := 0
  pc : Nat := 0
  fix : Word64 := 0
  phys : Nat
deriving DecidableEq, Repr

/-- The primary record of R461. -/
def primaryRecord (p : FaultPlace) (f : FaultInfo) (cyc seq : Nat) : List Byte :=
  natToBytes 1 f.code ++ natToBytes 1 (faultClass f.code) ++ natToBytes 1 p.flags ++
  natToBytes 1 p.load ++ natToBytes 2 p.core ++
  natToBytes 1 (p.ctx + 4 * p.phase + 32 * p.mode) ++ natToBytes 1 0 ++
  natToBytes 2 p.pc ++ natToBytes 2 (f.kind * 2 ^ 14 + f.unit) ++ natToBytes 4 f.token ++
  natToBytes 8 p.fix.toNat ++ natToBytes 4 f.decl ++ natToBytes 4 f.act ++
  natToBytes 8 f.detail.toNat ++ natToBytes 8 cyc ++ natToBytes 4 seq ++
  natToBytes 4 p.phys ++ natToBytes 8 0

/-- Sixteen 12-bit counts packed into 24 bytes (R462). -/
def packCounts (m : List (Nat × Nat)) : List Byte :=
  natToBytes 24 ((steps 0 1 16).foldl (fun a w => a + mapGet 0 w m % 2 ^ 12 * 2 ^ (12 * w)) 0)

/-- The continuation record of R462. -/
def continuationRecord (t : Ctx) (seq : Nat) : List Byte :=
  natToBytes 4 0 ++ natToBytes 4 seq ++ packCounts t.sent ++ packCounts t.freed ++
  natToBytes 1 ((if t.claimMade then 1 else 0) + (if t.putMade then 2 else 0)) ++ natToBytes 7 0

/-- PHYS of a core or of a hall's units (R461, R483). -/
def physOf (c : Nat) : Nat := wingOfCore c + (hallOfCore c % 128) * 4 + (c % 32) * 512

/-- A primary record, its continuation record, and vector 64 after each that is written (R460). -/
def State.logFault (s : State) (p : FaultPlace) (f : FaultInfo) (more : Option Ctx) : State :=
  let seq := s.logIndex p.wing
  let sent := fun (a b : State) => if a.logOpen p.wing then b.raiseMsix 64 else b
  let s1 := s.logRecord p.wing (primaryRecord p f s.cycle seq)
  let s1 := sent s s1
  match more with
  | none => s1
  | some t => sent s1 (s1.logRecord p.wing (continuationRecord t seq))

/-- A result area is written, with the marks of its words, and released (R226). -/
def State.writeResult (s : State) (id : Nat) (data : List Byte) (po : List Nat := []) : State :=
  match mapFind id s.results with
  | none => s
  | some r =>
    let s := s.storeMarked (tileKey r.core r.area) data po
    let s := s.dropRanges r.core id
    let t := s.ctx r.core r.ctx
    let s := s.setCtx r.core r.ctx { t with areas := setDel id t.areas }
    { s with results := mapDel id s.results }

/-- PREQ results of a load that can no longer park report status 3 (R232). -/
def State.failPreqs (s : State) (h : Nat) : State :=
  let l := s.loadAt h
  (l.preqs.foldl (fun s q => s.writeResult q.2.2 (natToBytes 8 3)) s).setLoad h
    { l with preqs := [] }

/-- A fault of a load in this cycle is not its first: the load stops, or is frozen, for one of an earlier cycle
(R457). Of several first faults of one cycle none is second (DEDUCED, log 109). -/
def State.secondFault (s : State) (h : Nat) : Bool :=
  let l := s.loadAt h
  l.code.isSome && l.stopAt != s.cycle &&
    (l.state == .stopping || l.state == .stopped || l.state == .frozen)

/-- The launch of a load ends with STATUS 1 and a fault's code (R357, R455). -/
def State.launchFaults (s : State) (h code : Nat) : State :=
  match (s.loadAt h).launch with
  | none => s
  | some n =>
    match mapFind n s.launches with
    | none => s
    | some t =>
      if t.status.isSome then s
      else
        { s with launches := mapPut n { t with status := some (1, code, 0) } s.launches }.later 1
          .completionWord

/-- R455: a load begins to stop with a code; the stop flag goes to each of its cores within 200
cycles. A stop in progress keeps its first code. A load that a FRZ has frozen without a fault has its first one
now, and its launch reports it. -/
def State.stopLoad (s : State) (h code : Nat) : State :=
  let l := s.loadAt h
  match l.state with
  | .running | .preempting | .residentIdle =>
    let s := s.failPreqs h
    let s := s.setLoad h { s.loadAt h with state := .stopping, code := some (BitVec.ofNat 8 code),
                                           stopAt := s.cycle }
    let s := l.cores.foldl (fun s c => s.within 1 200 (.stopFlagArrival c)) s
    s.later 1 .loadStopped
  | .frozen =>
    if l.code.isSome then s
    else (s.setLoad h { l with code := some (BitVec.ofNat 8 code), stopAt := s.cycle }).launchFaults h code
  | _ => s

/-- What a context does when it faults: it stops where it stands (R455); a system-hall context's
actor is restarted by the fault handler, so it is idle again; its register writes in flight take effect when
they are due (R66, R458; DEDUCED, log 16). -/
def Ctx.haltFor (t : Ctx) (system : Bool) : Ctx :=
  if system then { t with run := .idle, rq := [], loops := [], tags := [], acq := [], fence := none }
  else { t with halted := true, faulted := some t.actor }

/-- TAKING A FAULT (R455 to R462): the record, and its continuation record for a firing, go to the
wing's fault log; the context stops; its load stops. `pc`, `fix` and `phase` are what the record
names, and `firing` says whether a firing, a stub or a guard raised it. -/
def State.faultAt (s : State) (c x : Nat) (pc : Nat) (fix : Word64) (phase : Nat) (firing : Bool)
    (f : FaultInfo) : State :=
  let t := s.ctx c x
  let sys := isSystemCore c
  let h := (s.core c).load
  let second := h.any s.secondFault
  let stub := t.run == .stub
  let flags := (if resumable f.code then 1 else 0) + (if firing then 2 else 0) +
    (if stub then 4 else 0) + (if sys then 16 else 0) + (if second then 32 else 0) +
    (if firing then 64 else 0)
  let place : FaultPlace :=
    { wing := wingOfCore c, flags := flags,
      load := match f.named, h with
        | some n, _ => n
        | none, some n => if sys then 0xFF else n
        | none, none => 0xFF,
      core := (s.visibleCore c).toNat, ctx := x, phase := phase, mode := (s.modeOf c).toNat,
      pc := pc, fix := fix, phys := physOf c }
  let s := s.logFault place f (if firing then some t else none)
  let s := s.setCtx c x ((s.ctx c x).haltFor sys)
  match h, sys with
  | some n, false => s.stopLoad n f.code
  | _, _ => s

/-- The executing context faults at its PC. -/
def State.takeFault (f : FaultInfo) (s : State) : State :=
  let t := s.cur
  let s := s.faultAt s.curCore s.curCtx t.pc.toNat t.fix t.phase.toNat true f
  s.setCurK { s.curK with last := BitVec.ofNat 2 s.curCtx }

/-- A record of the executing context for a load that does not stop by it. With CONT set no
continuation record follows; else MORE is set and one does, and SECOND in a load that stops already (R457,
R461, R462). LOAD of a system hall's context is 0xFF, since the form names none (R458). -/
def State.trapWith (s : State) (cont : Bool) (f : FaultInfo) : State :=
  let t := s.cur
  let stub := t.run == .stub
  let second := !cont && s.curK.load.any s.secondFault
  let place : FaultPlace :=
    { wing := wingOfCore s.curCore,
      flags := 2 + (if stub then 4 else 0) + (if cont then 8 else 64) + (if second then 32 else 0) +
        (if isSystemCore s.curCore then 16 else 0),
      load := if isSystemCore s.curCore then 0xFF else s.curK.load.getD 0xFF,
      core := (s.visibleCore s.curCore).toNat, ctx := s.curCtx,
      phase := t.phase.toNat, mode := (s.modeOf s.curCore).toNat, pc := t.pc.toNat, fix := t.fix,
      phys := physOf s.curCore }
  s.logFault place f (if cont then none else some t)

/-- A record that stops nothing: TRAP.N, NLT, EMT (R454). -/
def State.trapRecord (s : State) (f : FaultInfo) : State := s.trapWith true f

/-- The record of a BRK, whose load is then frozen and does not go on (R223, R461, R462). -/
def State.haltRecord (s : State) (f : FaultInfo) : State := s.trapWith false f

/-- A fault outside a context (R483): raised for a load at a hall, in the wing that holds it. -/
def State.faultOutside (s : State) (hk h : Nat) (f : FaultInfo) : State :=
  let second := s.secondFault h
  let core := if isSystemHall hk then 4096 + hk / 128 * 1024
    else hk / 128 * 1024 + s.userOfHall hk * 16
  let place : FaultPlace :=
    { wing := hk / 128, flags := (if resumable f.code then 1 else 0) + (if second then 32 else 0),
      load := h, core := core, phys := physOf (hallUnits hk) }
  (s.logFault place f none).stopLoad h f.code

/-! ### Issue of one instruction (R60 to R64, R73, R76, R97, R124) -/

/-- The executing context runs a firing or a stub and is not parked or stopped (R61). -/
def State.running (s : State) : Bool :=
  s.cur.run != .idle && !s.cur.halted && s.cur.park.isNone

/-- Whether the executing context runs a rebuild stub. -/
def State.inStub (s : State) : Bool := s.cur.run == .stub

/-- The instruction word at the executing context's PC. -/
def State.word (s : State) : Word32 := s.load32 (codeKey s.curCore (4 * s.cur.pc.toNat))

/-- R394: the issue would take LDIST above LMAX. -/
def State.overrun (s : State) : Bool := s.cur.lmax.toNat < s.cur.ldist.toNat + 1

/-- LANDING_OVERRUN (R394). -/
def State.overrunFault (s : State) : FaultInfo :=
  { code := codeOverrun,
    detail := BitVec.ofNat 64 (s.cur.ldist.toNat + 2 ^ 16 * s.cur.lmax.toNat +
      (if s.inStub then 2 ^ 32 else 0)) }

/-- The issue counts toward the landing distance (R76). -/
def State.countIssue (s : State) : State := s.setCur { s.cur with ldist := s.cur.ldist + 1 }

/-- Where the next fetch is from after the instruction at the PC, `len` words long (R60, R73, R74,
R124): a taken transfer's target, the start of the innermost loop, or the next word. -/
def Ctx.stepPc (t : Ctx) (q : Issue) (len : Nat) (target : Option Int) (now : Nat) : Ctx :=
  let goTo := fun (t : Ctx) (n : Int) =>
    { t with prevPc := t.pc, pc := BitVec.ofInt 13 n, wild := !(0 ≤ n && n < 8192) }
  match target with
  | some n => { goTo t n with ready := now + 1 + max q.g.toNat 3 }
  | none =>
    let t := { t with ready := now + 1 + q.g.toNat }
    match t.loops with
    | e :: es =>
      if e.stop = t.pc.toNat then
        if 1 < e.remaining.toNat then
          goTo { t with loops := { e with remaining := e.remaining - 1 } :: es } e.start
        else goTo { t with loops := es } (t.pc.toNat + len)
      else goTo t (t.pc.toNat + len)
    | [] => goTo t (t.pc.toNat + len)

/-- R64: the other contexts no longer wait for the context that issues. -/
def Ctx.served (t : Ctx) (x : Nat) : Ctx :=
  match t.yieldFor with
  | some l =>
    let l := setDel x l
    if l = [] then { t with yielding := false, yieldFor := none } else { t with yieldFor := some l }
  | none => t

/-- The issue itself: PC, gap, yield, stall counter, and the arbiter's number (R62 to R64, R463). -/
def State.advance (s : State) (q : Issue) (len : Nat) (target : Option Int) : State :=
  let t := s.cur.stepPc q len target s.cycle
  let t := { t with stall := 0, yielding := q.y || s.cur.yielding, yieldNew := q.y }
  let k := s.curK.setCtx s.curCtx t
  let k := { k with c0 := if s.curCtx = 0 then k.c0 else k.c0.served s.curCtx,
                    c1 := if s.curCtx = 1 then k.c1 else k.c1.served s.curCtx,
                    c2 := if s.curCtx = 2 then k.c2 else k.c2.served s.curCtx,
                    c3 := if s.curCtx < 3 then k.c3.served s.curCtx else k.c3,
                    last := BitVec.ofNat 2 s.curCtx }
  s.setCurK k

/-- An instruction that meets neither hold nor fault: its effect, then the issue. -/
def State.complete (s : State) (q : Issue) (len : Nat) (target : Option Int)
    (eff : State → State) : State :=
  (eff s.countIssue).advance q len target

/-- THE ISSUE OF AN INSTRUCTION (R61, R97): held, it changes nothing; faulting, it takes its first
fault; over the landing distance, it takes LANDING_OVERRUN; else it completes. -/
def issue (q : Issue) (len : Nat) (hold : Bool) (flt : Option FaultInfo) (target : Option Int)
    (eff : State → State) (s : State) : Answer :=
  if !s.running || hold then .next s
  else
    match flt with
    | some f => .next (s.takeFault f)
    | none =>
      if s.overrun then .next (s.takeFault s.overrunFault)
      else .next (s.complete q len target eff)

/-- The issue of a landing (FEND, LAND, LDF, RESUME), which never raises LANDING_OVERRUN and leaves
LDIST to its effect (R215, R217, R393). `post` acts after the issue: parking or ending the firing. -/
def issueLanding (q : Issue) (len : Nat) (hold : Bool) (flt : Option FaultInfo)
    (target : Option Int) (eff post : State → State) (s : State) : Answer :=
  if !s.running || hold then .next s
  else
    match flt with
    | some f => .next (s.takeFault f)
    | none => .next (post ((eff s).advance q len target))

/-- R97 step 3: a system form outside a system hall. -/
def State.privFaultOf (s : State) : Bool × FaultInfo := (!isSystemCore s.curCore, privFault)

/-- R97 step 2: a matrix form in a context that does not own the matrix (R59). -/
def State.matrixFaultOf (s : State) : Bool × FaultInfo :=
  (!s.ownsMatrix s.curCore s.curCtx, illegalFault s.word 0)

end Sys2Proof.Machine
end

