-- ==== Sys2Proof/Machine/Graph.lean ====
section
/-!
DEFINITION. The configured objects that several families read: window descriptors (R249 to R251),
trigger entries (R240), live maps (R390), stage-queue descriptors and homes (R294, R295), and the
operations in flight that a fence, a release or an acquire waits for (R199, R205, R280).
-/

namespace Sys2Proof.Machine

/-! ### Window descriptors -/

/-- Word i of window descriptor w of a core. -/
def State.win (s : State) (c w i : Nat) : Word64 := s.cfgAt c 2 (4 * w + i)

/-- Word i of window descriptor w of a core replaced. -/
def State.setWin (s : State) (c w i : Nat) (v : Word64) : State := s.setCfg c 2 (4 * w + i) v

/-- END of a descriptor: 1 consumer end, 2 producer end. -/
def State.winEnd (s : State) (c w : Nat) : Nat := bits (s.win c w 0) 37 2

/-- A consumer end. -/
def State.isConsumer (s : State) (c w : Nat) : Bool := s.winEnd c w == 1

/-- A producer end. -/
def State.isProducer (s : State) (c w : Nat) : Bool := s.winEnd c w == 2

/-- ACTOR of a descriptor. -/
def State.winActor (s : State) (c w : Nat) : Nat := bits (s.win c w 0) 39 3

/-- Token size in bytes. -/
def State.winSize (s : State) (c w : Nat) : Nat := 32 * (bits (s.win c w 0) 29 8 + 1)

/-- CAP of a descriptor. -/
def State.winCap (s : State) (c w : Nat) : Nat := bits (s.win c w 0) 17 12

/-- BASE of a consumer end. -/
def State.winBase (s : State) (c w : Nat) : Nat := bits (s.win c w 0) 0 17

/-- SCOPE of a descriptor; codes above 4 read as .s. -/
def State.winScope (s : State) (c w : Nat) : Scope :=
  (Scope.ofCode (BitVec.ofNat 3 (bits (s.win c w 0) 50 3))).getD .s

/-- CLOSED of a descriptor. -/
def State.winClosed (s : State) (c w : Nat) : Bool := bitAt (s.win c w 0) 53

/-- FANX of a descriptor. -/
def State.winFan (s : State) (c w : Nat) : Nat := bits (s.win c w 0) 54 2

/-- CMT of a consumer end. -/
def State.cmt (s : State) (c w : Nat) : Nat := bits (s.win c w 1) 32 32

/-- RD of a consumer end. -/
def State.rd (s : State) (c w : Nat) : Nat := bits (s.win c w 1) 0 32

/-- SENT of a producer end. -/
def State.sentOf (s : State) (c w : Nat) : Nat := bits (s.win c w 1) 32 32

/-- CRED k of a producer end (R250). -/
def State.cred (s : State) (c w k : Nat) : Nat :=
  if k = 0 then bits (s.win c w 2) 0 32
  else if k = 1 then bits (s.win c w 2) 32 32
  else if k = 2 then bits (s.win c w 3) 0 32
  else bits (s.win c w 3) 32 32

/-- CRED k of a producer end replaced. -/
def State.setCred (s : State) (c w k v : Nat) : State :=
  if k = 0 then s.setWin c w 2 (withBits (s.win c w 2) 0 32 v)
  else if k = 1 then s.setWin c w 2 (withBits (s.win c w 2) 32 32 v)
  else if k = 2 then s.setWin c w 3 (withBits (s.win c w 3) 0 32 v)
  else s.setWin c w 3 (withBits (s.win c w 3) 32 32 v)

/-- A difference of sequence counts (R250). -/
def seqDiff (a b : Nat) : Nat := (a + 2 ^ 32 - b % 2 ^ 32) % 2 ^ 32

/-- Tokens a consumer end holds. -/
def State.heldTokens (s : State) (c w : Nat) : Nat := seqDiff (s.cmt c w) (s.rd c w)

/-- Tokens the slowest consumer of a producer end has not credited (R251). -/
def State.uncredited (s : State) (c w : Nat) : Nat :=
  (steps 0 1 (s.winFan c w + 1)).foldl (fun m k => max m (seqDiff (s.sentOf c w) (s.cred c w k))) 0

/-- free(w) (R251). -/
def State.freeSlots (s : State) (c w : Nat) : Nat := s.winCap c w - s.uncredited c w

/-- SHADOW (R251): SENT less the tokens not credited. -/
def State.shadow (s : State) (c w : Nat) : Nat := seqDiff (s.sentOf c w) (s.uncredited c w)

/-- The 16 window numbers. -/
def windows : List Nat := steps 0 1 16

/-! ### Trigger entries -/

/-- Trigger entry e of a core. -/
def State.entry (s : State) (c e : Nat) : Word64 := s.cfgAt c 3 e

/-- CTX of an entry. -/
def entryCtx (w : Word64) : Nat := bits w 6 2

/-- ACTOR of an entry. -/
def entryActor (w : Word64) : Nat := bits w 8 3

/-- PHASE of an entry. -/
def entryPhase (w : Word64) : Nat := bits w 11 3

/-- START of an entry. -/
def entryStart (w : Word64) : Nat := bits w 28 13

/-- VALID of an entry. -/
def entryValid (w : Word64) : Bool := bitAt w 0

/-- ELAS of an actor record. -/
def State.elastic (s : State) (c a : Nat) : Bool := bitAt (s.actorWord c a 0) 57

/-- PHC of an actor record. -/
def State.phc (s : State) (c a : Nat) : Nat := bits (s.actorWord c a 0) 30 3

/-- FCNT and TGT of an actor record. -/
def State.fcnt (s : State) (c a : Nat) : Nat := bits (s.actorWord c a 2) 0 32
def State.tgt (s : State) (c a : Nat) : Nat := bits (s.actorWord c a 2) 32 32

/-- QPH bit of a phase. -/
def State.usesQueues (s : State) (c a p : Nat) : Bool := bitAt (s.actorWord c a 3) (12 + p)

/-- The input queue of an actor. -/
def State.queueIn (s : State) (c a : Nat) : Option Nat :=
  let w := s.actorWord c a 3
  if bitAt w 5 then some (bits w 0 5) else none

/-- The output queue of an actor. -/
def State.queueOut (s : State) (c a : Nat) : Option Nat :=
  let w := s.actorWord c a 3
  if bitAt w 11 then some (bits w 6 5) else none

/-- RTD of an actor. -/
def State.retired (s : State) (c a : Nat) : Bool := bitAt (s.actorWord c a 3) 63

/-! ### Live maps (R388 to R391) -/

/-- Register keys of a live map's bit. -/
def liveKeys (m : Word64) : List Nat :=
  ((steps 1 1 31).filter fun n => bitAt m (n - 1)) ++
  ((steps 0 1 16).filter fun n => bitAt m (31 + n)).flatMap (fun n => steps (64 + 32 * n) 1 32) ++
  (((steps 1 1 3).filter fun n => bitAt m (46 + n)).map (600 + ·)) ++
  (((steps 1 1 7).filter fun n => bitAt m (49 + n)).map (610 + ·))

/-- An actor's keep map (R388). -/
def State.keepMap (s : State) (c a : Nat) : Word64 := s.cfgAt c 4 (bits (s.actorWord c a 0) 33 12)

/-- Landing entry n of an actor: live map and second word (R388, R389). -/
def State.landing (s : State) (c a n : Nat) : Word64 × Word64 :=
  let b := bits (s.actorWord c a 0) 33 12
  (s.cfgAt c 4 (b + 1 + 2 * n), s.cfgAt c 4 (b + 2 + 2 * n))

/-- LTN of an actor. -/
def State.landings (s : State) (c a : Nat) : Nat := bits (s.actorWord c a 0) 45 9

/-- The keep words of every actor of a context, together (R391). -/
def State.keepUnion (s : State) (c x : Nat) : Word64 :=
  (s.actorsOf c).foldl
    (fun m a => if bits (s.actorWord c a 0) 55 2 = x then m ||| s.keepMap c a else m) 0

/-! ### Stage queues (R294, R295) -/

/-- Word i of queue q's descriptor in a hall. A system hall uses those words for its wing's balance unit and
nothing else, so it has no descriptor (R304). -/
def State.queueWord (s : State) (hk q i : Nat) : Word64 :=
  if isSystemHall hk then 0 else s.hallCfg hk (384 + 4 * q + i)

/-- Slot count of a queue. -/
def State.queueSlots (s : State) (hk q : Nat) : Nat := bits (s.queueWord hk q 0) 51 12 + 1

/-- Token size of a queue. -/
def State.queueSize (s : State) (hk q : Nat) : Nat := 32 * (bits (s.queueWord hk q 0) 43 8 + 1)

/-- Key of slot j's state word, and of its token (R295). -/
def slotKey (home j : Nat) : Nat := home + 64 + 8 * j
def tokenKey (home slots size j : Nat) : Nat := home + (64 + 8 * slots + 63) / 64 * 64 + size * j

/-- HOME of a queue. -/
def State.homeAddr (s : State) (hk q : Nat) : Word64 := BitVec.ofNat 64 (bits (s.queueWord hk q 0) 0 40)

/-- A declared queue: VALID, with the whole of its bytes at a well-formed address (R295, R486). -/
def State.queueHome (s : State) (hk q : Nat) : Option Nat :=
  if bitAt (s.queueWord hk q 0) 63 then
    s.sharedKey (s.homeAddr hk q) (tokenKey 0 (s.queueSlots hk q) (s.queueSize hk q) (s.queueSlots hk q))
  else none

/-- CBUF of a queue in a hall. -/
def State.claimBuffer (s : State) (hk q : Nat) : Nat := bits (s.queueWord hk q 1) 0 17

/-- PNE of a queue: its producer is not elastic. -/
def State.queuePne (s : State) (hk q : Nat) : Bool := bitAt (s.queueWord hk q 1) 63

/-- Header words of a queue at its home. -/
def State.qNext (s : State) (home : Nat) : Nat := s.load home 4
def State.qPseq (s : State) (home : Nat) : Nat := s.load (home + 8) 4
def State.qFreed (s : State) (home : Nat) : Nat := s.load (home + 16) 4
def State.qFinal (s : State) (home : Nat) : Nat := s.load (home + 24) 4
def State.qClosed (s : State) (home : Nat) : Bool := s.load (home + 28) 1 % 2 == 1
def State.qDcred (s : State) (home : Nat) : Nat := s.load (home + 32) 4

/-- ST and IDX of slot j. -/
def State.slotSt (s : State) (home j : Nat) : Nat := s.load (slotKey home j + 4) 1 / 4 % 4
def State.slotIdx (s : State) (home j : Nat) : Nat := s.load (slotKey home j) 4

/-- A header or state word written. -/
def State.setWord (s : State) (key v : Nat) : State := s.storeVal key 8 (BitVec.ofNat 64 v) false

/-- Slot j's state word written. -/
def State.setSlot (s : State) (home j st idx : Nat) : State :=
  s.setWord (slotKey home j) (st * 2 ^ 34 + idx % 2 ^ 32)

/-- FILL (R211). -/
def State.qFill (s : State) (home slots : Nat) : Nat :=
  ((steps 0 1 slots).filter fun j => s.slotSt home j == 2).length

/-- A hall of the load that holds a valid descriptor of queue q. -/
def State.queueHall (s : State) (h q : Nat) : Option Nat :=
  (((s.loadAt h).halls.map (·.phys)).filter fun hk => bitAt (s.queueWord hk q 0) 63).head?

/-- A stream of a hall of a load is the load's: in a system hall, which several loads may share, if its
transaction wrote a word of it (R9, R229; DEDUCED, log 122). -/
def Load.hasStream (l : Load) (hk n : Nat) : Bool :=
  !isSystemHall hk || l.sysWords.any fun a => a / 2 ^ 39 == hk && a % 2 ^ 30 / 8 == n

/-- A hall of the load that holds the valid descriptor of its stream n (R271). -/
def State.streamHall (s : State) (h n : Nat) : Option Nat :=
  let l := s.loadAt h
  ((l.halls.map (·.phys)).filter fun hk => bitAt (s.hallCfg hk (8 * n)) 63 && l.hasStream hk n).head?

/-! ### Where a route class leads (R251 to R253, R421) -/

/-- A router's entry of a route class (R253). -/
def State.route (s : State) (hk rc : Nat) : Word64 := mapGet 0 (hk * 256 + rc) s.routes

/-- The user hall number that a hall carries, if it carries one. -/
def State.uhallOf (s : State) (hk : Nat) : Option Nat :=
  let u := bits (s.dmapAt hk) 24 8
  if u < 64 && !isSystemHall hk then some u else none

/-- The router in a mesh direction: 3 north, 2 east, 1 south, 0 west (R253, R421). -/
def State.meshTo (s : State) (hk dir : Nat) : Option Nat :=
  let wing := hk / 128
  if isSystemHall hk then if dir = 1 then s.hallOfUser wing 56 else none
  else
    match s.uhallOf hk with
    | none => none
    | some u =>
      if dir = 3 then
        if u = 56 then some (systemHall wing)
        else if u / 8 < 7 then s.hallOfUser wing (u + 8) else none
      else if dir = 2 then if u % 8 < 7 then s.hallOfUser wing (u + 1) else none
      else if dir = 1 then if 0 < u / 8 then s.hallOfUser wing (u - 8) else none
      else if 0 < u % 8 then s.hallOfUser wing (u - 1) else none

/-- The router at which a packet continues in another wing: that of the same user hall number (R421),
or the system hall for a packet that leaves a system hall (log 25). -/
def State.crossTo (s : State) (hk wing : Nat) : Option Nat :=
  match s.uhallOf hk with
  | some u => s.hallOfUser wing u
  | none => if isSystemHall hk then some (systemHall wing) else none

/-- The routers to which a router's entry of a class passes a packet on. -/
def State.routeNext (s : State) (rc hk : Nat) : List Nat :=
  let e := s.route hk rc
  if !bitAt e 63 then []
  else
    ((steps 0 1 4).filter fun d => bitAt e (16 + d)).filterMap (s.meshTo hk) ++
      (if bitAt e 15 then (s.crossTo hk (bits e 13 2)).toList else [])

/-- The routers that a class reaches from those of a list, each once. -/
def State.spread (s : State) (rc : Nat) : Nat → List Nat → List Nat → List Nat
  | 0, seen, _ => seen
  | n + 1, seen, front =>
    let new := (front.filter fun hk => !seen.contains hk).eraseDups
    if new = [] then seen else s.spread rc n (seen ++ new) (new.flatMap (s.routeNext rc))

/-- The routers that a class reaches from a hall. -/
def State.routersOf (s : State) (rc hk : Nat) : List Nat := s.spread rc 256 [] [hk]

/-- The window descriptors of cores that a class reaches from a hall: core, window. -/
def State.windowEnds (s : State) (rc hk : Nat) : List (Nat × Nat) :=
  (s.routersOf rc hk).flatMap fun r =>
    let e := s.route r rc
    if bitAt e 63 && !isSystemHall r then
      ((steps 0 1 17).filter fun q => bitAt e (32 + q)).map fun q => (r * 32 + q, bits e 56 4)
    else []

/-- The streams that a class reaches from a hall: hall, stream. -/
def State.streamEnds (s : State) (rc hk : Nat) : List (Nat × Nat) :=
  (s.routersOf rc hk).flatMap fun r =>
    let e := s.route r rc
    ((steps 0 1 32).filter fun n =>
      bitAt e 63 && bitAt (s.hallCfg r (8 * n)) 63 &&
        bits (s.hallCfg r (8 * n + 1)) 20 8 == rc &&
        bitAt e (49 + bits (s.hallCfg r (8 * n)) 26 1)).map fun n => (r, n)

/-! ### What is in flight (R199, R205, R273 to R280) -/

/-- A WPUT's token is under way in the package (R187). -/
def State.tokenUnderWay (s : State) (op : Nat) : Bool :=
  s.packets.any fun e => e.2.kind == 0 && e.2.src.isSome && e.2.op == op

/-- Tokens that have left the package and whose commit has not been acknowledged (R205). -/
def State.arcTokens (s : State) : List Nat :=
  (s.ports.flatMap fun e => e.2.unacked).filter fun i => (mapFind i s.acks).isSome

/-- An operation that is not performed yet. -/
def State.inFlight (s : State) (id : Nat) : Bool :=
  (mapFind id s.accs).isSome || (mapFind id s.copies).isSome || (mapFind id s.gcmds).isSome ||
    (mapFind id s.sigs).isSome || s.tokenUnderWay id || s.arcTokens.contains id

/-- Every one of a list of operations has been performed. -/
def State.allPerformed (s : State) (ids : List Nat) : Bool := ids.all fun i => !s.inFlight i

/-- The location of a key lies inside the instance of a scope that holds a core (R277): its own tile
store at .c, its hall's stores at .h, its wing's at .w. -/
def insideScope (sc : Scope) (core key : Nat) : Bool :=
  match sc with
  | .c => isTileKey key && key / 2 ^ 17 % 2 ^ 14 == core
  | .h => (isHallKey key && key / 2 ^ 20 % 512 == hallOfCore core) ||
    (isTileKey key && key / 2 ^ 22 % 512 == hallOfCore core)
  | .w => wingOfKey key == wingOfCore core
  | .p | .s => true

/-- A write or copy of a context, or one that has met the context's own accesses at the egress of
their core: a release of the context covers it (R280; log 9). -/
def ownedBy (core ctx c x : Nat) (atCore : Bool) : Bool :=
  c == core && (x == ctx || atCore)

/-- What a release or fence at a scope waits for, of an operation whose bank or target is a key: below
a wing's scope, only what lies inside the instance; the others pass its egress (R280). -/
def waitsAt (sc : Scope) (core key : Nat) : Bool :=
  match sc with
  | .c | .h => insideScope sc core key
  | .w | .p | .s => true

/-- A freeze has reached a hall of a load (R411). -/
def Load.gated (l : Load) (hk : Nat) : Bool :=
  l.state == .frozen && l.halls.any fun e => e.phys == hk && (e.writtenOut || !e.inPlace)

/-- A freeze has gated the clocks of a core (R411). -/
def State.coreGated (s : State) (c : Nat) : Bool :=
  match (s.core c).load with
  | some h => (s.loadAt h).gated (hallOfCore c)
  | none => false

/-- A freeze has gated the clocks of the bank that an access of a core of the load goes to: a hall store's (R411);
the galleries' go on (log 68). -/
def State.bankGated (s : State) (c key : Nat) : Bool :=
  match (s.core c).load with
  | some h => isHallKey key && (s.loadAt h).gated (key / 2 ^ 20 % 512)
  | none => false

/-- Where a copy writes. -/
def Copy.target (c : Copy) : Nat :=
  match c.kind with
  | .tmovIn | .qclaim => tileKey c.core c.tile
  | .tmovOut | .qput => c.key

/-- Earlier operations that a release or fence of a context at a scope covers and that are not
performed there (R199, R222, R280): the context's own and those that reached the egress of its core,
where they lie inside the instance; from a wing's scope up, all of them and all that its hall's agents
have seen at the hall's egress; its tokens, on arcs until their acknowledgement (DEDUCED, log 9), grammar
commands and signals. -/
def State.covered (s : State) (core ctx : Nat) (sc : Scope) : List Nat :=
  let hallSeen := fun (m : Bool) c => m && hallOfCore c == hallOfCore core && !(sc == .c || sc == .h)
  let accs := s.accs.filter fun e =>
    (ownedBy core ctx e.2.core e.2.ctx e.2.atCore && waitsAt sc core e.2.key) ||
      hallSeen e.2.merged e.2.core
  let copies := s.copies.filter fun e =>
    (ownedBy core ctx e.2.core e.2.ctx e.2.atCore && waitsAt sc core e.2.target) ||
      hallSeen e.2.merged e.2.core
  let tokens := s.packets.filter fun e => e.2.kind == 0 && e.2.src == some (core, ctx)
  let cmds := s.gcmds.filter fun e => e.2.core == core && e.2.ctx == ctx
  let sigs := s.sigs.filter fun e => e.2.core == core && e.2.ctx == ctx
  let away := s.arcTokens.filter fun i => mapGet 0 i s.acks % 2 ^ 16 == 4 * core + ctx
  accs.map (·.1) ++ copies.map (·.1) ++ tokens.map (·.2.op) ++ away ++ cmds.map (·.1) ++ sigs.map (·.1)

/-- A release or fence below a wing's scope lets the covered operations that leave the instance reach
its egress: a later access of the instance's agents to the same word follows them (R280; log 9). -/
def State.mergeOwn (s : State) (core ctx : Nat) (sc : Scope) : State :=
  let own := fun c x (b : Bool) key => ownedBy core ctx c x b && !insideScope sc core key
  match sc with
  | .c =>
    { s with
      accs := s.accs.map fun e =>
        if own e.2.core e.2.ctx e.2.atCore e.2.key then (e.1, { e.2 with atCore := true }) else e,
      copies := s.copies.map fun e =>
        if own e.2.core e.2.ctx e.2.atCore e.2.target then (e.1, { e.2 with atCore := true }) else e }
  | .h =>
    { s with
      accs := s.accs.map fun e =>
        if own e.2.core e.2.ctx e.2.atCore e.2.key then (e.1, { e.2 with merged := true }) else e,
      copies := s.copies.map fun e =>
        if own e.2.core e.2.ctx e.2.atCore e.2.target then (e.1, { e.2 with merged := true }) else e }
  | .w | .p | .s => s

/-- An access of a context follows an operation to the same bytes: its own (R275), one that has
reached the egress of its core, one that has reached the egress of its hall (R280). -/
def follows (core ctx c x : Nat) (merged atCore : Bool) : Bool :=
  ownedBy core ctx c x atCore || (merged && hallOfCore c == hallOfCore core)

/-- Operations on bytes of a range that a context's access follows (R275, R280). -/
def State.priorOn (s : State) (core ctx key n : Nat) : List Nat :=
  ((s.accs.filter fun e => overlaps e.2.key e.2.bytes key n &&
      follows core ctx e.2.core e.2.ctx e.2.merged e.2.atCore).map (·.1)) ++
  ((s.copies.filter fun e => overlaps e.2.key e.2.len key n &&
      follows core ctx e.2.core e.2.ctx e.2.merged e.2.atCore).map (·.1))

/-- Whether acknowledgements are due to a context for an operation below a number (R205). -/
def State.acksBelow (s : State) (core ctx n : Nat) : Bool :=
  s.acks.any fun e => e.1 < n && e.2 % 2 ^ 16 == 4 * core + ctx

/-- A write under way is performed at a scope for a fence of a context (R205, R280): below a wing's
scope it has at least reached the instance's egress. -/
def fencePast (sc : Scope) (core ctx c x : Nat) (merged atCore : Bool) : Bool :=
  match sc with
  | .c => !ownedBy core ctx c x atCore || atCore
  | .h => !ownedBy core ctx c x atCore || merged
  | .w | .p | .s => !follows core ctx c x merged atCore

/-- R205, R222, R280: every memory-class operation of a context below a number, and every write that
it has observed, is performed at a scope. -/
def State.fenceMet (s : State) (core ctx n : Nat) (sc : Scope) : Bool :=
  let t := s.ctx core ctx
  !(s.acksBelow core ctx n) &&
  s.copies.all (fun e => !(e.1 < n && e.2.core == core && e.2.ctx == ctx)) &&
  t.rq.all (fun e => e.arrived || !e.mem || n ≤ e.id) &&
  s.gcmds.all (fun e => !(e.1 < n && e.2.core == core && e.2.ctx == ctx)) &&
  s.sigs.all (fun e => !(e.1 < n && e.2.core == core && e.2.ctx == ctx)) &&
  s.copies.all (fun e => n ≤ e.1 || fencePast sc core ctx e.2.core e.2.ctx e.2.merged e.2.atCore) &&
  s.accs.all (fun e => n ≤ e.1 || fencePast sc core ctx e.2.core e.2.ctx e.2.merged e.2.atCore)

/-- The hold of R193's extension: an acquire or a fence holds a later memory-class instruction. -/
def State.memHeld (s : State) : Bool :=
  let t := s.cur
  !t.acq.isEmpty ||
  (match t.fence with
  | none => false
  | some (n, sc) => !s.fenceMet s.curCore s.curCtx n sc)

end Sys2Proof.Machine
end

