-- ==== Sys2Proof/Machine/Firing.lean ====
section
/-!
DEFINITION. The firing unit (R236 to R248, R257, R298), the start and the end of a firing, landings
and RESUME (R215 to R219, R388 to R399), modes, signals, traps and breaks (R220 to R223, R261 to
R265), and retirement (R256).
-/

namespace Sys2Proof.Machine

/-! ### Packets and messages that the firing unit sends -/

/-- A flit carries one mark for each 32-byte half (R50): the marks of a half's four words go together. -/
def halfMarks (po : List Nat) : List Nat :=
  po.foldl (fun m w => (steps (w / 4 * 4) 1 4).foldl (fun m j => setAdd j m) m) []

/-- A packet leaves a core's hall router (R251, R254). -/
def State.sendPacket (s : State) (p : Packet) : State :=
  let id := s.nextId
  ({ s.newId with
      packets := mapPut id { p with id := id, stamp := id, poison := halfMarks p.poison } s.packets }).later 1
    (.routerForward id)

/-- A freeze begins: PREQs fail, the record takes its event, and each hall in place is reached within
200 cycles (R232, R411, R465). `cause` is the code of a BRK or a hang: it, or that of the stop which the freeze
meets, is what the load's launch reports (R455, R457). -/
def State.beginFreeze (s : State) (h : Nat) (cause : Option Nat) : State :=
  let s := s.failPreqs h
  let s := s.detEvent h 5 0 0 0 0
  let l := s.loadAt h
  let code := l.code.orElse fun _ => cause.map (BitVec.ofNat 8)
  let s := s.setLoad h { l with state := .frozen, code := code,
                                stopAt := if l.code.isSome then l.stopAt else s.cycle }
  let s := (l.halls.filter (·.inPlace)).foldl (fun s e => s.within 1 200 (.freezeArrival h e.phys)) s
  match code with
  | some n => s.launchFaults h n.toNat
  | none => s

/-- A firing started or ended, or a stream completed a token: the load's hang counter returns to 0
(R463). -/
def State.progress (s : State) (h : Option Nat) : State :=
  match h with
  | some n => s.setLoad n { s.loadAt n with hang := 0 }
  | none => s

/-! ### The firing rule -/

/-- A load's cores go on until a flag, or a freeze's arrival, reaches them (R398, R411, R455). -/
def LoadState.goes : LoadState → Bool
  | .running | .preempting | .stopping | .frozen => true
  | _ => false

/-- The load of a core lets its entries fire: the core is armed, with neither flag set (R231, R243,
R398). -/
def State.coreLive (s : State) (c : Nat) : Bool :=
  let k := s.core c
  k.armed && !k.preFlag && !k.stopFlag &&
  (match k.load with
  | some h => (s.loadAt h).state.goes
  | none => isSystemCore c)

/-- A claim is bound to the entry's actor and phase (R298). -/
def State.boundTo (s : State) (c e : Nat) : Bool :=
  match (s.ctx c (entryCtx (s.entry c e))).bound with
  | some (b, _) => b == e
  | none => false

/-- An entry that the firing unit evaluates: valid, its context idle and unparked, after the cycle of a restore
(R218, R243). A move clears
the entries of a stage; a claim that is bound still fires its own (R307). -/
def State.evaluated (s : State) (c e : Nat) : Bool :=
  let w := s.entry c e
  let t := s.ctx c (entryCtx w)
  (entryValid w || s.boundTo c e) && t.run == .idle && t.park.isNone && !t.halted &&
    t.evalFrom ≤ s.cycle && s.coreLive c

/-- PHC equals the entry's phase. -/
def State.phaseTerm (s : State) (c e : Nat) : Bool :=
  let w := s.entry c e
  s.phc c (entryActor w) == entryPhase w

/-- The predicate that MASK selects and that is poisoned (R248): of several, the lowest number (DESIGN CHOICE,
log 120). -/
def State.poisonedGuard (s : State) (c e : Nat) : Option Nat :=
  let w := s.entry c e
  let t := s.ctx c (entryCtx w)
  ((steps 1 1 7).filter fun n => bitAt w (13 + n) && (t.reg (610 + n)).po).head?

/-- The predicates AND MASK are VALUE (R240, R243): a VALUE bit outside MASK is never met. -/
def State.guardTerm (s : State) (c e : Nat) : Bool :=
  let w := s.entry c e
  let t := s.ctx c (entryCtx w)
  (steps 1 1 7).all fun n => ((t.reg (610 + n)).v.getLsbD 0 && bitAt w (13 + n)) == bitAt w (20 + n)

/-- The declared count of window w for an entry's actor and phase. -/
def State.entryRate (s : State) (c e w : Nat) : Nat :=
  s.rate c (s.modeOf c).toNat (entryPhase (s.entry c e)) w

/-- The term of one window end of the entry's actor (R243). -/
def State.windowTerm (s : State) (c e w : Nat) : Bool :=
  if s.winActor c w != entryActor (s.entry c e) then true
  else if s.isConsumer c w then s.entryRate c e w ≤ s.heldTokens c w
  else if s.isProducer c w then s.entryRate c e w ≤ s.freeSlots c w
  else true

/-- The entry needs a claim on its actor's input queue. -/
def State.needsClaim (s : State) (c e : Nat) : Option Nat :=
  let w := s.entry c e
  if s.usesQueues c (entryActor w) (entryPhase w) then s.queueIn c (entryActor w) else none

/-- A context whose bound claim names another entry fires nothing else first (R298). -/
def State.boundElsewhere (s : State) (c e : Nat) : Bool :=
  match (s.ctx c (entryCtx (s.entry c e))).bound with
  | some (b, _) => b != e
  | none => false

/-- A non-elastic producer's guard: put count < FREED + S, as credited to its core (R210, R297). -/
def State.putTerm (s : State) (c e : Nat) : Bool :=
  let w := s.entry c e
  let a := entryActor w
  match s.queueOut c a with
  | none => true
  | some o =>
    if !s.usesQueues c a (entryPhase w) || s.elastic c a || !s.queuePne (hallOfCore c) o then true
    else
      seqDiff (mapGet 0 o (s.core c).puts) (mapGet 0 o (s.core c).credited).toNat <
        s.queueSlots (hallOfCore c) o

/-- The drain term of R243; a granted claim of a stage is fired as usual (R481). -/
def State.drainTerm (s : State) (c e : Nat) : Bool :=
  match (s.core c).load with
  | none => true
  | some h =>
    let l := s.loadAt h
    let a := entryActor (s.entry c e)
    !l.draining || s.elastic c a || (l.targets && s.fcnt c a < s.tgt c a)

/-- Every term of R243 but the claim. -/
def State.readyButClaim (s : State) (c e : Nat) : Bool :=
  s.evaluated c e && s.phaseTerm c e && s.guardTerm c e &&
  windows.all (s.windowTerm c e) && s.putTerm c e && s.drainTerm c e && !s.boundElsewhere c e

/-- R243: an entry is ready. A granted claim fires its entry at the next evaluation, whatever the other terms
have become since its request (R298). -/
def State.entryReady (s : State) (c e : Nat) : Bool :=
  if s.boundTo c e then s.evaluated c e else s.readyButClaim c e && (s.needsClaim c e).isNone

/-- The entry's context has no claim granted, and none on its way (R298). -/
def State.claimless (s : State) (c e : Nat) : Bool :=
  let t := s.ctx c (entryCtx (s.entry c e))
  t.bound.isNone && t.asking.isNone

/-- R257, R299: the window or queue that an entry waits for and that can never serve it: of several windows, the
lowest number, and a window before the queue (DESIGN CHOICE, log 120). -/
def State.closedTerm (s : State) (c e : Nat) : Option FaultInfo :=
  let w := s.entry c e
  let a := entryActor w
  let dead := windows.filter fun n => s.winActor c n == a && s.winClosed c n && !s.windowTerm c e n
  match dead with
  | n :: _ =>
    let consumer := s.isConsumer c n
    some { code := codeClosed, kind := 1, unit := n,
           token := if consumer then s.cmt c n else s.sentOf c n,
           decl := s.entryRate c e n,
           act := if consumer then s.heldTokens c n else s.freeSlots c n }
  | [] =>
    match s.needsClaim c e with
    | none => none
    | some q =>
      match s.queueHome (hallOfCore c) q with
      | none => none
      | some home =>
        if !s.elastic c a && s.claimless c e && s.qClosed home && s.qNext home == s.qFinal home then
          some { code := codeClosed, kind := 2, unit := q, token := s.qNext home, decl := 1 }
        else none

/-- R257: the evaluation finds the entry waiting on a closed end. -/
def State.closedFault (s : State) (c e : Nat) : Option FaultInfo :=
  if s.evaluated c e && s.phaseTerm c e && s.guardTerm c e && !s.entryReady c e then
    s.closedTerm c e else none

/-- The input queue of an entry's actor is closed with every index claimed (R299). -/
def State.claimOver (s : State) (c e : Nat) : Bool :=
  match (s.needsClaim c e).bind (s.queueHome (hallOfCore c)) with
  | some home => s.qClosed home && s.qNext home == s.qFinal home
  | none => false

/-- R298: a claim request is due for an entry; a candidate of a stage that is done retires in its place (R299). -/
def State.claimDue (s : State) (c e : Nat) : Bool :=
  s.readyButClaim c e && (s.needsClaim c e).isSome && s.claimless c e && !s.claimOver c e

/-- R244: the entry that fires in this cycle. -/
def State.chosen (s : State) (c : Nat) : Option Nat :=
  let ready := windows.filter (s.entryReady c)
  match (s.core c).promoted with
  | some e => if ready.contains e then some e else ready.head?
  | none => ready.head?

/-- R244: wait counts and promotion after an evaluation in which `fired` fires. -/
def State.updateWaits (s : State) (c : Nat) (fired : Option Nat) : State :=
  let k := s.core c
  let ev := windows.filter (s.evaluated c)
  if ev = [] then s else
  let ready := windows.filter (s.entryReady c)
  let bump := fun (m : List (Nat × Nat)) e =>
    if ready.contains e && some e != fired then mapPut e (mapGet 0 e m + 1) m else mapDel e m
  let waits := ev.foldl bump k.waits
  let promoted := match k.promoted with
    | some e => if some e == fired || (ev.contains e && !ready.contains e) then none else some e
    | none => none
  let promoted := match promoted with
    | some e => some e
    | none => ((waits.filter fun w => 64 ≤ w.2).map (·.1)).head?
  s.setCore c { k with waits := waits, promoted := promoted }

/-- What the firing unit of a core does next in its evaluation, and whether it then goes on. -/
def State.fireEvent (s : State) (c : Nat) : Option (Instr × Bool) :=
  match (windows.filter fun e => s.evaluated c e && (s.poisonedGuard c e).isSome).head? with
  | some e => some (.guardPoison c e, true)
  | none =>
    match (windows.filter fun e => (s.closedFault c e).isSome).head? with
    | some e => some (.windowClosed c e, true)
    | none =>
      match (windows.filter (s.claimDue c)).head? with
      | some e => some (.claimRequest c e, true)
      | none => (s.chosen c).map fun e => (.firingStart c e, false)

/-! ### The start of a firing (R245) -/

/-- Registers at a firing's start: the actor's kept registers hold, the registers that other actors
of the context keep are out of sight, every other is a free value (R10). -/
def Ctx.dropUnkept (t : Ctx) (mine others : List Nat) (epoch : Nat) : Ctx :=
  let all := t.regs.foldl (fun m e => mapPut e.1 e.2 m) t.stash
  { t with regs := all.filter (fun e => mine.contains e.1),
           stash := all.filter (fun e => others.contains e.1 && !mine.contains e.1),
           base := some epoch }

/-- Registers at a firing's end: the actor's kept registers hold, and so does a register that another actor of
the context keeps, unless this firing has written it, which takes its value away (R10, R120; DESIGN CHOICE,
log 5). -/
def Ctx.endUnkept (t : Ctx) (mine others : List Nat) (epoch : Nat) : Ctx :=
  let kept := t.regs.filter fun e => mine.contains e.1
  let set := t.stash.filter fun e => others.contains e.1
  { t with regs := set.foldl (fun m e => mapPut e.1 e.2 m) kept, stash := [], base := some epoch }

/-- SLAST: bit n is set when the next step of stair n wraps it (R259). -/
def stairWraps (v b st : Nat) : Bool := b ≤ v + st

/-- Stair n's bound and step (R260). -/
def State.stairBound (s : State) (c x n : Nat) : Nat := bits (s.cfgAt c 5 (256 * x + 38 + 2 * n)) 32 32
def State.stairStep (s : State) (c x n : Nat) : Nat := bits (s.cfgAt c 5 (256 * x + 39 + 2 * n)) 0 32

/-- The value of stair n. -/
def Ctx.stair (t : Ctx) (n : Nat) : BitVec 32 :=
  if n = 0 then t.stair0 else if n = 1 then t.stair1 else if n = 2 then t.stair2 else t.stair3

/-- SLAST as the stairs stand. -/
def State.slastOf (s : State) (c x : Nat) : BitVec 4 :=
  let t := s.ctx c x
  let b := fun n => if stairWraps (t.stair n).toNat (s.stairBound c x n) (s.stairStep c x n)
    then 2 ^ n else 0
  BitVec.ofNat 4 (b 0 + b 1 + b 2 + b 3)

/-- The context of a firing that starts. A yield that has not ended is dropped (DESIGN CHOICE, log 100). -/
def State.startCtx (s : State) (c e : Nat) : Ctx :=
  let w := s.entry c e
  let x := entryCtx w
  let a := entryActor w
  let t := s.ctx c x
  let idx := match t.bound with
    | some (_, i) => if (s.needsClaim c e).isSome then some i else none
    | none => none
  let t := t.dropUnkept (liveKeys (s.keepMap c a)) (liveKeys (s.keepUnion c x)) s.fresh
  { t with
    run := .firing, pc := BitVec.ofNat 13 (entryStart w), wild := false,
    ready := s.cycle + 1, ldist := 0, actor := a, phase := BitVec.ofNat 3 (entryPhase w),
    fix := if s.elastic c a then (idx.getD 0).setWidth 64 else s.actorWord c a 1,
    slast := s.slastOf c x,
    six0 := t.stair0, six1 := t.stair1, six2 := t.stair2, six3 := t.stair3,
    freed := [], reserved := [], sent := [], claimMade := false, putMade := false,
    claimIdx := idx, bound := if idx.isSome then none else t.bound,
    loops := [], savedLoops := [], rq := [], yielding := false, yieldNew := false,
    yieldFor := none, stall := 0, elastic := false }

/-- FIRING_START (R245), when the entry is ready. -/
def execFiringStart (core entry : Nat) (s : State) : Answer :=
  if s.entryReady core entry then
    let x := entryCtx (s.entry core entry)
    let s' := s.setCtx core x (s.startCtx core entry)
    .next (({ s' with fresh := s'.fresh + 1 }).progress (s.core core).load)
  else .next s

/-- FIX of a guard fault: the index the firing would have taken (R461). -/
def State.guardFix (s : State) (c e : Nat) : Word64 :=
  let w := s.entry c e
  if s.elastic c (entryActor w) then
    match (s.ctx c (entryCtx w)).bound with
    | some (_, i) => i.setWidth 64
    | none => 0
  else s.actorWord c (entryActor w) 1

/-- A fault that the evaluation of an entry raises: its PC is START (R248, R257). -/
def State.guardFault (s : State) (c e : Nat) (f : FaultInfo) : State :=
  let w := s.entry c e
  let x := entryCtx w
  let t := s.ctx c x
  let s := s.setCtx c x { t with freed := [], reserved := [], sent := [], claimMade := false,
                                 putMade := false }
  let s := s.faultAt c x (entryStart w) (s.guardFix c e) (entryPhase w) true f
  let t := s.ctx c x
  s.setCtx c x { t with faulted := if t.halted then some (entryActor w) else t.faulted }

/-- GUARD_POISON (R53, R248): whatever the other terms of the entry are. -/
def execGuardPoison (core entry : Nat) (s : State) : Answer :=
  if s.evaluated core entry then
    match s.poisonedGuard core entry with
    | some n => .next (s.guardFault core entry (poisonP (BitVec.ofNat 3 n)))
    | none => .next s
  else .next s

/-- WINDOW_CLOSED (R257, R299). -/
def execWindowClosed (core entry : Nat) (s : State) : Answer :=
  match s.closedFault core entry with
  | some f => .next (s.guardFault core entry f)
  | none => .next s

/-- CLAIM_REQUEST (R298): the request leaves for the queue's home. -/
def execClaimRequest (core entry : Nat) (s : State) : Answer :=
  if s.claimDue core entry then
    let x := entryCtx (s.entry core entry)
    let s := s.setCtx core x { s.ctx core x with asking := some entry }
    .next (s.later 1 (.claimDecide core x))
  else .next s

/-! ### Claims at the home (R297, R481) -/

/-- A load's queue homes answer grants to a stage: a drain's pause is over (R481). -/
def State.homeGrants (s : State) (h q : Nat) : Bool :=
  let l := s.loadAt h
  (!l.draining || (l.targets && mapGet 0 (32 * h + q) s.qfcnt < mapGet 0 (32 * h + q) s.qtgt))

/-- Cores and actor records of a load that put into a queue. -/
def State.putters (s : State) (h q : Nat) : List (Nat × Nat) :=
  (s.loadAt h).cores.flatMap fun c =>
    ((s.actorsOf c).filter fun a => s.queueOut c a == some q).map fun a => (c, a)

/-- Cores and actor records of a load that claim from a queue. -/
def State.claimers (s : State) (h q : Nat) : List (Nat × Nat) :=
  (s.loadAt h).cores.flatMap fun c =>
    ((s.actorsOf c).filter fun a => s.queueIn c a == some q).map fun a => (c, a)

/-- A queue is an input of an actor that has faulted, whose inputs the stop flag has frozen: its home denies
every claim (R456). -/
def State.inputFrozen (s : State) (h q : Nat) : Bool :=
  (s.claimers h q).any fun e => (s.core e.1).stopFlag && (steps 0 1 4).any fun x =>
    (s.ctx e.1 x).halted && (s.ctx e.1 x).faulted == some e.2

/-- R297: the decision at the home; the granted index, if it grants. -/
def State.claimGrant (s : State) (c e : Nat) : Option (Nat × Nat × Nat) :=
  let w := s.entry c e
  let hk := hallOfCore c
  match s.needsClaim c e with
  | none => none
  | some q =>
    match s.queueHome hk q with
    | none => none
    | some home =>
      let slots := s.queueSlots hk q
      let j := s.qNext home % slots
      let room := match s.queueOut c (entryActor w) with
        | none => true
        | some o => seqDiff (s.qNext home) (s.qDcred home) < s.queueSlots hk o
      let live := match (s.core c).load with
        | some h => (s.loadAt h).state.goes && !s.inputFrozen h q && (!s.elastic c (entryActor w) || s.homeGrants h q)
        | none => true
      if s.slotSt home j == 2 && s.slotIdx home j == s.qNext home && room && live then
        some (home, j, q)
      else none

/-- Another core's request stands in this cycle and comes first: requests of one cycle are decided
in ascending order of core number (R297). -/
def State.claimBehind (s : State) (c : Nat) : Bool :=
  s.agenda.any fun e => e.1 ≤ s.cycle &&
    (match e.2 with
    | .claimDecide d _ => (s.visibleCore d).toNat < (s.visibleCore c).toNat
    | _ => false)

/-- CLAIM_DECIDE (R297): the home grants NEXT or denies; the answer travels back. -/
def execClaimDecide (core ctx : Nat) (s : State) : Answer :=
  match (s.ctx core ctx).asking with
  | none => .next s
  | some e =>
    if s.claimBehind core then .next (s.at s.cycle (.claimDecide core ctx))
    else
      match s.claimGrant core e with
      | none => .next (s.later 1 (.claimAnswer core ctx false 0))
      | some (home, j, q) =>
        let n := s.qNext home
        let s := (s.setSlot home j 3 n).setWord home ((n + 1) % 2 ^ 32)
        let s := match (s.core core).load, s.elastic core (entryActor (s.entry core e)) with
          | some h, true =>
            { s with qfcnt := mapPut (32 * h + q) (mapGet 0 (32 * h + q) s.qfcnt + 1) s.qfcnt }
          | _, _ => s
        let s := match (s.core core).load with
          | some h => if s.qClosed home && s.qNext home == s.qFinal home
              then s.later 1 .stageRetire else s
          | none => s
        .next (s.later 1 (.claimAnswer core ctx true (BitVec.ofNat 32 n)))

/-- CLAIM_ANSWER (R298): a grant binds the index to the context's entry. -/
def execClaimAnswer (core ctx : Nat) (grant : Bool) (idx : Word32) (s : State) : Answer :=
  let t := s.ctx core ctx
  match t.asking with
  | none => .next s
  | some e =>
    .next (s.setCtx core ctx
      { t with asking := none, bound := if grant then some (e, idx) else t.bound })

/-! ### Retirement (R256, R299) -/

/-- The close packet of one end of an actor that retires (R256). Its SEQ is SENT from a producer end and 0 from a
consumer end (DESIGN CHOICE, log 119). A constant window is a consumer end as any other is (R300; log 49). -/
def State.sendClose (s : State) (c w : Nat) : State :=
  let h := (s.core c).load.getD 31
  let d := s.win c w 0
  let p : Packet :=
    { id := 0, load := h, rc := 0, kind := 2, fan := 0, size := BitVec.ofNat 8 (bits d 29 8),
      seq := 0, data := [], poison := [], hall := hallOfCore c }
  if s.isProducer c w then
    s.sendPacket { p with rc := BitVec.ofNat 8 (bits d 42 8), seq := BitVec.ofNat 32 (s.sentOf c w) }
  else if s.isConsumer c w then
    s.sendPacket { p with rc := BitVec.ofNat 8 (bits (s.win c w 2) 0 8),
                          fan := BitVec.ofNat 2 (s.winFan c w) }
  else s

/-- R256: an actor retires: RTD, its entries cleared, a close packet from each of its ends, and for a
queue producer the close message (R299). -/
def State.retireActor (s : State) (c a : Nat) : State :=
  let s := s.setActorWord c a 3 (s.actorWord c a 3 ||| BitVec.ofNat 64 (2 ^ 63))
  let s := (windows.filter fun e => entryActor (s.entry c e) == a && entryValid (s.entry c e)).foldl
    (fun s e => s.setCfg c 3 e (withBits (s.entry c e) 0 1 0)) s
  let s := (windows.filter fun w => s.winActor c w == a && (s.isProducer c w || s.isConsumer c w)).foldl
    (fun s w => s.sendClose c w) s
  match s.queueOut c a, (s.core c).load with
  | some q, some h =>
    if s.elastic c a then s
    else s.later 1 (.queueClose h q (BitVec.ofNat 32 (mapGet 0 q (s.core c).puts)))
  | _, _ => s

/-! ### The end of a firing (R215, R216, R246, R258) -/

/-- The waits of R215, with the TMOV tags of a set (R217). -/
def State.landingWaits (s : State) (tags : Nat → Bool) : Bool :=
  let t := s.cur
  t.allArrived && t.pend.isEmpty && t.areas.isEmpty &&
  (!s.ownsMatrix s.curCore s.curCtx || s.curK.mq.isEmpty) &&
  t.tags.all fun g => !tags g.1

/-- LANDING_PENDING (R72). -/
def State.pendingFault (s : State) : Bool × FaultInfo :=
  (!s.cur.rq.isEmpty, { code := codePending, detail := BitVec.ofNat 64 s.cur.rq.length })

/-- The count that the running phase declares for a window (R215). -/
def State.declared (s : State) (w : Nat) : Nat :=
  if s.winActor s.curCore w = s.cur.actor then
    s.rate s.curCore (s.modeOf s.curCore).toNat s.cur.phase.toNat w
  else 0

/-- R216: a window whose count falls short or over. -/
def State.windowMismatch (s : State) (w : Nat) : Bool × FaultInfo :=
  let c := s.curCore
  let reached := if s.isConsumer c w then mapGet 0 w s.cur.freed else mapGet 0 w s.cur.sent
  ((s.isConsumer c w || s.isProducer c w) && reached != s.declared w,
   { code := codeRate, detail := memDetail 6 w (if s.isConsumer c w then 0 else 1), kind := 1,
     unit := w, token := if s.isConsumer c w then s.rd c w else s.sentOf c w,
     decl := s.declared w, act := reached })

/-- The queue index of the running firing for its input and its output queue (R210). -/
def State.indexIn (s : State) : Nat :=
  if s.elastic s.curCore s.cur.actor then (s.cur.fix.setWidth 32 : Word32).toNat
  else (s.cur.claimIdx.getD 0).toNat
def State.indexOut (s : State) (q : Nat) : Nat :=
  if s.elastic s.curCore s.cur.actor then (s.cur.fix.setWidth 32 : Word32).toNat
  else mapGet 0 q s.curK.puts

/-- R216: a stage queue whose claim or put count is not the declared one. -/
def State.queueMismatch (s : State) (q : Nat) : Bool × FaultInfo :=
  let c := s.curCore
  let t := s.cur
  let uses := s.usesQueues c t.actor t.phase.toNat
  let n := fun (b : Bool) => if b then 1 else 0
  let claims := n (uses && s.queueIn c t.actor == some q)
  let puts := n (uses && s.queueOut c t.actor == some q)
  let made := n (t.claimMade && s.queueIn c t.actor == some q)
  let put := n (t.putMade && s.queueOut c t.actor == some q)
  if made != claims then
    (true, { code := codeRate, detail := memDetail 7 q 0, kind := 2, unit := q, token := s.indexIn,
             decl := claims, act := made })
  else
    (put != puts, { code := codeRate, detail := memDetail 7 q 1, kind := 2, unit := q,
                    token := if s.elastic c t.actor then s.indexIn else s.indexOut q,
                    decl := puts, act := put })

/-- R258: stairs n, n + 1, … with a carry in; the carry out. -/
def State.stairsFrom (s : State) (c x : Nat) (n k : Nat) (t : Ctx) : Ctx × Bool :=
  match k with
  | 0 => (t, true)
  | k + 1 =>
    let v := (t.stair n).toNat
    let wrap := stairWraps v (s.stairBound c x n) (s.stairStep c x n)
    let v' := BitVec.ofNat 32 (if wrap then 0 else v + s.stairStep c x n)
    let t := if n = 0 then { t with stair0 := v' } else if n = 1 then { t with stair1 := v' }
      else if n = 2 then { t with stair2 := v' } else { t with stair3 := v' }
    if wrap then s.stairsFrom c x (n + 1) k t else (t, false)

/-- R246: the end-of-firing step of the executing context. -/
def State.endOfFiring (s : State) : State :=
  let c := s.curCore
  let a := s.cur.actor
  let w0 := s.actorWord c a 0
  let s := if s.elastic c a then s else s.setActorWord c a 1 (s.actorWord c a 1 + 1)
  let s := s.setActorWord c a 2 (withBits (s.actorWord c a 2) 0 32 (s.fcnt c a + 1))
  let s := s.setActorWord c a 0 (withBits w0 30 3 ((bits w0 30 3 + 1) % (bits w0 27 3 + 1)))
  let r := s.stairsFrom c s.curCtx 0 4 s.cur
  let s := s.setCur r.1
  if bitAt w0 59 && r.2 then s.retireActor c a else s

/-- The context is idle after its FEND: what the firing held is gone (R9), and with a flag set the
context parks at once (R215, R399, R455). -/
def State.becomeIdle (s : State) : State :=
  let k := s.curK
  let park := if k.preFlag || k.stopFlag then some ({ kind := .fend } : Park) else none
  let keep := s.keepUnion s.curCore s.curCtx
  let mine := liveKeys (s.keepMap s.curCore s.cur.actor)
  let t := s.cur.endUnkept mine (liveKeys keep) s.fresh
  { s.setCur { t with run := .idle, loops := [], claimIdx := none, park := park, live := keep,
                      freed := [], reserved := [], sent := [], claimMade := false,
                      putMade := false, ldist := 0, stall := 0 } with fresh := s.fresh + 1 }

/-- FEND's hold: the waits of R215. In a stub R219 comes before them (R61). -/
def fendHeld (s : State) : Bool := !s.inStub && !s.landingWaits fun _ => true

/-- FEND (R215, R216). -/
def execFend (q : Issue) (s : State) : Answer :=
  issueLanding q 1 (fendHeld s)
    (firstFault ([(s.inStub, stubFault s.word), s.pendingFault] ++
      windows.map s.windowMismatch ++ (steps 0 1 32).map s.queueMismatch))
    none (fun s => s)
    (fun s => (s.endOfFiring.becomeIdle).progress s.curK.load) s

/-- RANGE 55 (R217, R203), with the entry in ADDR (DESIGN CHOICE, log 94). -/
def State.entryRange (s : State) (e : BitVec 8) : Bool × FaultInfo :=
  (s.landings s.curCore s.cur.actor ≤ e.toNat, rangeFault 55 0 (e.setWidth 64))

/-- The executing context parks under a landing entry; the loop stack is saved (R125, R399). -/
def State.parkAt (s : State) (kind : ParkKind) (e : BitVec 8) (pc : BitVec 13) : State :=
  let t := s.cur
  let p : Park := { kind := kind, entry := e, pc := pc }
  s.setCur { t with park := some p, resumeAt := p, savedLoops := t.loops, stall := 0,
                    live := (s.landing s.curCore t.actor e.toNat).1 }

/-- LAND's hold (R217): its own checks come first. -/
def landHeld (e : BitVec 8) (tags : BitVec 4) (s : State) : Bool :=
  !s.inStub && !(s.entryRange e).1 && !s.landingWaits fun g => tags.getLsbD g

/-- LAND (R217). -/
def execLand (q : Issue) (e : BitVec 8) (t : BitVec 4) (s : State) : Answer :=
  issueLanding q 2 (landHeld e t s)
    (firstFault [(s.inStub, stubFault s.word), s.entryRange e, s.pendingFault]) none
    (fun s => s.setCur { s.cur with ldist := 0 })
    (fun s' => if s.curK.preFlag || s.curK.stopFlag then s'.parkAt .land e s.cur.pc else s') s

/-- RESUME's hold: the waits of R215 for the stub's own work. -/
def resumeHeld (s : State) : Bool := s.inStub && !s.landingWaits fun _ => true

/-- RETURN FROM A REBUILD STUB: RESUME (R218): the parked firing runs again at its resume point. -/
def execResume (q : Issue) (s : State) : Answer :=
  issueLanding q 1 (resumeHeld s) (firstFault [(!s.inStub, stubFault s.word), s.pendingFault]) none
    (fun s => s)
    (fun s =>
      let t := s.cur
      let pc := if t.resumeAt.kind == .ldf then t.resumeAt.pc.toNat else t.resumeAt.pc.toNat + 2
      s.setCur { t with run := .firing, loops := t.savedLoops, ldist := 0,
                        pc := BitVec.ofNat 13 pc, wild := 8192 ≤ pc }) s

/-! ### Modes (R221, R263, R264, R481) -/

/-- MODE (R221): accepted, it travels to the drain of the load. -/
def execMode (q : Issue) (m : BitVec 3) (s : State) : Answer :=
  let h := s.curK.load
  issue q 1 (!s.inStub && s.memHeld)
    (firstFault [(s.inStub, stubFault s.word),
      (!bitAt (s.actorWord s.curCore s.cur.actor 0) 58, rangeFault 57 0 0),
      (match h with
        | some n => !(s.loadAt n).modes.contains m.toNat
        | none => m != 0, rangeFault 58 0 0)]) none
    (fun s =>
      let s := s.elasticEffect
      match h with
      | some n => s.at (s.cycle + 1) (.drainStart n m)
      | none => s) s

/-- DRAIN_START (R221, R263): a drain starts, or a drain in progress takes a new target. -/
def execDrainStart (load : Nat) (m : BitVec 3) (s : State) : Answer :=
  let l := s.loadAt load
  if l.draining then .next (s.setLoad load { l with target := m })
  else if m = l.mode || !l.committed then .next s
  else
    .next ((s.setLoad load { l with draining := true, target := m, targets := false,
                                    drainAge := 0 }).retry .drainTargetSet)

/-- Every context of a load satisfies a condition. -/
def State.allCtxs (s : State) (h : Nat) (p : Ctx → Bool) : Bool :=
  (s.loadAt h).cores.all fun c =>
    p (s.ctx c 0) && p (s.ctx c 1) && p (s.ctx c 2) && p (s.ctx c 3)

/-- The valid streams of a load: hall and number. -/
def State.streamsOf (s : State) (h : Nat) : List (Nat × Nat) :=
  (s.loadAt h).halls.flatMap fun e =>
    ((steps 0 1 32).filter fun n =>
      bitAt (s.hallCfg e.phys (8 * n)) 63 && (s.loadAt h).hasStream e.phys n).map fun n => (e.phys, n)

/-- A stream's state. -/
def State.stream (s : State) (hk n : Nat) : Stream := mapGet {} (64 * hk + n) s.streams

/-- A stream's state replaced. -/
def State.setStream (s : State) (hk n : Nat) (t : Stream) : State :=
  { s with streams := mapPut (64 * hk + n) t s.streams }

/-- The valid stage queues of a load. -/
def State.queuesOf (s : State) (h : Nat) : List Nat :=
  (steps 0 1 32).filter fun q => (s.queueHall h q).isSome

/-- ceil(a / b), 0 when b is 0. -/
def ceilDiv (a b : Nat) : Nat := if b = 0 then 0 else (a + b - 1) / b

/-- The repetition count of an actor number in a mode (R110, R111). -/
def Cert.q (t : Cert) (mode actor : Nat) : Nat := mapGet 0 (mode * t.actors + actor) t.reps

/-- The repetition count of the actor in a core's record. -/
def State.qActor (s : State) (h c a : Nat) : Nat :=
  let l := s.loadAt h
  l.cert.q l.mode.toNat (mapGet l.cert.actors (8 * c + a) l.cert.actorOf)

/-- The repetition count of a stream. -/
def State.qStream (s : State) (h n : Nat) : Nat :=
  let l := s.loadAt h
  l.cert.q l.mode.toNat (mapGet l.cert.actors n l.cert.streamOf)

/-- The stage queues of a load that an elastic stage claims from (R481). -/
def State.stageQueues (s : State) (h : Nat) : List Nat :=
  (s.queuesOf h).filter fun q => (s.loadAt h).cores.any fun c =>
    (s.actorsOf c).any fun a => s.elastic c a && s.queueIn c a == some q

/-- The repetition count of the stage that claims from a queue. -/
def State.qStage (s : State) (h q : Nat) : Nat :=
  let l := s.loadAt h
  l.cert.q l.mode.toNat (mapGet l.cert.actors q l.cert.stageOf)

/-- Actors of a load: core and record. -/
def State.allActors (s : State) (h : Nat) : List (Nat × Nat) :=
  (s.loadAt h).cores.flatMap fun c => (s.actorsOf c).map fun a => (c, a)

/-- Non-elastic actors of a load: core and record. -/
def State.plainActors (s : State) (h : Nat) : List (Nat × Nat) :=
  (s.loadAt h).cores.flatMap fun c =>
    ((s.actorsOf c).filter fun a => !s.elastic c a).map fun a => (c, a)

/-- K of R263, over actors, streams and stages. -/
def State.drainPeriods (s : State) (h : Nat) : Nat :=
  let a := (s.plainActors h).map fun e => ceilDiv (s.fcnt e.1 e.2) (s.qActor h e.1 e.2)
  let b := (s.streamsOf h).map fun e => ceilDiv (s.stream e.1 e.2).fcnt (s.qStream h e.2)
  let g := (s.stageQueues h).map fun q => ceilDiv (mapGet 0 (32 * h + q) s.qfcnt) (s.qStage h q)
  (a ++ b ++ g).foldl max 0

/-- The first load that satisfies a condition. -/
def State.loadWhere (s : State) (p : Nat → Load → Bool) : Option Nat :=
  ((s.loads.filter fun e => p e.1 e.2).head?).map (·.1)

/-- A drain goes on: that of a suspended load waits for its resumption (R265). -/
def Load.drains (l : Load) : Bool :=
  l.draining && (l.state == .running || l.state == .preempting)

/-- The pause of a drain is over: every context is idle or parked at FEND and every stream is between
tokens (R263, R481). -/
def State.drainPaused (s : State) (h : Nat) (l : Load) : Bool :=
  l.drains && !l.targets && (s.allCtxs h fun t => t.run == .idle) &&
    (s.streamsOf h).all fun e => !(s.stream e.1 e.2).busy

/-- The targets of a drain are set (R263, R481). -/
def State.setTargets (s : State) (h : Nat) : State :=
  let k := s.drainPeriods h
  let s' := (s.plainActors h).foldl (fun s e =>
    s.setActorWord e.1 e.2 2
      (withBits (s.actorWord e.1 e.2 2) 32 32 (k * s.qActor h e.1 e.2))) s
  let s' := (s.streamsOf h).foldl (fun s e =>
    s.setStream e.1 e.2 { s.stream e.1 e.2 with tgt := k * s.qStream h e.2 }) s'
  let s' := (s.stageQueues h).foldl (fun s q =>
    { s with qtgt := mapPut (32 * h + q) (k * s.qStage h q) s.qtgt }) s'
  (s'.setLoad h { s'.loadAt h with targets := true }).retry .quiescentPoint

/-- DRAIN_TARGET_SET (R263, R481), of the first load whose pause is over. -/
def execDrainTargetSet (s : State) : Answer :=
  match s.loadWhere s.drainPaused with
  | some h => .next (s.setTargets h)
  | none =>
    if (s.loadWhere fun _ l => l.draining && !l.targets).isSome then
      .next (s.retry .drainTargetSet)
    else .next s

/-- The initial tokens of a window end (R252). -/
def State.initialTokens (s : State) (h c w : Nat) : Nat :=
  mapGet 0 (16 * c + w) (s.loadAt h).cert.initial

/-- R264; a running stream that its target holds between tokens counts as idle (R481; log 26). -/
def State.quiescent (s : State) (h : Nat) : Bool :=
  s.allCtxs h (fun t => t.run == .idle) &&
  ((s.loadAt h).cores.all fun c => windows.all fun w =>
    if s.isConsumer c w then s.heldTokens c w == s.initialTokens h c w % 2 ^ 32
    else if s.isProducer c w then
      (steps 0 1 (s.winFan c w + 1)).all fun k =>
        seqDiff (s.sentOf c w) (s.cred c w k) == s.initialTokens h c w % 2 ^ 32
    else true) &&
  ((s.queuesOf h).all fun q =>
    match (s.queueHall h q).bind fun hk => (s.queueHome hk q).map fun a => (hk, a) with
    | some (hk, home) => (steps 0 1 (s.queueSlots hk q)).all fun j => s.slotSt home j == 0
    | none => true) &&
  ((s.streamsOf h).all fun e =>
    let t := s.stream e.1 e.2
    t.mode == .idle || t.mode == .finished || (t.tgt ≤ t.fcnt && !t.busy && t.ahead == 0)) &&
  (s.packets.all fun p => p.2.load != h)

/-- The mode changes, stairs and counts return to 0, and the epoch of atomics ends (R263, R466,
R481). -/
def State.reachQuiescent (s : State) (h : Nat) : State :=
  let l := s.loadAt h
  let zero := fun (t : Ctx) => { t with stair0 := 0, stair1 := 0, stair2 := 0, stair3 := 0 }
  let s := l.cores.foldl (fun s c =>
    let k := s.core c
    s.setCore c { k with c0 := zero k.c0, c1 := zero k.c1, c2 := zero k.c2, c3 := zero k.c3 }) s
  let s := (s.allActors h).foldl (fun s e =>
    s.setActorWord e.1 e.2 2 (withBits (s.actorWord e.1 e.2 2) 0 32 0)) s
  let s := (s.streamsOf h).foldl (fun s e =>
    s.setStream e.1 e.2 { s.stream e.1 e.2 with fcnt := 0, tgt := 0, cumulative := 0 }) s
  let s := { s with qfcnt := mapDelRange (32 * h) 32 s.qfcnt,
                    qtgt := mapDelRange (32 * h) 32 s.qtgt }
  let s := s.endEpoch h
  s.setLoad h { s.loadAt h with mode := l.target, draining := false, targets := false,
                                drainAge := 0 }

/-- QUIESCENT_POINT (R263, R264), of the first load that has reached it. -/
def execQuiescentPoint (s : State) : Answer :=
  match s.loadWhere fun h l => l.drains && l.targets && s.quiescent h with
  | some h => .next (s.reachQuiescent h)
  | none =>
    if (s.loadWhere fun _ l => l.draining && l.targets).isSome then
      .next (s.retry .quiescentPoint)
    else .next s

/-! ### Signals (R221, R261, R262) -/

/-- The corridor receiver word of a core for a signal. -/
def State.receiver (s : State) (c n : Nat) : Word64 := s.cfgAt c 5 (51 + n)

/-- A signal leaves the executing context for a core (R222, R261). -/
def State.sendSignal (s : State) (target n : Nat) : State :=
  let f : SigFlight := { core := s.curCore, ctx := s.curCtx, target := target, signal := n }
  ({ s.newId with sigs := mapPut s.nextId f s.sigs }).later 1 (.corridorArrival target n)

/-- The first signal under way that an arrival ends. -/
def State.endSignal (s : State) (target n : Nat) : State :=
  match s.sigs.find? fun e => e.2.target == target && e.2.signal == n with
  | some e => { s with sigs := mapDel e.1 s.sigs }
  | none => s

/-- SIG (R220, R261): one token to every core of the load whose receiver is valid. -/
def execSig (q : Issue) (n : BitVec 6) (s : State) : Answer :=
  let h := s.curK.load
  issue q 1 (!s.inStub && s.memHeld)
    (firstFault [(s.inStub, stubFault s.word),
      (match h with
        | some l => !(s.loadAt l).signals.contains n.toNat
        | none => true, rangeFault 59 0 0)]) none
    (fun s =>
      let s := s.elasticEffect
      match h with
      | some l =>
        ((s.loadAt l).cores.filter fun c => bitAt (s.receiver c n.toNat) 0).foldl
          (fun s c => s.sendSignal c n.toNat) s
      | none => s) s

/-- CORRIDOR_ARRIVAL (R262): sets the pending bit. -/
def execCorridorArrival (core sig : Nat) (s : State) : Answer :=
  let s := s.endSignal core sig
  let w := s.receiver core sig
  if bitAt w 0 then
    let x := bits w 1 2
    let t := s.ctx core x
    .next ((s.setCtx core x { t with corridor := setAdd sig t.corridor }).at s.cycle
      (.corridorApply core x))
  else .next s

/-- CORRIDOR_APPLY (R262): at the first cycle in which the context is idle or parked, the predicate
becomes true and clean. -/
def execCorridorApply (core ctx : Nat) (s : State) : Answer :=
  let t := s.ctx core ctx
  if t.corridor = [] then .next s
  else if t.run == .idle || t.park.isSome then
    let set := fun (t : Ctx) n => t.setReg (610 + bits (s.receiver core n) 3 3) ⟨1, false⟩
    .next (s.setCtx core ctx { (t.corridor.foldl set t) with corridor := [] })
  else .next (s.retry (.corridorApply core ctx))

/-! ### Traps and breaks (R223) -/

/-- The USER_TRAP record of R223. -/
def trapInfo (brk stop : Bool) (c : BitVec 5) : FaultInfo :=
  { code := codeTrap,
    detail := BitVec.ofNat 64 (2 ^ 31 + (if brk then 2 ^ 30 else 0) + (if stop then 32 else 0) +
      c.toNat) }

/-- TRAP.N (R223): a record, and the firing goes on. -/
def execTrapN (q : Issue) (c : BitVec 5) (s : State) : Answer :=
  issue q 1 false none none (fun s => s.trapRecord (trapInfo false false c)) s

/-- TRAP.S (R223): a record, and the load stops. -/
def execTrapS (q : Issue) (c : BitVec 5) (s : State) : Answer :=
  issue q 1 false (some (trapInfo false true c)) none (fun s => s) s

/-- BRK (R223): in a load committed with DEBUG, a record and a freeze as by FRZ, whose launch reports
USER_TRAP (R455); elsewhere a no-op. A load that is frozen already does not begin to freeze again (R232). -/
def execBrk (q : Issue) (s : State) : Answer :=
  issue q 1 false none none
    (fun s =>
      match s.curK.load with
      | some h =>
        let l := s.loadAt h
        let s' := s.haltRecord (trapInfo true true 0)
        if !l.debug then s
        else if l.state == .frozen then s'.stopLoad h codeTrap
        else s'.beginFreeze h (some codeTrap)
      | none => s) s

end Sys2Proof.Machine
end

