-- ==== Sys2Proof/Machine/Fabric.lean ====
section
/-!
DEFINITION. Packets on their way (R253 to R255, R309, R446) and the window instructions (R185 to R190,
R251).
-/

namespace Sys2Proof.Machine

/-! ### Routers -/

/-- Flits of a packet (R254). -/
def Packet.flits (p : Packet) : Nat := 1 + (p.data.length + 63) / 64

/-- The bad-route fault of R255: the packet is discarded. -/
def State.badRoute (s : State) (p : Packet) : State :=
  let s := { s with packets := mapDel p.id s.packets }
  s.faultOutside p.hall p.load
    { code := codeRange,
      detail := BitVec.ofNat 64 (63 + 2 ^ 32 * p.rc.toNat + 2 ^ 40 * p.kind.toNat) }

/-- A copy of a packet goes on to a router, at one of its ports: 0 to 3 are the mesh links in the order of
the MESH bits, 4 the crossing to another wing, 5 Maelle, 6 the hall's own units (R251; log 83). Its flits wait
where they are until the next router takes them in (R309). -/
def State.forwardTo (s : State) (p : Packet) (hk port : Nat) : State :=
  s.sendPacket { p with hall := hk, port := port, owed := p.flits,
                        waitsIn := some (p.hall, p.port, p.stamp) }

/-- A copy of a packet goes to a destination of its hall. -/
def State.deliverTo (s : State) (p : Packet) (unit desc : Nat) : State :=
  let id := s.nextId
  let i : Instr := if p.kind = 0 then .tokenCommit id else if p.kind = 1 then .creditArrival id
    else .closePacketArrival id
  ({ s.newId with packets := mapPut id { p with id := id, dest := some (unit, desc) } s.packets }).later
    1 i

/-! ### Maelle transmission (R445 to R447) -/

/-- The header of R254. -/
def Packet.header (p : Packet) : List Byte :=
  natToBytes 8 (p.rc.toNat * 2 ^ 48 + p.kind.toNat * 2 ^ 45 + p.fan.toNat * 2 ^ 40 +
    p.size.toNat * 2 ^ 32 + p.seq.toNat) ++ natToBytes 56 0

/-- The data of a packet cut into 64-byte flits, the last one filled with zeros. -/
def dataFlits : Nat → List Byte → List Nat → List (List Byte × List Nat)
  | 0, _, _ => []
  | n + 1, d, po =>
    let d' := (d.take 64) ++ List.replicate (64 - (d.take 64).length) 0
    (d', po.filter (· < 8)) :: dataFlits n (d.drop 64) ((po.filter (8 ≤ ·)).map (· - 8))

/-- A port's state. -/
def State.port (s : State) (n : Nat) : LinkPort := mapGet {} n s.ports

/-- A port's state replaced. -/
def State.setPort (s : State) (n : Nat) (t : LinkPort) : State := { s with ports := mapPut n t s.ports }

/-- The two check values that a flit's data has (R468). -/
def flitChecks (d : List Byte) : BitVec 16 × BitVec 16 := (checkValue (d.take 32), checkValue (d.drop 32))

/-- One flit leaves a port and stays in its retry buffer of 256 (R446). It returns what credits it can. A
flit that was asked for again and leaves the buffer has been resent well: the count of failed resends ends
(DEDUCED, log 23). -/
def State.sendFlit (n vc : Nat) (s : State) (f : List Byte × List Nat) : State :=
  let t := s.port n
  let back := t.owed.head?.map fun e => (BitVec.ofNat 3 e.1, BitVec.ofNat 14 e.2)
  let l : LinkFlit :=
    { seq := t.nextSeq, vc := BitVec.ofNat 3 vc, check0 := (flitChecks f.1).1,
      check1 := (flitChecks f.1).2, credit := back, data := f.1, poison := f.2 }
  let keep := (t.retry ++ [l]).drop (t.retry.length + 1 - 256)
  let open' := t.asked.any fun q => keep.any fun f => f.seq == q
  let s := s.setPort n { t with nextSeq := t.nextSeq + 1, retry := keep, owed := t.owed.tail,
                                asked := if open' then t.asked else none,
                                fails := if open' then t.fails else 0 }
  { s with hostOut := s.hostOut ++ [.flit n l] }

/-- Credits of a channel that a port still has (R447; log 86). -/
def State.linkRoom (s : State) (n vc : Nat) : Nat :=
  max 1 (Config.linkCredits n vc) - mapGet 0 vc (s.port n).used

/-- Waiting flits of a channel leave, as many as there are credits for (R447). -/
def State.pumpLink (s : State) (n vc : Nat) : State :=
  let t := s.port n
  let all := mapGet [] vc t.waiting
  let go := all.take (s.linkRoom n vc)
  let rest := all.drop (s.linkRoom n vc)
  let s := s.setPort n { t with
    waiting := if rest = [] then mapDel vc t.waiting else mapPut vc rest t.waiting,
    used := mapPut vc (mapGet 0 vc t.used + go.length) t.used }
  go.foldl (State.sendFlit n vc) s

/-- A port that works again sends what waits in each channel. -/
def State.pumpPort (s : State) (n : Nat) : State := (steps 0 1 8).foldl (fun s vc => s.pumpLink n vc) s

/-- A packet leaves by a port; the operation of a WPUT's token is kept until its commit is acknowledged. -/
def State.sendLink (s : State) (n vc : Nat) (p : Packet) : State :=
  let fl := (p.header, []) :: dataFlits ((p.data.length + 63) / 64) p.data p.poison
  let t := s.port n
  let open' := if p.src.isSome && p.kind == 0 then setAdd p.op t.unacked else t.unacked
  (s.setPort n { t with
    waiting := mapPut vc fl t.waiting,
    unacked := open'.filter fun i => (mapFind i s.acks).isSome }).pumpLink n vc

/-- A port takes no packet of a channel: it is down or retrains, or flits of the channel wait (R446,
R447). -/
def State.portHolds (s : State) (n vc : Nat) : Bool :=
  let t := s.port n
  !t.up || t.training || mapGet [] vc t.waiting != []

/-- Credits of a channel for flits that have left a port's buffer are to be returned (R369, R447). -/
def State.oweCredits (s : State) (n vc k : Nat) : State :=
  s.setPort n { s.port n with owed := mapPut vc (mapGet 0 vc (s.port n).owed + k) (s.port n).owed }

/-- Credits come back on a link. -/
def State.takeCredits (s : State) (n vc k : Nat) : State :=
  let t := s.port n
  let s := s.setPort n { t with used := mapPut vc (mapGet 0 vc t.used - k) t.used }
  if t.up && !t.training then s.pumpLink n vc else s

/-- Credits that no flit has taken go back alone (log 86). -/
def State.returnCredits (s : State) : State :=
  s.ports.foldl (fun s e =>
    e.2.owed.foldl (fun s o => { s with hostOut := s.hostOut ++ [.creditReturn e.1 o.1 o.2] })
      (if e.2.owed = [] then s else s.setPort e.1 { s.port e.1 with owed := [] })) s

/-! ### Forwarding (R255) -/

/-- A packet that arrived at the same router under the same class before this one. -/
def State.routeBehind (s : State) (p : Packet) : Bool :=
  s.packets.any fun e => e.1 < p.id && e.2.hall == p.hall && e.2.rc == p.rc && e.2.dest.isNone &&
    e.2.atPort == p.atPort

/-- R281: a credit waits for the earlier tile-store accesses to the slots it frees. -/
def State.creditSettled (s : State) (p : Packet) : Bool :=
  match p.kind == 1, p.src with
  | true, some (c, _) => p.covers.all fun i => (s.core c).score.all fun e => e.id != i
  | _, _ => true

/-- Flits that a hall's input ports take in this window (R309). -/
def State.admission (s : State) (hk : Nat) : Option Nat :=
  let w := s.sysCfg (hk / 128) 385
  if bitAt w 39 && !isSystemHall hk then
    some (max 1 (bits w 0 32) - mapGet 0 hk s.admitted)
  else none

/-- The admission limiter takes what it may of a packet's flits. -/
def State.admitFlits (s : State) (p : Packet) : State × Packet :=
  match s.admission p.hall with
  | none => (s, { p with owed := 0 })
  | some n =>
    let take := min n p.owed
    ({ s with admitted := mapPut p.hall (mapGet 0 p.hall s.admitted + take) s.admitted },
     { p with owed := p.owed - take })

/-- The routers that a router passes a packet on to, each with the port it enters there by (R253). -/
def State.nextRouters (s : State) (p : Packet) : List (Option Nat × Nat) :=
  let e := s.route p.hall p.rc.toNat
  (((steps 0 1 4).filter fun d => bitAt e (16 + d)).map fun d => (s.meshTo p.hall d, (d + 2) % 4)) ++
    if bitAt e 15 then [(s.crossTo p.hall (bits e 13 2), 4)] else []

/-- What a freeze makes of a packet of its load at a router (R411, R412): nothing; or the packet waits, as flits of
it stand in a hall that is reached, or its next router is one; or it is purged with the channel, where it stands in
such a hall or once every hall is reached (DEDUCED, log 68). -/
inductive Frozen
  | no
  | waits
  | purged
deriving DecidableEq, Repr

/-- That of a packet. -/
def State.frozenAt (s : State) (p : Packet) : Frozen :=
  let l := s.loadAt p.load
  let behind : Bool := match p.waitsIn with
    | some w => p.owed != 0 && l.gated w.1
    | none => false
  if l.state != .frozen then .no
  else if l.gated p.hall || l.halls.all fun e => l.gated e.phys then .purged
  else if behind || (s.nextRouters p).any fun r => (r.1.map l.gated).getD false then .waits
  else .no

/-- R253: the router of a hall passes a packet on. A stream of a stage queue receives none (R479). -/
def State.routePacket (s : State) (p : Packet) : State :=
  let e := s.route p.hall p.rc.toNat
  let next := s.nextRouters p
  if !bitAt e 63 || next.any (·.1.isNone) then s.badRoute p
  else
    let win := bits e 56 4
    let streams := ((steps 0 1 2).filter fun u => bitAt e (49 + u)).map fun u =>
      (u, ((steps 0 1 32).filter fun n =>
        bitAt (s.hallCfg p.hall (8 * n)) 63 && (s.loadAt p.load).hasStream p.hall n && bits (s.hallCfg p.hall (8 * n)) 26 1 == u &&
          !bitAt (s.hallCfg p.hall (8 * n)) 60 && bits (s.hallCfg p.hall (8 * n + 1)) 20 8 == p.rc.toNat).head?)
    if streams.any (·.2.isNone) then s.badRoute p
    else
      let s := { s with packets := mapDel p.id s.packets }
      let s := next.foldl (fun s h => s.forwardTo p (h.1.getD p.hall) h.2) s
      let s := ((steps 0 1 17).filter fun q => bitAt e (32 + q)).foldl
        (fun s q => s.deliverTo p q win) s
      let s := streams.foldl (fun s d => s.deliverTo p (32 + d.1) (d.2.getD 0)) s
      if bitAt e 12 then s.sendLink (4 * (p.hall / 128) + bits e 10 2) (bits e 60 3) p else s

/-- The committed load that holds a virtual channel in a wing. -/
def State.channelLoad (s : State) (wing vc : Nat) : Option Nat :=
  s.loadWhere fun _ l => l.committed && l.vcs.any fun e => e.1 == wing && e.2 == vc

/-- R448, R369: an arrived packet's load, the router at which it enters the wing and its class there,
once its arc-table entry is valid and its load is committed and not suspended. -/
def State.arcEntry (s : State) (port rc : Nat) : Option (Nat × Nat × Nat) :=
  let wing := port / 4
  let e := s.sysCfg wing (2560 + 256 * (port % 4) + rc)
  match s.channelLoad wing (bits e 60 3), s.hallOfUser wing (bits e 32 6) with
  | some h, some hk =>
    if bitAt e 63 && (s.loadAt h).state != .suspended then some (h, hk, bits e 52 8) else none
  | _, _ => none

/-- A packet at a Maelle port enters the wing, or waits (R448). -/
def State.enterWing (s : State) (p : Packet) (port : Nat) : State :=
  match s.arcEntry port p.rc.toNat with
  | none => s.retry (.routerForward p.id)
  | some (h, hk, rc) =>
    if s.routeBehind p then s.retry (.routerForward p.id)
    else
      (State.oweCredits { s with packets := mapDel p.id s.packets } port p.linkVc p.flits).sendPacket
        { p with load := h, rc := BitVec.ofNat 8 rc, hall := hk, atPort := none, port := 5,
                 owed := p.flits, waitsIn := none }

/-- ROUTER_FORWARD (R251, R253, R255, R309, R411, R446 to R448): a packet of a load that is gone is dropped, and one
of a frozen load stops; else it waits for its class's earlier packets, for admission and for its port, where a token waits for the
writes that its release covers (R187; DEDUCED, log 9). -/
def execRouterForward (id : Nat) (s : State) : Answer :=
  match mapFind id s.packets with
  | none => .next s
  | some p =>
    match p.atPort with
    | some port => .next (s.enterWing p port)
    | none =>
    if p.dest.isSome then .next s
    else if !(s.loadAt p.load).committed then .next { s with packets := mapDel id s.packets }
    else
      match s.frozenAt p with
      | .purged => .next { s with packets := mapDel id s.packets }
      | .waits => .next (s.retry (.routerForward id))
      | .no =>
        let e := s.route p.hall p.rc.toNat
        let held := s.portHolds (4 * (p.hall / 128) + bits e 10 2) (bits e 60 3)
        let out := bitAt e 63 && bitAt e 12 && (held || !s.allPerformed p.covers)
        if s.routeBehind p || !s.creditSettled p || out then .next (s.retry (.routerForward id))
        else
          let (s, p) := s.admitFlits p
          if p.owed = 0 then .next (s.routePacket p)
          else .next ({ s with packets := mapPut id p s.packets }.retry (.routerForward id))

/-! ### Delivery -/

/-- A packet at a destination whose load is gone, or whose hall a freeze of the load has reached: it does not
commit (R412). -/
def State.packetGone (s : State) (p : Packet) : Bool :=
  !(s.loadAt p.load).committed || (s.loadAt p.load).gated p.hall

/-- An earlier packet of the class waits at the same destination (R255). -/
def State.deliveryBehind (s : State) (p : Packet) : Bool :=
  s.packets.any fun e => e.1 < p.id && e.2.hall == p.hall && e.2.rc == p.rc && e.2.dest == p.dest

/-- Whether a destination is a core's descriptor, and which: the core, else none. -/
def Packet.coreDest (p : Packet) : Option (Nat × Nat) :=
  match p.dest with
  | some (q, w) => if q < 32 then some (p.hall * 32 + q, w) else none
  | none => none

/-- The stream descriptor of a destination. -/
def Packet.streamDest (p : Packet) : Option Nat :=
  match p.dest with
  | some (q, n) => if q < 32 then none else some n
  | none => none

/-- R205: the acknowledgement of a commit returns to the issuing context, or by the link that the token came
by. -/
def State.sendAck (s : State) (p : Packet) : State :=
  match p.src, p.link with
  | some (c, x), _ => s.later 1 (.commitAck c x p.op)
  | none, some (n, rc) => { s with hostOut := s.hostOut ++ [.acknowledge n rc p.seq] }
  | none, none => s

/-- The wing of the collective descriptor that a packet reaches: CORES bit 16 at a system hall's
router (R451). -/
def Packet.engineDest (p : Packet) : Option Nat :=
  match p.dest with
  | some (q, d) => if q = 16 && isSystemHall p.hall then some d else none
  | none => none

/-- A word of a stream descriptor replaced. -/
def State.setHallWord (s : State) (hk n i : Nat) (v : Word64) : State := s.setHallCfg hk (8 * n + i) v

/-- Where a token lands in a consumer end (R255). -/
def State.windowSlot (s : State) (p : Packet) (c w : Nat) : Nat :=
  tileKey c (s.winBase c w + p.seq.toNat % s.winCap c w * s.winSize c w)

/-- A token's bytes land in a consumer end and it counts (R255). -/
def State.commitWindow (s : State) (p : Packet) (c w : Nat) : State :=
  let s' := s.storeMarked (s.windowSlot p c w) p.data p.poison
  s'.setWin c w 1 (withBits (s'.win c w 1) 32 32 (s.cmt c w + 1))

/-- Where a token lands in a sink stream's ring (R271). -/
def State.sinkSlot (s : State) (p : Packet) (n : Nat) : Nat :=
  let d := s.hallCfg p.hall (8 * n)
  let slot := p.seq.toNat % bits d 27 12
  hallKey p.hall (bits (s.hallCfg p.hall (8 * n + 1)) 0 20 + slot * (32 * (bits d 39 8 + 1)))

/-- A token's bytes land in a sink stream's ring (R271). -/
def State.commitSink (s : State) (p : Packet) (n : Nat) : State :=
  let s' := s.storeMarked (s.sinkSlot p n) p.data p.poison
  let w := s.hallCfg p.hall (8 * n + 7)
  s'.setHallWord p.hall n 7 (withBits w 32 32 (bits w 32 32 + 1))

/-- The number of a round in progress of a collective descriptor. -/
def roundKey (wing d : Nat) : Nat := 64 * wing + d

/-- A contribution reaches the collective engine (R451 to R453): rank by route class, round by SEQ, in slot
SEQ mod 4 of the engine's end of capacity 4 (R255). -/
def State.commitRank (s : State) (p : Packet) (d : Nat) : State :=
  let wing := p.hall / 128
  let w0 := s.sysCfg wing (3584 + 2 * d)
  let rank := p.rc.toNat - bits w0 40 8
  let r := mapGet {} (roundKey wing d) s.rounds
  let k := 64 * p.seq.toNat + rank
  let n := p.seq.toNat
  let lands := fun {α : Type} (m : List (Nat × α)) =>
    m.filter fun e => !(e.1 % 64 == rank && e.1 / 64 % 4 == n % 4)
  let r := { r with contrib := mapPut k p.data (lands r.contrib),
                    starts := if (mapFind n r.starts).isSome then r.starts
                      else mapPut n s.cycle r.starts,
                    poison := if p.poison = [] then lands r.poison
                      else mapPut k p.poison (lands r.poison) }
  { s with rounds := mapPut (roundKey wing d) r s.rounds }

/-- Whether a rank's packet matches a valid descriptor. -/
def State.rankOk (s : State) (p : Packet) (d : Nat) : Bool :=
  let w0 := s.sysCfg (p.hall / 128) (3584 + 2 * d)
  bitAt w0 63 && d < 16 && bits w0 40 8 ≤ p.rc.toNat && p.rc.toNat ≤ bits w0 40 8 + bits w0 52 6

/-- TOKEN_COMMIT (R187, R255, R271, R451): behind its class's earlier tokens, and once every write that
its release covers is performed, the token's data is written and then counts. -/
def execTokenCommit (id : Nat) (s : State) : Answer :=
  match mapFind id s.packets with
  | none => .next s
  | some p =>
    if s.packetGone p then .next { s with packets := mapDel id s.packets }
    else if s.deliveryBehind p || !s.allPerformed p.covers then .next (s.retry (.tokenCommit id))
    else
      let s' := { s with packets := mapDel id s.packets }
      match p.engineDest with
      | some d =>
        if s.rankOk p d then
          .next (((s'.commitRank p d).sendAck p).later 1 .collectiveRound)
        else .next (s.badRoute p)
      | none =>
        match p.coreDest, p.streamDest with
        | some (c, w), _ =>
          if s.isConsumer c w then .next ((s'.commitWindow p c w).sendAck p)
          else .next (s.badRoute p)
        | none, some n =>
          if bitAt (s.hallCfg p.hall (8 * n)) 62 then .next ((s'.commitSink p n).sendAck p)
          else .next (s.badRoute p)
        | none, none => .next s'

/-- CREDIT_ARRIVAL (R251): the producer end takes the RD of consumer end END. -/
def execCreditArrival (id : Nat) (s : State) : Answer :=
  match mapFind id s.packets with
  | none => .next s
  | some p =>
    if s.packetGone p then .next { s with packets := mapDel id s.packets }
    else if s.deliveryBehind p then .next (s.retry (.creditArrival id))
    else
      let s' := { s with packets := mapDel id s.packets }
      match p.coreDest, p.streamDest with
      | some (c, w), _ =>
        if s.isProducer c w && p.engineDest.isNone then
          let s' := s'.setCred c w p.fan.toNat p.seq.toNat
          .next (s'.setWin c w 1 (withBits (s'.win c w 1) 0 32 (s'.shadow c w)))
        else .next (s.badRoute p)
      | none, some n =>
        if !bitAt (s.hallCfg p.hall (8 * n)) 62 then
          .next (s'.setHallWord p.hall n 7 (withBits (s.hallCfg p.hall (8 * n + 7)) 0 32 p.seq.toNat))
        else .next (s.badRoute p)
      | none, none => .next s'

/-- CLOSE_PACKET_ARRIVAL (R255, R256): CLOSED is set, behind the last token. A stream end or an engine
keeps no CLOSED bit; a descriptor that is no end is a bad route. -/
def execClosePacketArrival (id : Nat) (s : State) : Answer :=
  match mapFind id s.packets with
  | none => .next s
  | some p =>
    if s.packetGone p then .next { s with packets := mapDel id s.packets }
    else if s.deliveryBehind p then .next (s.retry (.closePacketArrival id))
    else
      let s' := { s with packets := mapDel id s.packets }
      match p.engineDest, p.coreDest with
      | some d, _ => if s.rankOk p d then .next s' else .next (s.badRoute p)
      | none, some (c, w) =>
        if s.isConsumer c w || s.isProducer c w then
          .next (s'.setWin c w 0 (withBits (s'.win c w 0) 53 1 1))
        else .next (s.badRoute p)
      | none, none => .next s'

/-- WPUT_READ_DONE (R187): the router has read the token's last byte. -/
def execWputReadDone (id : Nat) (s : State) : Answer :=
  .next { s with cores := s.cores.map fun e =>
    (e.1, { e.2 with score := e.2.score.filter (·.id != id) }) }

/-- COMMIT_ACK (R205): one consumer end has committed the token, or the home the put. -/
def execCommitAck (core ctx id : Nat) (s : State) : Answer :=
  let v := mapGet 0 id s.acks
  if v % 2 ^ 16 != 4 * core + ctx || v / 2 ^ 16 = 0 then .next s
  else if v / 2 ^ 16 = 1 then .next { s with acks := mapDel id s.acks }
  else .next { s with acks := mapPut id (v - 2 ^ 16) s.acks }

/-! ### Window instructions (R185 to R190) -/

/-- A fault of these forms with UNIT in its detail (R214). -/
def unitFault (code cause unit : Nat) (addr : Word64) : FaultInfo :=
  { code := code, detail := memDetail cause unit addr.toNat }

/-- RANGE 54: the form names a descriptor that is no end of its kind (R190). For a producer form too
that takes in one that no configuration has made an end, which R190 says of consumer forms only
(DESIGN CHOICE, log 74). -/
def State.endFault (s : State) (consumer : Bool) (w : Nat) : Bool × FaultInfo :=
  (if consumer then !s.isConsumer s.curCore w else !s.isProducer s.curCore w,
   unitFault codeRange 54 w 0)

/-- RATE_MISMATCH at an instruction (R186, R214): DECL holds the limit and ACT the count before. -/
def rateFault (detail kind unit token before limit : Nat) : FaultInfo :=
  { code := codeRate, detail := BitVec.ofNat 64 detail, kind := kind, unit := unit, token := token,
    decl := limit, act := before }

/-- Freed, reserved and sent counts of the running firing. -/
def State.freedCount (s : State) (w : Nat) : Nat := mapGet 0 w s.cur.freed
def State.reservedCount (s : State) (w : Nat) : Nat := mapGet 0 w s.cur.reserved
def State.sentCount (s : State) (w : Nat) : Nat := mapGet 0 w s.cur.sent

/-- The first poisoned word of a tile range, by its address. -/
def State.firstPoison (s : State) (c lo len : Nat) : Option Nat :=
  ((unitsOf 8 (tileKey c lo) len).filter fun w => setHas w s.poison).head?.map fun w =>
    8 * w - tileKey c 0

/-- POISON of a tile range that leaves the core (R189, R192, R210). -/
def State.exportPoison (s : State) (lo len : Nat) : Bool × FaultInfo :=
  match s.firstPoison s.curCore lo len with
  | some a => (true, poisonTile a)
  | none => (false, poisonTile 0)

/-- The tile address of a token (R185). -/
def State.tokenAddr (s : State) (w n : Nat) : Nat :=
  let c := s.curCore
  s.winBase c w + (s.rd c w + n) % 2 ^ 32 % s.winCap c w * s.winSize c w

/-- WGET (R185, R186). -/
def execWget (q : Issue) (d : XReg) (w : BitVec 4) (b : XReg) (s : State) : Answer :=
  let n := w.toNat
  issue q 1 s.memHeld
    (firstFault [s.endFault true n, ((s.x b).po, poisonX b),
      (s.declared n ≤ s.freedCount n + (s.x b).v.toNat, unitFault codeRange 51 n (s.x b).v)])
    none (fun s => s.writeX 2 d (BitVec.ofNat 64 (s.tokenAddr n (s.x b).v.toNat)) false) s

/-- The freed slots of a consumer end as tile ranges. -/
def State.freedSlots (s : State) (w n : Nat) : List Nat :=
  (steps 0 1 (min n (s.winCap s.curCore w))).map (s.tokenAddr w)

/-- R281: ranges of the scoreboard that the credit of freed slots waits for. -/
def State.slotHolders (s : State) (w n : Nat) : List Nat :=
  ((s.curK.score.filter fun e => (s.freedSlots w n).any fun a =>
    overlaps e.lo e.len a (s.winSize s.curCore w)).map (·.id))

/-- The credit packet of a consumer end (R251). -/
def State.sendCredit (s : State) (w : Nat) (holders : List Nat) : State :=
  let c := s.curCore
  s.sendPacket
    { id := 0, load := s.curK.load.getD 31, rc := BitVec.ofNat 8 (bits (s.win c w 2) 0 8), kind := 1,
      fan := BitVec.ofNat 2 (s.winFan c w), size := BitVec.ofNat 8 (bits (s.win c w 0) 29 8),
      seq := BitVec.ofNat 32 (s.rd c w), data := [], poison := [], hall := hallOfCore c,
      src := some (c, s.curCtx), covers := holders }

/-- WFREE (R185, R186, R251, R281). -/
def execWfree (q : Issue) (w : BitVec 4) (b : XReg) (s : State) : Answer :=
  let n := w.toNat
  let v := (s.x b).v.toNat
  issue q 1 (!s.inStub && s.memHeld)
    (firstFault [(s.inStub, stubFault s.word), s.endFault true n, ((s.x b).po, poisonX b),
      (s.declared n < s.freedCount n + v,
       rateFault 1 1 n (s.rd s.curCore n) (s.freedCount n) (s.declared n))])
    none
    (fun s =>
      if v = 0 then s
      else
        let c := s.curCore
        let holders := s.slotHolders n v
        let s := s.setCur { s.cur with freed := mapPut n (s.freedCount n + v) s.cur.freed }
        let s := s.setWin c n 1 (withBits (s.win c n 1) 0 32 (s.rd c n + v))
        s.sendCredit n holders) s

/-- WRES (R185, R186). -/
def execWres (q : Issue) (w : BitVec 4) (b : XReg) (s : State) : Answer :=
  let n := w.toNat
  let v := (s.x b).v.toNat
  issue q 1 (!s.inStub && s.memHeld)
    (firstFault [(s.inStub, stubFault s.word), s.endFault false n, ((s.x b).po, poisonX b),
      (s.declared n - s.sentCount n < s.reservedCount n + v,
       rateFault 2 1 n (s.sentOf s.curCore n) (s.reservedCount n) (s.declared n - s.sentCount n))])
    none
    (fun s => s.setCur { s.cur with reserved := mapPut n (s.reservedCount n + v) s.cur.reserved }) s

/-- WPUT's hold: a queued write to the token's bytes, or an order (R61, R187, R193). -/
def wputHeld (w : BitVec 4) (b : XReg) (s : State) : Bool :=
  !s.inStub &&
    (s.memHeld || s.curK.addrHeld (s.x b).v (s.winSize s.curCore w.toNat) false)

/-- The packet of a WPUT, and its read range (R187). -/
def State.putToken (s : State) (n lo : Nat) : State :=
  let c := s.curCore
  let x := s.curCtx
  let size := s.winSize c n
  let sc := s.winScope c n
  let op := s.nextId
  let p : Packet :=
    { id := 0, load := s.curK.load.getD 31, rc := BitVec.ofNat 8 (bits (s.win c n 0) 42 8), kind := 0,
      fan := 0, size := BitVec.ofNat 8 (bits (s.win c n 0) 29 8),
      seq := BitVec.ofNat 32 (s.sentOf c n), data := memBytes s.mem (tileKey c lo) size, poison := [],
      hall := hallOfCore c, src := some (c, x), op := op, covers := s.covered c x sc }
  let s := s.mergeOwn c x sc
  let s := s.sendPacket p
  let s := (s.addRange op lo size false false).later 1 (.wputReadDone op)
  let s := { s with acks := mapPut op ((s.winFan c n + 1) * 2 ^ 16 + 4 * c + x) s.acks }
  let t := s.cur
  let s := s.setCur { t with sent := mapPut n (s.sentCount n + 1) t.sent,
                             reserved := mapPut n (s.reservedCount n - 1) t.reserved }
  s.setWin c n 1 (withBits (s.win c n 1) 32 32 (s.sentOf c n + 1))

/-- WPUT (R185 to R187, R189). -/
def execWput (q : Issue) (w : BitVec 4) (b : XReg) (s : State) : Answer :=
  let n := w.toNat
  let a := (s.x b).v
  let size := s.winSize s.curCore n
  issue q 1 (wputHeld w b s)
    (firstFault [(s.inStub, stubFault s.word), s.endFault false n, ((s.x b).po, poisonX b),
      (a.toNat % 32 != 0, unitFault codeAlign 0 n a),
      (2 ^ 17 < a.toNat + size, unitFault codeRange 48 n a),
      s.exportPoison a.toNat size,
      (s.declared n < s.sentCount n + 1,
       rateFault 3 1 n (s.sentOf s.curCore n) (s.sentCount n) (s.declared n))])
    none (fun s => s.putToken n a.toNat) s

/-- WAVAIL (R185). -/
def execWavail (q : Issue) (d : XReg) (w : BitVec 4) (s : State) : Answer :=
  let n := w.toNat
  issue q 1 s.memHeld (firstFault [s.endFault true n]) none
    (fun s => s.writeX 2 d (BitVec.ofNat 64 (s.heldTokens s.curCore n)) false) s

/-- WSPACE (R185). -/
def execWspace (q : Issue) (d : XReg) (w : BitVec 4) (s : State) : Answer :=
  let n := w.toNat
  issue q 1 s.memHeld (firstFault [s.endFault false n]) none
    (fun s => s.writeX 2 d
      (BitVec.ofInt 64 ((s.freeSlots s.curCore n : Int) - s.reservedCount n)) false) s

end Sys2Proof.Machine
end

