-- ==== Sys2Proof/Machine/Flags.lean ====
section
/-!
DEFINITION. Conditions: the integer conditions of CMP and CMPI (R118) and of the integer VCMP forms
(R140), on bit patterns.
-/

namespace Sys2Proof.Machine

/-- R84, R118: a condition on two 64-bit operands. -/
def condHolds (c : Cond) (a b : Word64) : Bool :=
  match c with
  | .eq => a == b
  | .ne => a != b
  | .lt => a.slt b
  | .ltu => a.ult b
  | .ge => !a.slt b
  | .geu => !a.ult b

/-- R140: a condition on two integer elements, compared as signed values. -/
def vcondInt (c : VCond) {n : Nat} (a b : BitVec n) : Bool :=
  match c with
  | .eq => a == b
  | .ne => a != b
  | .lt => a.slt b
  | .le => !b.slt a
  | .gt => b.slt a
  | .ge => !a.slt b

end Sys2Proof.Machine
end

