-- ==== Sys2Proof/Machine/Scalar.lean ====
section
/-!
DEFINITION. Scalar, predicate and control instructions (R112 to R134) and the deferred results they
read (R69, R70).
-/

namespace Sys2Proof.Machine

/-! ### Shared forms -/

/-- A form that writes xd from the state at issue and raises nothing (R112, R115). -/
def scalarForm (q : Issue) (len lat : Nat) (d : XReg) (v : State → Word64) (po : State → Bool)
    (s : State) : Answer :=
  issue q len false none none (fun s => s.writeX lat d (v s) (po s)) s

/-- A register form on xa and xb. -/
def regForm (q : Issue) (lat : Nat) (d a b : XReg) (f : Word64 → Word64 → Word64) (s : State) :
    Answer :=
  scalarForm q 1 lat d (fun s => f (s.x a).v (s.x b).v) (fun s => (s.x a).po || (s.x b).po) s

/-- A form on xa and a constant. -/
def immForm (q : Issue) (lat : Nat) (d a : XReg) (f : Word64 → Word64) (s : State) : Answer :=
  scalarForm q 1 lat d (fun s => f (s.x a).v) (fun s => (s.x a).po) s

/-- An 11-bit immediate, sign-extended (R80). -/
def imm11 (i : BitVec 11) : Word64 := i.signExtend 64

/-- Shift amount: bits [5:0] of a register (R112). -/
def shiftOf (b : Word64) : Nat := b.toNat % 64

/-- Bits [127:64] of the signed product (R112). -/
def mulhSigned (a b : Word64) : Word64 := BitVec.ofInt 64 (a.toInt * b.toInt / 2 ^ 64)

/-- Bits [127:64] of the unsigned product (R112). -/
def mulhUnsigned (a b : Word64) : Word64 := BitVec.ofNat 64 (a.toNat * b.toNat / 2 ^ 64)

/-- Rotate left (R112). -/
def rolWord (a b : Word64) : Word64 := a.rotateLeft (shiftOf b)

/-- Zero bits above the highest 1 among the low n bits (R112). -/
def clzOf (a : Word64) : Nat → Nat
  | 0 => 0
  | n + 1 => if a.getLsbD n then 0 else 1 + clzOf a n

/-- Zero bits below the lowest 1, looking at n bits from bit k (R112). -/
def ctzOf (a : Word64) (k : Nat) : Nat → Nat
  | 0 => 0
  | n + 1 => if a.getLsbD k then 0 else 1 + ctzOf a (k + 1) n

/-- 1 bits among the low n bits (R112). -/
def popOf (a : Word64) : Nat → Nat
  | 0 => 0
  | n + 1 => (if a.getLsbD n then 1 else 0) + popOf a n

/-- The quotient of R113. -/
def divQuot (signed : Bool) (a b : Word64) : Word64 :=
  if b = 0 then BitVec.allOnes 64
  else if signed then BitVec.ofInt 64 (a.toInt.tdiv b.toInt)
  else BitVec.ofNat 64 (a.toNat / b.toNat)

/-- The remainder of R113. -/
def divRem (signed : Bool) (a b : Word64) : Word64 :=
  if b = 0 then a
  else if signed then BitVec.ofInt 64 (a.toInt.tmod b.toInt)
  else BitVec.ofNat 64 (a.toNat % b.toNat)

/-- The magnitude of an operand. -/
def magnitude (signed : Bool) (a : Word64) : Word64 :=
  if signed && a.getLsbD 63 then -a else a

/-- R114: cycles from issue to arrival, 6 to 70, by the operand magnitudes alone (log 7). -/
def divCycles (signed : Bool) (a b : Word64) : Nat :=
  min (6 + Config.divTime (magnitude signed a) (magnitude signed b)) 70

/-- A deferred instruction whose operation number is the next one: its entry is appended (R69). -/
def State.deferEntry (s : State) (mem : Bool) : State := (s.pushEntry s.nextId mem).newId

/-- A division form (R113, R114): held while the return queue is full (R71). -/
def divForm (q : Issue) (signed : Bool) (f : Word64 → Word64 → Word64) (a b : XReg) (s : State) :
    Answer :=
  issue q 1 s.cur.rqFull none none
    (fun s =>
      let va := s.x a
      let vb := s.x b
      let id := s.nextId
      (s.deferEntry false).at (s.cycle + divCycles signed va.v vb.v)
        (.deferredResultArrival s.curCore s.curCtx id (f va.v vb.v) (va.po || vb.po))) s

/-- A compare that writes a predicate (R118). -/
def cmpForm (q : Issue) (c : Cond) (p : PReg) (a : State → PVal) (b : State → PVal) (s : State) :
    Answer :=
  issue q 1 false none none
    (fun s => s.writeP 1 p (condHolds c (a s).v (b s).v) ((a s).po || (b s).po)) s

/-- CMPI (R118). -/
def cmpiForm (q : Issue) (c : Cond) (p : PReg) (a : XReg) (i : BitVec 11) (s : State) : Answer :=
  cmpForm q c p (fun s => s.x a) (fun _ => ⟨imm11 i, false⟩) s

/-- Predicate logic (R120). -/
def predForm (q : Issue) (d : PReg) (v : State → Bool) (po : State → Bool) (s : State) : Answer :=
  issue q 1 false none none (fun s => s.writeP 1 d (v s) (po s)) s

/-- A predicate's value. -/
def State.pv (s : State) (p : PReg) : Bool := (s.p p).v.getLsbD 0

/-- A transfer to a fixed offset from the instruction's own word (R121). -/
def relTarget (s : State) (off : BitVec 17) : Int := (s.cur.pc.toNat : Int) + off.toInt

/-- BR and BRN (R121, R122). -/
def branchForm (q : Issue) (sense : Bool) (p : PReg) (off : BitVec 17) (s : State) : Answer :=
  issue q 1 false (firstFault [((s.p p).po, poisonP p)])
    (if s.pv p == sense then some (relTarget s off) else none) (fun s => s) s

/-! ### Register forms (R112) -/

/-- ADD (R112). -/
def execAdd (q : Issue) (d a b : XReg) (s : State) : Answer := regForm q 1 d a b (· + ·) s
/-- SUB (R112). -/
def execSub (q : Issue) (d a b : XReg) (s : State) : Answer := regForm q 1 d a b (· - ·) s
/-- MUL (R112). -/
def execMul (q : Issue) (d a b : XReg) (s : State) : Answer := regForm q 3 d a b (· * ·) s
/-- MULH (R112). -/
def execMulh (q : Issue) (d a b : XReg) (s : State) : Answer := regForm q 3 d a b mulhSigned s
/-- MULHU (R112). -/
def execMulhu (q : Issue) (d a b : XReg) (s : State) : Answer := regForm q 3 d a b mulhUnsigned s
/-- DIV (R113). -/
def execDiv (q : Issue) (a b : XReg) (s : State) : Answer := divForm q true (divQuot true) a b s
/-- DIVU (R113). -/
def execDivu (q : Issue) (a b : XReg) (s : State) : Answer := divForm q false (divQuot false) a b s
/-- REM (R113). -/
def execRem (q : Issue) (a b : XReg) (s : State) : Answer := divForm q true (divRem true) a b s
/-- REMU (R113). -/
def execRemu (q : Issue) (a b : XReg) (s : State) : Answer := divForm q false (divRem false) a b s
/-- AND (R112). -/
def execAnd (q : Issue) (d a b : XReg) (s : State) : Answer := regForm q 1 d a b (· &&& ·) s
/-- OR (R112). -/
def execOr (q : Issue) (d a b : XReg) (s : State) : Answer := regForm q 1 d a b (· ||| ·) s
/-- XOR (R112). -/
def execXor (q : Issue) (d a b : XReg) (s : State) : Answer := regForm q 1 d a b (· ^^^ ·) s
/-- ANDN (R112). -/
def execAndn (q : Issue) (d a b : XReg) (s : State) : Answer :=
  regForm q 1 d a b (fun x y => x &&& ~~~y) s
/-- SHL (R112). -/
def execShl (q : Issue) (d a b : XReg) (s : State) : Answer :=
  regForm q 1 d a b (fun x y => x <<< shiftOf y) s
/-- SHR (R112). -/
def execShr (q : Issue) (d a b : XReg) (s : State) : Answer :=
  regForm q 1 d a b (fun x y => x >>> shiftOf y) s
/-- SRA (R112). -/
def execSra (q : Issue) (d a b : XReg) (s : State) : Answer :=
  regForm q 1 d a b (fun x y => x.sshiftRight (shiftOf y)) s
/-- ROL (R112). -/
def execRol (q : Issue) (d a b : XReg) (s : State) : Answer := regForm q 1 d a b rolWord s
/-- CLZ (R112). -/
def execClz (q : Issue) (d a : XReg) (s : State) : Answer :=
  immForm q 2 d a (fun x => BitVec.ofNat 64 (clzOf x 64)) s
/-- CTZ (R112). -/
def execCtz (q : Issue) (d a : XReg) (s : State) : Answer :=
  immForm q 2 d a (fun x => BitVec.ofNat 64 (ctzOf x 0 64)) s
/-- POPC (R112). -/
def execPopc (q : Issue) (d a : XReg) (s : State) : Answer :=
  immForm q 2 d a (fun x => BitVec.ofNat 64 (popOf x 64)) s
/-- MIN (R112). -/
def execMin (q : Issue) (d a b : XReg) (s : State) : Answer :=
  regForm q 1 d a b (fun x y => if y.slt x then y else x) s
/-- MAX (R112). -/
def execMax (q : Issue) (d a b : XReg) (s : State) : Answer :=
  regForm q 1 d a b (fun x y => if x.slt y then y else x) s
/-- MINU (R112). -/
def execMinu (q : Issue) (d a b : XReg) (s : State) : Answer :=
  regForm q 1 d a b (fun x y => if y.ult x then y else x) s
/-- MAXU (R112). -/
def execMaxu (q : Issue) (d a b : XReg) (s : State) : Answer :=
  regForm q 1 d a b (fun x y => if x.ult y then y else x) s
/-- SEL (R119): reads the predicate as data. -/
def execSel (q : Issue) (d a b : XReg) (p : PReg) (s : State) : Answer :=
  scalarForm q 1 1 d (fun s => if s.pv p then (s.x a).v else (s.x b).v)
    (fun s => (s.x a).po || (s.x b).po || (s.p p).po) s
/-- CMP (R118). -/
def execCmp (q : Issue) (c : Cond) (p : PReg) (a b : XReg) (s : State) : Answer :=
  cmpForm q c p (fun s => s.x a) (fun s => s.x b) s

/-! ### Immediate and address forms (R115 to R118) -/

/-- ADDI (R115). -/
def execAddi (q : Issue) (d a : XReg) (i : BitVec 11) (s : State) : Answer :=
  immForm q 1 d a (· + imm11 i) s
/-- ANDI (R115). -/
def execAndi (q : Issue) (d a : XReg) (i : BitVec 11) (s : State) : Answer :=
  immForm q 1 d a (· &&& imm11 i) s
/-- ORI (R115). -/
def execOri (q : Issue) (d a : XReg) (i : BitVec 11) (s : State) : Answer :=
  immForm q 1 d a (· ||| imm11 i) s
/-- XORI (R115). -/
def execXori (q : Issue) (d a : XReg) (i : BitVec 11) (s : State) : Answer :=
  immForm q 1 d a (· ^^^ imm11 i) s
/-- SHLI (R115). -/
def execShli (q : Issue) (d a : XReg) (n : BitVec 6) (s : State) : Answer :=
  immForm q 1 d a (· <<< n.toNat) s
/-- SHRI (R115). -/
def execShri (q : Issue) (d a : XReg) (n : BitVec 6) (s : State) : Answer :=
  immForm q 1 d a (· >>> n.toNat) s
/-- SRAI (R115). -/
def execSrai (q : Issue) (d a : XReg) (n : BitVec 6) (s : State) : Answer :=
  immForm q 1 d a (fun x => x.sshiftRight n.toNat) s
/-- MOVI, short form (R115). -/
def execMovi (q : Issue) (d : XReg) (i : BitVec 11) (s : State) : Answer :=
  scalarForm q 1 1 d (fun _ => imm11 i) (fun _ => false) s
/-- MOVI, long form (R117). -/
def execMoviLong (q : Issue) (d : XReg) (i : Word32) (s : State) : Answer :=
  scalarForm q 2 1 d (fun _ => i.signExtend 64) (fun _ => false) s
/-- LIH (R117). -/
def execLih (q : Issue) (d : XReg) (i : Word32) (s : State) : Answer :=
  scalarForm q 2 1 d (fun s => i ++ (s.x d).v.extractLsb' 0 32) (fun s => (s.x d).po) s
/-- LEA (R116). -/
def execLea (q : Issue) (d a : XReg) (i : BitVec 11) (s : State) : Answer :=
  immForm q 1 d a (fun x => x + imm11 i) s
/-- CMPI.EQ (R118). -/
def execCmpiEq (q : Issue) (p : PReg) (a : XReg) (i : BitVec 11) (s : State) : Answer :=
  cmpiForm q .eq p a i s
/-- CMPI.NE (R118). -/
def execCmpiNe (q : Issue) (p : PReg) (a : XReg) (i : BitVec 11) (s : State) : Answer :=
  cmpiForm q .ne p a i s
/-- CMPI.LT (R118). -/
def execCmpiLt (q : Issue) (p : PReg) (a : XReg) (i : BitVec 11) (s : State) : Answer :=
  cmpiForm q .lt p a i s
/-- CMPI.LTU (R118). -/
def execCmpiLtu (q : Issue) (p : PReg) (a : XReg) (i : BitVec 11) (s : State) : Answer :=
  cmpiForm q .ltu p a i s
/-- CMPI.GE (R118). -/
def execCmpiGe (q : Issue) (p : PReg) (a : XReg) (i : BitVec 11) (s : State) : Answer :=
  cmpiForm q .ge p a i s
/-- CMPI.GEU (R118). -/
def execCmpiGeu (q : Issue) (p : PReg) (a : XReg) (i : BitVec 11) (s : State) : Answer :=
  cmpiForm q .geu p a i s

/-! ### Transfers (R121 to R124) -/

/-- BR (R121). -/
def execBr (q : Issue) (p : PReg) (off : BitVec 17) (s : State) : Answer :=
  branchForm q true p off s
/-- BRN (R121). -/
def execBrn (q : Issue) (p : PReg) (off : BitVec 17) (s : State) : Answer :=
  branchForm q false p off s
/-- JMP (R121). -/
def execJmp (q : Issue) (off : BitVec 17) (s : State) : Answer :=
  issue q 1 false none (some (relTarget s off)) (fun s => s) s
/-- JAL (R121): the link is the word address after the JAL. -/
def execJal (q : Issue) (off : BitVec 17) (s : State) : Answer :=
  issue q 1 false none (some (relTarget s off))
    (fun s => s.writeX 1 31 (BitVec.ofNat 64 (s.cur.pc.toNat + 1)) false) s
/-- JR (R121, R122). -/
def execJr (q : Issue) (a : XReg) (s : State) : Answer :=
  issue q 1 false
    (firstFault [((s.x a).po, poisonX a), (2 ^ 13 ≤ (s.x a).v.toNat, scalarRange 4 (s.x a).v)])
    (some ((s.x a).v.toNat : Int)) (fun s => s) s
/-- LOOP (R123): a count of 0 skips the body at the cost of a taken transfer. An end word beyond 8,191 stays
as computed, so no PC meets it, and is kept modulo 2^13 when the stack is saved (DESIGN CHOICE, log 87). -/
def execLoop (q : Issue) (a : XReg) (i : BitVec 11) (s : State) : Answer :=
  let n := (s.x a).v.toNat
  let stop := s.cur.pc.toNat + i.toNat
  issue q 1 false
    (firstFault [((s.x a).po, poisonX a), (0xFFFFFFFF < n, scalarRange 3 (s.x a).v),
      (n != 0 && 2 ≤ s.cur.loops.length, scalarRange 2 0)])
    (if n = 0 then some ((stop : Int) + 1) else none)
    (fun s =>
      if n = 0 then s
      else s.setCur { s.cur with
        loops := ⟨s.cur.pc.toNat + 1, stop, BitVec.ofNat 32 n⟩ :: s.cur.loops }) s

/-! ### Predicate logic (R120) -/

/-- PAND (R120). -/
def execPand (q : Issue) (d a b : PReg) (s : State) : Answer :=
  predForm q d (fun s => s.pv a && s.pv b) (fun s => (s.p a).po || (s.p b).po) s
/-- POR (R120). -/
def execPor (q : Issue) (d a b : PReg) (s : State) : Answer :=
  predForm q d (fun s => s.pv a || s.pv b) (fun s => (s.p a).po || (s.p b).po) s
/-- PXOR (R120). -/
def execPxor (q : Issue) (d a b : PReg) (s : State) : Answer :=
  predForm q d (fun s => s.pv a ^^ s.pv b) (fun s => (s.p a).po || (s.p b).po) s
/-- PNOT (R120). -/
def execPnot (q : Issue) (d a : PReg) (s : State) : Answer :=
  predForm q d (fun s => !s.pv a) (fun s => (s.p a).po) s
/-- PSET (R120): a clean bit. -/
def execPset (q : Issue) (d : PReg) (v : Bool) (s : State) : Answer :=
  predForm q d (fun _ => v) (fun _ => false) s

/-! ### Special registers (R126 to R132) and DPOP (R70) -/

/-- SRD (R126): LDIST reads the count that includes the SRD itself (R129). -/
def execSrd (q : Issue) (d : XReg) (r : SpecReg) (s : State) : Answer :=
  scalarForm q 1 2 d (fun s => s.special r) (fun _ => false) s

/-- SWR's write of the RW fields (R127, R128, R132). -/
def Ctx.writeSpecial (t : Ctx) (r : SpecReg) (v : Word64) : Ctx :=
  match r with
  | .gkey => { t with gkey := v }
  | .gseq => { t with gseq := v }
  | .lmax => { t with lmax := v.setWidth 16 }
  | .tmode => { t with tmode := v.setWidth 2 }
  | _ => t

/-- SWR (R126, R132). -/
def execSwr (q : Issue) (r : SpecReg) (b : XReg) (s : State) : Answer :=
  issue q 1 false
    (firstFault [
      (!r.writable, illegalFault s.word 0),
      (r == .lmax && !isSystemCore s.curCore, privFault),
      ((s.x b).po, poisonX b),
      (r == .lmax && bits (s.x b).v 0 16 < 256, scalarRange 5 (s.x b).v)])
    none (fun s => s.setCur (s.cur.writeSpecial r (s.x b).v)) s

/-- DPOP's hold: the head has not arrived (R70). -/
def dpopHeld (s : State) : Bool :=
  match s.cur.rq with
  | [] => false
  | e :: _ => !e.arrived

/-- DPOP (R70). -/
def execDpop (q : Issue) (d : XReg) (s : State) : Answer :=
  issue q 1 (dpopHeld s)
    (firstFault [(s.cur.rq.isEmpty, { code := codeRange, detail := 1 })]) none
    (fun s =>
      match s.cur.rq with
      | [] => s
      | e :: es => (s.setCur { s.cur with rq := es }).writeX 1 d e.val.v e.val.po) s

/-- DEFERRED_RESULT_ARRIVAL (R69, R114): the value stands in its entry from the next evaluation of
holds; a value for an entry that is gone is discarded (R412). -/
def execDeferredResultArrival (core ctx id : Nat) (v : Word64) (po : Bool) (s : State) : Answer :=
  .next (s.arrive core ctx id ⟨v, po⟩)

/-- RESULT_WRITEBACK (R66, R67): every write of the context whose cycle has come takes effect, in
issue order. -/
def execResultWriteback (core ctx : Nat) (s : State) : Answer :=
  .next (s.setCtx core ctx ((s.ctx core ctx).writeback s.cycle))

end Sys2Proof.Machine
end

