-- ==== Sys2Proof/Machine/Mem.lean ====
section
/-!
DEFINITION. Tile-store loads and stores, tile moves, shared-space words, full/empty words and fences
(R182 to R184, R191 to R205, R273 to R283).
-/

namespace Sys2Proof.Machine

/-- Bytes of an access width (R182). -/
def Width.size : Width → Nat
  | .b => 1
  | .h => 2
  | .w => 4
  | .d => 8

/-! ### LD and ST -/

/-- The address of LD and ST (R182). -/
def State.ldAddr (s : State) (w : Width) (a : XReg) (o : BitVec 9) : Word64 :=
  (s.x a).v + BitVec.ofInt 64 (o.toInt * Width.size w)

/-- The hold of a tile-store access: an order (R193) or a range (R61, R184). -/
def tileHeld (a : Word64) (len : Nat) (write : Bool) (s : State) : Bool :=
  s.memHeld || s.curK.addrHeld a len write

/-- The checks of R183. -/
def State.tileChecks (s : State) (a : XReg) (addr : Word64) (len : Nat) : Option FaultInfo :=
  firstFault [((s.x a).po, poisonX a), (addr.toNat % len != 0, alignFault addr),
    (2 ^ 17 < addr.toNat + len, rangeFault 48 0 addr)]

/-- LD (R182 to R184). -/
def execLd (q : Issue) (w : Width) (d a : XReg) (o : BitVec 9) (s : State) : Answer :=
  let addr := s.ldAddr w a o
  let n := Width.size w
  issue q 1 (tileHeld addr n false s) (s.tileChecks a addr n) none
    (fun s =>
      let key := tileKey s.curCore addr.toNat
      s.writeX 4 d (BitVec.ofNat 64 (s.load key n)) (s.poisoned key n)) s

/-- ST (R182 to R184). -/
def execSt (q : Issue) (w : Width) (d a : XReg) (o : BitVec 9) (s : State) : Answer :=
  let addr := s.ldAddr w a o
  let n := Width.size w
  issue q 1 (tileHeld addr n true s) (s.tileChecks a addr n) none
    (fun s => s.storeVal (tileKey s.curCore addr.toNat) n (s.x d).v (s.x d).po) s

/-! ### Tile moves (R191 to R193, R283) -/

/-- The lowest free tag of a context (R192). -/
def Ctx.freeTag (t : Ctx) : Option Nat :=
  ((steps 0 1 4).filter fun g => t.tags.all fun e => e.1 != g).head?

/-- Tags and scoreboard entries are not there, the range is held, or an order holds (R61, R192). -/
def moveHeld (a : Word64) (len : Nat) (write : Bool) (s : State) : Bool :=
  s.memHeld || s.cur.freeTag.isNone || s.curK.noEntry || s.curK.addrHeld a len write

/-- The key of a shared range, 0 where it is not well formed. -/
def State.sharedAt (s : State) (a : Word64) (n : Nat) : Nat := (s.sharedKey a n).getD 0

/-- The checks of R191, R192 and R213. A poisoned length raises POISON with the address operands (DESIGN CHOICE,
log 101); one that is no multiple of 8 raises RANGE, cause 50 (DESIGN CHOICE, log 91). -/
def State.moveChecks (s : State) (out : Bool) (a b d : XReg) : Option FaultInfo :=
  let xa := (s.x a).v
  let xb := (s.x b).v
  let n := (s.x d).v.toNat
  firstFault [(out && s.inStub, stubFault s.word),
    ((s.x a).po, poisonX a), ((s.x b).po, poisonX b), ((s.x d).po, poisonX d),
    (xa.toNat % 8 != 0, alignFault xa), (xb.toNat % 8 != 0, alignFault xb),
    (n % 8 != 0 || n < 8 || 65536 < n, rangeFault 50 0 (s.x d).v),
    (2 ^ 17 < xa.toNat + n, rangeFault 48 0 xa),
    ((s.sharedKey xb n).isNone, rangeFault 49 0 xb),
    (out && (s.exportPoison xa.toNat n).1, (s.exportPoison xa.toNat n).2)]

/-- A copy takes its tag, its scoreboard entry and its place behind the context's earlier accesses to
the same bytes (R192, R275). -/
def State.startCopy (s : State) (c : Copy) (write : Bool) : State :=
  let id := s.nextId
  let c := { c with id := id, core := s.curCore, ctx := s.curCtx,
                    after := c.after ++ s.priorOn s.curCore s.curCtx c.key c.len }
  let s := s.newId
  let s := match s.cur.freeTag with
    | some g => s.setCur { s.cur with tags := s.cur.tags ++ [(g, id)] }
    | none => s
  let s := s.addRange id c.tile c.len write true
  { s with copies := mapPut id c s.copies }

/-- TMOV.in (R191, R192). -/
def execTmovIn (q : Issue) (d a b : XReg) (s : State) : Answer :=
  let xa := (s.x a).v
  let n := (s.x d).v.toNat
  issue q 1 (moveHeld xa n true s) (s.moveChecks false a b d) none
    (fun s =>
      let id := s.nextId
      (s.startCopy { id := 0, core := 0, ctx := 0, kind := .tmovIn, tile := xa.toNat,
                     key := s.sharedAt (s.x b).v n, len := n } true).later 1 (.tmovRetire id)) s

/-- TMOV.out (R191, R192). -/
def execTmovOut (q : Issue) (d a b : XReg) (s : State) : Answer :=
  let xa := (s.x a).v
  let n := (s.x d).v.toNat
  issue q 1 (!s.inStub && moveHeld xa n false s) (s.moveChecks true a b d) none
    (fun s =>
      let s := s.elasticEffect
      let id := s.nextId
      (s.startCopy { id := 0, core := 0, ctx := 0, kind := .tmovOut, tile := xa.toNat,
                     key := s.sharedAt (s.x b).v n, len := n,
                     data := memBytes s.mem (tileKey s.curCore xa.toNat) n } false).later 1
        (.tmovRetire id)) s

/-- TWAIT's hold (R193). -/
def twaitHeld (n : BitVec 2) (s : State) : Bool := s.memHeld || n.toNat < s.cur.tags.length

/-- TWAIT (R193). -/
def execTwait (q : Issue) (n : BitVec 2) (s : State) : Answer :=
  issue q 1 (twaitHeld n s) none none (fun s => s) s

/-- An earlier copy of the same context has not retired (R192). -/
def State.copyBehind (s : State) (c : Copy) : Bool :=
  s.copies.any fun e => e.1 < c.id && e.2.core == c.core && e.2.ctx == c.ctx && e.2.kind != .qput

/-- A copy leaves: its tag and range are free. -/
def State.endCopy (s : State) (c : Copy) : State :=
  let s := s.dropRanges c.core c.id
  let t := s.ctx c.core c.ctx
  let s := s.setCtx c.core c.ctx { t with tags := t.tags.filter (·.2 != c.id) }
  { s with copies := mapDel c.id s.copies }

/-- The next n bytes of a TMOV move: the source's as they stand, or those of the issue (R192, R282). -/
def State.moveBytes (s : State) (c : Copy) (n : Nat) : State :=
  let key := c.key + c.moved
  if c.kind == .tmovIn then
    s.storeMarked (tileKey c.core (c.tile + c.moved)) (memBytes s.mem key n) (s.poisonOf key n)
  else (s.storeMarked key ((c.data.drop c.moved).take n) []).setFull key n

/-- Bytes that a TMOV moves in one event: a free number of its words, of those that are left (R283; log
10). -/
def State.moveCount (s : State) (c : Copy) : Nat :=
  let left := c.len - c.moved
  min left (8 + 8 * ((Config.freeBits s.fresh).toNat % (left / 8)))

/-- TMOV_RETIRE (R192, R283): a copy, behind the context's earlier ones, moves words in ascending order,
and retires with its last. A copy of a core that a freeze has gated moves no more (R411). -/
def execTmovRetire (id : Nat) (s : State) : Answer :=
  match mapFind id s.copies with
  | none => .next s
  | some c =>
    if c.kind == .qclaim || c.kind == .qput || s.coreGated c.core then .next s
    else if s.copyBehind c || !s.allPerformed c.after then .next (s.retry (.tmovRetire id))
    else
      let n := s.moveCount c
      let s' := { s.moveBytes c n with fresh := s.fresh + 1 }
      if c.len ≤ c.moved + n then .next (s'.endCopy c)
      else
        .next ({ s' with copies := mapPut id { c with moved := c.moved + n } s'.copies }.later 1
          (.tmovRetire id))

/-! ### Shared-space words (R195 to R200, R273 to R280) -/

/-- Bytes of .w and .d (R197). -/
def wordSize (dw : Bool) : Nat := if dw then 8 else 4

/-- A scope for the smallest instance that holds a core and a bank (R278). -/
def smallestScope (core key : Nat) : Scope :=
  if insideScope .h core key then .h else if wingOfKey key == wingOfCore core then .w else .p

/-- An access leaves the executing context, behind its earlier accesses to the word and, for a
release, behind all that the release covers (R199, R275, R280). -/
def State.sendAccess (s : State) (a : Access) (release : Option Scope) : State :=
  let id := s.nextId
  let c := s.curCore
  let x := s.curCtx
  let cov := match release with
    | some sc => s.covered c x sc
    | none => []
  let a := { a with id := id, core := c, ctx := x, pc := s.cur.pc, fix := s.cur.fix,
                    after := s.priorOn c x a.key a.bytes ++ cov }
  let s := match release with
    | some sc => s.mergeOwn c x sc
    | none => s
  let s := s.newId
  ({ s with accs := mapPut id a s.accs }).later 1 (.accessReachesBank id)

/-- Acquire bits of an order. -/
def Order.acquires : Order → Bool
  | .acq | .ar => true
  | .rlx | .rel => false

/-- Release bits of an order. -/
def Order.releases : Order → Bool
  | .rel | .ar => true
  | .rlx | .acq => false

/-- The next operation's number holds later memory-class instructions (R199). -/
def State.holdAcquire (s : State) (acq : Bool) : State :=
  if acq then s.setCur { s.cur with acq := setAdd s.nextId s.cur.acq } else s

/-- The checks of R200 on the address, in its order: RANGE before ALIGN, though R213 has ALIGN first
(DEDUCED, log 92). -/
def State.wordChecks (s : State) (a : XReg) (n : Nat) : List (Bool × FaultInfo) :=
  let xa := (s.x a).v
  [((s.x a).po, poisonX a), ((s.sharedKey xa n).isNone, rangeFault 49 0 xa),
   (xa.toNat % n != 0, alignFault xa)]

/-- ALD (R197, R199, R200). -/
def execAld (q : Issue) (acq : Bool) (sc : Scope) (dw : Bool) (a : XReg) (s : State) : Answer :=
  let n := wordSize dw
  let _ := sc
  issue q 1 (s.memHeld || s.cur.rqFull) (firstFault (s.wordChecks a n)) none
    (fun s =>
      let s' := (s.pushEntry s.nextId true).holdAcquire acq
      s'.sendAccess { id := 0, core := 0, ctx := 0, kind := .load, key := s.sharedAt (s.x a).v n,
                      bytes := n } none) s

/-- AST (R197, R199, R200). -/
def execAst (q : Issue) (rel : Bool) (sc : Scope) (dw : Bool) (a b : XReg) (s : State) : Answer :=
  let n := wordSize dw
  issue q 1 (!s.inStub && s.memHeld)
    (firstFault ((s.inStub, stubFault s.word) :: s.wordChecks a n ++ [((s.x b).po, poisonX b)])) none
    (fun s =>
      s.elasticEffect.sendAccess
        { id := 0, core := 0, ctx := 0, kind := .store, key := s.sharedAt (s.x a).v n, bytes := n,
          a := (s.x b).v } (if rel then some sc else none)) s

/-- A deferred read and write of a word (R197 to R199). -/
def State.sendAtomic (s : State) (o : Order) (sc : Scope) (kind : AccKind) (n : Nat)
    (addr a b : Word64) : State :=
  let s := s.elasticEffect
  let s' := (s.pushEntry s.nextId true).holdAcquire (Order.acquires o)
  s'.sendAccess { id := 0, core := 0, ctx := 0, kind := kind, key := s.sharedAt addr n, bytes := n,
                  a := a, b := b } (if Order.releases o then some sc else none)

/-- ACAS (R197, R199, R200). -/
def execAcas (q : Issue) (o : Order) (sc : Scope) (dw : Bool) (a b : XReg) (s : State) : Answer :=
  let n := wordSize dw
  issue q 1 (!s.inStub && (s.memHeld || s.cur.rqFull))
    (firstFault ((s.inStub, stubFault s.word) :: s.wordChecks a n ++
      [((s.x b).po, poisonX b), ((s.x (b + 1)).po, poisonX (b + 1))])) none
    (fun s => s.sendAtomic o sc .cas n (s.x a).v (s.x b).v (s.x (b + 1)).v) s

/-- ATOM (R198 to R200). -/
def atomForm (q : Issue) (o : Order) (sc : Scope) (kind : AccKind) (a b : XReg) (s : State) : Answer :=
  issue q 1 (!s.inStub && (s.memHeld || s.cur.rqFull))
    (firstFault ((s.inStub, stubFault s.word) :: s.wordChecks a 8 ++ [((s.x b).po, poisonX b)])) none
    (fun s => s.sendAtomic o sc kind 8 (s.x a).v (s.x b).v 0) s

/-- ATOM.ADD (R198). -/
def execAtomAdd (q : Issue) (o : Order) (sc : Scope) (a b : XReg) (s : State) : Answer :=
  atomForm q o sc .add a b s
/-- ATOM.SWAP (R198). -/
def execAtomSwap (q : Issue) (o : Order) (sc : Scope) (a b : XReg) (s : State) : Answer :=
  atomForm q o sc .swap a b s
/-- ATOM.AND (R198). -/
def execAtomAnd (q : Issue) (o : Order) (sc : Scope) (a b : XReg) (s : State) : Answer :=
  atomForm q o sc .and a b s
/-- ATOM.OR (R198). -/
def execAtomOr (q : Issue) (o : Order) (sc : Scope) (a b : XReg) (s : State) : Answer :=
  atomForm q o sc .or a b s
/-- ATOM.XOR (R198). -/
def execAtomXor (q : Issue) (o : Order) (sc : Scope) (a b : XReg) (s : State) : Answer :=
  atomForm q o sc .xor a b s
/-- ATOM.MIN (R198). -/
def execAtomMin (q : Issue) (o : Order) (sc : Scope) (a b : XReg) (s : State) : Answer :=
  atomForm q o sc .min a b s
/-- ATOM.MAX (R198). -/
def execAtomMax (q : Issue) (o : Order) (sc : Scope) (a b : XReg) (s : State) : Answer :=
  atomForm q o sc .max a b s
/-- ATOM.MAXU (R198). -/
def execAtomMaxu (q : Issue) (o : Order) (sc : Scope) (a b : XReg) (s : State) : Answer :=
  atomForm q o sc .maxu a b s

/-- The new word of an atomic (R198). -/
def atomNew (k : AccKind) (old b : Word64) : Word64 :=
  match k with
  | .add => old + b
  | .swap => b
  | .and => old &&& b
  | .or => old ||| b
  | .xor => old ^^^ b
  | .min => if b.slt old then b else old
  | .max => if old.slt b then b else old
  | .maxu => if old.ult b then b else old
  | .load | .store | .cas | .storeFull | .setEmpty => old

/-- R466: the word keeps the identity of the last firing that reached it; another firing's atomic
enters an event, where its core belongs to a load that has a record (R465). -/
def State.atomIdentity (s : State) (a : Access) : State :=
  let me : AtomId := { load := (s.core a.core).load, core := a.core, ctx := a.ctx, fix := a.fix }
  let s' := match me.load, mapFind (a.key / 8) s.atoms with
    | some h, some o =>
        if o = me then s else
          s.detEvent h 2 (BitVec.ofNat 8 a.ctx) ((s.visibleCore a.core).setWidth 16)
            (a.pc.setWidth 16) (a.fix.setWidth 32)
    | _, _ => s
  { s' with atoms := mapPut (a.key / 8) me s'.atoms }

/-- What an access does at its bank (R197, R198, R202). -/
def State.performAccess (s : State) (a : Access) : State :=
  let old := BitVec.ofNat 64 (s.load a.key a.bytes)
  let po := s.poisoned a.key a.bytes
  match a.kind with
  | .load => s
  | .store => s.storeVal a.key a.bytes a.a false
  | .storeFull => s.storeFull a.key a.a
  | .setEmpty => s.setEmpty a.key a.bytes
  | .cas =>
    let s := s.atomIdentity a
    if !po && old.toNat == a.a.toNat % 2 ^ (8 * a.bytes) then s.storeVal a.key a.bytes a.b false else s
  | .add | .swap | .and | .or | .xor | .min | .max | .maxu =>
    (s.atomIdentity a).storeVal a.key 8 (atomNew a.kind old a.a) (po && a.kind != .swap)

/-- Whether an access returns a value (R197). -/
def AccKind.deferred : AccKind → Bool
  | .store | .storeFull | .setEmpty => false
  | .load | .cas | .add | .swap | .and | .or | .xor | .min | .max | .maxu => true

/-- ACCESS_REACHES_BANK (R273, R275, R280): the access is performed, and its old value travels back. A bank that a
freeze has gated performs none (R411). -/
def execAccessReachesBank (id : Nat) (s : State) : Answer :=
  match mapFind id s.accs with
  | none => .next s
  | some a =>
    if s.bankGated a.core a.key then .next s
    else if !s.allPerformed a.after then .next (s.retry (.accessReachesBank id))
    else
      let old := BitVec.ofNat 64 (s.load a.key a.bytes)
      let po := s.poisoned a.key a.bytes
      let s := { s.performAccess a with accs := mapDel id s.accs }
      if AccKind.deferred a.kind then
        .next (s.later 1 (.deferredResultArrival a.core a.ctx id old po))
      else .next s

/-! ### Full/empty words and FENCE (R201 to R205) -/

/-- The waits that LDF meets outside a stub (R203, R72, R75, R174, R194). -/
def State.ldfWaits (s : State) : Bool :=
  let t := s.cur
  t.allArrived && t.pend.isEmpty && t.tags.isEmpty && (!s.ownsMatrix s.curCore s.curCtx || s.curK.mq.isEmpty)

/-- A flag asks the context to park at its next landing (R398, R455). -/
def State.parkAsked (s : State) : Bool := (s.curK.preFlag || s.curK.stopFlag) && !s.inStub

/-- The word of an LDF holds it: empty, or with the context's own earlier accesses under way (R203,
R275). -/
def State.wordHeld (s : State) (a : Word64) : Bool :=
  match s.sharedKey a 8 with
  | none => false
  | some key => a.toNat % 8 == 0 &&
    (!setHas (key / 8) s.full || !s.allPerformed (s.priorOn s.curCore s.curCtx key 8))

/-- LDF's hold (R203, R396, R399): when the context is asked to park the word is not awaited. -/
def ldfHeld (a : XReg) (s : State) : Bool :=
  s.memHeld || (!s.inStub && !s.ldfWaits) ||
    (!s.parkAsked && s.wordHeld (s.x a).v)

/-- LDF (R202, R203, R396, R399). One that parks is run again, so that its loop entry stands as before it
(R74, R125). -/
def execLdf (q : Issue) (d a : XReg) (e : BitVec 8) (s : State) : Answer :=
  let xa := (s.x a).v
  let pc := s.cur.pc
  let stub := s.inStub
  let park := s.parkAsked
  issueLanding q 1 (ldfHeld a s)
    (firstFault [((s.x a).po, poisonX a), (xa.toNat % 8 != 0, alignFault xa),
      ((s.sharedKey xa 8).isNone, rangeFault 49 0 xa), s.entryRange e,
      (!stub && s.pendingFault.1, s.pendingFault.2), (stub && s.overrun, s.overrunFault)]) none
    (fun s =>
      let key := s.sharedAt xa 8
      let s := if stub then s.countIssue else s.setCur { s.cur with ldist := 0 }
      if park then s else s.writeX 4 d (s.load64 key) (s.poisoned key 8))
    (fun s' =>
      if park then (s'.setCur { s'.cur with loops := s.cur.loops }).parkAt .ldf e pc else s') s

/-- STF (R202, R204, R278): a release at the smallest scope that holds the context and the bank. -/
def execStf (q : Issue) (d a : XReg) (s : State) : Answer :=
  let xa := (s.x a).v
  issue q 1 (!s.inStub && s.memHeld)
    (firstFault [(s.inStub, stubFault s.word), ((s.x a).po, poisonX a),
      (xa.toNat % 8 != 0, alignFault xa), ((s.sharedKey xa 8).isNone, rangeFault 49 0 xa),
      ((s.x d).po, poisonX d)]) none
    (fun s =>
      let key := s.sharedAt xa 8
      s.elasticEffect.sendAccess
        { id := 0, core := 0, ctx := 0, kind := .storeFull, key := key, bytes := 8, a := (s.x d).v }
        (some (smallestScope s.curCore key))) s

/-- SETE (R202). A poisoned count raises POISON with the address (DESIGN CHOICE, log 101), and the count is
checked before its range (DEDUCED, log 93). -/
def execSete (q : Issue) (d a : XReg) (s : State) : Answer :=
  let xa := (s.x a).v
  let n := (s.x d).v.toNat
  issue q 1 (!s.inStub && s.memHeld)
    (firstFault [(s.inStub, stubFault s.word), ((s.x a).po, poisonX a), ((s.x d).po, poisonX d),
      (xa.toNat % 8 != 0, alignFault xa),
      (n < 1 || 131072 < n, rangeFault 50 0 (s.x d).v),
      ((s.sharedKey xa (8 * n)).isNone, rangeFault 49 0 xa)]) none
    (fun s =>
      s.elasticEffect.sendAccess
        { id := 0, core := 0, ctx := 0, kind := .setEmpty, key := s.sharedAt xa (8 * n),
          bytes := 8 * n } none) s

/-- FENCE (R205): later memory-class instructions wait for every operation numbered so far. -/
def execFence (q : Issue) (sc : Scope) (s : State) : Answer :=
  issue q 1 s.memHeld none none
    (fun s =>
      (s.setCur { s.cur with fence := some (s.nextId, sc) }).mergeOwn s.curCore s.curCtx sc) s

end Sys2Proof.Machine
end

