-- ==== Sys2Proof/Machine/Queues.lean ====
section
/-!
DEFINITION. Stage queues: QCLAIM, QPUT and QSTAT (R209 to R211), the commit and the freeing of slots
(R296), credits (R297) and closing (R299).
-/

namespace Sys2Proof.Machine

/-! ### Instructions -/

/-- The descriptor of a queue in the executing core's hall is not in use (R210). -/
def State.queueFault (s : State) (n : Nat) : Bool × FaultInfo :=
  (!bitAt (s.queueWord (hallOfCore s.curCore) n 0) 63, unitFault codeRange 53 n 0)

/-- RANGE 49: the queue's bytes at HOME are not well formed (R196, R486). -/
def State.homeFault (s : State) (n : Nat) : Bool × FaultInfo :=
  let hk := hallOfCore s.curCore
  ((s.queueHome hk n).isNone, unitFault codeRange 49 n (s.homeAddr hk n))

/-- RANGE 56: the firing holds no claim (or put) on the queue (R210). -/
def State.claimFault (s : State) (input : Bool) (n : Nat) : Bool × FaultInfo :=
  let t := s.cur
  let named := if input then s.queueIn s.curCore t.actor else s.queueOut s.curCore t.actor
  (named != some n || !s.usesQueues s.curCore t.actor t.phase.toNat, unitFault codeRange 56 n 0)

/-- QCLAIM's hold: a free tag, a free entry and the claim buffer (R61, R192, R209). -/
def qclaimHeld (n : BitVec 5) (s : State) : Bool :=
  let hk := hallOfCore s.curCore
  !s.inStub && (s.memHeld ||
    (bitAt (s.queueWord hk n.toNat 0) 63 &&
      moveHeld (BitVec.ofNat 64 (s.claimBuffer hk n.toNat)) (s.queueSize hk n.toNat) true s))

/-- QCLAIM (R209, R210): the copy of the claimed slot into the claim buffer. -/
def execQclaim (q : Issue) (n : BitVec 5) (s : State) : Answer :=
  let hk := hallOfCore s.curCore
  let z := n.toNat
  issue q 1 (qclaimHeld n s)
    (firstFault [(s.inStub, stubFault s.word), s.queueFault z, s.claimFault true z, s.homeFault z,
      (s.cur.claimMade, rateFault 4 2 z s.indexIn 1 1)]) none
    (fun s =>
      match s.queueHome hk z with
      | none => s
      | some home =>
        let j := s.indexIn % s.queueSlots hk z
        let id := s.nextId
        let size := s.queueSize hk z
        let s' := s.setCur { s.cur with claimMade := true }
        (s'.startCopy { id := 0, core := 0, ctx := 0, kind := .qclaim, tile := s.claimBuffer hk z,
                        key := tokenKey home (s.queueSlots hk z) size j, len := size,
                        load := s.curK.load.getD 31, queue := z,
                        index := BitVec.ofNat 32 s.indexIn } true).later 1 (.claimCopyRetire id)) s

/-- QPUT's hold (R61, R187, R210). -/
def qputHeld (n : BitVec 5) (b : XReg) (s : State) : Bool :=
  let hk := hallOfCore s.curCore
  !s.inStub && (s.memHeld ||
    (bitAt (s.queueWord hk n.toNat 0) 63 &&
      s.curK.addrHeld (s.x b).v (s.queueSize hk n.toNat) false))

/-- The scope of a put: .h for a home in a hall store, .w for one in a gallery (R278). -/
def putScope (home : Nat) : Scope := if isHallKey home then .h else .w

/-- A put's copy starts (R209, R210). -/
def State.startPut (s : State) (z lo home : Nat) : State :=
  let c := s.curCore
  let x := s.curCtx
  let hk := hallOfCore c
  let size := s.queueSize hk z
  let f := s.indexOut z
  let id := s.nextId
  let sc := putScope home
  let key := tokenKey home (s.queueSlots hk z) size (f % s.queueSlots hk z)
  let cp : Copy :=
    { id := id, core := c, ctx := x, kind := .qput, tile := lo, key := key, len := size,
      load := s.curK.load.getD 31, queue := z, index := BitVec.ofNat 32 f,
      data := memBytes s.mem (tileKey c lo) size, covers := s.covered c x sc,
      after := s.priorOn c x key size }
  let s := (s.mergeOwn c x sc).newId
  let s := { s with copies := mapPut id cp s.copies,
                    acks := mapPut id (2 ^ 16 + 4 * c + x) s.acks }
  let s := s.setCur { s.cur with putMade := true }
  let s := if s.elastic c s.cur.actor then s
    else s.setCurK { s.curK with puts := mapPut z ((f + 1) % 2 ^ 32) s.curK.puts }
  ((s.addRange id lo size false false).later 1 (.wputReadDone id)).later 1 (.queueSlotCommit id)

/-- QPUT (R209, R210). -/
def execQput (q : Issue) (n : BitVec 5) (b : XReg) (s : State) : Answer :=
  let hk := hallOfCore s.curCore
  let z := n.toNat
  let a := (s.x b).v
  let size := s.queueSize hk z
  issue q 1 (qputHeld n b s)
    (firstFault [(s.inStub, stubFault s.word), s.queueFault z, s.claimFault false z,
      ((s.x b).po, poisonX b), (a.toNat % 32 != 0, unitFault codeAlign 0 z a),
      (2 ^ 17 < a.toNat + size, unitFault codeRange 48 z a), s.homeFault z, s.exportPoison a.toNat size,
      (s.cur.putMade, rateFault 5 2 z (s.indexOut z) 1 1)]) none
    (fun s =>
      match s.queueHome hk z with
      | none => s
      | some home => s.startPut z a.toNat home) s

/-- The word of R211. -/
def State.qstatWord (s : State) (hk n : Nat) : Word64 :=
  match s.queueHome hk n with
  | none => 0
  | some home => BitVec.ofNat 64 (s.qFill home (s.queueSlots hk n) * 2 ^ 32 + s.qNext home)

/-- QSTAT (R209, R211): the word as it stands when the request leaves. -/
def execQstat (q : Issue) (n : BitVec 5) (s : State) : Answer :=
  issue q 1 (s.memHeld || s.cur.rqFull) (firstFault [s.queueFault n.toNat, s.homeFault n.toNat]) none
    (fun s =>
      let id := s.nextId
      (s.deferEntry true).later 1 (.deferredResultArrival s.curCore s.curCtx id
        (s.qstatWord (hallOfCore s.curCore) n.toNat) false)) s

/-! ### Slots at the home (R295 to R297) -/

/-- FREED after every consecutive retired index (R296). -/
def State.freedAfter (s : State) (home slots : Nat) : Nat → Nat → Nat
  | 0, f => f
  | n + 1, f =>
    if seqDiff (s.qNext home) f != 0 && s.slotSt home (f % slots) == 0 &&
        s.slotIdx home (f % slots) == f then
      s.freedAfter home slots n ((f + 1) % 2 ^ 32)
    else f

/-- An index retires: its slot is free and FREED advances (R296). -/
def State.retireIndex (s : State) (h q home slots f : Nat) : State :=
  let s := s.setSlot home (f % slots) 0 f
  let n := s.freedAfter home slots slots (s.qFreed home)
  if n = s.qFreed home then s
  else (s.setWord (home + 16) n).later 1 (.queueCredit h q (BitVec.ofNat 32 n))

/-- A slot commits (R296, R297). -/
def State.commitSlot (s : State) (home slots size f : Nat) (pne : Bool) (data : List Byte)
    (po : List Nat) : State :=
  let key := tokenKey home slots size (f % slots)
  let s := ((s.storeMarked key data po).setFull key size).setSlot home (f % slots) 2 f
  if pne then s.setWord (home + 8) ((s.qPseq home + 1) % 2 ^ 32) else s

/-- QUEUE_SLOT_COMMIT (R210, R296, R297): once all that the release covers is performed; a
non-elastic producer's puts are taken at PSEQ. A put of a core that a freeze has gated does not commit (R411). -/
def execQueueSlotCommit (id : Nat) (s : State) : Answer :=
  match mapFind id s.copies with
  | none => .next s
  | some c =>
    if c.kind != .qput || s.coreGated c.core then .next s
    else
      let hk := hallOfCore c.core
      match s.queueHome hk c.queue with
      | none => .next { s with copies := mapDel id s.copies }
      | some home =>
        let pne := s.queuePne hk c.queue
        if !s.allPerformed c.covers || !s.allPerformed c.after ||
            (pne && c.index.toNat != s.qPseq home) then .next (s.retry (.queueSlotCommit id))
        else
          let s := s.commitSlot home (s.queueSlots hk c.queue) c.len c.index.toNat pne c.data []
          let s := { s with copies := mapDel id s.copies }
          .next ((s.later 1 (.commitAck c.core c.ctx id)).later 1 .outputQueueClose)

/-- CLAIM_COPY_RETIRE (R209, R296): the copy lands, its tag and range are free, the index retires, unless a freeze
has gated the core (R411). -/
def execClaimCopyRetire (id : Nat) (s : State) : Answer :=
  match mapFind id s.copies with
  | none => .next s
  | some c =>
    if c.kind != .qclaim || s.coreGated c.core then .next s
    else if s.copyBehind c || !s.allPerformed c.after then .next (s.retry (.claimCopyRetire id))
    else
      let hk := hallOfCore c.core
      let s := s.storeMarked (tileKey c.core c.tile) (memBytes s.mem c.key c.len)
        (s.poisonOf c.key c.len)
      let s := s.endCopy c
      match s.queueHome hk c.queue with
      | none => .next s
      | some home =>
        .next (s.retireIndex c.load c.queue home (s.queueSlots hk c.queue) c.index.toNat)

/-! ### Credits and closing (R296, R297, R299) -/

/-- The home and slot count of a load's queue. -/
def State.homeOf (s : State) (h q : Nat) : Option (Nat × Nat) :=
  match s.queueHall h q with
  | none => none
  | some hk => (s.queueHome hk q).map fun a => (a, s.queueSlots hk q)

/-- Of two counts modulo 2^32 the later: a credit that a younger one has overtaken on its way changes
nothing (R296). -/
def laterCount (old new : Nat) : Nat := if seqDiff new old < 2 ^ 31 then new else old

/-- FREED of a queue credited to the producer side of one load: the cores of a non-elastic producer,
DCRED of a stage's input queue (R296). -/
def State.creditLoad (s : State) (h q : Nat) (freed : Word32) : State :=
  (s.putters h q).foldl (fun s e =>
    if s.elastic e.1 e.2 then
      match s.queueIn e.1 e.2 with
      | some i =>
        match s.homeOf h i with
        | some (home, _) => s.setWord (home + 32) (laterCount (s.qDcred home) freed.toNat)
        | none => s
      | none => s
    else
      let k := s.core e.1
      let new := laterCount (mapGet 0 q k.credited).toNat freed.toNat
      s.setCore e.1 { k with credited := mapPut q (BitVec.ofNat 32 new) k.credited }) s

/-- QUEUE_CREDIT (R296, R297; R368 for a queue bound to a predecessor's). -/
def execQueueCredit (load queue : Nat) (freed : Word32) (s : State) : Answer :=
  let s := s.creditLoad load queue freed
  match mapFind (32 * load + queue) s.qbind with
  | some p => .next (s.creditLoad (p / 32) (p % 32) freed)
  | none => .next s

/-- CLOSE of a queue becomes (1, final) (R295, R299). -/
def State.closeQueue (s : State) (home final : Nat) : State :=
  s.setWord (home + 24) (2 ^ 32 + final % 2 ^ 32)

/-- QUEUE_CLOSE (R299, R431): the producer's close message reaches the home. -/
def execQueueClose (load queue : Nat) (final : Word32) (s : State) : Answer :=
  match s.homeOf load queue with
  | none => .next s
  | some (home, _) =>
    .next (((s.closeQueue home final.toNat).later 1 .stageRetire).later 1 .outputQueueClose)

/-- A stage queue is closed with every index claimed (R299). -/
def State.queueDone (s : State) (h q : Nat) : Bool :=
  match s.homeOf h q with
  | some (home, _) => s.qClosed home && s.qNext home == s.qFinal home
  | none => false

/-- Elastic candidates of a load's stage that have not retired. -/
def State.candidates (s : State) (h q : Nat) : List (Nat × Nat) :=
  (s.claimers h q).filter fun e => s.elastic e.1 e.2 && !s.retired e.1 e.2

/-- A grant is on its way to a context. -/
def State.grantComes (s : State) (c x : Nat) : Bool :=
  s.agenda.any fun e =>
    match e.2 with
    | .claimAnswer k y grant _ => k == c && y == x && grant
    | _ => false

/-- A candidate retires at this evaluation of its context, which no granted claim is to fire first; a request that
is still out is denied (R298, R299). -/
def State.mayRetire (s : State) (c a : Nat) : Bool :=
  let x := bits (s.actorWord c a 0) 55 2
  let t := s.ctx c x
  t.run == .idle && t.park.isNone && !t.halted && t.evalFrom ≤ s.cycle && s.coreLive c && t.bound.isNone &&
    !s.grantComes c x

/-- RTD is set and the actor's entries are cleared (R299). -/
def State.retireCandidate (s : State) (c a : Nat) : State :=
  let s := s.setActorWord c a 3 (s.actorWord c a 3 ||| BitVec.ofNat 64 (2 ^ 63))
  (windows.filter fun e => entryActor (s.entry c e) == a && entryValid (s.entry c e)).foldl
    (fun s e => s.setCfg c 3 e (withBits (s.entry c e) 0 1 0)) s

/-- Loads and queues whose stage is done and has candidates left. -/
def State.doneStages (s : State) : List (Nat × Nat) :=
  s.loads.flatMap fun e =>
    if e.2.committed then
      ((s.queuesOf e.1).filter fun q => s.queueDone e.1 q && s.candidates e.1 q != []).map
        fun q => (e.1, q)
    else []

/-- The balance unit's entry of a stage is cleared when the stage retires (R305). -/
def State.clearStageEntry (s : State) (h q : Nat) : State :=
  (steps 0 1 4).foldl (fun s wing =>
    (steps 0 1 32).foldl (fun s n =>
      let w := s.sysCfg wing (416 + 3 * n)
      if bitAt w 63 && bits w 58 5 == h && bits (s.sysCfg wing (418 + 3 * n)) 0 5 == q then
        s.setSysCfg wing (416 + 3 * n) (withBits w 63 1 0)
      else s) s) s

/-- The candidates of a done stage that may retire do; with the last of them goes the stage's entry. -/
def State.retireStage (s : State) (h q : Nat) : State :=
  let now := (s.candidates h q).filter fun e => s.mayRetire e.1 e.2
  let s := now.foldl (fun s e => s.retireCandidate e.1 e.2) s
  if s.candidates h q = [] then s.clearStageEntry h q else s

/-- STAGE_RETIRE (R299, R305): in every stage that is done, the candidates that may retire do; the others
are looked at again. -/
def execStageRetire (s : State) : Answer :=
  match s.doneStages with
  | [] => .next s
  | stages =>
    let s := stages.foldl (fun s e => s.retireStage e.1 e.2) s
    let s := (s.later 1 .outputQueueClose).later 1 .loadComplete
    .next (if s.doneStages = [] then s else s.retry .stageRetire)

/-- A put on a load's queue is under way. -/
def State.putsUnderWay (s : State) (h q : Nat) : Bool :=
  s.copies.any fun e => e.2.kind == .qput && e.2.load == h && e.2.queue == q

/-- The stage that puts into a queue is done and all its puts have committed: its final count. -/
def State.outputDone (s : State) (h q : Nat) : Option Nat :=
  let ins := ((s.putters h q).filter fun e => s.elastic e.1 e.2).filterMap fun e => s.queueIn e.1 e.2
  match ins with
  | [] => none
  | i :: _ =>
    match s.homeOf h i, s.homeOf h q with
    | some (hi, _), some (ho, _) =>
      if s.queueDone h i && s.candidates h i == [] && !s.putsUnderWay h q && !s.qClosed ho then
        some (s.qFinal hi)
      else none
    | _, _ => none

/-- A close or a credit of a load's queues is under way: to a home, to a producer, or due at a home whose
stage is done (R296, R299, R368). -/
def State.queueNewsUnderWay (s : State) (h : Nat) : Bool :=
  let mine := fun (l q : Nat) => l == h || (mapGet (32 * l + q) (32 * l + q) s.qbind) / 32 == h
  (s.agenda.any fun e => match e.2 with
    | .queueClose l q _ => mine l q
    | .queueCredit l q _ => mine l q
    | _ => false) ||
  (s.queuesOf h).any fun q => (s.outputDone h q).isSome

/-- OUTPUT_QUEUE_CLOSE (R299): of the first queue whose stage is done with all its puts committed. -/
def execOutputQueueClose (s : State) : Answer :=
  let all := s.loads.flatMap fun e =>
    if e.2.committed then (s.queuesOf e.1).filterMap fun q =>
      (s.outputDone e.1 q).map fun f => (e.1, q, f)
    else []
  match all with
  | [] => .next s
  | (h, q, f) :: _ =>
    match s.homeOf h q with
    | none => .next s
    | some (ho, _) =>
      .next (((s.closeQueue ho f).later 1 .stageRetire).later 1 .outputQueueClose)

end Sys2Proof.Machine
end

