-- ==== Sys2Proof/Machine/Translate.lean ====
section
/-!
DEFINITION. Address translation: the physical map (R370, R485), range entries (R373, R375), the TLB
(R379, R380) and the walk (R376 to R378, R383).
-/

namespace Sys2Proof.Machine

/-- R370, R485: a physical address that some memory backs. A CXL port's rows have PA[47:40] zero, whatever
size the device reports. -/
def State.backed (s : State) (pa : Nat) : Bool :=
  let top := pa / 2 ^ 48
  if top = 0 then pa < 2 ^ 39
  else if top < 5 then
    let w := s.sysCfg (top - 1) 3848
    bitAt w 63 && pa % 2 ^ 48 < min (2 ^ 40) (bits w 0 41)
  else false

/-- Word 0 and word 1 of a range entry of a hall (R373). -/
def State.rangeWord (s : State) (hk n i : Nat) : Word64 := s.hallCfg hk (256 + 2 * n + i)

/-- First byte and length of a span. -/
def State.spanBase (s : State) (hk n : Nat) : Nat := bits (s.rangeWord hk n 0) 21 35 * 2 ^ 21
def State.spanLen (s : State) (hk n : Nat) : Nat := (bits (s.rangeWord hk n 1) 0 21 + 1) * 2 ^ 21

/-- The valid range entry whose span holds an address (R375). -/
def State.rangeOf (s : State) (hk va : Nat) : Option Nat :=
  ((steps 0 1 64).filter fun n => bitAt (s.rangeWord hk n 0) 63 && s.spanBase hk n ≤ va &&
    va < s.spanBase hk n + s.spanLen hk n).head?

/-- The edge port of a hall's stream units (R372): 4 x wing + port. A system hall's streams take port
0 (log 27). -/
def State.edgePort (s : State) (hk : Nat) : Nat :=
  4 * (hk / 128) + match s.uhallOf hk with
    | some u => u / 8 / 2
    | none => 0

/-- The entries of a port's TLB. -/
def State.tlb (s : State) (port : Nat) : List TlbEntry := mapGet [] port s.tlbs

/-- An entry holds the page of an address (R380). -/
def TlbEntry.holds (e : TlbEntry) (asn va : Nat) : Bool :=
  e.asn.toNat == asn && e.vpn == va / (if e.large then 2 ^ 33 else 2 ^ 21)

/-- R380: a 2 MiB entry before an 8 GiB entry; an entry that forbids the access is a miss. -/
def State.tlbLookup (s : State) (port asn va : Nat) (sink : Bool) : Option Nat :=
  let hits := (s.tlb port).filter fun e => e.holds asn va
  let small := hits.filter fun e => !e.large
  match (if small = [] then hits else small).head? with
  | none => none
  | some e =>
    if (if sink then e.wr else e.rd) then
      some (e.base + va % (if e.large then 2 ^ 33 else 2 ^ 21))
    else none

/-- What the edge port finds for an access (R375). -/
inductive Xlate
  | ok (pa : Nat)
  | miss (asn : Nat)
  | bad (cause : Nat)
deriving DecidableEq, Repr

/-- R375. -/
def State.translate (s : State) (hk va : Nat) (sink : Bool) : Xlate :=
  match s.rangeOf hk va with
  | none => .bad 65
  | some n =>
    let w := s.rangeWord hk n 0
    if !bitAt w (if sink then 61 else 60) then .bad 67
    else
      let pa : Xlate :=
        if bitAt w 62 then
          match s.tlbLookup (s.edgePort hk) (bits w 10 11) va sink with
          | some p => .ok p
          | none => .miss (bits w 10 11)
        else .ok (bits (s.rangeWord hk n 1) 21 31 * 2 ^ 21 + (va - s.spanBase hk n))
      match pa with
      | .ok p => if s.backed p then .ok p else .bad 66
      | .miss a => .miss a
      | .bad c => .bad c

/-- The index of a level's table (R376). -/
def walkIndex (level asn va : Nat) : Nat :=
  if level = 0 then asn % 2 ^ 11
  else if level = 1 then va / 2 ^ 45 % 2 ^ 11
  else if level = 2 then va / 2 ^ 33 % 2 ^ 12
  else va / 2 ^ 21 % 2 ^ 12

/-- Kind 2 of R378: a nonzero bit that R377 marks zero, LEAF wrong for the level, a base that is
unbacked. -/
def State.entryWrong (s : State) (level : Nat) (e : Word64) : Bool :=
  let leaf := bitAt e 1
  bits e 52 12 != 0 ||
  (leaf && level < 2) || (!leaf && level == 3) ||
  (if leaf then
    if level = 2 then bits e 4 29 != 0 || !s.backed (bits e 33 19 * 2 ^ 33)
    else bits e 4 17 != 0 || !s.backed (bits e 21 31 * 2 ^ 21)
  else bits e 2 13 != 0 || !s.backed (bits e 15 37 * 2 ^ 15))

/-- What one stage of the walker graph makes of a token (R381): it goes on to the table of the next level,
or the walk ends. -/
inductive Hop
  | down (table : Nat)
  | out (w : Walk)
deriving DecidableEq, Repr

/-- The stage of a level reads its entry in a table (R376 to R378). Of the kinds that one entry meets the lowest is
reported (DESIGN CHOICE, log 132). -/
def State.walkStage (s : State) (asn va : Nat) (sink : Bool) (level table : Nat) : Hop :=
  let a := table + 8 * walkIndex level asn va
  let e := s.load64 (physKey a)
  if s.poisoned (physKey a) 8 then .out .poisoned
  else if !bitAt e 0 then .out (.fail (16 * level + 1))
  else if s.entryWrong level e then .out (.fail (16 * level + 2))
  else if bitAt e 1 then
    if sink && !bitAt e 2 then .out (.fail (16 * level + 3))
    else if !sink && !bitAt e 3 then .out (.fail (16 * level + 4))
    else
      .out (.leaf (if level = 2 then bits e 33 19 * 2 ^ 33 else bits e 21 31 * 2 ^ 21) (level == 2)
        (bitAt e 3) (bitAt e 2))
  else .down (bits e 15 37 * 2 ^ 15)

/-- The directory that the first stage reads (R383); one that nothing backs fails as kind 2 (log 27). -/
def State.walkTop (s : State) (wing : Nat) : Hop :=
  let w := s.sysCfg wing 2304
  let dir := bits w 15 37 * 2 ^ 15
  if !bitAt w 63 then .out (.fail 1)
  else if !s.backed dir then .out (.fail 2)
  else .down dir

/-- The walk from a level on, with the base of its table, as its stages would end it now. -/
def State.walkFrom (s : State) (asn va : Nat) (sink : Bool) : Nat → Nat → Nat → Walk
  | 0, _, _ => .fail 0
  | n + 1, level, table =>
    match s.walkStage asn va sink level table with
    | .out w => w
    | .down next => s.walkFrom asn va sink n (level + 1) next

/-- A whole walk in a wing, as its stages would end it now. -/
def State.walk (s : State) (wing asn va : Nat) (sink : Bool) : Walk :=
  match s.walkTop wing with
  | .out w => w
  | .down dir => s.walkFrom asn va sink 4 0 dir

/-- A miss token after the stage that it has reached (R381). -/
def State.advanceWalk (s : State) (t : WalkToken) : WalkToken :=
  let stage := s.walkStage t.asn.toNat t.va.toNat t.sink t.level
  let hop := if t.level = 0 then
      match s.walkTop (t.port / 4) with
      | .down dir => stage dir
      | .out w => .out w
    else stage t.table
  match hop with
  | .down next => { t with level := t.level + 1, table := next }
  | .out w => { t with found := some w }

/-- A leaf gives or forbids an access (R378, R380). -/
def leafPermits (sink rd wr : Bool) : Bool := if sink then wr else rd

/-- The physical address of an access in a leaf's page. -/
def leafAddr (base : Nat) (large : Bool) (va : Nat) : Nat :=
  base + va % (if large then 2 ^ 33 else 2 ^ 21)

/-- The physical address at which an access of a hall will be performed, as the ranges, the TLB and the
tables stand (R375, R380). -/
def State.physAddr (s : State) (hk va : Nat) (sink : Bool) : Option Nat :=
  match s.translate hk va sink with
  | .ok pa => some pa
  | .bad _ => none
  | .miss asn =>
    match s.walk (hk / 128) asn va sink with
    | .leaf base large _ _ => some (leafAddr base large va)
    | _ => none

/-- R379: a successful walk fills an entry; a full TLB gives up a free choice of entry. -/
def State.fillTlb (s : State) (port asn va base : Nat) (large rd wr : Bool) : State :=
  let e : TlbEntry :=
    { asn := BitVec.ofNat 11 asn, large := large, vpn := va / (if large then 2 ^ 33 else 2 ^ 21),
      base := base, rd := rd, wr := wr }
  let l := (s.tlb port).filter fun x => !(x.asn == e.asn && x.large == e.large && x.vpn == e.vpn)
  if l.length < 512 then { s with tlbs := mapPut port (l ++ [e]) s.tlbs }
  else
    { s with tlbs := mapPut port (l.eraseIdx (Config.tlbVictim s.fresh % 512) ++ [e]) s.tlbs,
             fresh := s.fresh + 1 }

end Sys2Proof.Machine
end

