-- ==== Sys2Proof/Machine/Streams.lean ====
section
/-!
DEFINITION. Streams (R206 to R208, R271, R272, R284 to R289, R431, R481) and withheld accesses (R381 to
R387).
-/

namespace Sys2Proof.Machine

/-! ### A stream's descriptor and its place in the walk -/

/-- Word i of stream n's descriptor. -/
def State.streamWord (s : State) (hk n i : Nat) : Word64 := s.hallCfg hk (8 * n + i)

/-- Fields of word 0 (R271). -/
def State.isSink (s : State) (hk n : Nat) : Bool := bitAt (s.streamWord hk n 0) 62
def State.isShared (s : State) (hk n : Nat) : Bool := bitAt (s.streamWord hk n 0) 61
def State.isQueue (s : State) (hk n : Nat) : Bool := bitAt (s.streamWord hk n 0) 60
def State.streamUnit (s : State) (hk n : Nat) : Nat := bits (s.streamWord hk n 0) 55 5
def State.streamSize (s : State) (hk n : Nat) : Nat := 32 * (bits (s.streamWord hk n 0) 39 8 + 1)
def State.ringCap (s : State) (hk n : Nat) : Nat := bits (s.streamWord hk n 0) 27 12
def State.ringKey (s : State) (hk n slot : Nat) : Nat :=
  hallKey hk (bits (s.streamWord hk n 1) 0 20 + slot % s.ringCap hk n * s.streamSize hk n)

/-- CNT and PTR (R271). -/
def State.streamCnt (s : State) (hk n : Nat) : Nat := bits (s.streamWord hk n 7) 32 32
def State.streamPtr (s : State) (hk n : Nat) : Nat := bits (s.streamWord hk n 7) 0 32

/-- BOUND of a dimension; 0 counts as 1 (R271). -/
def State.bound (s : State) (hk n d : Nat) : Nat := max 1 (bits (s.streamWord hk n (3 + d)) 40 24)

/-- STRIDE of a dimension, signed. -/
def State.stride (s : State) (hk n d : Nat) : Int :=
  (BitVec.ofNat 40 (bits (s.streamWord hk n (3 + d)) 0 40)).toInt

/-- Tokens of a walk (R272). -/
def State.walkTotal (s : State) (hk n : Nat) : Nat :=
  s.bound hk n 0 * s.bound hk n 1 * s.bound hk n 2 * s.bound hk n 3

/-- The address of token i (R272). -/
def State.tokenVa (s : State) (hk n i : Nat) : Nat :=
  let b := s.bound hk n
  let i0 := i % b 0
  let i1 := i / b 0 % b 1
  let i2 := i / (b 0 * b 1) % b 2
  let i3 := i / (b 0 * b 1 * b 2)
  let a : Int := (s.streamWord hk n 2).toNat + i0 * s.stride hk n 0 + i1 * s.stride hk n 1 +
    i2 * s.stride hk n 2 + i3 * s.stride hk n 3
  (a % (if s.isShared hk n then 2 ^ 64 else 2 ^ 56)).toNat

/-- The committed load that holds a hall in place. -/
def State.ownerOf (s : State) (hk : Nat) : Option Nat :=
  s.loadWhere fun _ l => l.committed && l.halls.any fun e => e.phys == hk && e.inPlace

/-- The committed load whose stream a hall's stream unit runs. -/
def State.streamOwner (s : State) (hk n : Nat) : Option Nat :=
  s.loadWhere fun _ l => l.committed && l.hasStream hk n && l.halls.any fun e => e.phys == hk && e.inPlace

/-- The flag of a pre-emption or of a stop has reached the stream units of a hall (R400, R455). -/
def State.hallFlagged (s : State) (h hk : Nat) : Bool :=
  let cs := (s.loadAt h).cores.filter fun c => c / 32 == hk
  cs == [] || cs.any fun c => (s.core c).preFlag || (s.core c).stopFlag

/-- A hall's streams begin and send tokens. -/
def State.streamsGo (s : State) (h hk : Nat) : Bool :=
  let l := s.loadAt h
  match l.state with
  | .running => true
  | .preempting | .stopping => !s.hallFlagged h hk
  | .frozen => !l.gated hk
  | _ => false

/-- A hall's streams go on with what they have begun. -/
def State.streamsLive (s : State) (h hk : Nat) : Bool :=
  let l := s.loadAt h
  l.state.goes && !l.gated hk

/-- A fault of a stream (R272, R483): the record names the stream and the token index. -/
def State.streamFault (s : State) (hk n h token code : Nat) (detail : Word64) : State :=
  s.faultOutside hk h { code := code, detail := detail, kind := 3, unit := n, token := token }

/-! ### Registered accesses (R285 to R289) -/

/-- Key of a stream. -/
def streamKey (hk n : Nat) : Nat := 64 * hk + n

/-- A line by number: of physical memory, at the bank or controller that serves it (R287); shared lines lie
above them. None while no page maps it. -/
def State.lineOf (s : State) (hk n u : Nat) : Option Nat :=
  if s.isShared hk n then some (2 ^ 64 + u)
  else (s.physAddr hk (64 * u % 2 ^ 56) (s.isSink hk n)).map (· / 64)

/-- The lines that token i touches, as far as its pages are mapped. -/
def State.tokenLines (s : State) (hk n i : Nat) : List Nat :=
  (unitsOf 64 (s.tokenVa hk n i) (s.streamSize hk n)).filterMap (s.lineOf hk n)

/-- Token i touches a page that nothing maps yet for its kind of access. -/
def State.tokenUnmapped (s : State) (hk n i : Nat) : Bool :=
  (unitsOf 64 (s.tokenVa hk n i) (s.streamSize hk n)).any fun u => (s.lineOf hk n u).isNone

/-- Two line lists meet. -/
def linesMeet (a b : List Nat) : Bool := a.any fun x => b.contains x

/-- Q and P_s of R285. -/
def State.seqQ (s : State) (h : Nat) : Nat :=
  ((s.streamsOf h).map fun e => s.qStream h e.2).foldl (· + ·) 0
def State.seqP (s : State) (h n : Nat) : Nat :=
  (((s.streamsOf h).filter fun e => e.2 < n).map fun e => s.qStream h e.2).foldl (· + ·) 0

/-- The sequence number of cumulative token i of stream n (R285). -/
def State.seqOf (s : State) (h n i : Nat) : Nat :=
  let q := s.qStream h n
  i / q * s.seqQ h + s.seqP h n + i % q

/-- A context of a load can still issue stream form fn on a stream (R206): a word in the extent of an actor that
has not retired holds it (R96). -/
def State.mayIssue (s : State) (h fn n : Nat) : Bool :=
  s.mem.any fun e => e.2 == 0xA0 && e.1 % 4 == 2 && e.1 / 2 ^ 60 == 1 &&
    s.load (e.1 - 2) 4 % 2 ^ 28 == 0x65 * 2 ^ 21 + n * 2 ^ 11 + fn &&
    let c := (e.1 - 2 ^ 60) / 2 ^ 15
    let pc := (e.1 - 2 ^ 60) % 2 ^ 15 / 4
    (s.loadAt h).cores.contains c && (s.actorsOf c).any fun a =>
      let w := s.actorWord c a 0
      !s.retired c a && bits w 0 13 ≤ pc && pc < bits w 0 13 + bits w 13 14

/-- The walk position of the j-th token from the next one on that a stream performs. Past the end of the walk, and
for a stream that is idle or stops, there is one only while an SSTART of the stream can still issue, and the walk
is then a new one (R206, R272, R285, R287). -/
def State.laterPos (s : State) (h hk n j : Nat) : Option Nat :=
  let t := s.stream hk n
  let total := s.walkTotal hk n
  let anew := fun (p : Nat) => if s.mayIssue h 0 n then some (p % total) else none
  match t.mode with
  | .idle | .finished => anew j
  | .stopping => if t.busy && j == 0 then some t.pos else anew (j - if t.busy then 1 else 0)
  | .running | .held => if t.pos + j < total then some (t.pos + j) else anew (t.pos + j)

/-- The walk positions that the j-th token from the next one on may have while both an SSTOP and an SSTART of the
stream can still issue (DESIGN CHOICE, log 108). -/
def State.restartPos (s : State) (h hk n j : Nat) : List Nat :=
  let k := j + 1 - if (s.stream hk n).busy then 1 else 0
  if s.mayIssue h 1 n && s.mayIssue h 0 n then steps 0 1 (min k (s.walkTotal hk n)) else []

/-- R287, R288: an unperformed token of another stream that comes first in the load's memory order and
meets this one in a line, one of them writing. A token that its stream has not begun is waited for as long as
it can still arrive; a token whose page nothing maps yet cannot be registered,
and whatever comes behind it in seq order waits (R287). A stream that issues no token in the mode, its q being
0, is none to wait for. -/
def State.orderedBehind (s : State) (h hk n : Nat) : Bool :=
  let t := s.stream hk n
  let seq := s.seqOf h n (t.cumulative - 1)
  let mine := s.tokenLines hk n t.pos
  (s.streamsOf h).any fun e =>
    let u := s.stream e.1 e.2
    let first := if u.busy then u.cumulative - 1 else u.cumulative
    let meets := fun (i : Nat) =>
      linesMeet mine (s.tokenLines e.1 e.2 i) || (!s.isShared hk n && s.tokenUnmapped e.1 e.2 i)
    e.2 != n && (s.isSink e.1 e.2 || s.isSink hk n) && s.qStream h e.2 != 0 &&
      (steps 0 1 (seq + 1)).any fun j => s.seqOf h e.2 (first + j) < seq &&
        ((s.laterPos h e.1 e.2 j).any meets || (s.restartPos h e.1 e.2 j).any meets)

/-- R289: the lines of the token in hand are registered as far as its pages are mapped by now. Each
unperformed token of another stream that meets it in a line first now, with a write between them, enters one
race event (log 28: CORE names the lower stream's hall). An ordered load enters none. -/
def State.raceEvents (s : State) (h hk n : Nat) : State :=
  match mapFind (streamKey hk n) s.saccs, (s.loadAt h).ordered with
  | some a, false =>
    let mine := s.tokenLines hk n a.seq
    let s' := (s.saccs.filter fun e => e.2.load == h && e.2.stream != n && (e.2.write || a.write) &&
      linesMeet mine e.2.lines && !linesMeet a.lines e.2.lines).foldl
      (fun s e =>
        let low := if e.2.stream < n then (e.2.hall, e.2.stream, e.2.seq) else (hk, n, a.seq)
        let high := max e.2.stream n
        s.detEvent h 1 0 (BitVec.ofNat 16 (16 * s.userOfHall low.1))
          (BitVec.ofNat 16 (256 * low.2.1 + high)) (BitVec.ofNat 32 low.2.2)) s
    { s' with saccs := mapPut (streamKey hk n) { a with lines := mine } s'.saccs }
  | _, _ => s

/-! ### The bytes of a token -/

/-- The 64-byte pieces of a token: offset in the token and length. -/
def piecesOf (a size : Nat) : List (Nat × Nat) :=
  (unitsOf 64 a size).map fun u =>
    let lo := max a (64 * u)
    (lo - a, min (a + size) (64 * u + 64) - lo)

/-- How an access ended. -/
inductive LineEnd
  | done
  | miss (asn va : Nat)
  | bad (cause va : Nat)
  /-- the CXL port that serves it has no link, and no completion comes (R444) -/
  | lost (port : Nat)
deriving DecidableEq, Repr

/-- A piece moves between physical memory and the ring, with its marks. -/
def State.movePiece (s : State) (pa ring len : Nat) (sink : Bool) : State :=
  if sink then s.storeMarked (physKey pa) (memBytes s.mem ring len) (s.poisonOf ring len)
  else s.storeMarked ring (memBytes s.mem (physKey pa) len) (s.poisonOf (physKey pa) len)

/-- The CXL port that serves a physical address (R370). -/
def cxlPortOf (pa : Nat) : Option Nat :=
  if 1 ≤ pa / 2 ^ 48 ∧ pa / 2 ^ 48 < 5 then some (pa / 2 ^ 48 - 1) else none

/-- The pieces of a virtual token from a line on, in order (R372, R375, R387). `given` is the address that
a walk has just found for one of them (R380). -/
def State.movePieces (hk n : Nat) (sink : Bool) (va ring : Nat) (given : Option (Nat × Nat)) :
    List (Nat × Nat) → State → State × LineEnd
  | [], s => (s, .done)
  | (off, len) :: rest, s =>
    let a := (va + off) % 2 ^ 56
    let x : Xlate :=
      match given with
      | some (v, pa) => if v = a then (if s.backed pa then .ok pa else .bad 66) else s.translate hk a sink
      | none => s.translate hk a sink
    match x with
    | .bad c => (s, .bad c a)
    | .miss asn => (s, .miss asn a)
    | .ok pa =>
      match (cxlPortOf pa).filter fun p => s.cxlDown.contains p || s.cxlSilent.contains p with
      | some p => (s, .lost p)
      | none =>
        let s := s.movePiece pa (ring + off) len sink
        let t := s.stream hk n
        State.movePieces hk n sink va ring given rest (s.setStream hk n { t with line := t.line + 1 })

/-- Where the bytes of the token in hand lie: the ring slot, or the queue's slot for a queue sink. -/
def State.tokenPlace (s : State) (h hk n : Nat) : Nat :=
  let t := s.stream hk n
  if s.isSink hk n then
    if s.isQueue hk n then
      match s.homeOf h (s.streamUnit hk n) with
      | some (home, slots) =>
        tokenKey home slots (s.streamSize hk n) ((s.qNext home + 2 ^ 32 - 1) % 2 ^ 32 % slots)
      | none => 0
    else s.ringKey hk n (s.streamPtr hk n)
  else s.ringKey hk n t.pos

/-! ### Ends of tokens and walks -/

/-- A stream's walk ends (R272): a queue source closes its queue (R431). -/
def State.finishStream (s : State) (h hk n : Nat) : State :=
  let s := s.setStream hk n { s.stream hk n with mode := .finished, busy := false }
  let s := s.later 1 .loadComplete
  if s.isQueue hk n && !s.isSink hk n then
    match s.homeOf h (s.streamUnit hk n) with
    | some (home, _) => s.later 1 (.queueClose h (s.streamUnit hk n) (BitVec.ofNat 32 (s.qPseq home)))
    | none => s
  else s

/-- R206: the performed access of a stream releases the streams that an SBAR held for it. -/
def State.releaseBar (s : State) (h n : Nat) : State :=
  (s.streamsOf h).foldl (fun s e =>
    let t := s.stream e.1 e.2
    if t.bar.contains n then
      let bar := setDel n t.bar
      s.setStream e.1 e.2
        { t with bar := bar, mode := if bar = [] && t.mode == .held then .running else t.mode }
    else s) s

/-- A credit of a sink stream with END 0 (R251, R271). -/
def State.sinkCredit (s : State) (h hk n : Nat) : State :=
  s.sendPacket
    { id := 0, load := h, rc := BitVec.ofNat 8 (bits (s.streamWord hk n 0) 47 8), kind := 1, fan := 0,
      size := BitVec.ofNat 8 (bits (s.streamWord hk n 0) 39 8),
      seq := BitVec.ofNat 32 (s.streamPtr hk n), data := [], poison := [], hall := hk }

/-- What stopping, or the end of the walk, makes of a stream between tokens (R206, R272). A source that
stops has sent what it had read. -/
def State.settleStream (s : State) (h hk n : Nat) : State :=
  let t := s.stream hk n
  if t.mode == .stopping then
    if t.ahead = 0 then (s.setStream hk n { t with mode := .idle }).later 1 .loadComplete else s
  else if s.walkTotal hk n ≤ t.pos && t.ahead == 0 then s.finishStream h hk n
  else s

/-- The token in hand has been performed. -/
def State.tokenPerformed (s : State) (h hk n : Nat) : State :=
  let s := { s with saccs := mapDel (streamKey hk n) s.saccs }
  let s := s.releaseBar h n
  let t := s.stream hk n
  if s.isSink hk n then
    let s := s.setStream hk n { t with busy := false, line := 0, pos := t.pos + 1, done := t.done + 1 }
    let s := if s.isQueue hk n then
        match s.homeOf h (s.streamUnit hk n) with
        | some (home, slots) =>
          s.retireIndex h (s.streamUnit hk n) home slots ((s.qNext home + 2 ^ 32 - 1) % 2 ^ 32)
        | none => s
      else
        (s.setHallWord hk n 7 (withBits (s.streamWord hk n 7) 0 32 (s.streamPtr hk n + 1))).sinkCredit
          h hk n
    (s.progress (some h)).settleStream h hk n
  else
    (s.setStream hk n { t with busy := false, line := 0, pos := t.pos + 1, ahead := t.ahead + 1 }).settleStream
      h hk n

/-- The token in hand stops with a fault of the load. -/
def State.tokenFails (s : State) (h hk n code : Nat) (detail : Word64) : State :=
  let t := s.stream hk n
  let s := { s with saccs := mapDel (streamKey hk n) s.saccs }
  (s.setStream hk n { t with busy := false }).streamFault hk n h t.pos code detail

/-- The access in hand of a stream is discarded, and it makes no other (R444). -/
def State.cutAccess (s : State) (hk n : Nat) : State :=
  { s with saccs := mapDel (streamKey hk n) s.saccs }.setStream hk n
    { s.stream hk n with busy := false, cut := true, lost := none }

/-- Walks that an edge port has in flight. -/
def State.portWalks (s : State) (port : Nat) : List (Nat × WalkToken) :=
  s.walks.filter fun e => e.2.port == port

/-- The lowest of a port's 256 tags that no walk in flight holds (R382). -/
def State.freeTag (s : State) (port : Nat) : Option Nat :=
  (steps 0 1 256).find? fun n => (s.portWalks port).all fun e => e.2.tag.toNat != n

/-- A waiting access replaced. -/
def State.putWithheld (s : State) (w : Withheld) : State :=
  { s with withheld := mapPut w.id w s.withheld }

/-- A miss joins the walk of its ASN and 2 MiB page that its port has in flight, or starts one under a free
port tag, or waits for a tag (R381, R382). -/
def State.joinWalk (s : State) (id : Nat) : State :=
  match mapFind id s.withheld with
  | none => s
  | some w =>
    let port := s.edgePort w.hall
    match (s.portWalks port).find? fun e =>
        e.2.asn == w.asn && e.2.va.toNat / 2 ^ 21 == w.va.toNat / 2 ^ 21 with
    | some e => s.putWithheld { w with walk := some e.1, wants := false }
    | none =>
      match s.freeTag port with
      | none => s.putWithheld { w with wants := true }
      | some tag =>
        let k := s.nextId
        let t : WalkToken :=
          { port := port, tag := BitVec.ofNat 8 tag, va := w.va, asn := w.asn, sink := w.sink }
        (({ s.newId with walks := mapPut k t s.walks }).putWithheld
          { w with walk := some k, wants := false }).later 1 (.walkResult k)

/-- A miss waits for the walker. -/
def State.startWalk (s : State) (h hk n asn va : Nat) : State :=
  let id := s.nextId
  let w : Withheld :=
    { id := id, load := h, hall := hk, stream := n, token := (s.stream hk n).pos, va := BitVec.ofNat 56 va,
      asn := BitVec.ofNat 11 asn, sink := s.isSink hk n, since := s.cycle, failed := false, cause := 0 }
  (s.newId.putWithheld w).joinWalk id

/-- A sink's token is poisoned where it lies (R207). -/
def State.tokenPoisoned (s : State) (h hk n : Nat) : Bool :=
  s.isSink hk n && s.poisoned (s.tokenPlace h hk n) (s.streamSize hk n)

/-- An access or a copy of a context of the hall, merged at its egress and not performed, touches a range
(R280, R284). -/
def State.mergedOn (s : State) (hk key len : Nat) : Bool :=
  (s.accs.any fun e => e.2.merged && hallOfCore e.2.core == hk && overlaps e.2.key e.2.bytes key len) ||
    s.copies.any fun e => e.2.merged && hallOfCore e.2.core == hk && overlaps e.2.target e.2.len key len

/-- Cycles of 1 ms (R444). -/
def cxlPatience : Nat := 1050000

/-- The access of the token in hand (R272, R273, R282, R372); `given` as in movePieces. A request that a CXL port
leaves without an answer is not sent again (R444). -/
def State.performToken (s : State) (h hk n : Nat) (given : Option (Nat × Nat) := none) : State :=
  let s := s.raceEvents h hk n
  let t := s.stream hk n
  let sink := s.isSink hk n
  let size := s.streamSize hk n
  let va := s.tokenVa hk n t.pos
  let place := s.tokenPlace h hk n
  if s.tokenPoisoned h hk n then s.tokenFails h hk n codePoison 0
  else if s.isShared hk n then
    match s.sharedKey (BitVec.ofNat 64 va) size with
    | none => s.tokenFails h hk n codeRange (memDetail 49 n va)
    | some key =>
      if s.mergedOn hk key size then
        s.retry (if (s.loadAt h).ordered then .orderedAccessPerform hk n else .streamToken hk n)
      else
        let s := if sink then (s.storeMarked key (memBytes s.mem place size) []).setFull key size
          else s.storeMarked place (memBytes s.mem key size) (s.poisonOf key size)
        (s.tokenPerformed h hk n).later 1 (.streamToken hk n)
  else if t.lost.isSome then s
  else
    match State.movePieces hk n sink va place given ((piecesOf va size).drop t.line) s with
    | (s, .done) => (s.tokenPerformed h hk n).later 1 (.streamToken hk n)
    | (s, .miss asn a) => s.startWalk h hk n asn a
    | (s, .lost port) =>
      if (s.loadAt h).deadPorts.contains port then s.cutAccess hk n
      else (s.setStream hk n { s.stream hk n with lost := some port, issued := s.cycle }).at
        (s.cycle + cxlPatience) (.cxlTimeout port)
    | (s, .bad c a) => s.tokenFails h hk n codeRange (memDetail c n a)

/-! ### STREAM_TOKEN and ORDERED_ACCESS_PERFORM -/

/-- A drain lets the stream begin a token (R481). -/
def State.drainAllows (s : State) (h hk n : Nat) : Bool :=
  let l := s.loadAt h
  !l.draining || (l.targets && (s.stream hk n).fcnt < (s.stream hk n).tgt)

/-- A source's consumer end has a slot for one token more than those read ahead: WCAP − (CNT − PTR) of
them at a window, the queue's slots by index at a queue (R271, R297). -/
def State.slotAhead (s : State) (h hk n : Nat) : Bool :=
  let ahead := (s.stream hk n).ahead
  if s.isQueue hk n then
    match s.homeOf h (s.streamUnit hk n) with
    | some (home, slots) =>
      seqDiff (s.qPseq home) (s.qFreed home) + ahead < slots &&
        s.slotSt home ((s.qPseq home + ahead) % 2 ^ 32 % slots) == 0
    | none => false
  else seqDiff (s.streamCnt hk n) (s.streamPtr hk n) + ahead < bits (s.streamWord hk n 1) 28 12

/-- A token can be had: for a source, ring space and a free slot at its consumer, for which it waits
before it reads; for a sink, a committed token or a grant (R271, R272, R431). -/
def State.tokenThere (s : State) (h hk n : Nat) : Bool :=
  if s.isSink hk n then
    if s.isQueue hk n then
      match s.homeOf h (s.streamUnit hk n) with
      | some (home, slots) =>
        s.slotSt home (s.qNext home % slots) == 2 && s.slotIdx home (s.qNext home % slots) == s.qNext home
      | none => false
    else seqDiff (s.streamCnt hk n) (s.streamPtr hk n) != 0
  else (s.stream hk n).ahead < s.ringCap hk n && s.slotAhead h hk n

/-- A stream begins its next token (R272, R400, R444, R481). -/
def State.mayBegin (s : State) (h hk n : Nat) : Bool :=
  let t := s.stream hk n
  t.mode == .running && !t.cut && s.streamsGo h hk && t.pos < s.walkTotal hk n &&
    s.drainAllows h hk n && s.tokenThere h hk n

/-- A token begins: it is counted and registered, and a queue sink's claim is granted (R285, R289,
R297, R481). -/
def State.beginToken (s : State) (h hk n : Nat) : State :=
  let t := s.stream hk n
  let ordered := (s.loadAt h).ordered
  let s := s.setStream hk n
    { t with busy := true, cumulative := t.cumulative + 1, fcnt := t.fcnt + 1, issued := s.cycle }
  let a : StreamAcc :=
    { load := h, hall := hk, stream := n, seq := t.pos, write := s.isSink hk n, lines := [] }
  let s := State.raceEvents { s with saccs := mapPut (streamKey hk n) a s.saccs } h hk n
  let s := if s.isSink hk n && s.isQueue hk n then
      match s.homeOf h (s.streamUnit hk n) with
      | some (home, slots) =>
        let f := s.qNext home
        (s.setSlot home (f % slots) 3 f).setWord home ((f + 1) % 2 ^ 32)
      | none => s
    else s
  s.later 1 (if ordered then .orderedAccessPerform hk n else .streamToken hk n)

/-- A token read ahead may be sent: its consumer end has a free slot (R271), or its queue's next slot
is free (R297). -/
def State.maySend (s : State) (h hk n : Nat) : Bool :=
  let t := s.stream hk n
  0 < t.ahead && !s.isSink hk n && (t.mode == .running || t.mode == .stopping) && s.streamsGo h hk &&
  (if s.isQueue hk n then
    match s.homeOf h (s.streamUnit hk n) with
    | some (home, slots) =>
      seqDiff (s.qPseq home) (s.qFreed home) < slots && s.slotSt home (s.qPseq home % slots) == 0
    | none => false
  else
    seqDiff (s.streamCnt hk n) (s.streamPtr hk n) < bits (s.streamWord hk n 1) 28 12)

/-- The oldest token read ahead is sent (R271, R431). -/
def State.sendToken (s : State) (h hk n : Nat) : State :=
  let t := s.stream hk n
  let size := s.streamSize hk n
  let ring := s.ringKey hk n (t.pos - t.ahead)
  let data := memBytes s.mem ring size
  let po := s.poisonOf ring size
  let s := s.setStream hk n { t with ahead := t.ahead - 1, done := t.done + 1 }
  let s := if s.isQueue hk n then
      match s.homeOf h (s.streamUnit hk n) with
      | some (home, slots) => s.commitSlot home slots size (s.qPseq home) true data (halfMarks po)
      | none => s
    else
      let seq := s.streamCnt hk n
      let s := s.sendPacket
        { id := 0, load := h, rc := BitVec.ofNat 8 (bits (s.streamWord hk n 0) 47 8), kind := 0, fan := 0,
          size := BitVec.ofNat 8 (bits (s.streamWord hk n 0) 39 8), seq := BitVec.ofNat 32 seq,
          data := data, poison := po, hall := hk }
      s.setHallWord hk n 7 (withBits (s.streamWord hk n 7) 32 32 (seq + 1))
  (s.progress (some h)).settleStream h hk n

/-- A sink that drains a closed queue whose every index is claimed, before its walk ends (R431). -/
def State.sinkClosed (s : State) (h hk n : Nat) : Bool :=
  let t := s.stream hk n
  t.mode == .running && s.streamsGo h hk && s.isSink hk n && s.isQueue hk n &&
    t.pos < s.walkTotal hk n && s.queueDone h (s.streamUnit hk n)

/-- WINDOW_CLOSED of a sink (R431, R483): the record names the queue and goes to the home's wing. -/
def State.sinkClosedFault (s : State) (h hk n : Nat) : State :=
  let q := s.streamUnit hk n
  match s.homeOf h q with
  | some (home, _) =>
    let at' := if isHallKey home then home / 2 ^ 20 % 512 else hk
    s.faultOutside at' h
      { code := codeClosed, kind := 2, unit := q, token := s.qNext home, decl := 1 }
  | none => s

/-- A stream that goes on at a stage queue whose bytes at HOME are not well formed (R486). -/
def State.homeAstray (s : State) (h hk n : Nat) : Bool :=
  (s.stream hk n).mode == .running && s.streamsGo h hk && s.isQueue hk n &&
    (s.queueHall h (s.streamUnit hk n)).isSome && (s.homeOf h (s.streamUnit hk n)).isNone

/-- RANGE 49 of such a stream, which names it and the token index (R272, R483, R486). -/
def State.homeAstrayFault (s : State) (h hk n : Nat) : State :=
  let q := s.streamUnit hk n
  let home := s.homeAddr ((s.queueHall h q).getD hk) q
  s.streamFault hk n h (s.stream hk n).pos codeRange (memDetail 49 n home.toNat)

/-- A withheld or walking access stands for a stream. -/
def State.waitsWalk (s : State) (hk n : Nat) : Bool :=
  s.withheld.any fun e => e.2.hall == hk && e.2.stream == n

/-- STREAM_TOKEN (R272): the stream's next act: the access of the token in hand, a token sent, or a
token begun; else it looks again. -/
def execStreamToken (hall stream : Nat) (s : State) : Answer :=
  match s.streamOwner hall stream with
  | none => .next s
  | some h =>
    let t := s.stream hall stream
    let live := s.streamsLive h hall
    if t.mode == .idle || t.mode == .finished || !live then .next s
    else if t.busy then
      if (s.loadAt h).ordered || s.waitsWalk hall stream then .next s
      else .next (s.performToken h hall stream)
    else if t.mode == .stopping && t.ahead == 0 then .next (s.settleStream h hall stream)
    else if s.maySend h hall stream then
      .next ((s.sendToken h hall stream).later 1 (.streamToken hall stream))
    else if s.sinkClosed h hall stream then .next (s.sinkClosedFault h hall stream)
    else if s.homeAstray h hall stream then .next (s.homeAstrayFault h hall stream)
    else if s.mayBegin h hall stream then .next (s.beginToken h hall stream)
    else .next (s.retry (.streamToken hall stream))

/-- ORDERED_ACCESS_PERFORM (R286 to R288): the registered access is performed once no conflicting
access of lower seq is unperformed. -/
def execOrderedAccessPerform (hall stream : Nat) (s : State) : Answer :=
  match s.streamOwner hall stream with
  | none => .next s
  | some h =>
    let t := s.stream hall stream
    let live := s.streamsLive h hall
    if !t.busy || !live || s.waitsWalk hall stream then .next s
    else if s.orderedBehind h hall stream then .next (s.retry (.orderedAccessPerform hall stream))
    else .next (s.performToken h hall stream)

/-! ### Withheld accesses (R381 to R387) -/

/-- The event that goes on with a stream's token. -/
def State.resumeToken (s : State) (h hk n : Nat) : State :=
  s.later 1 (if (s.loadAt h).ordered then .orderedAccessPerform hk n else .streamToken hk n)

/-- RETRY and FLIM of a wing (R383). -/
def State.walkRetry (s : State) (wing : Nat) : Nat := max 256 (bits (s.sysCfg wing 2305) 32 16)
def State.walkLimit (s : State) (wing : Nat) : Nat := max 1024 (bits (s.sysCfg wing 2305) 0 32)

/-- A walk that failed withholds the access, whose page is walked again at every RETRY cycles from the first
failure on (R385). -/
def State.walkFailed (s : State) (w : Withheld) (cause : Nat) : State :=
  let wing := w.hall / 128
  let since := if w.failed then w.since else s.cycle
  let again := s.cycle + s.walkRetry wing - (s.cycle - since) % s.walkRetry wing
  let s := s.putWithheld { w with cause := BitVec.ofNat 8 cause, failed := true, retryAt := again,
                                  since := since }
  let s := s.setStream w.hall w.stream { s.stream w.hall w.stream with page := true }
  let s := s.at again (.rewalk w.id)
  if w.failed then s else s.at (s.cycle + s.walkLimit wing) (.flimExpiry w.id)

/-- A walk that met a poisoned entry stops the load (R378). -/
def State.walkPoisoned (s : State) (w : Withheld) : State :=
  let s := { s with withheld := mapDel w.id s.withheld }
  s.tokenFails w.load w.hall w.stream codePoison 0

/-- The access that a leaf permits is performed at the leaf's page (R380, R385), in an ordered load once those
of lower seq that it meets there are performed (R287), unless its load stands still; then it waits for the load's resumption. -/
def State.walkServes (s : State) (w : Withheld) (pa : Nat) : State :=
  if s.streamsLive w.load w.hall then
    let s := { s with withheld := mapDel w.id s.withheld }
    let s := s.setStream w.hall w.stream { s.stream w.hall w.stream with page := false }
    if (s.loadAt w.load).ordered && s.orderedBehind w.load w.hall w.stream then
      s.retry (.orderedAccessPerform w.hall w.stream)
    else s.performToken w.load w.hall w.stream (some (w.va.toNat, pa))
  else s.putWithheld w

/-- A walk's token reaches an access that waits for it (R380, R382): one that its leaf forbids is a miss
again. -/
def State.walkAnswers (f : Walk) (s : State) (e : Nat × Withheld) : State :=
  let w := { e.2 with walk := none, again := false }
  match f with
  | .leaf base large rd wr =>
    if leafPermits w.sink rd wr then s.walkServes w (leafAddr base large w.va.toNat)
    else (s.putWithheld w).joinWalk w.id
  | .fail cause => s.walkFailed w cause
  | .poisoned => s.walkPoisoned w

/-- The misses that wait for a tag of a port try again (R382). -/
def State.wakeMisses (s : State) (port : Nat) : State :=
  (s.withheld.filter fun e => e.2.wants && s.edgePort e.2.hall == port).foldl
    (fun s e => s.joinWalk e.1) s

/-- A walk ends at its port (R379, R382): a success fills the TLB, every access that waits for it has its
token, and the misses that wait for a port tag try again. -/
def State.endWalk (s : State) (id : Nat) (t : WalkToken) (f : Walk) : State :=
  let mine := s.withheld.filter fun e => e.2.walk == some id
  let s := { s with walks := mapDel id s.walks }
  let s := match f with
    | .leaf base large rd wr => s.fillTlb t.port t.asn.toNat t.va.toNat base large rd wr
    | _ => s
  (mine.foldl (State.walkAnswers f) s).wakeMisses t.port

/-- WALK_RESULT (R378, R381, R382, R385): a walk's token passes its next stage, or returns to its port. -/
def execWalkResult (id : Nat) (s : State) : Answer :=
  match mapFind id s.walks with
  | none => .next s
  | some t =>
    match t.found with
    | some f => .next (s.endWalk id t f)
    | none => .next ({ s with walks := mapPut id (s.advanceWalk t) s.walks }.later 1 (.walkResult id))

/-- REWALK (R385, R400): the page of a withheld access is walked again. -/
def execRewalk (id : Nat) (s : State) : Answer :=
  match mapFind id s.withheld with
  | none => .next s
  | some w =>
    if w.failed && w.walk.isNone && w.retryAt ≤ s.cycle && s.streamsLive w.load w.hall then
      .next (s.joinWalk id)
    else .next s

/-! ### Instructions -/

/-- The hall of a stream of the executing core's load. -/
def State.myStream (s : State) (n : Nat) : Option Nat :=
  match s.curK.load with
  | some h => s.streamHall h n
  | none => none

/-- RANGE 52 (R206). -/
def State.noStream (s : State) (n : Nat) : Bool × FaultInfo :=
  ((s.myStream n).isNone, unitFault codeRange 52 (n % 32) 0)

/-- The event chain of a stream, unless one is on the agenda. -/
def State.kickStream (s : State) (hk n : Nat) : State :=
  if s.agenda.any fun e => e.2 == .streamToken hk n then s else s.later 1 (.streamToken hk n)

/-- A stream begins its walk (R206, R208, R272), held while an SBAR orders it behind an access (R284). One that is
stopping or held by an SBAR is unchanged, as a running one is (DESIGN CHOICE, log 105). -/
def State.startStream (s : State) (hk n : Nat) : State :=
  let t := s.stream hk n
  if t.mode == .idle || t.mode == .finished then
    (s.setStream hk n { t with mode := if t.bar = [] then .running else .held, pos := 0, done := 0,
                               ahead := 0, line := 0, busy := false }).kickStream hk n
  else s

/-- SSTART (R206, R284). -/
def execSstart (q : Issue) (n : BitVec 5) (s : State) : Answer :=
  issue q 1 (!s.inStub && s.memHeld)
    (firstFault [(s.inStub, stubFault s.word), s.noStream n.toNat]) none
    (fun s =>
      match s.myStream n.toNat with
      | some hk => s.elasticEffect.startStream hk n.toNat
      | none => s) s

/-- A stream completes what it has in hand and becomes idle (R206): the token whose access is under way,
and the tokens that a source has read and not sent. What an SBAR holds it behind stays (R284). -/
def State.stopStream (s : State) (hk n : Nat) : State :=
  let t := s.stream hk n
  if t.mode == .idle || t.mode == .stopping then s
  else if t.busy || 0 < t.ahead then (s.setStream hk n { t with mode := .stopping }).kickStream hk n
  else (s.setStream hk n { t with mode := .idle }).later 1 .loadComplete

/-- SSTOP (R206). -/
def execSstop (q : Issue) (n : BitVec 5) (s : State) : Answer :=
  issue q 1 (!s.inStub && s.memHeld)
    (firstFault [(s.inStub, stubFault s.word), s.noStream n.toNat]) none
    (fun s =>
      match s.myStream n.toNat with
      | some hk => s.elasticEffect.stopStream hk n.toNat
      | none => s) s

/-- The stream numbers of a mask. -/
def maskBits (v : Word64) : List Nat := (steps 0 1 64).filter fun n => bitAt v n

/-- SBAR on named streams: each makes no other access before the named streams' accesses under way are performed,
one that runs and one that only starts later (R206, R284). -/
def State.barStreams (s : State) (named : List Nat) : State :=
  let under := named.filter fun n =>
    match s.myStream n with
    | some hk => (s.stream hk n).busy
    | none => false
  named.foldl (fun s n =>
    match s.myStream n with
    | some hk =>
      let t := s.stream hk n
      if under = [] then s
      else s.setStream hk n { t with bar := under.foldl (fun b m => setAdd m b) t.bar,
                                     mode := if t.mode == .running then .held else t.mode }
    | none => s) s

/-- SBAR (R206). RANGE names the lowest bad bit of the mask, modulo 32 (DESIGN CHOICE, log 95). -/
def execSbar (q : Issue) (b : XReg) (s : State) : Answer :=
  let bad := (maskBits (s.x b).v).filter fun n => 31 < n || (s.myStream n).isNone
  issue q 1 (!s.inStub && s.memHeld)
    (firstFault [(s.inStub, stubFault s.word), ((s.x b).po, poisonX b),
      (bad != [], unitFault codeRange 52 ((bad.head?.getD 0) % 32) 0)]) none
    (fun s => s.elasticEffect.barStreams (maskBits (s.x b).v)) s

/-- STATE of R208. -/
def StreamMode.code : StreamMode → Nat
  | .idle => 0
  | .running => 1
  | .stopping => 2
  | .held => 3
  | .finished => 4

/-- The word of R208. -/
def State.sstatWord (s : State) (hk n : Nat) : Word64 :=
  let t := s.stream hk n
  BitVec.ofNat 64 (t.done.toNat * 2 ^ 32 + (if t.page then 8 else 0) + StreamMode.code t.mode)

/-- SSTAT (R206, R208, R284): an acquire, whose value is taken as it stands when the request leaves. -/
def execSstat (q : Issue) (n : BitVec 5) (s : State) : Answer :=
  issue q 1 (s.memHeld || s.cur.rqFull) (firstFault [s.noStream n.toNat]) none
    (fun s =>
      let id := s.nextId
      let v := match s.myStream n.toNat with
        | some hk => s.sstatWord hk n.toNat
        | none => 0
      ((s.holdAcquire true).deferEntry true).later 1
        (.deferredResultArrival s.curCore s.curCtx id v false)) s

end Sys2Proof.Machine
end

