-- ==== Sys2Proof/Machine/System.lean ====
section
/-!
DEFINITION. Configuration: its addresses, the fields of every word, transactions, commit and abort
(R228 to R231, R235), the defect map (R233) and the result areas of system forms (R226, R227).
-/

namespace Sys2Proof.Machine

/-! ### CRC-32C (R230) -/

/-- One bit of the reflected CRC-32C. -/
def crcBit (c : BitVec 32) : BitVec 32 :=
  if c.getLsbD 0 then (c >>> 1) ^^^ 0x82F63B78#32 else c >>> 1

/-- One byte of CRC-32C. -/
def crcByte (c : BitVec 32) (b : Byte) : BitVec 32 :=
  crcBit (crcBit (crcBit (crcBit (crcBit (crcBit (crcBit (crcBit (c ^^^ b.setWidth 32))))))))

/-- CRC-32C continued over bytes from a finished value. -/
def crc32cMore (crc : BitVec 32) (data : List Byte) : BitVec 32 := ~~~(data.foldl crcByte (~~~crc))

/-- CRC-32C of bytes. -/
def crc32c (data : List Byte) : BitVec 32 := crc32cMore 0 data

/-! ### Configuration addresses (R228's tables, R229) -/

/-- Last word of a space. -/
def spaceLimit (space : Nat) : Nat :=
  if space = 0 then 4095 else if space = 1 then 16383 else if space = 2 then 63
  else if space = 3 then 255 else if space = 4 then 4095 else if space = 5 then 1023
  else if space = 6 then 4095 else 131071

/-- Units, space and word of a configuration address inside its table. -/
def cfgTarget (a : Word64) : Option (Nat × Nat × Nat) :=
  let unit := a.toNat / 2 ^ 34
  let core := bits a 34 5
  let space := bits a 30 4
  let off := bits a 0 30
  if bits a 48 16 = 0 ∧ bits a 39 7 ≤ 66 ∧ space < 8 ∧ off ≤ spaceLimit space ∧
      (if space < 6 then core ≤ 16 else core = 31) then
    some (unit, space, off)
  else none

/-- The units that a CFGCRC names: a physical core, or a hall's units. -/
def crcTarget (a : Word64) : Option Nat :=
  let core := bits a 34 5
  if bits a 48 16 = 0 ∧ bits a 39 7 ≤ 66 ∧ (core ≤ 16 ∨ core = 31) ∧ bits a 0 34 = 0 then
    some (a.toNat / 2 ^ 34)
  else none

/-- Router and route class of a route address. -/
def routeTarget (a : Word64) : Option (Nat × Nat) :=
  if bits a 48 16 = 0 ∧ bits a 39 7 ≤ 66 ∧ bits a 8 31 = 0 then
    some (a.toNat / 2 ^ 39, bits a 0 8)
  else none

/-- The hall of a DMAP operand. -/
def dmapTarget (a : Word64) : Option Nat :=
  if bits a 48 16 = 0 ∧ bits a 39 7 ≤ 66 ∧ bits a 0 39 = 0 then some (a.toNat / 2 ^ 39) else none

/-- The hall of units. -/
def hallOfUnit (unit : Nat) : Nat := unit / 32

/-- Units that are a system hall's own: configured word by word, and no target of a load. -/
def isSystemUnits (unit : Nat) : Bool := unit % 32 == 31 && isSystemHall (hallOfUnit unit)

/-! ### The fields of configuration words -/

/-- A mask of n bits from bit lo. -/
def field (lo n : Nat) : Nat := (2 ^ n - 1) * 2 ^ lo

/-- Fields of a window descriptor's words that a CFGW writes (R249, R250). Words 1 to 3 take the fields
of the end that word 0 names; while it names none they hold what is written (log 75). -/
def windowMask (s : State) (unit off : Nat) : Nat :=
  let kind := bits (s.cfgAt unit 2 (off / 4 * 4)) 37 2
  if off % 4 = 0 then field 0 53 + field 54 3
  else if kind = 1 then
    if off % 4 = 1 then field 0 64 else if off % 4 = 2 then field 0 8 else field 0 32
  else if kind = 2 ∧ off % 4 = 1 then field 32 32
  else field 0 64

/-- A window descriptor's word as it is read (R250, R251): reserved fields of the end that word 0 names
read 0, and SHADOW is computed. -/
def State.windowRead (s : State) (unit off : Nat) : Word64 :=
  let w := s.cfgAt unit 2 off
  if off % 4 = 0 then w
  else if s.isProducer unit (off / 4) ∧ off % 4 = 1 then
    withBits w 0 32 (s.shadow unit (off / 4))
  else w &&& BitVec.ofNat 64 (windowMask s unit off)

/-- Fields of a word of space 4 (R388 to R390): keep words and live maps, and the second words of
landing entries, as the actor records in use place them. A word of no table has no reserved field. -/
def State.landingMask (s : State) (unit off : Nat) : Nat :=
  let start := fun a => bits (s.actorWord unit a 0) 33 12
  match ((s.actorsOf unit).filter fun a =>
      start a ≤ off && off ≤ start a + 2 * s.landings unit a).head? with
  | none => field 0 64
  | some a =>
    if off != start a && (off - start a) % 2 == 0 then field 63 1 + field 0 13 else field 0 59

/-- Fields of space 3 (R239 to R242). -/
def triggerMask (off : Nat) : Nat :=
  if off < 16 then field 6 35 + field 0 1
  else if off < 48 then
    if off % 4 = 0 then field 0 61 else if off % 4 = 3 then field 0 20 else field 0 64
  else if off < 253 then field 0 60
  else 0

/-- Fields of space 5 (R260, R261). -/
def initialMask (off : Nat) : Nat :=
  let i := off % 256
  if i < 32 then field 0 64
  else if i < 36 then field 0 32
  else if i = 36 then field 1 7
  else if i = 37 then field 0 17 + field 32 16
  else if i < 46 then if i % 2 = 0 then field 32 32 else field 0 32
  else if i < 48 then field 0 64
  else if i = 48 then field 0 16
  else if i = 49 then field 0 2
  else if off = 50 then field 0 13
  else if off < 115 then field 0 6
  else 0

/-- Fields of the stream, range and queue descriptors of a hall (R271, R294, R373). -/
def hallMask (off : Nat) : Nat :=
  if off < 256 then
    let i := off % 8
    if i = 0 then field 25 39 else if i = 1 then field 0 40 else if i = 7 then 0 else field 0 64
  else if off < 384 then if off % 2 = 0 then field 60 4 + field 10 46 else field 0 52
  else if off < 512 then
    if off % 4 = 0 then field 43 21 + field 0 40
    else if off % 4 = 1 then field 62 2 + field 0 17
    else 0
  else 0

/-- Fields of a system hall's words (R304, R305, R310, R353, R383, R402, R448, R451, R459, R464,
R485). -/
def systemMask (off : Nat) : Nat :=
  if off < 384 then hallMask off
  else if off = 384 then field 0 14
  else if off = 385 then field 39 1 + field 0 36
  else if 416 ≤ off ∧ off < 512 then
    if off % 3 = 2 then field 58 6 + field 35 22
    else if off % 3 = 0 then field 0 64
    else field 0 11
  else if 1024 ≤ off ∧ off < 1248 then field 62 2 + field 0 52
  else if 2048 ≤ off ∧ off < 2080 then if off % 2 = 0 then field 56 8 + field 0 26 else 0
  else if off = 2304 then field 63 1 + field 15 37
  else if off = 2305 then field 0 48
  else if off = 2312 then field 63 1 + field 23 29
  else if off = 2313 then field 0 32
  else if off = 2320 then field 63 1 + field 0 26
  else if off = 2321 then field 0 16
  else if off = 2322 then field 0 6
  else if off = 2323 then field 0 26
  else if 2560 ≤ off ∧ off < 3584 then field 52 12 + field 0 38
  else if 3584 ≤ off ∧ off < 3616 then if off % 2 = 0 then field 24 40 else field 0 52
  else if off = 3840 then field 0 32
  else if off = 3848 then field 63 1 + field 0 41
  else 0

/-- The fields of a configuration word that a CFGW writes (R17). A word of space 4 holds what is
written, for the loader's check of its reserved bits (R392), and reads in its fields (log 30). -/
def State.cfgMask (s : State) (unit space off : Nat) : Nat :=
  if space = 2 then windowMask s unit off
  else if space = 3 then triggerMask off
  else if space = 5 then initialMask off
  else if space = 6 then
    if isSystemHall (hallOfUnit unit) then systemMask off else hallMask off
  else field 0 64

/-- WING, PHALL and UHALL of a hall's identity word (R366). The spec gives the word for user halls; in
a hall that carries no user hall number the model reads UHALL as 0 (log 76). -/
def State.identity (s : State) (hk : Nat) : Nat :=
  hk / 128 * 2 ^ 45 + hk % 128 * 2 ^ 38 + s.userOfHall hk * 2 ^ 32

/-- BUSY of word 2307 (R383). -/
def State.invalBusy (s : State) (wing : Nat) : Bool := (mapGet [] wing s.invals) != []

/-- The memory key of a word of spaces 0, 1 and 7 (R269). -/
def storeKey (unit space off : Nat) : Nat :=
  if space = 0 then codeKey unit (8 * off) else if space = 1 then tileKey unit (8 * off)
  else hallKey (hallOfUnit unit) (8 * off)

/-- Whether a space is a store. -/
def isStore (space : Nat) : Bool := space == 0 || space == 1 || space == 7

/-- Word 1 of a launch queue's descriptor (R353). -/
def LaunchQueue.word (q : LaunchQueue) : Word64 :=
  BitVec.ofNat 64 ((if q.err then 2 ^ 63 else 0) + (if q.busy then 2 ^ 62 else 0) +
    q.head.toNat * 2 ^ 32 + q.tail.toNat)

/-- A configuration word as a CFGR reads it. -/
def State.cfgRead (s : State) (unit space off : Nat) : Word64 :=
  if isStore space then s.load64 (storeKey unit space off)
  else
    let w := s.cfgAt unit space off
    let hk := hallOfUnit unit
    if space = 2 then s.windowRead unit off
    else if space = 4 then w &&& BitVec.ofNat 64 (s.landingMask unit off)
    else if space = 6 ∧ off = 4088 ∧ !isSystemHall hk then w ||| BitVec.ofNat 64 (s.identity hk)
    else if space = 6 ∧ off = 2307 ∧ isSystemHall hk then
      if s.invalBusy (hk / 128) then w ||| 1 else w
    else if space = 6 ∧ isSystemHall hk ∧ 2048 ≤ off ∧ off < 2080 ∧ off % 2 = 1 then
      LaunchQueue.word (mapGet {} (16 * (hk / 128) + (off - 2048) / 2) s.queues)
    else w

/-- Whether a word read by CFGR is poisoned. -/
def State.cfgPoisoned (s : State) (unit space off : Nat) : Bool :=
  isStore space && s.poisoned (storeKey unit space off) 8

/-- R229: the defect map marks the units usable. -/
def State.unitUsable (s : State) (unit : Nat) : Bool :=
  let d := s.dmapAt (hallOfUnit unit)
  bitAt d 17 && (unit % 32 == 31 || bitAt d (unit % 32))

/-- A configuration word written in its fields. -/
def State.cfgStore (s : State) (unit space off : Nat) (v : Word64) : State :=
  if isStore space then s.storeVal (storeKey unit space off) 8 v false
  else
    let m := BitVec.ofNat 64 (s.cfgMask unit space off)
    s.setCfg unit space off ((s.cfgAt unit space off &&& ~~~m) ||| (v &&& m))

/-! ### Words that act at once (R383, R459, R485) -/

/-- A system hall's words that are no transaction target. -/
def actsAtOnce (unit space off : Nat) : Bool :=
  isSystemUnits unit && space == 6 &&
    ((2304 ≤ off && off < 2308) || (2320 ≤ off && off < 2324) || off == 3848)

/-- The event that carries out an invalidation (R383, R384). -/
def invalidationEvent (wing sel va asn : Nat) : Instr :=
  if sel = 0 then .invalidatePage wing (BitVec.ofNat 35 va) (BitVec.ofNat 11 asn)
  else if sel = 1 then .invalidateRegion wing (BitVec.ofNat 35 va) (BitVec.ofNat 11 asn)
  else if sel = 2 then .invalidateAsn wing (BitVec.ofNat 11 asn)
  else .invalidateAll wing

/-- A write to word 2306 (R384): the invalidation starts, or waits behind those of the wing. -/
def State.startInvalidation (s : State) (wing : Nat) (v : Word64) : State :=
  let q := mapGet [] wing s.invals
  let i := (bits v 0 2, bits v 21 35, bits v 10 11)
  let s' := { s with invals := mapPut wing (q ++ [i]) s.invals }
  if q = [] then s'.later 1 (invalidationEvent wing i.1 i.2.1 i.2.2) else s'

/-- A write to word 2305 moves the fault limit of the wing's withheld accesses (R383, R386). -/
def State.limitChanged (s : State) (wing : Nat) : State :=
  (s.withheld.filter fun e => e.2.hall / 128 == wing && e.2.failed).foldl (fun s e =>
    s.at (max (s.cycle + 1) (e.2.since + s.walkLimit wing)) (.flimExpiry e.1)) s

/-- What a write to a system hall's word sets going: a new fault limit, an invalidation (R383), the
interval clock (R304), a queue that had stopped (R354), a queue that may start (R362). -/
def State.systemWordWritten (s : State) (wing off : Nat) (v : Word64) : State :=
  if off = 2305 then s.limitChanged wing
  else if off = 2306 then s.startInvalidation wing v
  else if off = 384 then if bitAt v 13 then s.at (s.cycle + 1) (.benRestart wing) else s
  else if 2048 ≤ off ∧ off < 2080 ∧ off % 2 = 0 then
    let n := 16 * wing + (off - 2048) / 2
    let q := mapGet {} n s.queues
    ({ s with queues := mapPut n { q with err := false } s.queues }).later 1 .candidateStart
  else s

/-! ### Who holds a target -/

/-- The committed load that holds a hall in place (R229). -/
def State.holdsHall (s : State) (hk : Nat) : Bool := (s.ownerOf hk).isSome

/-- The units that an open transaction has written: its targets (R229). -/
def Txn.units (t : Txn) : List Nat :=
  t.words.foldl (fun l w => setAdd (w.addr.toNat / 2 ^ 34) l) []

/-- The targets that a commit arms and an abort unconfigures: a system hall's own units, whose words
belong to several loads, hold nothing to arm. -/
def Txn.targets (t : Txn) : List Nat :=
  t.words.foldl (fun l w =>
    let u := w.addr.toNat / 2 ^ 34
    if isSystemUnits u then l else setAdd u l) []

/-- The words of a transaction at a system hall. -/
def Txn.systemWords (t : Txn) : List Nat :=
  (t.words.filter fun w => isSystemUnits (w.addr.toNat / 2 ^ 34)).map (·.addr.toNat)

/-- Another system context's open transaction has a target (R229). -/
def State.targetTaken (s : State) (core ctx unit : Nat) : Bool :=
  s.cores.any fun e => isSystemCore e.1 && (steps 0 1 4).any fun x =>
    !(e.1 == core && x == ctx) &&
      (match (e.2.ctx x).txn with
      | some t => t.units.contains unit
      | none => false)

/-- The resident load to which a word of a system hall's own unit belongs: a stream's or a range's word, a stage
entry, a grammar slot, an arc entry or a collective descriptor (R9, R304, R310, R448, R451; DEDUCED, log 77). -/
def State.systemWordOwner (s : State) (unit space off : Nat) : Option Nat :=
  let wing := hallOfUnit unit / 128
  let named := fun (w : Word64) => if bitAt w 63 then some (bits w 58 5) else none
  let owner :=
    if space ≠ 6 then none
    else if off < 384 then s.loadWhere fun _ l => l.sysWords.contains (unit * 2 ^ 34 + 6 * 2 ^ 30 + off)
    else if 416 ≤ off ∧ off < 512 then named (s.sysCfg wing (off - (off - 416) % 3))
    else if 1024 ≤ off ∧ off < 1248 then some ((off - 1024) / 8)
    else if 2560 ≤ off ∧ off < 3584 then
      let w := s.sysCfg wing off
      if bitAt w 63 then s.loadWhere fun _ l => l.vcs.contains (wing, bits w 60 3) else none
    else if 3584 ≤ off ∧ off < 3616 then named (s.sysCfg wing (off - off % 2))
    else none
  owner.filter fun h => (s.loadAt h).committed

/-- The checks of R229 on the target of a CFGW: the words that act at once are exempt (R383, R459, R485), and of a
system hall's own units, whose words several loads fill within their transactions (R304, R310, R448, R451), each
word is the target of the load that it is of (DEDUCED, log 77). -/
def State.targetFault (s : State) (unit space off : Nat) (a : Word64) : Bool × FaultInfo :=
  let reject := fun (c : Nat) =>
    ({ code := codeReject, detail := BitVec.ofNat 64 (c + 2 ^ 32 * bits a 0 32) } : FaultInfo)
  if actsAtOnce unit space off then (false, reject 0)
  else if (if isSystemUnits unit then (s.systemWordOwner unit space off).isSome
      else s.holdsHall (hallOfUnit unit)) then (true, reject 1)
  else
    let placing := s.launches.any fun t => t.2.placing && t.2.claimed.contains (hallOfUnit unit)
    (s.targetTaken s.curCore s.curCtx unit || placing, reject 2)

/-- Virtual channel of a route entry that a committed load holds in the router's wing. -/
def State.routeHeld (s : State) (hk rc : Nat) : Bool :=
  let e := s.route hk rc
  bitAt e 63 && s.loads.any fun l => l.2.committed && l.2.vcs.any fun v =>
    v.1 == hk / 128 && v.2 == bits e 60 3

/-! ### Hall identity (R366) -/

/-- OWN, LOAD, STATE and LSEQ of a hall's identity word. A system hall has none: several loads share it (R9,
R233; DEDUCED, log 122). -/
def State.setIdentity (s : State) (hk : Nat) (own : Bool) (load st : Nat) (lseq : Nat) : State :=
  if isSystemHall hk then s else s.setHallCfg hk 4088 (BitVec.ofNat 64
    ((if own then 2 ^ 55 else 0) + load * 2 ^ 50 + st * 2 ^ 47 + lseq))

/-- STATE of a hall's identity word, if it has one. -/
def State.setHallState (s : State) (hk st : Nat) : State :=
  if isSystemHall hk then s else s.setHallCfg hk 4088 (withBits (s.hallCfg hk 4088) 47 3 st)

/-- STATE of every hall of a load that is in place. -/
def State.setLoadHalls (s : State) (h st : Nat) : State :=
  ((s.loadAt h).halls.filter (·.inPlace)).foldl (fun s e => s.setHallState e.phys st) s

/-! ### Result areas (R226, R227) -/

/-- The hold of a form with a result area: no entry free, or a queued range in the way (R61, R226). -/
def areaHeld (area : Word64) (len : Nat) (s : State) : Bool :=
  s.curK.noEntry || s.curK.addrHeld area len true

/-- The checks of R226 on a result area; a poisoned address comes before them (R53; log 31). -/
def State.areaChecks (s : State) (b : XReg) (len : Nat) : List (Bool × FaultInfo) :=
  let xb := (s.x b).v
  [((s.x b).po, poisonX b), (xb.toNat % 8 != 0, alignFault xb),
   (2 ^ 17 < xb.toNat + len, rangeFault 48 0 xb)]

/-- A system form's result under way: its area is a write range until it is written. -/
def State.startResult (s : State) (group : Nat) (i : Instr) (a area : Word64) (len : Nat)
    (block : List Byte) (po : Bool) : State :=
  let id := s.nextId
  let r : Result :=
    { id := id, core := s.curCore, ctx := s.curCtx, group := group, instr := i, a := a,
      area := area.toNat, block := block, blockPoison := po }
  let s := s.newId
  let s := s.addRange id area.toNat len true true
  let s := s.setCur { s.cur with areas := setAdd id s.cur.areas }
  { s with results := mapPut id r s.results }

/-- A result that is known at issue travels to its area. -/
def State.sendResult (s : State) (group : Nat) (i : Instr) (a area v : Word64) (po : Bool) : State :=
  let id := s.nextId
  (s.startResult group i a area 8 (natToBytes 8 v.toNat) po).later 1 (.resultAreaWrite id)

/-- A form of one result word: its checks on xa, then on its area (R235), and its effect, which
answers the result word and whether it is poisoned. -/
def resultForm (q : Issue) (i : Instr) (group : Nat) (a b : XReg)
    (checks : State → List (Bool × FaultInfo)) (f : State → State × Word64 × Bool) (s : State) :
    Answer :=
  issue q 1 (areaHeld (s.x b).v 8 s)
    (firstFault (s.privFaultOf :: checks s ++ s.areaChecks b 8)) none
    (fun s =>
      let xa := (s.x a).v
      let xb := (s.x b).v
      let r := f s
      r.1.sendResult group i xa xb r.2.1 r.2.2) s

/-! ### CFGW, RTW, CFGR, CFGCRC -/

/-- The open transaction of the executing context, opened if need be (R229). -/
def State.txn (s : State) : Txn := s.cur.txn.getD {}

/-- A word of a transaction is written in place and read back (R229). A system hall's word of space 6 acts as
it stands once written (log 77). -/
def State.writeConfig (s : State) (unit space off : Nat) (a v : Word64) : State :=
  let usable := s.unitUsable unit
  let s' := if usable then s.cfgStore unit space off v else s
  let back := s'.cfgRead unit space off
  let w : CfgWrite := { addr := a, data := back, rejected := !usable || back != v }
  let t := s'.txn
  let s' := s'.setCur { s'.cur with txn := some { t with words := t.words ++ [w] } }
  let hk := hallOfUnit unit
  if isSystemUnits unit then
    if space = 6 ∧ usable then s'.systemWordWritten (hk / 128) off v else s'
  else
    let s' := if unit % 32 = 31 then s' else s'.setCore unit { s'.core unit with armed := false }
    s'.setHallState hk 1

/-- CFGW (R229, R235). -/
def execCfgw (q : Issue) (a b : XReg) (s : State) : Answer :=
  let xa := (s.x a).v
  let bad := (cfgTarget xa).isNone
  let t := (cfgTarget xa).getD (0, 0, 0)
  issue q 1 false
    (firstFault [s.privFaultOf, ((s.x a).po, poisonX a), (bad, rangeFault 62 0 xa),
      ((s.x b).po, poisonX b), s.targetFault t.1 t.2.1 t.2.2 xa])
    none
    (fun s =>
      let v := (s.x b).v
      if actsAtOnce t.1 t.2.1 t.2.2 then
        (s.cfgStore t.1 t.2.1 t.2.2 v).systemWordWritten (hallOfUnit t.1 / 128) t.2.2 v
      else s.writeConfig t.1 t.2.1 t.2.2 xa v) s

/-- Fields of a route entry (R253). -/
def routeMask : Nat := field 56 8 + field 32 19 + field 10 10

/-- A route entry written within the transaction. -/
def State.writeRoute (s : State) (hk rc : Nat) (v : Word64) : State :=
  let k := hk * 256 + rc
  let t := s.txn
  let old := s.route hk rc
  let routes := if t.routes.any (·.1 == k) then t.routes else t.routes ++ [(k, old)]
  let s := s.setCur { s.cur with txn := some { t with routes := routes } }
  { s with routes := mapPutD 0 k (v &&& BitVec.ofNat 64 routeMask) s.routes }

/-- RTW (R229, R253). -/
def execRtw (q : Issue) (a b : XReg) (s : State) : Answer :=
  let xa := (s.x a).v
  let bad := (routeTarget xa).isNone
  let t := (routeTarget xa).getD (0, 0)
  issue q 1 false
    (firstFault [s.privFaultOf, ((s.x a).po, poisonX a), (bad, rangeFault 62 0 xa),
      ((s.x b).po, poisonX b),
      (s.routeHeld t.1 t.2,
       { code := codeReject, detail := BitVec.ofNat 64 (3 + 2 ^ 32 * bits xa 0 32) })])
    none (fun s => s.writeRoute t.1 t.2 (s.x b).v) s

/-- POISON of xa, then RANGE 62 where an address has no target. -/
def addressChecks {α : Type} (f : Word64 → Option α) (a : XReg) (s : State) :
    List (Bool × FaultInfo) :=
  let xa := (s.x a).v
  [((s.x a).po, poisonX a), ((f xa).isNone, rangeFault 62 0 xa)]

/-- CFGR (R229). -/
def execCfgr (q : Issue) (a b : XReg) (s : State) : Answer :=
  resultForm q (.cfgr q a b) 0 a b (addressChecks cfgTarget a)
    (fun s =>
      match cfgTarget (s.x a).v with
      | some (u, sp, off) => (s, s.cfgRead u sp off, s.cfgPoisoned u sp off)
      | none => (s, 0, false)) s

/-- The record of a written word (R230). -/
def CfgWrite.record (w : CfgWrite) : List Byte :=
  natToBytes 8 w.addr.toNat ++ natToBytes 8 w.data.toNat

/-- The result of CFGCRC (R230). -/
def Txn.check (t : Txn) (unit : Nat) : Word64 :=
  let ws := t.words.filter fun w => w.addr.toNat / 2 ^ 34 == unit
  let rej := min 255 (ws.filter (·.rejected)).length
  BitVec.ofNat 64 (rej * 2 ^ 48 + ws.length % 2 ^ 16 * 2 ^ 32 +
    (crc32c (ws.flatMap CfgWrite.record)).toNat)

/-- CFGCRC (R229, R230). -/
def execCfgcrc (q : Issue) (a b : XReg) (s : State) : Answer :=
  resultForm q (.cfgcrc q a b) 0 a b (addressChecks crcTarget a)
    (fun s => (s, s.txn.check ((crcTarget (s.x a).v).getD 0), false)) s

/-! ### Configuration commit (R58, R62, R127, R162, R201, R206, R231, R252, R260, R295) -/

/-- VINIT of a context (R260, R480): lane l of v n, when the context loads it. -/
def State.vinit (s : State) (c x n l : Nat) : Word64 :=
  let w := s.cfgAt c 5 (256 * x + 37)
  if bitAt w (32 + n) then
    BitVec.ofNat 64 (s.load (tileKey c ((bits w 0 17 + 128 * n + 4 * l) % 2 ^ 17)) 4)
  else 0

/-- The mark of a v register's lane that VINIT loads: that of the word of the block (R50, R480). -/
def State.vinitPoison (s : State) (c x n l : Nat) : Bool :=
  let w := s.cfgAt c 5 (256 * x + 37)
  bitAt w (32 + n) && s.poisoned (tileKey c ((bits w 0 17 + 128 * n + 4 * l) % 2 ^ 17)) 4

/-- The mark of a register's initial value: words of space 5 are clean. -/
def State.initialPoison (s : State) (c x k : Nat) : Bool :=
  64 ≤ k && k < 576 && s.vinitPoison c x ((k - 64) / 32) (k % 32)

/-- The initial value of a register by its key (R58, R260). -/
def State.initialReg (s : State) (c x k : Nat) : Word64 :=
  let w := fun i => s.cfgAt c 5 (256 * x + i)
  if k < 64 then w k
  else if k < 576 then s.vinit c x ((k - 64) / 32) (k % 32)
  else if k < 610 then w (32 + (k - 600)) &&& 0xFFFFFFFF
  else if bitAt (w 36) (k - 610) then 1 else 0

/-- A context at configuration commit and at re-arm (R58, R127, R258, R260). A re-arm keeps the D bits
of its registers (R407). -/
def State.initialCtx (s : State) (c x : Nat) : Ctx :=
  let w := fun i => s.cfgAt c 5 (256 * x + i)
  let lmax := bits (w 48) 0 16
  let keep := liveKeys (s.keepUnion c x)
  { regs := keep.foldl (fun m k => mapPut k ⟨s.initialReg c x k, s.initialPoison c x k⟩ m) [],
    regDirty := (s.ctx c x).regDirty,
    base := some s.fresh,
    gkey := w 46, gseq := w 47,
    lmax := BitVec.ofNat 16 (if lmax = 0 then 8192 else lmax),
    tmode := BitVec.ofNat 2 (bits (w 49) 0 2) }

/-- A window descriptor at commit: T tokens in, none freed or credited (R252). -/
def State.commitWindowCounts (s : State) (c w t : Nat) : State :=
  let s := s.setWin c w 0 (withBits (s.win c w 0) 53 1 0)
  if s.isConsumer c w then s.setWin c w 1 (BitVec.ofNat 64 (t % 2 ^ 32 * 2 ^ 32))
  else if s.isProducer c w then
    ((s.setWin c w 1 (BitVec.ofNat 64 (t % 2 ^ 32 * 2 ^ 32))).setWin c w 2 0).setWin c w 3 0
  else s

/-- The initial tokens that a core's descriptors hold as they were written. -/
def State.writtenTokens (s : State) (c : Nat) : List (Nat × Nat) :=
  (windows.filter fun w => s.isConsumer c w || s.isProducer c w).map fun w => (16 * c + w, s.cmt c w)

/-- The counters of an actor at re-arm: PHC, FIX, FCNT, TGT and RTD are 0 (R360). -/
def State.clearActor (s : State) (c a : Nat) : State :=
  let s := s.setActorWord c a 0 (withBits (s.actorWord c a 0) 30 3 0)
  let s := (s.setActorWord c a 1 0).setActorWord c a 2 0
  s.setActorWord c a 3 (withBits (s.actorWord c a 3) 63 1 0)

/-- A core armed for a load: its contexts, arbiter, banks, flags and queue counts start afresh; the D
bits of its banks stand (R407). Its pin count is 0, at a re-arm as at commit (R305; DESIGN CHOICE, log 121). -/
def State.armCore (s : State) (h c : Nat) : State :=
  let old := s.core c
  let k : Core :=
    { c0 := s.initialCtx c 0, c1 := s.initialCtx c 1, c2 := s.initialCtx c 2, c3 := s.initialCtx c 3,
      load := some h, armed := true, zDirty0 := old.zDirty0, zDirty1 := old.zDirty1 }
  let s := (s.actorsOf c).foldl (fun s a => s.clearActor c a) s
  { s.setCore c k with fresh := s.fresh + 1 }

/-- D and S bits of a core's tile store and of a hall's store are cleared (R407). -/
def State.clearLines (s : State) (key n : Nat) : State :=
  { s with dirty := setDelRange (key / 256) (n / 256) s.dirty,
           saved := setDelRange (key / 256) (n / 256) s.saved }

/-- A hall store's full bits are set empty (R201). -/
def State.emptyHall (s : State) (hk : Nat) : State :=
  { s with full := setDelRange (hallKey hk 0 / 8) (2 ^ 17) s.full }

/-- A stage queue's header and state words are 0 (R295). -/
def State.clearQueue (s : State) (home slots : Nat) : State :=
  s.store home (List.replicate 40 0) |>.store (home + 64) (List.replicate (8 * slots) 0)

/-- The initial tokens of a stream's window: those of the window end of its load with the same token
class (R252, R271). -/
def State.streamTokens (s : State) (h hk n : Nat) : Nat :=
  let sink := s.isSink hk n
  let rc := if sink then bits (s.streamWord hk n 1) 20 8 else bits (s.streamWord hk n 0) 47 8
  let ends := (s.loadAt h).cores.flatMap fun c =>
    ((windows.filter fun w => (if sink then s.isProducer c w else s.isConsumer c w) &&
      bits (s.win c w 0) 42 8 == rc)).map fun w => s.initialTokens h c w
  if s.isQueue hk n then 0 else ends.head?.getD 0

/-- A stream at commit and at re-arm: idle, its counts as R252, and running if it is AUTO (R206). -/
def State.resetStream (s : State) (h hk n : Nat) : State :=
  let t := s.streamTokens h hk n
  let s := s.setHallWord hk n 7 (BitVec.ofNat 64 (t % 2 ^ 32 * 2 ^ 32))
  let s := s.setStream hk n {}
  if bitAt (s.streamWord hk n 0) 25 then s.startStream hk n else s

/-- Active candidates of a stage entry's stage in its wing (R302, R305). -/
def State.activeCandidates (s : State) (wing h q : Nat) : List Nat :=
  ((s.claimers h q).filter fun e => s.elastic e.1 e.2 && wingOfCore e.1 == wing &&
    !s.retired e.1 e.2 &&
    windows.any fun n => entryValid (s.entry e.1 n) && entryActor (s.entry e.1 n) == e.2).map (·.1)

/-- REPL of a load's stage entries (R305). -/
def State.countReplicas (s : State) (h : Nat) : State :=
  (steps 0 1 4).foldl (fun s wing => (steps 0 1 32).foldl (fun s n =>
    let w := s.sysCfg wing (416 + 3 * n)
    if bitAt w 63 && bits w 58 5 == h then
      let q := bits (s.sysCfg wing (418 + 3 * n)) 0 5
      s.setSysCfg wing (416 + 3 * n) (withBits w 24 11 (s.activeCandidates wing h q).length)
    else s) s) s

/-- The part that commit and re-arm share, once the load record stands: R58, R62, R127, R162, R201,
R206, R252, R295. Its collectives begin with round 0 again, as its windows begin with token 0 (R252, R451). -/
def State.armLoad (s : State) (h : Nat) : State :=
  let l := s.loadAt h
  let s := l.cores.foldl (fun s c =>
    windows.foldl (fun s w => s.commitWindowCounts c w (s.initialTokens h c w)) s) s
  let s := l.cores.foldl (fun s c => s.armCore h c) s
  let s := l.halls.foldl (fun s e => s.emptyHall e.phys) s
  let s := (s.queuesOf h).foldl (fun s q =>
    match s.homeOf h q with
    | some (home, slots) => s.clearQueue home slots
    | none => s) s
  let s := { s with qfcnt := mapDelRange (32 * h) 32 s.qfcnt,
                    qtgt := mapDelRange (32 * h) 32 s.qtgt,
                    rounds := s.rounds.filter fun e =>
                      bits (s.sysCfg (e.1 / 64) (3584 + 2 * (e.1 % 64))) 58 5 != h }
  let s := s.endEpoch h
  let s := (s.streamsOf h).foldl (fun s e => s.resetStream h e.1 e.2) s
  (s.countReplicas h).setLoadHalls h 2

/-- LSEQ of a hall: the launches started in its wing by the start that the counts were taken at (R366). -/
def lseqIn (counts : List (Nat × BitVec 32)) (hk : Nat) : Nat := (mapGet 0 (hk / 128) counts).toNat

/-- The lowest virtual channel of a wing that no committed load holds and that no load under placement
has been given (R366). -/
def State.freeChannel (s : State) (wing : Nat) : Option Nat :=
  ((steps 1 1 7).filter fun v =>
    (s.loads.all fun l => !l.2.committed || l.2.vcs.all fun e => !(e.1 == wing && e.2 == v)) &&
    (s.launches.all fun l => l.2.vcs.all fun e => !(e.1 == wing && e.2 == v))).head?

/-- Bytes of a load's save area in a wing with n of its halls (R402). -/
def saveAreaSize (n : Nat) : Nat := 2 ^ 16 + 2 ^ 23 * n

/-- Save areas held in a wing, by committed loads and by loads under placement: base and size. -/
def State.areasHeld (s : State) (wing : Nat) : List (Nat × Nat) :=
  (s.loads.flatMap fun l =>
    if l.2.committed then
      (l.2.areas.filter (·.1 == wing)).map fun a =>
        (a.2, saveAreaSize (l.2.halls.filter fun e => e.phys / 128 == wing).length)
    else []) ++
  (s.launches.flatMap fun l =>
    (l.2.areas.filter (·.1 == wing)).map fun a =>
      (a.2, saveAreaSize (l.2.claimed.filter fun hk => hk / 128 == wing).length))

/-- The lowest place in a wing's save pool for a save area (R402; log 32). -/
def State.findArea (s : State) (wing n : Nat) : Option Nat :=
  let w := s.sysCfg wing 2312
  let base := bits w 23 29 * 2 ^ 23
  let size := bits (s.sysCfg wing 2313) 0 32 * 2 ^ 23
  let held := s.areasHeld wing
  let starts := base :: held.map fun a => a.1 + a.2
  let ok := starts.filter fun b => b + saveAreaSize n ≤ base + size && base ≤ b &&
    held.all fun a => !overlaps b (saveAreaSize n) a.1 a.2
  if bitAt w 63 then ok.foldl (fun m b => some (match m with
    | some c => min b c
    | none => b)) none else none

/-- Save areas in every wing of a hall list, where its pool has room. -/
def State.reserveAreas (s : State) (halls : List Nat) : List (Nat × Nat) :=
  (steps 0 1 4).filterMap fun wing =>
    let n := (halls.filter fun hk => hk / 128 == wing).length
    if n = 0 then none else (s.findArea wing n).map fun b => (wing, b)

/-- Hall slots in the order of a load's halls, counted from 0 in each wing (R403). -/
def hallSlots (s : State) : List Nat → List LoadHall → List LoadHall
  | [], done => done
  | hk :: rest, done =>
    hallSlots s rest (done ++
      [{ logical := done.length, phys := hk, user := s.userOfHall hk,
         slot := (done.filter fun e => e.phys / 128 == hk / 128).length }])

/-- Signals of a load: those with a valid receiver at one of its cores (R220, R261; log 33). -/
def State.signalsOf (s : State) (cores : List Nat) : List Nat :=
  (steps 0 1 64).filter fun n => cores.any fun c => bitAt (s.receiver c n) 0

/-- Modes of a load whose certificate is not at hand: 0, and those with a rate count (log 33). -/
def State.modesOf (s : State) (cores : List Nat) : List Nat :=
  (steps 0 1 8).filter fun m => m == 0 || cores.any fun c =>
    (steps 0 1 128).any fun n => s.rate c m (n / 16) (n % 16) != 0

/-- The stream and range words of system halls in a transaction. -/
def Txn.shareWords (t : Txn) : List Nat :=
  t.systemWords.filter fun a => a / 2 ^ 30 % 16 == 6 && a % 2 ^ 30 < 384

/-- The halls of a transaction's targets. -/
def Txn.halls (t : Txn) : List Nat :=
  let hs := t.targets.foldl (fun l u => setAdd (hallOfUnit u) l) []
  t.shareWords.foldl (fun l a => setAdd (a / 2 ^ 39) l) hs

/-- Wings of a transaction's targets, a system hall's units among them (R229, R231). -/
def Txn.wings (t : Txn) : List Nat :=
  t.words.foldl (fun l w => setAdd (w.addr.toNat / 2 ^ 46) l) []

/-- The mask of the trigger entries of a core that satisfy a condition. -/
def entryMask (p : Nat → Bool) : BitVec 16 :=
  BitVec.ofNat 16 (((steps 0 1 16).filter p).foldl (fun n e => n + 2 ^ e) 0)

/-- What the launch unit knows of a load beside its configuration: the record that CFGCOMMIT fills
in. -/
def State.commitRecord (s : State) (t : Txn) (debug : Bool) : Load :=
  let cores := t.targets.filter fun u => u % 32 != 31
  let halls := hallSlots s t.halls []
  { state := .running, halls := halls, cores := cores,
    vcs := t.wings.filterMap fun w => (s.freeChannel w).map fun v => (w, v),
    debug := debug, ordered := Config.ordered (t.words.flatMap CfgWrite.record),
    modes := s.modesOf cores, signals := s.signalsOf cores,
    cert := { initial := cores.flatMap s.writtenTokens },
    areas := s.reserveAreas t.halls, sysWords := t.shareWords,
    valids := cores.map (fun c => (c, entryMask fun e => entryValid (s.entry c e))),
    entries := cores.foldl (fun m c =>
      mapPut c (entryMask fun e => t.words.any fun w => cfgTarget w.addr == some (c, 3, e)) m) [] }

/-- The commit of a load record over a transaction (R231): every target is armed. -/
def State.commitLoad (s : State) (h : Nat) (l : Load) : State :=
  let s := s.setLoad h { l with since := s.cycle }
  let s := l.halls.foldl (fun s e =>
    let s := s.setIdentity e.phys true h 2 (bits (s.hallCfg e.phys 4088) 0 32)
    s.clearLines (hallKey e.phys 0) (2 ^ 20)) s
  let s := l.cores.foldl (fun s c => (s.clearLines (tileKey c 0) (2 ^ 17)).setCore c {}) s
  s.armLoad h

/-- The status of a CFGCOMMIT (R231): where several hold, the lowest number (DESIGN CHOICE, log 117). -/
def State.commitStatus (s : State) (h : Nat) : Nat :=
  match s.cur.txn with
  | none => 1
  | some t =>
    if t.words.any (·.rejected) then 2
    else if (s.loadAt h).committed then 3
    else if t.wings.any fun w => (s.freeChannel w).isNone then 4
    else 0

/-- R228: a handle operand with further fields inside a mask. -/
def handleChecks (a : XReg) (mask : Nat) (s : State) : List (Bool × FaultInfo) :=
  let xa := (s.x a).v
  [((s.x a).po, poisonX a),
   (xa &&& ~~~(BitVec.ofNat 64 (31 + mask)) != 0 || 27 < bits xa 0 5, rangeFault 61 0 xa)]

/-- The checks of a form that names a load: later faults name it, LANDING_OVERRUN, the last, among them
(R394, R458). -/
def State.handleFaults (s : State) (a b : XReg) (mask : Nat) : List (Bool × FaultInfo) :=
  s.privFaultOf :: handleChecks a mask s ++
    (s.areaChecks b 8 ++ [(s.overrun, s.overrunFault)]).map fun e =>
      (e.1, { e.2 with named := some (bits (s.x a).v 0 5) })

/-- A load-handle form (R228, R231, R232). -/
def handleForm (q : Issue) (i : Instr) (group : Nat) (a b : XReg) (mask : Nat)
    (f : Nat → Word64 → State → State × Word64) (s : State) : Answer :=
  issue q 1 (areaHeld (s.x b).v 8 s) (firstFault (s.handleFaults a b mask)) none
    (fun s =>
      let xa := (s.x a).v
      let xb := (s.x b).v
      let r := f (bits xa 0 5) xa s
      r.1.sendResult group i xa xb r.2 false) s

/-- CFGCOMMIT's effect: the commit, and the transaction closes. -/
def State.doCommit (s : State) (h : Nat) (debug : Bool) : State × Word64 :=
  let st := s.commitStatus h
  match s.cur.txn with
  | some t =>
    if st = 0 then
      let l := s.commitRecord t debug
      ((s.setCur { s.cur with txn := none }).commitLoad h l, 0)
    else (s, BitVec.ofNat 64 st)
  | none => (s, 1)

/-- CFGCOMMIT (R229, R231). -/
def execCfgcommit (q : Issue) (a b : XReg) (s : State) : Answer :=
  handleForm q (.cfgcommit q a b) 0 a b (2 ^ 8) (fun h xa s => s.doCommit h (bitAt xa 8)) s

/-! ### CFGABORT (R229, R231) -/

/-- A written word returns to the unconfigured state. -/
def State.unwrite (s : State) (a : Nat) : State :=
  let unit := a / 2 ^ 34
  let space := a / 2 ^ 30 % 16
  let off := a % 2 ^ 30
  if space = 0 then s
  else if isStore space then
    (s.storeVal (storeKey unit space off) 8 0 false).setEmpty (storeKey unit space off) 8
  else { s with cfg := mapDel (cfgKey unit space off) s.cfg }

/-- A target's code store holds the fill word again, and the target is free. -/
def State.unconfigure (s : State) (unit : Nat) : State :=
  let s := if unit % 32 = 31 then s
    else { s.setCore unit {} with mem := mapDelRange (codeKey unit 0) (2 ^ 15) s.mem }
  s.setHallState (hallOfUnit unit) 0

/-- A transaction is undone (R231). -/
def State.rollback (s : State) (t : Txn) : State :=
  let s := t.words.foldl (fun s w => s.unwrite w.addr.toNat) s
  let s := t.targets.foldl (fun s u => s.unconfigure u) s
  { s with routes := t.routes.foldl (fun m r => mapPutD 0 r.1 r.2 m) s.routes }

/-- CFGABORT (R229, R231). -/
def execCfgabort (q : Issue) (b : XReg) (s : State) : Answer :=
  resultForm q (.cfgabort q b) 0 0 b (fun _ => [])
    (fun s =>
      match s.cur.txn with
      | none => (s, 1, false)
      | some t => ((s.setCur { s.cur with txn := none }).rollback t, 0, false)) s

/-- DMAP (R232, R233). -/
def execDmap (q : Issue) (a b : XReg) (s : State) : Answer :=
  resultForm q (.dmap q a b) 2 a b (addressChecks dmapTarget a)
    (fun s =>
      match dmapTarget (s.x a).v with
      | some hk => (s, s.dmapAt hk, false)
      | none => (s, 0, false)) s

end Sys2Proof.Machine
end

