-- ==== Sys2Proof/Machine/Float.lean ====
section
/-!
DEFINITION. Floating-point formats and their exact values (R21 to R25), rounding (R30 to R34),
conversions (R35 to R38), arithmetic (R31, R39 to R41), block scales (R26, R29) and the counter
generator (R323).
-/

namespace Sys2Proof.Machine

/-! ### Formats and values -/

/-- A format of R21: exponent and mantissa bits, bias, largest finite code, and whether it has
infinities. -/
structure Fmt where
  eb : Nat
  mb : Nat
  bias : Nat
  top : Nat
  infs : Bool
  /-- the canonical NaN (R22); 0 for E2M1, which has none (R35) -/
  nan : Nat
deriving DecidableEq, Repr

/-- The formats of R21 and R22. -/
def fmtF32 : Fmt := ⟨8, 23, 127, 0x7F7FFFFF, true, 0x7FC00000⟩
def fmtF16 : Fmt := ⟨5, 10, 15, 0x7BFF, true, 0x7E00⟩
def fmtBf16 : Fmt := ⟨8, 7, 127, 0x7F7F, true, 0x7FC0⟩
def fmtE5m2 : Fmt := ⟨5, 2, 15, 0x7B, true, 0x7E⟩
def fmtE4m3 : Fmt := ⟨4, 3, 7, 0x7E, false, 0x7F⟩
def fmtE2m1 : Fmt := ⟨2, 1, 1, 0x7, false, 0⟩

/-- The weight of the sign bit. -/
def Fmt.sign (f : Fmt) : Nat := 2 ^ (f.eb + f.mb)

/-- Exponent of the least denormal. -/
def Fmt.least (f : Fmt) : Int := 1 - (f.bias : Int) - f.mb

/-- An exact value: NaN, an infinity, or a signed dyadic number m x 2^e. -/
inductive FVal
  | nan
  | inf (neg : Bool)
  | fin (neg : Bool) (m : Nat) (e : Int)
deriving DecidableEq, Repr

/-- The value of a pattern (R21, R25). -/
def fdecode (f : Fmt) (x : Nat) : FVal :=
  let neg := x / f.sign % 2 == 1
  let mag := x % f.sign
  let ex := mag / 2 ^ f.mb
  let man := mag % 2 ^ f.mb
  if f.top < mag then
    if f.infs && man == 0 then .inf neg else .nan
  else if ex = 0 then .fin neg man f.least
  else .fin neg (2 ^ f.mb + man) ((ex : Int) - 1 + f.least)

/-- Whether the magnitude steps up in a mode: lo is the value toward zero, rem / 2^s the fraction
above it, b the generator's output (R30, R32). -/
def stepsUp (m : RMode) (b : Nat) (neg : Bool) (lo rem s : Nat) : Bool :=
  match m with
  | .rn => 2 ^ s < 2 * rem || (2 * rem == 2 ^ s && lo % 2 == 1)
  | .rz => false
  | .ru => !neg && rem != 0
  | .rd => neg && rem != 0
  | .sr => 2 ^ 24 ≤ rem * 2 ^ 24 / 2 ^ s + b / 2 ^ 8

/-- Overflow by R33. -/
def overflowTo (f : Fmt) (m : RMode) (neg : Bool) : Nat :=
  let away := match m with
    | .rn | .sr => true
    | .rz => false
    | .ru => !neg
    | .rd => neg
  if f.infs && away then f.top + 1 else f.top

/-- An exact value rounded once (R30 to R35). -/
def fround (f : Fmt) (m : RMode) (b : Nat) (v : FVal) : Nat :=
  match v with
  | .nan => f.nan
  | .inf neg => (if neg then f.sign else 0) + (if f.infs then f.top + 1 else f.top)
  | .fin neg n e =>
    let sign := if neg then f.sign else 0
    if n = 0 then sign
    else
      let q := max ((n.log2 : Int) + e - f.mb) f.least
      let s := (q - e).toNat
      let lo := n * 2 ^ (e - q).toNat / 2 ^ s
      let rem := n * 2 ^ (e - q).toNat % 2 ^ s
      let up := stepsUp m b neg lo rem s
      let mag := (q - f.least).toNat * 2 ^ f.mb + (if up then lo + 1 else lo)
      sign + (if f.top < mag then overflowTo f m neg else mag)

/-! ### Exact arithmetic (R31, R39, R40) -/

/-- The signed integer of a finite value at an exponent no greater than its own. -/
def scaled (neg : Bool) (m : Nat) (e at' : Int) : Int :=
  let n : Int := m * 2 ^ (e - at').toNat
  if neg then -n else n

/-- An exact sum; a zero sum of opposite signs is +0 (R34). -/
def FVal.add (a b : FVal) : FVal :=
  match a, b with
  | .nan, _ | _, .nan => .nan
  | .inf x, .inf y => if x == y then .inf x else .nan
  | .inf x, .fin .. => .inf x
  | .fin .., .inf y => .inf y
  | .fin x m e, .fin y n g =>
    if m = 0 ∧ n = 0 then .fin (x && y) 0 0
    else
      let l := min e g
      let t := scaled x m e l + scaled y n g l
      .fin (t < 0) t.natAbs l

/-- The negated value; NaN stays NaN. -/
def FVal.neg : FVal → FVal
  | .nan => .nan
  | .inf s => .inf (!s)
  | .fin s m e => .fin (!s) m e

/-- An exact product. -/
def FVal.mul (a b : FVal) : FVal :=
  match a, b with
  | .nan, _ | _, .nan => .nan
  | .inf x, .inf y => .inf (x != y)
  | .inf x, .fin y n _ => if n = 0 then .nan else .inf (x != y)
  | .fin x m _, .inf y => if m = 0 then .nan else .inf (x != y)
  | .fin x m e, .fin y n g => .fin (x != y) (m * n) (e + g)

/-- The value times 2^k. -/
def FVal.scale (k : Int) : FVal → FVal
  | .fin s m e => .fin s m (e + k)
  | v => v

/-- Whether a value is NaN. -/
def FVal.isNan : FVal → Bool
  | .nan => true
  | .inf _ | .fin .. => false

/-- a < b for numbers, with -0 = +0; false for NaN. -/
def FVal.lt (a b : FVal) : Bool :=
  match a, b with
  | .nan, _ | _, .nan => false
  | .inf x, .inf y => x && !y
  | .inf x, .fin .. => x
  | .fin .., .inf y => !y
  | .fin x m e, .fin y n g => scaled x m e (min e g) < scaled y n g (min e g)

/-- Equality of numbers, with -0 = +0; false for NaN. -/
def FVal.eq (a b : FVal) : Bool :=
  !a.isNan && !b.isNan && !a.lt b && !b.lt a

/-- The sign bit of a number. -/
def FVal.isNeg : FVal → Bool
  | .nan => false
  | .inf s => s
  | .fin s _ _ => s

/-! ### Operations on patterns -/

/-- A binary operation rounded RN. -/
def fop2 (f : Fmt) (op : FVal → FVal → FVal) (a b : Nat) : Nat :=
  fround f .rn 0 (op (fdecode f a) (fdecode f b))

/-- Addition, subtraction, multiplication, FMA and FMS (R31, R39, R137). -/
def fadd (f : Fmt) (a b : Nat) : Nat := fop2 f FVal.add a b
def fsub (f : Fmt) (a b : Nat) : Nat := fop2 f (fun x y => x.add y.neg) a b
def fmul (f : Fmt) (a b : Nat) : Nat := fop2 f FVal.mul a b
def ffma (f : Fmt) (a b c : Nat) : Nat :=
  fround f .rn 0 (((fdecode f a).mul (fdecode f b)).add (fdecode f c))
def ffms (f : Fmt) (a b c : Nat) : Nat :=
  fround f .rn 0 (((fdecode f a).mul (fdecode f b)).add (fdecode f c).neg)

/-- The lesser operand, -0 below +0, a number before NaN (R40). -/
def fmin (f : Fmt) (a b : Nat) : Nat :=
  let x := fdecode f a
  let y := fdecode f b
  if x.isNan then if y.isNan then f.nan else b
  else if y.isNan then a
  else if y.lt x || (y.eq x && y.isNeg) then b else a

/-- The greater operand, -0 below +0, a number before NaN (R40). -/
def fmax (f : Fmt) (a b : Nat) : Nat :=
  let x := fdecode f a
  let y := fdecode f b
  if x.isNan then if y.isNan then f.nan else b
  else if y.isNan then a
  else if x.lt y || (y.eq x && x.isNeg) then b else a

/-- The sign cleared or inverted; NaN is canonical (R137). -/
def fabs (f : Fmt) (a : Nat) : Nat := if (fdecode f a).isNan then f.nan else a % f.sign
def fneg (f : Fmt) (a : Nat) : Nat :=
  if (fdecode f a).isNan then f.nan
  else if a / f.sign % 2 = 1 then a % f.sign else a % f.sign + f.sign

/-- A float condition (R140). -/
def vcondFloat (c : VCond) (x y : FVal) : Bool :=
  match c with
  | .eq => x.eq y
  | .ne => !x.eq y
  | .lt => x.lt y
  | .le => x.lt y || x.eq y
  | .gt => y.lt x
  | .ge => y.lt x || x.eq y

/-! ### Functions of one operand (R41) -/

/-- The integer square root by bits from 2^k down, on the root so far. -/
def isqrtFrom (n : Nat) : Nat → Nat → Nat
  | 0, r => r
  | k + 1, r => isqrtFrom n k (if (r + 2 ^ k) * (r + 2 ^ k) ≤ n then r + 2 ^ k else r)

/-- The integer square root. -/
def isqrt (n : Nat) : Nat := isqrtFrom n (n.log2 / 2 + 1) 0

/-- A value between n and n + 1 times 2^e, or exactly n x 2^e: one more bit says which. -/
def sticky (neg : Bool) (n : Nat) (exact' : Bool) (e : Int) : FVal :=
  .fin neg (2 * n + (if exact' then 0 else 1)) (e - 1)

/-- VRCP (R41). -/
def frcp (x : Nat) : Nat :=
  fround fmtF32 .rn 0 (match fdecode fmtF32 x with
    | .nan => .nan
    | .inf s => .fin s 0 0
    | .fin s m e =>
      if m = 0 then .inf s
      else
        let k := 64 + m.log2
        sticky s (2 ^ k / m) (2 ^ k % m == 0) (-(k : Int) - e))

/-- A positive value as m' x 4^h. -/
def evenScale (m : Nat) (e : Int) : Nat × Int :=
  if e % 2 = 0 then (m, e / 2) else (2 * m, (e - 1) / 2)

/-- VSQRT (R41). -/
def fsqrt (x : Nat) : Nat :=
  fround fmtF32 .rn 0 (match fdecode fmtF32 x with
    | .nan => .nan
    | .inf s => if s then .nan else .inf false
    | .fin s m e =>
      if m = 0 then .fin s 0 0
      else if s then .nan
      else
        let t := evenScale m e
        let n := t.1 * 4 ^ 64
        let r := isqrt n
        sticky false r (r * r == n) (t.2 - 64))

/-- VRSQ (R41). -/
def frsq (x : Nat) : Nat :=
  fround fmtF32 .rn 0 (match fdecode fmtF32 x with
    | .nan => .nan
    | .inf s => if s then .nan else .fin false 0 0
    | .fin s m e =>
      if m = 0 then .inf s
      else if s then .nan
      else
        let t := evenScale m e
        let r := isqrt (4 ^ 96 / t.1)
        sticky false r (r * r * t.1 == 4 ^ 96) (-96 - t.2))

/-- ln 2 x 2^256, rounded down (log 8). -/
def ln2Fix : Nat := 0xb17217f7d1cf79abc9e3b39803f2f6af40f343267298b62d8a0d175b8baafa2b

/-- The sum of t^i / i! from term i on, in fixed point with 256 fraction bits: n more terms. -/
def expSeries (t : Nat) : Nat → Nat → Nat → Nat
  | 0, _, _ => 0
  | n + 1, i, term => term + expSeries t n (i + 1) (term * t / 2 ^ 256 / (i + 1))

/-- 2^f for a fixed-point f below 1, with 256 fraction bits (log 8). -/
def exp2Fix (f : Nat) : Nat := expSeries (f * ln2Fix / 2 ^ 256) 80 0 (2 ^ 256)

/-- VEXP2 (R41). -/
def fexp2 (x : Nat) : Nat :=
  fround fmtF32 .rn 0 (match fdecode fmtF32 x with
    | .nan => .nan
    | .inf s => if s then .fin false 0 0 else .inf false
    | .fin s m e =>
      let v : Int := scaled s m e (-256)
      if 128 * 2 ^ 256 ≤ v then .inf false
      else if v ≤ -150 * 2 ^ 256 then .fin false 0 0
      else
        let i := v.fdiv (2 ^ 256)
        let f := (v.fmod (2 ^ 256)).toNat
        if f = 0 then .fin false 1 i else sticky false (exp2Fix f) false (i - 256))

/-- The sum of z^(2i+1) / (2i+1) from term i on, in fixed point: n more terms. -/
def atanhSeries (z2 : Nat) : Nat → Nat → Nat → Nat
  | 0, _, _ => 0
  | n + 1, i, p => p / (2 * i + 1) + atanhSeries z2 n (i + 1) (p * z2 / 2 ^ 256)

/-- log2 of y x 2^-256 for y from 2^256 to 2^257, in fixed point with 256 fraction bits (log 8). -/
def log2Fix (y : Nat) : Nat :=
  let z := (y - 2 ^ 256) * 2 ^ 256 / (y + 2 ^ 256)
  2 * atanhSeries (z * z / 2 ^ 256) 90 0 z * 2 ^ 256 / ln2Fix

/-- VLOG2 (R41). -/
def flog2 (x : Nat) : Nat :=
  fround fmtF32 .rn 0 (match fdecode fmtF32 x with
    | .nan => .nan
    | .inf s => if s then .nan else .inf false
    | .fin s m e =>
      if m = 0 then .inf true
      else if s then .nan
      else
        let k : Int := e + m.log2
        let y := m * 2 ^ (256 - m.log2)
        if y = 2 ^ 256 then .fin (k < 0) k.natAbs 0
        else
          let v : Int := k * 2 ^ 256 + log2Fix y
          if v < 0 then sticky true (v.natAbs - 1) false (-256) else sticky false v.toNat false (-256))

/-! ### Conversions (R35 to R38) -/

/-- The integer that a mode rounds a value to; NaN gives 0 (R36). -/
def roundToInt (m : RMode) (v : FVal) : Option Int :=
  match v with
  | .nan => some 0
  | .inf _ => none
  | .fin neg n e =>
    let s := (-e).toNat
    let lo := n * 2 ^ e.toNat / 2 ^ s
    let rem := n * 2 ^ e.toNat % 2 ^ s
    let mag := if stepsUp m 0 neg lo rem s then lo + 1 else lo
    some (if neg then -(mag : Int) else mag)

/-- An integer clamped to n bits (R18, R20). -/
def clampInt (n : Nat) (v : Int) : Int := max (-(2 ^ (n - 1))) (min v (2 ^ (n - 1) - 1))

/-- The pattern of an integer in n bits. -/
def intPattern (n : Nat) (v : Int) : Nat := (v % 2 ^ n).toNat

/-- The signed integer of n bits. -/
def intOf (n x : Nat) : Int :=
  if x % 2 ^ n < 2 ^ (n - 1) then x % 2 ^ n else (x % 2 ^ n : Int) - 2 ^ n

/-- Float to integer (R36). -/
def floatToInt (f : Fmt) (m : RMode) (n x : Nat) : Nat :=
  let v := fdecode f x
  intPattern n (match roundToInt m v with
    | some i => clampInt n i
    | none => if v.isNeg then -(2 ^ (n - 1)) else 2 ^ (n - 1) - 1)

/-- Integer to float (R37). -/
def intToFloat (f : Fmt) (m : RMode) (n x : Nat) : Nat :=
  let v := intOf n x
  fround f m 0 (.fin (v < 0) v.natAbs 0)

/-- Integer to integer (R38). -/
def intToInt (n d : Nat) (sat : Bool) (x : Nat) : Nat :=
  let v := intOf n x
  intPattern d (if sat then clampInt d v else v)

/-! ### Block scales (R29, R149) -/

/-- The magnitude of a finite value is at most a bound times 2^e. -/
def FVal.atMost (v : FVal) (bound : Nat) (e : Int) : Bool :=
  match v with
  | .fin _ m g => !(FVal.lt (.fin false bound e) (.fin false m g))
  | .nan | .inf _ => false

/-- The least exponent e from -127 that holds every value, looking at n of them; 127 when none does
(R29). -/
def blockExp (vs : List FVal) (bound : Nat) : Nat → Int → Int
  | 0, _ => 127
  | n + 1, e => if vs.all fun v => v.atMost bound e then e else blockExp vs bound n (e + 1)

/-- The scale byte of source values: 0xFF for a block NaN (R29). -/
def blockScale (vs : List FVal) (bound : Nat) : Nat :=
  if vs.any fun v => (match v with
    | .fin .. => false
    | .nan | .inf _ => true) then 255
  else (blockExp vs bound 255 (-127) + 127).toNat

/-! ### The counter generator (R323) -/

/-- Rotate left within 32 bits. -/
def rol32 (x : Word32) (n : Nat) : Word32 := x.rotateLeft n

/-- The rotations of R323. -/
def rotA (r : Nat) : Nat :=
  if r % 4 = 0 then 16 else if r % 4 = 1 then 8 else if r % 4 = 2 then 13 else 5
def rotB (r : Nat) : Nat :=
  if r % 4 = 0 then 12 else if r % 4 = 1 then 7 else if r % 4 = 2 then 9 else 11

/-- One round of the generator. -/
def genRound (k0 k1 : Word32) (s : Word32 × Word32 × Word32 × Word32) (r : Nat) :
    Word32 × Word32 × Word32 × Word32 :=
  let (a, b, c, d) := s
  let a := a + b + (if r % 2 = 0 then k0 else k1)
  let d := rol32 (d ^^^ a) (rotA r)
  let c := c + d + BitVec.ofNat 32 r
  let b := rol32 (b ^^^ c) (rotB r)
  (a, b, c, d)

/-- gen(K, S, T, I, W) (R323). -/
def gen (key : Word64) (s t i w : Word32) : Word32 :=
  let k0 : Word32 := key.setWidth 32
  let k1 : Word32 := (key >>> 32).setWidth 32
  let r := (steps 0 1 8).foldl (genRound k0 k1) (i, t, s, 0x2B594D31#32 ^^^ w)
  r.1 ^^^ r.2.1 ^^^ r.2.2.1 ^^^ r.2.2.2

end Sys2Proof.Machine
end

