-- ==== Sys2Proof/Machine/Vector.lean ====
section
/-!
DEFINITION. Vector instructions (R135 to R161): typed arithmetic, reductions, untyped and mask forms,
conversions, tile-store access, random numbers and sampling.
-/

namespace Sys2Proof.Machine

/-! ### Lanes and masks (R135, R136) -/

/-- Lane l of v n. -/
def State.lane (s : State) (r : VReg) (l : Nat) : PVal := s.cur.reg (laneKey r l)

/-- The bits of lane l of v n. -/
def State.laneN (s : State) (r : VReg) (l : Nat) : Nat := (s.lane r l).v.toNat % 2 ^ 32

/-- Lane l is active under k. -/
def State.active (s : State) (k : KReg) (l : Nat) : Bool := bitAt (s.k k).v l

/-- The 32 lane numbers. -/
def lanes : List Nat := steps 0 1 32

/-- The active lanes under k. -/
def State.activeLanes (s : State) (k : KReg) : List Nat := lanes.filter (s.active k)

/-- A 32-bit value with its mark. -/
def pv32 (v : Nat) (po : Bool) : PVal := ⟨BitVec.ofNat 64 (v % 2 ^ 32), po⟩

/-- R135: writes of the active lanes of vd; a poisoned mask marks every lane. -/
def State.laneWrites (s : State) (d : VReg) (k : KReg) (f : Nat → PVal) : List (Nat × PVal) :=
  let kp := (s.k k).po
  lanes.filterMap fun l =>
    if s.active k l then some (laneKey d l, ⟨(f l).v, (f l).po || kp⟩)
    else if kp then some (1000 + laneKey d l, ⟨0, true⟩)
    else none

/-- A form that writes lanes of vd and raises nothing. -/
def laneForm (q : Issue) (lat : Nat) (w : State → List (Nat × PVal)) (s : State) : Answer :=
  issue q 1 false none none (fun s => s.writeRegs lat (w s)) s

/-! ### Elements (R42) -/

/-- The format of a float type. -/
def vFmt : VType → Fmt
  | .f32 | .i32 => fmtF32
  | .bf16 => fmtBf16
  | .f16 | .i16 | .i8 => fmtF16

/-- Elements of a lane (R42). -/
def vCount (t : VType) : Nat := 32 / t.bits

/-- Element j of a lane. -/
def elem (n lane j : Nat) : Nat := lane / 2 ^ (n * j) % 2 ^ n

/-- A lane made of elements of n bits, lowest first. -/
def packLane (n : Nat) : List Nat → Nat
  | [] => 0
  | e :: es => e % 2 ^ n + 2 ^ n * packLane n es

/-- An element-wise operation on three lanes. -/
def laneMap (t : VType) (f : Nat → Nat → Nat → Nat) (a b d : Nat) : Nat :=
  packLane t.bits ((steps 0 1 (vCount t)).map fun j => f (elem t.bits a j) (elem t.bits b j) (elem t.bits d j))

/-- R65: latency of typed arithmetic. -/
def vLat (t : VType) : Nat := if t.isFloat then 4 else 2

/-- A typed form on va and vb. -/
def typedForm (q : Issue) (t : VType) (d a b : VReg) (k : KReg) (f : Nat → Nat → Nat) (s : State) :
    Answer :=
  laneForm q (vLat t)
    (fun s => s.laneWrites d k fun l =>
      pv32 (laneMap t (fun x y _ => f x y) (s.laneN a l) (s.laneN b l) 0)
        ((s.lane a l).po || (s.lane b l).po)) s

/-- A typed form on va alone. -/
def unaryForm (q : Issue) (lat : Nat) (t : VType) (d a : VReg) (k : KReg) (f : Nat → Nat) (s : State) :
    Answer :=
  laneForm q lat
    (fun s => s.laneWrites d k fun l =>
      pv32 (laneMap t (fun x _ _ => f x) (s.laneN a l) 0 0) (s.lane a l).po) s

/-- A typed form on va, vb and vd (R86, R137). -/
def fusedForm (q : Issue) (t : VType) (d a b : VReg) (k : KReg) (f : Fmt → Nat → Nat → Nat → Nat)
    (s : State) : Answer :=
  laneForm q 4
    (fun s => s.laneWrites d k fun l =>
      pv32 (laneMap t (f (vFmt t)) (s.laneN a l) (s.laneN b l) (s.laneN d l))
        ((s.lane a l).po || (s.lane b l).po || (s.lane d l).po)) s

/-! ### Typed arithmetic (R137, R138, R139) -/

/-- An integer operation that wraps at the element width (R20). -/
def wrapOp (n : Nat) (f : Int → Int → Int) (x y : Nat) : Nat := intPattern n (f (intOf n x) (intOf n y))

/-- An integer operation that clamps (R20). -/
def satOp (n : Nat) (f : Int → Int → Int) (x y : Nat) : Nat :=
  intPattern n (clampInt n (f (intOf n x) (intOf n y)))

/-- A float operation, or an integer one that wraps. -/
def vOp (t : VType) (f : Fmt → Nat → Nat → Nat) (g : Int → Int → Int) (x y : Nat) : Nat :=
  if t.isFloat then f (vFmt t) x y else wrapOp t.bits g x y

/-- VADD (R137). -/
def execVadd (q : Issue) (t : VType) (d a b : VReg) (k : KReg) (s : State) : Answer :=
  typedForm q t d a b k (vOp t fadd (· + ·)) s
/-- VSUB (R137). -/
def execVsub (q : Issue) (t : VType) (d a b : VReg) (k : KReg) (s : State) : Answer :=
  typedForm q t d a b k (vOp t fsub (· - ·)) s
/-- VMUL (R137). -/
def execVmul (q : Issue) (t : VType) (d a b : VReg) (k : KReg) (s : State) : Answer :=
  typedForm q t d a b k (vOp t fmul (· * ·)) s
/-- VFMA (R137). -/
def execVfma (q : Issue) (t : VType) (d a b : VReg) (k : KReg) (s : State) : Answer :=
  fusedForm q t d a b k ffma s
/-- VFMS (R137). -/
def execVfms (q : Issue) (t : VType) (d a b : VReg) (k : KReg) (s : State) : Answer :=
  fusedForm q t d a b k ffms s
/-- VMIN (R40, R137). -/
def execVmin (q : Issue) (t : VType) (d a b : VReg) (k : KReg) (s : State) : Answer :=
  typedForm q t d a b k (vOp t fmin min) s
/-- VMAX (R40, R137). -/
def execVmax (q : Issue) (t : VType) (d a b : VReg) (k : KReg) (s : State) : Answer :=
  typedForm q t d a b k (vOp t fmax max) s
/-- VABS (R137). -/
def execVabs (q : Issue) (t : VType) (d a : VReg) (k : KReg) (s : State) : Answer :=
  unaryForm q (vLat t) t d a k
    (fun x => if t.isFloat then fabs (vFmt t) x else intPattern t.bits (intOf t.bits x).natAbs) s
/-- VNEG (R137). -/
def execVneg (q : Issue) (t : VType) (d a : VReg) (k : KReg) (s : State) : Answer :=
  unaryForm q (vLat t) t d a k
    (fun x => if t.isFloat then fneg (vFmt t) x else intPattern t.bits (-(intOf t.bits x))) s
/-- VADD.sat (R137). -/
def execVaddSat (q : Issue) (t : VType) (d a b : VReg) (k : KReg) (s : State) : Answer :=
  typedForm q t d a b k (satOp t.bits (· + ·)) s
/-- VSUB.sat (R137). -/
def execVsubSat (q : Issue) (t : VType) (d a b : VReg) (k : KReg) (s : State) : Answer :=
  typedForm q t d a b k (satOp t.bits (· - ·)) s
/-- VRCP (R41, R139). -/
def execVrcp (q : Issue) (d a : VReg) (k : KReg) (s : State) : Answer :=
  unaryForm q 10 .f32 d a k frcp s
/-- VRSQ (R41, R139). -/
def execVrsq (q : Issue) (d a : VReg) (k : KReg) (s : State) : Answer :=
  unaryForm q 10 .f32 d a k frsq s
/-- VSQRT (R41, R139). -/
def execVsqrt (q : Issue) (d a : VReg) (k : KReg) (s : State) : Answer :=
  unaryForm q 10 .f32 d a k fsqrt s
/-- VEXP2 (R41, R139). -/
def execVexp2 (q : Issue) (d a : VReg) (k : KReg) (s : State) : Answer :=
  unaryForm q 10 .f32 d a k fexp2 s
/-- VLOG2 (R41, R139). -/
def execVlog2 (q : Issue) (d a : VReg) (k : KReg) (s : State) : Answer :=
  unaryForm q 10 .f32 d a k flog2 s
/-- VSHL (R138). -/
def execVshl (q : Issue) (t : VType) (d a b : VReg) (k : KReg) (s : State) : Answer :=
  typedForm q t d a b k (fun x y => x * 2 ^ (y % t.bits) % 2 ^ t.bits) s
/-- VSHR (R138). -/
def execVshr (q : Issue) (t : VType) (d a b : VReg) (k : KReg) (s : State) : Answer :=
  typedForm q t d a b k (fun x y => x / 2 ^ (y % t.bits)) s
/-- VSRA (R138). -/
def execVsra (q : Issue) (t : VType) (d a b : VReg) (k : KReg) (s : State) : Answer :=
  typedForm q t d a b k
    (fun x y => intPattern t.bits ((intOf t.bits x).fdiv (2 ^ (y % t.bits)))) s

/-! ### VCMP (R140) -/

/-- A condition on two elements (R140). -/
def vCond (t : VType) (c : VCond) (x y : Nat) : Bool :=
  if t.isFloat then vcondFloat c (fdecode (vFmt t) x) (fdecode (vFmt t) y)
  else vcondInt c (BitVec.ofNat t.bits x) (BitVec.ofNat t.bits y)

/-- Writes of the active bits of kd (R140): under a full mask the whole register and its mark, else
bit by bit, the mark of the kept bits staying (R51; log 34). -/
def State.maskWrites (s : State) (m k : KReg) (f : Nat → Bool) (po : Bool) : List (Nat × PVal) :=
  let kp := (s.k k).po
  let po := po || kp
  let act := s.activeLanes k
  if act = lanes then
    [(kKey m, ⟨BitVec.ofNat 64 (act.foldl (fun n l => if f l then n + 2 ^ l else n) 0), po⟩)]
  else
    act.map (fun l => (2000 + 32 * m.toNat + l, ⟨if f l then 1 else 0, po⟩)) ++
      (if kp then [(1000 + kKey m, ⟨0, true⟩)] else [])

/-- VCMP (R140). -/
def execVcmp (q : Issue) (t : VType) (c : VCond) (m : KReg) (a b : VReg) (k : KReg) (s : State) :
    Answer :=
  laneForm q 2
    (fun s =>
      s.maskWrites m k
        (fun l => (steps 0 1 (vCount t)).all fun j =>
          vCond t c (elem t.bits (s.laneN a l) j) (elem t.bits (s.laneN b l) j))
        ((s.activeLanes k).any fun l => (s.lane a l).po || (s.lane b l).po)) s

/-! ### Reductions (R48, R49, R141) -/

/-- One level of the tree: neighbours combine (R48). -/
def treeLevel {α : Type} (op : α → α → α) : List α → List α
  | x :: y :: r => op x y :: treeLevel op r
  | l => l

/-- The tree over 2^n leaves (R48). -/
def treeFold {α : Type} (op : α → α → α) : Nat → List α → List α
  | 0, l => l
  | n + 1, l => treeFold op n (treeLevel op l)

/-- Leaves of va in tree order: lane and element (R141). -/
def leavesOf (t : VType) : List (Nat × Nat) :=
  lanes.flatMap fun l => (steps 0 1 (vCount t)).map fun j => (l, j)

/-- Levels of the tree. -/
def vLevels (t : VType) : Nat := 5 + (vCount t).log2

/-- Writes of a reduction: element 0 of lane 0, lane 1, and zeros elsewhere, which R141 calls clean; they stay
clean under a poisoned mask too, where R135 marks every lane (DEDUCED, log 88). -/
def reduceWrites (d : VReg) (v0 : Nat) (v1 : Option Nat) (po : Bool) : List (Nat × PVal) :=
  lanes.map fun l =>
    (laneKey d l,
      if l = 0 then pv32 v0 po
      else
        match l, v1 with
        | 1, some n => pv32 n po
        | _, _ => pv32 0 false)

/-- Poison of a form that combines lanes (R51, R135). -/
def State.activePoison (s : State) (a : VReg) (k : KReg) : Bool :=
  (s.k k).po || (s.activeLanes k).any fun l => (s.lane a l).po

/-- A reduction with an identity (R48). -/
def reduceForm (q : Issue) (t : VType) (d a : VReg) (k : KReg) (ident : Nat) (op : Nat → Nat → Nat)
    (s : State) : Answer :=
  laneForm q 7
    (fun s =>
      let leaves := (leavesOf t).map fun e =>
        if s.active k e.1 then elem t.bits (s.laneN a e.1) e.2 else ident
      reduceWrites d ((treeFold op (vLevels t) leaves).head?.getD ident) none (s.activePoison a k)) s

/-- Identities of R48: by type, for a sum, a maximum and a minimum. -/
def vSumId (t : VType) : Nat := if t.isFloat then (vFmt t).sign else 0
def vMaxId (t : VType) : Nat :=
  if t.isFloat then (vFmt t).sign + (vFmt t).top + 1 else 2 ^ (t.bits - 1)
def vMinId (t : VType) : Nat := if t.isFloat then (vFmt t).top + 1 else 2 ^ (t.bits - 1) - 1

/-- VREDSUM (R48, R141). -/
def execVredsum (q : Issue) (t : VType) (d a : VReg) (k : KReg) (s : State) : Answer :=
  reduceForm q t d a k (vSumId t) (vOp t fadd (· + ·)) s
/-- VREDMAX (R48, R141). -/
def execVredmax (q : Issue) (t : VType) (d a : VReg) (k : KReg) (s : State) : Answer :=
  reduceForm q t d a k (vMaxId t) (vOp t fmax max) s
/-- VREDMIN (R48, R141). -/
def execVredmin (q : Issue) (t : VType) (d a : VReg) (k : KReg) (s : State) : Answer :=
  reduceForm q t d a k (vMinId t) (vOp t fmin min) s

/-- The right leaf beats the left (R49). -/
def vBeats (t : VType) (l r : Nat) : Bool :=
  if t.isFloat then
    let x := fdecode (vFmt t) l
    let y := fdecode (vFmt t) r
    !y.isNan && (x.isNan || x.lt y)
  else intOf t.bits l < intOf t.bits r

/-- win(L, R) of R49 on triples (active, value, index). -/
def argWin (t : VType) (l r : Bool × Nat × Nat) : Bool × Nat × Nat :=
  if !r.1 then l else if !l.1 then r else if vBeats t l.2.1 r.2.1 then r else l

/-- VREDARG (R49, R141). -/
def execVredarg (q : Issue) (t : VType) (d a : VReg) (k : KReg) (s : State) : Answer :=
  laneForm q 7
    (fun s =>
      let leaves := (leavesOf t).map fun e =>
        (s.active k e.1, elem t.bits (s.laneN a e.1) e.2, (vCount t) * e.1 + e.2)
      let r := (treeFold (argWin t) (vLevels t) leaves).head?.getD (false, 0, 0)
      let v := if !r.1 then (vMaxId t)
        else if t.isFloat && (fdecode (vFmt t) r.2.1).isNan then (vFmt t).nan else r.2.1
      reduceWrites d v (some (if r.1 then r.2.2 else 0xFFFFFFFF)) (s.activePoison a k)) s

/-! ### Untyped and mask forms (R142, R143) -/

/-- A raw operation on lanes. -/
def rawForm (q : Issue) (d a b : VReg) (k : KReg) (f : Word64 → Word64 → Word64) (s : State) : Answer :=
  laneForm q 2
    (fun s => s.laneWrites d k fun l =>
      ⟨f (s.lane a l).v (s.lane b l).v, (s.lane a l).po || (s.lane b l).po⟩) s

/-- VAND (R142). -/
def execVand (q : Issue) (d a b : VReg) (k : KReg) (s : State) : Answer := rawForm q d a b k (· &&& ·) s
/-- VOR (R142). -/
def execVor (q : Issue) (d a b : VReg) (k : KReg) (s : State) : Answer := rawForm q d a b k (· ||| ·) s
/-- VXOR (R142). -/
def execVxor (q : Issue) (d a b : VReg) (k : KReg) (s : State) : Answer := rawForm q d a b k (· ^^^ ·) s
/-- VSEL (R142): every lane is written. -/
def execVsel (q : Issue) (d a b : VReg) (k : KReg) (s : State) : Answer :=
  laneForm q 2
    (fun s => lanes.map fun l =>
      let v := if s.active k l then s.lane a l else s.lane b l
      (laneKey d l, ⟨v.v, v.po || (s.k k).po⟩)) s

/-- A mask form (R143). -/
def maskForm (q : Issue) (d : KReg) (f : State → Word64) (po : State → Bool) (s : State) : Answer :=
  laneForm q 2 (fun s => [(kKey d, ⟨f s &&& 0xFFFFFFFF, po s⟩)]) s

/-- VKAND (R143). -/
def execVkand (q : Issue) (d a b : KReg) (s : State) : Answer :=
  maskForm q d (fun s => (s.k a).v &&& (s.k b).v) (fun s => (s.k a).po || (s.k b).po) s
/-- VKOR (R143). -/
def execVkor (q : Issue) (d a b : KReg) (s : State) : Answer :=
  maskForm q d (fun s => (s.k a).v ||| (s.k b).v) (fun s => (s.k a).po || (s.k b).po) s
/-- VKNOT (R143). -/
def execVknot (q : Issue) (d a : KReg) (s : State) : Answer :=
  maskForm q d (fun s => ~~~(s.k a).v) (fun s => (s.k a).po) s
/-- VKPOP (R143). -/
def execVkpop (q : Issue) (d : SReg) (a : KReg) (s : State) : Answer :=
  laneForm q 2
    (fun s => [(xKey (scalarOf d), ⟨BitVec.ofNat 64 (popOf (s.k a).v 32), (s.k a).po⟩)]) s
/-- VMOV (R142). -/
def execVmov (q : Issue) (d a : VReg) (k : KReg) (s : State) : Answer :=
  laneForm q 2 (fun s => s.laneWrites d k fun l => s.lane a l) s

/-! ### Lane moves (R144, R145) -/

/-- VBCAST (R144). -/
def execVbcast (q : Issue) (d : VReg) (a : SReg) (k : KReg) (s : State) : Answer :=
  laneForm q 2
    (fun s =>
      let x := s.x (scalarOf a)
      s.laneWrites d k fun _ => pv32 x.v.toNat x.po) s

/-- The detail word of R161. -/
def laneRange (cause lane : Nat) (addr : Word64) : FaultInfo :=
  { code := if cause = 0 then codeAlign else codeRange,
    detail := BitVec.ofNat 64 (cause + 2 ^ 8 * lane + 2 ^ 32 * bits addr 0 32) }

/-- VEXT (R144). -/
def execVext (q : Issue) (d : SReg) (a : VReg) (b : SReg) (s : State) : Answer :=
  let n := (s.x (scalarOf b)).v
  issue q 1 false (firstFault [(31 < n.toNat, laneRange 17 0 n)]) none
    (fun s =>
      let v := s.lane a n.toNat
      s.writeX 2 (scalarOf d) v.v (v.po || (s.x (scalarOf b)).po)) s

/-- VINS (R144): a poisoned index marks every lane of vd. -/
def execVins (q : Issue) (d : VReg) (a b : SReg) (s : State) : Answer :=
  let n := (s.x (scalarOf b)).v
  issue q 1 false (firstFault [(31 < n.toNat, laneRange 17 0 n)]) none
    (fun s =>
      let x := s.x (scalarOf a)
      let bp := (s.x (scalarOf b)).po
      s.writeRegs 2 ((laneKey d n.toNat, pv32 x.v.toNat (x.po || bp)) ::
        (if bp then lanes.map fun l => (1000 + laneKey d l, ⟨0, true⟩) else []))) s

/-- VPERM (R145). -/
def execVperm (q : Issue) (d a b : VReg) (k : KReg) (s : State) : Answer :=
  laneForm q 3
    (fun s => s.laneWrites d k fun l =>
      let v := s.lane a (s.laneN b l % 32)
      ⟨v.v, v.po || (s.lane b l).po⟩) s
/-- VSHUF (R145). -/
def execVshuf (q : Issue) (d a b : VReg) (k : KReg) (s : State) : Answer :=
  laneForm q 3
    (fun s => s.laneWrites d k fun l =>
      let j := s.laneN b l % 32
      let v := if s.laneN b l / 32 % 2 = 1 then s.lane d j else s.lane a j
      ⟨v.v, v.po || (s.lane b l).po⟩) s
/-- VROT (R145). -/
def execVrot (q : Issue) (d a : VReg) (b : SReg) (k : KReg) (s : State) : Answer :=
  laneForm q 3
    (fun s => s.laneWrites d k fun l =>
      let x := s.x (scalarOf b)
      let v := s.lane a ((l + x.v.toNat % 32) % 32)
      ⟨v.v, v.po || x.po⟩) s

/-! ### Conversions (R146 to R150) -/

/-- One element converted between vector types (R35 to R38). -/
def convertElem (src dst : VType) (m : RMode) (sat : Bool) (x : Nat) : Nat :=
  if src.isFloat then
    if dst.isFloat then fround (vFmt dst) m 0 (fdecode (vFmt src) x) else floatToInt (vFmt src) m dst.bits x
  else if dst.isFloat then intToFloat (vFmt dst) m src.bits x
  else intToInt src.bits dst.bits sat x

/-- A lane converted (R146). Between types of two and of four elements a lane, element 0 alone is converted and
the other elements are 0 (DESIGN CHOICE, log 89). -/
def convertLane (src dst : VType) (m : RMode) (sat : Bool) (x : Nat) : Nat :=
  let n := min (vCount src) (vCount dst)
  packLane dst.bits ((steps 0 1 (if (vCount src) = (vCount dst) then n else 1)).map fun j =>
    convertElem src dst m sat (elem src.bits x j))

/-- VCVT (R146). -/
def execVcvt (q : Issue) (d a : VReg) (m : RMode) (k : KReg) (sat : Bool) (src dst : VType)
    (s : State) : Answer :=
  issue q 1 false
    (firstFault [(!src.isFloat && !dst.isFloat && m != .rn, illegalFault s.word 0)]) none
    (fun s => s.writeRegs 4 (s.laneWrites d k fun l =>
      pv32 (convertLane src dst m sat (s.laneN a l)) (s.lane a l).po)) s

/-- What a pack code joins (R88, R147): element bits and format of the wide side, of the narrow side;
no format for an integer. -/
def packSides : PackCode → (Nat × Option Fmt) × (Nat × Option Fmt)
  | .f32bf16 => ((32, some fmtF32), (16, some fmtBf16))
  | .f32f16 => ((32, some fmtF32), (16, some fmtF16))
  | .f32e4m3 => ((32, some fmtF32), (8, some fmtE4m3))
  | .f32e5m2 => ((32, some fmtF32), (8, some fmtE5m2))
  | .f32e2m1 => ((32, some fmtF32), (4, some fmtE2m1))
  | .i32i16 => ((32, none), (16, none))
  | .i32i8 => ((32, none), (8, none))
  | .i16i8 => ((16, none), (8, none))
  | .i8i4 => ((8, none), (4, none))
  | .bf16e4m3 => ((16, some fmtBf16), (8, some fmtE4m3))
  | .bf16e5m2 => ((16, some fmtBf16), (8, some fmtE5m2))

/-- An element converted by a code, at destination element number r (R147). -/
def State.packElem (s : State) (c : PackCode) (m : RMode) (r x : Nat) : Nat :=
  let (w, n) := (packSides c)
  match w.2, n.2 with
  | some f, some g =>
    let b := if m = .sr then
        (gen s.cur.gkey ((s.cur.gseq >>> 32).setWidth 32) (s.cur.gseq.setWidth 32) (BitVec.ofNat 32 r)
          (s.cur.fix.setWidth 32)).toNat
      else 0
    fround g m b (fdecode f x)
  | _, _ => intToInt w.1 n.1 true x

/-- Lanes that the results fill (R147). -/
def packWidth (c : PackCode) : Nat := 64 * (packSides c).2.1 / (packSides c).1.1

/-- VPACK's legal parts and modes (R147). -/
def packLegal (c : PackCode) (part : BitVec 2) (m : RMode) : Bool :=
  (part.toNat + 1) * (packWidth c) ≤ 32 && ((packSides c).1.2.isSome || m == .rn)

/-- VPACK (R147). -/
def execVpack (q : Issue) (d a b : VReg) (part : BitVec 2) (m : RMode) (c : PackCode) (s : State) :
    Answer :=
  issue q 1 false (firstFault [(!packLegal c part m, illegalFault s.word 0)]) none
    (fun s =>
      let wide := (packSides c).1.1
      let narrow := (packSides c).2.1
      let per := 32 / wide
      let each := 32 / narrow
      let first := part.toNat * packWidth c
      let src := fun n => if n < 32 then s.lane a n else s.lane b (n - 32)
      s.writeRegs 4 ((steps 0 1 (packWidth c)).map fun l =>
        let rs := steps (l * each) 1 each
        let vs := rs.map fun r =>
          s.packElem c m (first * each + r) (elem wide ((src (r / per)).v.toNat) (r % per))
        (laneKey d (first + l), pv32 (packLane narrow vs) (rs.any fun r => (src (r / per)).po)))) s

/-- An element widened by a code (R148). -/
def unpackElem (c : PackCode) (x : Nat) : Nat :=
  let (w, n) := (packSides c)
  match w.2, n.2 with
  | some f, some g => fround f .rn 0 (fdecode g x)
  | _, _ => intToInt n.1 w.1 false x

/-- VUNPK (R148). -/
def execVunpk (q : Issue) (d a : VReg) (part : BitVec 4) (k : KReg) (c : PackCode) (s : State) :
    Answer :=
  let wide := (packSides c).1.1
  let narrow := (packSides c).2.1
  issue q 1 false
    (firstFault [(wide / narrow ≤ part.toNat, illegalFault s.word 0)]) none
    (fun s =>
      let per := 32 / wide
      let each := 32 / narrow
      s.writeRegs 4 (s.laneWrites d k fun l =>
        let es := steps (part.toNat * 32 * per + l * per) 1 per
        pv32 (packLane wide (es.map fun e =>
            unpackElem c (elem narrow (s.laneN a (e / each)) (e % each))))
          (es.any fun e => (s.lane a (e / each)).po))) s

/-- The element format of a block, and its greatest value (R29). -/
def emaxOf : ElemFmt → Nat
  | .e4m3 => 448
  | .e5m2 => 57344
  | .e2m1 => 6

/-- y of R149: exact, but rounded toward zero and kept from zero below 2^-126. -/
def scaledDown (v : FVal) (e : Int) : Nat :=
  match v.scale (-e) with
  | .fin neg m g =>
    let r := fround fmtF32 .rz 0 (.fin neg m g)
    if m != 0 && r % fmtF32.sign = 0 then r + 1 else r
  | w => fround fmtF32 .rz 0 w

/-- VSCALE (R149). -/
def execVscale (q : Issue) (d a : VReg) (b : SReg) (k : KReg) (e : ElemFmt) (s : State) : Answer :=
  laneForm q 4
    (fun s =>
      let sc := blockScale ((s.activeLanes k).map fun l => fdecode fmtF32 (s.laneN a l)) (emaxOf e)
      let po := s.activePoison a k
      s.laneWrites d k (fun l =>
          pv32 (if sc = 255 then 0 else scaledDown (fdecode fmtF32 (s.laneN a l)) ((sc : Int) - 127)) po)
        ++ [(xKey (scalarOf b), ⟨BitVec.ofNat 64 sc, po⟩)]) s

/-- VSCALE.apply (R150). -/
def execVscaleApply (q : Issue) (d a : VReg) (b : SReg) (k : KReg) (e : ElemFmt) (s : State) : Answer :=
  let _ := e
  laneForm q 4
    (fun s =>
      let x := s.x (scalarOf b)
      let sc := bits x.v 0 8
      s.laneWrites d k fun l =>
        pv32 (if sc = 255 then fmtF32.nan
          else fround fmtF32 .rn 0 ((fdecode fmtF32 (s.laneN a l)).scale ((sc : Int) - 127)))
          ((s.lane a l).po || x.po)) s

/-! ### Tile-store access (R151 to R153) -/

/-- POISON of an address component in a lane (R161): kind 0 x register, 2 v register. -/
def poisonLane (kind reg lane : Nat) : FaultInfo :=
  { code := codePoison, detail := BitVec.ofNat 64 (reg + 2 ^ 5 * kind + 2 ^ 8 * lane) }

/-- The checks of one lane (R152). -/
def laneChecks (lane : Nat) (po : List (Bool × FaultInfo)) (addr : Word64) : List (Bool × FaultInfo) :=
  po ++ [(addr.toNat % 4 != 0, laneRange 0 lane addr),
    (0x1FFFC < addr.toNat, laneRange 16 lane addr)]

/-- The range rule over lanes (R61, R153, R193). -/
def lanesHeld (ls : List Nat) (addr : Nat → Word64) (write : Bool) (s : State) : Bool :=
  s.memHeld || ls.any fun l => s.curK.addrHeld (addr l) 4 write

/-- A vector load (R151). -/
def vloadForm (q : Issue) (lat : Nat) (d : VReg) (k : KReg) (addr : Nat → Word64)
    (po : Nat → List (Bool × FaultInfo)) (s : State) : Answer :=
  let ls := s.activeLanes k
  issue q 1 (lanesHeld ls addr false s)
    (firstFault (ls.flatMap fun l => laneChecks l (po l) (addr l))) none
    (fun s => s.writeRegs lat (s.laneWrites d k fun l =>
      let key := tileKey s.curCore (addr l).toNat
      pv32 (s.load key 4) (s.poisoned key 4))) s

/-- Words of 4 bytes stored as one access, in lane order: the last at an address remains (R153). A
poisoned one marks its 8-byte word; two clean ones that fill it clear its mark (R51). A word of 4 bytes that
a later lane overwrites has no part in the mark (DEDUCED, log 90). -/
def State.storeLanes (s : State) (ws : List (Nat × PVal)) : State :=
  let s := ws.foldl (fun s w => s.store w.1 (natToBytes 4 w.2.v.toNat)) s
  let last := fun (key : Nat) => ((ws.filter fun w => w.1 == key).getLast?).map (·.2.po)
  let mark := fun (p : List Nat) (w : Nat) =>
    match last (8 * w), last (8 * w + 4) with
    | some a, some b => setPut w (a || b) p
    | some true, none | none, some true => setAdd w p
    | _, _ => p
  { s with poison := (ws.foldl (fun m w => setAdd (w.1 / 8) m) []).foldl mark s.poison }

/-- A vector store (R151, R153). -/
def vstoreForm (q : Issue) (d : VReg) (k : KReg) (addr : Nat → Word64)
    (po : Nat → List (Bool × FaultInfo)) (s : State) : Answer :=
  let ls := s.activeLanes k
  issue q 1 (lanesHeld ls addr true s)
    (firstFault (ls.flatMap fun l => laneChecks l (po l) (addr l))) none
    (fun s => s.storeLanes (ls.map fun l => (tileKey s.curCore (addr l).toNat, s.lane d l))) s

/-- Addresses of R151: base and index, base and stride, base and vector. -/
def State.rowAddr (s : State) (a b : SReg) (l : Nat) : Word64 :=
  (s.x (scalarOf a)).v + (s.x (scalarOf b)).v + BitVec.ofNat 64 (4 * l)
def State.strideAddr (s : State) (a b : SReg) (l : Nat) : Word64 :=
  (s.x (scalarOf a)).v + BitVec.ofNat 64 l * (s.x (scalarOf b)).v
def State.gatherAddr (s : State) (a : SReg) (b : VReg) (l : Nat) : Word64 :=
  (s.x (scalarOf a)).v + BitVec.ofNat 64 (s.laneN b l)

/-- Poison of the address components: two x registers, or an x register and a lane. -/
def State.pairPoison (s : State) (a b : SReg) (l : Nat) : List (Bool × FaultInfo) :=
  [((s.x (scalarOf a)).po, poisonLane 0 a.toNat l), ((s.x (scalarOf b)).po, poisonLane 0 b.toNat l)]
def State.gatherPoison (s : State) (a : SReg) (b : VReg) (l : Nat) : List (Bool × FaultInfo) :=
  [((s.x (scalarOf a)).po, poisonLane 0 a.toNat l), ((s.lane b l).po, poisonLane 2 b.toNat l)]

/-- VLD (R151). -/
def execVld (q : Issue) (d : VReg) (a b : SReg) (k : KReg) (s : State) : Answer :=
  vloadForm q 5 d k (s.rowAddr a b) (s.pairPoison a b) s
/-- VST (R151). -/
def execVst (q : Issue) (d : VReg) (a b : SReg) (k : KReg) (s : State) : Answer :=
  vstoreForm q d k (s.rowAddr a b) (s.pairPoison a b) s
/-- VLDS (R151). -/
def execVlds (q : Issue) (d : VReg) (a b : SReg) (k : KReg) (s : State) : Answer :=
  vloadForm q 5 d k (s.strideAddr a b) (s.pairPoison a b) s
/-- VSTS (R151). -/
def execVsts (q : Issue) (d : VReg) (a b : SReg) (k : KReg) (s : State) : Answer :=
  vstoreForm q d k (s.strideAddr a b) (s.pairPoison a b) s
/-- VGATH (R151). -/
def execVgath (q : Issue) (d : VReg) (a : SReg) (b : VReg) (k : KReg) (s : State) : Answer :=
  vloadForm q 8 d k (s.gatherAddr a b) (s.gatherPoison a b) s
/-- VSCAT (R151). -/
def execVscat (q : Issue) (d : VReg) (a : SReg) (b : VReg) (k : KReg) (s : State) : Answer :=
  vstoreForm q d k (s.gatherAddr a b) (s.gatherPoison a b) s

/-! ### Random numbers and masks (R154, R155) -/

/-- The generator's output for an index, from GKEY and GSEQ (R324). -/
def State.genAt (s : State) (i w : Word32) : Word32 :=
  gen s.cur.gkey ((s.cur.gseq >>> 32).setWidth 32) (s.cur.gseq.setWidth 32) i w

/-- VRNG (R154). -/
def execVrng (q : Issue) (d a : VReg) (k : KReg) (s : State) : Answer :=
  laneForm q 4
    (fun s => s.laneWrites d k fun l =>
      pv32 (s.genAt ((s.lane a l).v.setWidth 32) 0).toNat (s.lane a l).po) s

/-- The word that VMASKLD reads (R155). -/
def State.maskAddr (s : State) (a b : SReg) : Word64 :=
  (s.x (scalarOf a)).v + 4 * (s.x (scalarOf b)).v

/-- VMASKLD (R155). -/
def execVmaskld (q : Issue) (m : KReg) (a b : SReg) (s : State) : Answer :=
  let addr := s.maskAddr a b
  issue q 1 (lanesHeld [0] (fun _ => addr) false s)
    (firstFault (laneChecks 0 (s.pairPoison a b 0) addr)) none
    (fun s =>
      let key := tileKey s.curCore addr.toNat
      s.writeRegs 5 [(kKey m, pv32 (s.load key 4) (s.poisoned key 4))]) s

/-! ### Sampling (R156 to R160) -/

/-- The score of a legal lane; none when it is excluded as NaN (R157). -/
def State.score (s : State) (greedy : Bool) (l t : Nat) (i : Word32) : Option Nat :=
  let v := if greedy then l
    else
      let b := (s.genAt i 0).toNat
      let u := fround fmtF32 .rn 0 (.fin false (2 * (b / 2 ^ 9) + 1) (-24))
      let g := flog2 (fneg fmtF32 (flog2 u))
      fsub fmtF32 (fmul fmtF32 l t) (fmul fmtF32 0x3F317218 g)
  if (fdecode fmtF32 l).isNan || (fdecode fmtF32 v).isNan then none else some v

/-- better() of R158, and the first token in play. -/
def takesOver (v i : Nat) (best : Nat × Nat) : Bool :=
  let x := fdecode fmtF32 v
  let y := fdecode fmtF32 best.1
  best.2 == 0xFFFFFFFF || y.lt x || (x.eq y && i < best.2)

/-- The best pair, and the count of NaN exclusions, over the legal lanes (R157, R158). -/
def State.sample (s : State) (greedy : Bool) (a : VReg) (base t : Nat) (ls : List Nat)
    (first : Nat × Nat) : (Nat × Nat) × Nat :=
  ls.foldl (fun r l =>
    match s.score greedy (s.laneN a l) t (BitVec.ofNat 32 (base + l)) with
    | none => (r.1, r.2 + 1)
    | some v => (if takesOver v (base + l) r.1 then (v, base + l) else r.1, r.2)) (first, 0)

/-- The incoming pair of vd; an empty one is (-infinity, 0xFFFFFFFF) (R158). -/
def State.incoming (s : State) (d : VReg) : Nat × Nat :=
  let v := s.laneN d 0
  let i := s.laneN d 1
  if i = 0xFFFFFFFF || (fdecode fmtF32 v).isNan then (0xFF800000, 0xFFFFFFFF) else (v, i)

/-- The events and the record of a VSAMP (R159, R160). -/
def State.sampleEvents (s : State) (empty : Bool) (nanx base : Nat) : State :=
  let t := s.cur
  let ev := fun (s : State) (code : Nat) =>
    match s.curK.load with
    | some h => s.detEvent h (BitVec.ofNat 8 code) (BitVec.ofNat 8 s.curCtx)
        ((s.visibleCore s.curCore).setWidth 16) (t.pc.setWidth 16) (t.fix.setWidth 32)
    | none => s
  let s := if empty then ev s 7 else s
  let s := if 0 < nanx then ev s 6 else s
  if (empty && t.tmode.getLsbD 0) || (0 < nanx && t.tmode.getLsbD 1) then
    s.trapRecord
      { code := codeTrap,
        detail := BitVec.ofNat 64 (nanx + (if empty then 2 ^ 8 else 0) + 2 ^ 32 * base) }
  else s

/-- VSAMP and VSAMP.greedy (R156 to R160). -/
def sampleForm (q : Issue) (greedy : Bool) (d a : VReg) (b : SReg) (k : KReg) (p : PReg) (s : State) :
    Answer :=
  let x := (s.x (scalarOf b)).v
  let base := bits x 0 32
  issue q 1 false (firstFault [(0xFFFFFFDF < base, laneRange 18 0 x)]) none
    (fun s =>
      let ls := s.activeLanes k
      let r := s.sample greedy a base (bits x 32 32) ls (s.incoming d)
      let po := (s.lane d 0).po || (s.lane d 1).po || s.activePoison a k || (s.x (scalarOf b)).po
      let none' := r.1.2 == 0xFFFFFFFF
      let score := if none' then 0xFF800000 else r.1.1
      let s := s.sampleEvents (none' && p != 0) r.2 base
      s.writeRegs 14 ([(laneKey d 0, pv32 score po), (laneKey d 1, pv32 r.1.2 po)] ++
        (if p = 0 then [] else [(pKey p, ⟨if none' then 1 else 0, po⟩)]))) s

/-- VSAMP (R156). -/
def execVsamp (q : Issue) (d a : VReg) (b : SReg) (k : KReg) (p : PReg) (s : State) : Answer :=
  sampleForm q false d a b k p s
/-- VSAMP.greedy (R156). -/
def execVsampGreedy (q : Issue) (d a : VReg) (b : SReg) (k : KReg) (p : PReg) (s : State) : Answer :=
  sampleForm q true d a b k p s

end Sys2Proof.Machine
end

