-- ==== Sys2Proof/Machine/Matrix.lean ====
section
/-!
DEFINITION. The matrix forms, the matrix command queue and the accumulation of R43 to R47 (R162 to
R181). Bank stalls (R171) change only timing and are left out.
-/

namespace Sys2Proof.Machine

/-! ### Banks (R162, R163) -/

/-- Element [i][j] of a bank. -/
def Core.zAt (k : Core) (b : Bool) (i j : Nat) : Word32 :=
  mapGet 0 ((if b then 2048 else 0) + 64 * i + j) k.z

/-- A bank's elements replaced. -/
def Core.setBank (k : Core) (b : Bool) (f : Nat → Nat → Word32) : Core :=
  let o := if b then 2048 else 0
  let new := (steps 0 1 32).flatMap fun i => (steps 0 1 64).filterMap fun j =>
    let v := f i j
    if v = 0 then none else some (o + 64 * i + j, v)
  let low := k.z.filter fun e => e.1 < 2048
  let high := k.z.filter fun e => 2048 ≤ e.1
  if b then { k with z := low ++ new, zDirty1 := true, zSaved1 := false }
  else { k with z := new ++ high, zDirty0 := true, zSaved0 := false }

/-- A bank's row poison mask. -/
def Core.zPoison (k : Core) (b : Bool) : BitVec 32 := if b then k.zPoison1 else k.zPoison0

/-- A bank's type tag. -/
def Core.zTag (k : Core) (b : Bool) : BitVec 2 := if b then k.zTag1 else k.zTag0

/-- A bank's row poison mask and type tag replaced. -/
def Core.setBankInfo (k : Core) (b : Bool) (po : BitVec 32) (tag : BitVec 2) : Core :=
  if b then { k with zPoison1 := po, zTag1 := tag } else { k with zPoison0 := po, zTag0 := tag }

/-- Rows of a bank with an error that no read has met yet (R179). -/
def Core.zErr (k : Core) (b : Bool) : BitVec 32 := if b then k.zErr1 else k.zErr0

/-- Errors of a bank in rows of a mask are met: the rows are poisoned (R179). -/
def Core.detect (k : Core) (b : Bool) (rows : BitVec 32) : Core :=
  if b then { k with zPoison1 := k.zPoison1 ||| (k.zErr1 &&& rows), zErr1 := k.zErr1 &&& ~~~rows }
  else { k with zPoison0 := k.zPoison0 ||| (k.zErr0 &&& rows), zErr0 := k.zErr0 &&& ~~~rows }

/-- A bank written whole holds no error. -/
def Core.clearErr (k : Core) (b : Bool) : Core :=
  if b then { k with zErr1 := 0 } else { k with zErr0 := 0 }

/-! ### Operands (R164 to R166) -/

/-- Bits of an element (R166). -/
def MFmt.bits : MFmt → Nat
  | .bf16 | .f16 => 16
  | .e4m3 | .e5m2 | .kb8e4m3 | .kb8e5m2 | .i8 => 8
  | .e2m1 | .kb4 => 4

/-- The element format of a float operand. -/
def MFmt.fmt : MFmt → Fmt
  | .bf16 => fmtBf16
  | .f16 => fmtF16
  | .e4m3 | .kb8e4m3 | .i8 => fmtE4m3
  | .e5m2 | .kb8e5m2 => fmtE5m2
  | .e2m1 | .kb4 => fmtE2m1

/-- Bytes of a block of 32 elements. -/
def blockBytes (f : MFmt) : Nat := 4 * MFmt.bits f

/-- Groups of 32 steps (R165). -/
def groupsOf (steps : Nat) : Nat := (steps + 31) / 32

/-- Streaming cycles S (R166). -/
def streamCycles (f : MFmt) (steps : Nat) : Nat := (steps * MFmt.bits f + 7) / 8

/-- Steps of group g of an instruction of n steps. -/
def groupSteps (n g : Nat) : Nat := min 32 (n - 32 * g)

/-- A tile range of an operand: first byte, length, and its cause in R181. -/
structure MRange where
  base : Word64
  len : Nat
  cause : Nat
deriving DecidableEq, Repr

/-- The ranges of R165. -/
def State.macRanges (s : State) (f : MFmt) (a b : XReg) (n : Nat) : List MRange :=
  let g := groupsOf n
  let ab := [⟨(s.x a).v, 32 * blockBytes f * g, 32⟩, ⟨(s.x b).v, 64 * blockBytes f * g, 33⟩]
  if MFmt.scaled f then
    ab ++ [⟨(s.x (a + 1)).v, 32 * g, 34⟩, ⟨(s.x (b + 1)).v, 64 * g, 35⟩]
  else ab

/-- The registers that a multiply-accumulate reads, in the order of R181. -/
def macRegs (f : MFmt) (a b : XReg) : List XReg :=
  if MFmt.scaled f then [a, b, a + 1, b + 1] else [a, b]

/-- The detail of R181. -/
def matrixDetail (cause : Nat) (base : Word64) : Word64 := memDetail cause 0 base.toNat

/-- ALIGN and RANGE of a matrix base. -/
def matrixAlign (base : Word64) : FaultInfo := { code := codeAlign, detail := matrixDetail 0 base }
def matrixRange (cause : Nat) (base : Word64) : FaultInfo :=
  { code := codeRange, detail := matrixDetail cause base }

/-- The faults of a multiply-accumulate, in order (R181). -/
def State.macChecks (s : State) (f : MFmt) (a b : XReg) (n : Nat) : List (Bool × FaultInfo) :=
  (macRegs f a b).map (fun r => ((s.x r).po, poisonX r)) ++
  [((s.x a).v.toNat % 8 != 0, matrixAlign (s.x a).v),
   ((s.x b).v.toNat % 8 != 0, matrixAlign (s.x b).v)] ++
  (s.macRanges f a b n).map fun r =>
    (decide (2 ^ 17 < r.base.toNat + r.len), matrixRange r.cause r.base)

/-- The hold of an instruction that enters the queue (R61, R172, R173). -/
def queueHeld (ranges : List MRange) (write : Bool) (s : State) : Bool :=
  4 ≤ s.curK.mq.length || ranges.any fun r => s.curK.addrHeld r.base r.len write

/-! ### The queue (R168, R169, R173) -/

/-- The cycle in which a command issued now starts (R169). -/
def Core.startCycle (k : Core) (now : Nat) (mac : Bool) : Nat :=
  k.mq.foldl (fun t c =>
    let isMac := match c.instr with
      | .mma .. | .mmas .. | .mmai .. => true
      | _ => false
    max t (if mac && isMac then c.stop else c.retire)) (now + 2)

/-- A command enters the queue with its ranges and its three events. -/
def State.enqueue (s : State) (c : MCmd) (mac : Bool) (stream drain : Nat) (ranges : List MRange)
    (write : Bool) : State :=
  let id := s.nextId
  let start := s.curK.startCycle s.cycle mac
  let c := { c with id := id, word := s.word, start := start, stop := start + stream,
                    retire := start + stream + drain }
  let s := ranges.foldl (fun s r => s.addRange id r.base.toNat r.len write false) s.newId
  let s := s.setCurK { s.curK with mq := s.curK.mq ++ [c] }
  ((s.at start (.matrixCommandStart s.curCore)).at (start + stream)
    (.matrixStreamEnd s.curCore)).at (start + stream + drain) (.matrixCommandRetire s.curCore)

/-- Bytes of a range of the executing core's tile store. -/
def State.tileBytes (s : State) (base : Word64) (n : Nat) : List Byte :=
  memBytes s.mem (tileKey s.curCore base.toNat) n

/-- Whether some block of a row or column holds a poisoned element that the command reads (R52,
R164): `row` of `rows`. -/
def State.blocksPoisoned (s : State) (base : Word64) (size rows row n : Nat) : Bool :=
  (steps 0 1 (groupsOf n)).any fun g =>
    s.poisoned (tileKey s.curCore (base.toNat + (rows * g + row) * size))
      ((groupSteps n g * size + 31) / 32)

/-- Whether a scale byte of a row or column is poisoned (R52). -/
def State.scalesPoisoned (s : State) (base : Word64) (rows row n : Nat) : Bool :=
  (steps 0 1 (groupsOf n)).any fun g =>
    s.poisoned (tileKey s.curCore (base.toNat + rows * g + row)) 1

/-- Rows that a multiply-accumulate poisons (R52). -/
def State.macPoison (s : State) (f : MFmt) (a b : XReg) (n : Nat) : BitVec 32 :=
  let size := blockBytes f
  let sc := MFmt.scaled f
  let bad := (steps 0 1 64).any fun j => s.blocksPoisoned (s.x b).v size 64 j n ||
    (sc && s.scalesPoisoned (s.x (b + 1)).v 64 j n)
  let rows := (steps 0 1 32).filter fun i => s.blocksPoisoned (s.x a).v size 32 i n ||
    (sc && s.scalesPoisoned (s.x (a + 1)).v 32 i n)
  if bad then BitVec.allOnes 32 else BitVec.ofNat 32 (rows.foldl (fun m i => m + 2 ^ i) 0)

/-- A multiply-accumulate enters the queue with its operands as they stand (R167, R173). -/
def macForm (q : Issue) (i : Instr) (f : MFmt) (a b : XReg) (kc : BitVec 6) (s : State) : Answer :=
  let n := kc.toNat + 1
  let rs := s.macRanges f a b n
  let g := groupsOf n
  issue q 1 (queueHeld rs false s) (firstFault (s.matrixFaultOf :: s.macChecks f a b n)) none
    (fun s =>
      let c : MCmd :=
        { id := 0, instr := i, word := 0, start := 0, stop := 0, retire := 0,
          aElems := s.tileBytes (s.x a).v (32 * blockBytes f * g),
          bElems := s.tileBytes (s.x b).v (64 * blockBytes f * g),
          aScales := if MFmt.scaled f then s.tileBytes (s.x (a + 1)).v (32 * g) else [],
          bScales := if MFmt.scaled f then s.tileBytes (s.x (b + 1)).v (64 * g) else [],
          rowPoison := s.macPoison f a b n }
      s.enqueue c true (streamCycles f n) 96 rs false) s

/-- MMA (R167). -/
def execMma (q : Issue) (z : Bool) (a b : XReg) (f : MFmt) (kc : BitVec 6) (s : State) : Answer :=
  macForm q (.mma q z a b f kc) f a b kc s

/-- MMAS (R167). -/
def execMmas (q : Issue) (z : Bool) (a b : XReg) (f : MFmt) (kc : BitVec 6) (s : State) : Answer :=
  macForm q (.mmas q z a b f kc) f a b kc s

/-- MMAI (R167). -/
def execMmai (q : Issue) (z : Bool) (a b : XReg) (kc : BitVec 6) (s : State) : Answer :=
  macForm q (.mmai q z a b kc) .i8 a b kc s

/-- MZERO (R175). -/
def execMzero (q : Issue) (z : Bool) (s : State) : Answer :=
  issue q 1 (queueHeld [] false s) (firstFault [s.matrixFaultOf]) none
    (fun s => s.enqueue { id := 0, instr := .mzero q z, word := 0, start := 0, stop := 0, retire := 0 }
      false 1 0 [] false) s

/-- The checks of MLDZ and MSTZ (R175, R181). -/
def State.bankChecks (s : State) (a : XReg) : List (Bool × FaultInfo) :=
  let xa := (s.x a).v
  [s.matrixFaultOf, ((s.x a).po, poisonX a), (xa.toNat % 256 != 0, matrixAlign xa),
   (2 ^ 17 < xa.toNat + 8192, matrixRange 36 xa)]

/-- MLDZ (R175, R199): the words as they stand at issue. -/
def execMldz (q : Issue) (z : Bool) (a : XReg) (s : State) : Answer :=
  let r : MRange := ⟨(s.x a).v, 8192, 36⟩
  issue q 1 (s.memHeld || queueHeld [r] false s) (firstFault (s.bankChecks a)) none
    (fun s =>
      let base := (s.x a).v
      let rows := (steps 0 1 32).filter fun i =>
        s.poisoned (tileKey s.curCore (base.toNat + 256 * i)) 256
      s.enqueue { id := 0, instr := .mldz q z a, word := 0, start := 0, stop := 0, retire := 0,
                  aElems := s.tileBytes base 8192,
                  rowPoison := BitVec.ofNat 32 (rows.foldl (fun m i => m + 2 ^ i) 0) }
        false 16 0 [r] false) s

/-- MSTZ (R175, R199). -/
def execMstz (q : Issue) (z : Bool) (a : XReg) (s : State) : Answer :=
  let r : MRange := ⟨(s.x a).v, 8192, 36⟩
  issue q 1 (s.memHeld || queueHeld [r] true s) (firstFault (s.bankChecks a)) none
    (fun s => s.enqueue { id := 0, instr := .mstz q z a, word := 0, start := 0, stop := 0, retire := 0,
                          base := (s.x a).v.toNat } false 16 0 [r] true) s

/-! ### Accumulation (R43 to R47) -/

/-- The element codes of a block, in the order of kk (R19, R164). -/
def blockCodes (f : MFmt) (l : List Byte) : List Nat :=
  let v := bytesToNat l
  (steps 0 1 32).map fun k => v / 2 ^ (MFmt.bits f * k) % 2 ^ MFmt.bits f

/-- Block n of an operand. -/
def blockAt (f : MFmt) (l : List Byte) (n : Nat) : List Byte :=
  (l.drop (n * blockBytes f)).take (blockBytes f)

/-- The exact sum of products (R43, R45): the zero sum is -0 only when every product is. -/
def dot (f : Fmt) (a b : List Nat) : FVal :=
  (List.zipWith (fun x y => (fdecode f x).mul (fdecode f y)) a b).foldl FVal.add (.fin true 0 0)

/-- A group sum times its block scales (R44); a scale of 255 makes its block NaN (R26). -/
def scaledSum (v : FVal) (sa sb : Byte) : FVal :=
  if sa = 255 ∨ sb = 255 then .nan else v.scale ((sa.toNat : Int) - 127 + ((sb.toNat : Int) - 127))

/-- Group sum g of row i and column j. -/
def MCmd.groupSum (c : MCmd) (f : MFmt) (n g i j : Nat) : FVal :=
  let k := groupSteps n g
  let v := dot (MFmt.fmt f) ((blockCodes f (blockAt f c.aElems (32 * g + i))).take k)
    ((blockCodes f (blockAt f c.bElems (64 * g + j))).take k)
  if MFmt.scaled f then
    scaledSum v (c.aScales.getD (32 * g + i) 0) (c.bScales.getD (64 * g + j) 0)
  else v

/-- The accumulator after all groups (R44). -/
def MCmd.accumulate (c : MCmd) (f : MFmt) (n i j : Nat) (z : Word32) : Word32 :=
  BitVec.ofNat 32 ((steps 0 1 (groupsOf n)).foldl
    (fun z g => fround fmtF32 .rn 0 ((fdecode fmtF32 z).add (c.groupSum f n g i j))) z.toNat)

/-- The integer accumulator after all groups (R46). -/
def MCmd.accumulateInt (c : MCmd) (n i j : Nat) (z : Word32) : Word32 :=
  (steps 0 1 (groupsOf n)).foldl (fun z g =>
    let k := groupSteps n g
    let t := List.zipWith (fun x y => intOf 8 x * intOf 8 y)
      ((blockCodes .i8 (blockAt .i8 c.aElems (32 * g + i))).take k)
      ((blockCodes .i8 (blockAt .i8 c.bElems (64 * g + j))).take k)
    z + BitVec.ofInt 32 (t.foldl (· + ·) 0)) z

/-- Row i of a bank as bytes (R175). -/
def Core.rowBytes (k : Core) (b : Bool) (i : Nat) : List Byte :=
  (steps 0 1 64).flatMap fun j => natToBytes 4 (k.zAt b i j).toNat

/-- The bank of a command that reads it. -/
def MCmd.readsBank (c : MCmd) : Option Bool :=
  match c.instr with
  | .mma _ z _ _ _ _ | .mmas _ z _ _ _ _ | .mmai _ z _ _ _ | .mstz _ z _ => some z
  | _ => none

/-- A core as a command finds it: the errors of the bank that it reads are met (R179). -/
def Core.meet (k : Core) (c : MCmd) : Core :=
  match c.readsBank with
  | some z => k.detect z (BitVec.allOnes 32)
  | none => k

/-- What a command does when it retires (R167, R175, R179). -/
def State.runMatrix (s : State) (core : Nat) (c : MCmd) : State :=
  let k := (s.core core).meet c
  let mac := fun (z : Bool) (tag : BitVec 2) (f : Nat → Nat → Word32) =>
    s.setCore core ((k.setBank z f).setBankInfo z (k.zPoison z ||| c.rowPoison) tag)
  match c.instr with
  | .mma _ z _ _ f kc | .mmas _ z _ _ f kc =>
    mac z 1 fun i j => c.accumulate f (kc.toNat + 1) i j (k.zAt z i j)
  | .mmai _ z _ _ kc => mac z 2 fun i j => c.accumulateInt (kc.toNat + 1) i j (k.zAt z i j)
  | .mzero _ z => s.setCore core (((k.setBank z fun _ _ => 0).setBankInfo z 0 0).clearErr z)
  | .mldz _ z _ =>
    s.setCore core (((k.setBank z fun i j =>
      BitVec.ofNat 32 (bytesToNat ((c.aElems.drop (256 * i + 4 * j)).take 4))).setBankInfo z
        c.rowPoison 0).clearErr z)
  | .mstz _ z _ =>
    (steps 0 1 32).foldl (fun s i =>
      s.storeMarked (tileKey core (c.base + 256 * i)) (k.rowBytes z i)
        (if (k.zPoison z).getLsbD i then steps 0 1 32 else [])) (s.setCore core k)
  | _ => s

/-- Whether the n-th 4-byte word of a mixture that begins at free value f is the new one (R180). -/
def mixedNew (f n : Nat) : Bool := (Config.freeBits (f + n)).getLsbD 0

/-- n 4-byte words from one memory or another, as free bits choose. -/
def mixWords (a b : List Host.Cell) (f key n : Nat) : List Host.Cell :=
  (steps 0 1 n).foldl (fun m i =>
    if mixedNew f i then memSetBytes m (key + 4 * i) (memBytes b (key + 4 * i) 4) else m) a

/-- The marks of such a mixture: a word of 8 bytes written whole takes its new mark, one written in part
is marked where either is (R51). -/
def mixMarks (a b : List Nat) (f key n : Nat) : List Nat :=
  (steps 0 1 (n / 2)).foldl (fun m i =>
    let w := key / 8 + i
    let lo := mixedNew f (2 * i)
    let hi := mixedNew f (2 * i + 1)
    if lo && hi then if setHas w b then setAdd w m else setDel w m
    else if (lo || hi) && setHas w b then setAdd w m
    else m) a

/-- R180: under a command that has started, what a freeze finds is a mixture, cell by cell. The bank's row
mask and type tag are those of the finished command (DESIGN CHOICE, log 104). -/
def State.smearCommand (core : Nat) (s : State) (c : MCmd) : State :=
  let n := s.runMatrix core c
  let bank := fun (z : Bool) =>
    let f := fun (i j : Nat) =>
      if (Config.freeBits (s.fresh + 64 * i + j)).getLsbD 0 then (n.core core).zAt z i j
      else (s.core core).zAt z i j
    { s.setCore core ((n.core core).setBank z f) with fresh := s.fresh + 2048 }
  if !c.started then s
  else
    match c.instr with
    | .mma _ z _ _ _ _ | .mmas _ z _ _ _ _ | .mmai _ z _ _ _ => bank z
    | .mstz .. => { n with mem := mixWords s.mem n.mem s.fresh (tileKey core c.base) 2048,
                           poison := mixMarks s.poison n.poison s.fresh (tileKey core c.base) 2048,
                           fresh := s.fresh + 2048 }
    | _ => s

/-! ### Events of the queue -/

/-- MATRIX_COMMAND_START (R169, R179, R180): the command has started, and the array meets the errors of
the bank that it reads. -/
def execMatrixCommandStart (core : Nat) (s : State) : Answer :=
  let k := s.core core
  let now := k.mq.filter fun c => c.start ≤ s.cycle && !c.started
  let k' := now.foldl Core.meet k
  .next (s.setCore core
    { k' with mq := k.mq.map fun c => if c.start ≤ s.cycle then { c with started := true } else c })

/-- Whether a command writes the tile store until it retires. -/
def MCmd.writesTile (c : MCmd) : Bool :=
  match c.instr with
  | .mstz .. => true
  | _ => false

/-- MATRIX_STREAM_END (R173): the read ranges of the commands that stop streaming are free. -/
def execMatrixStreamEnd (core : Nat) (s : State) : Answer :=
  let k := s.core core
  let ended := fun (c : MCmd) => c.stop ≤ s.cycle
  let ids := (k.mq.filter fun c => ended c && !c.writesTile).map (·.id)
  .next (s.setCore core
    { k with mq := k.mq.map fun c => if ended c then { c with streamed := true } else c,
             score := k.score.filter fun e => !ids.contains e.id })

/-- MATRIX_COMMAND_RETIRE (R168, R169): the oldest command takes effect and leaves the queue. -/
def execMatrixCommandRetire (core : Nat) (s : State) : Answer :=
  let k := s.core core
  match k.mq with
  | [] => .next s
  | c :: rest =>
    if s.cycle < c.retire then .next s
    else
      let s := s.runMatrix core c
      .next (s.setCore core { s.core core with
        mq := rest, score := (s.core core).score.filter fun e => e.id != c.id })

/-! ### MRDV, MSTAT, MWAIT (R172, R176 to R178) -/

/-- The bank that a queued command names. -/
def MCmd.bank (c : MCmd) : Option Bool :=
  match c.instr with
  | .mma _ z _ _ _ _ | .mmas _ z _ _ _ _ | .mmai _ z _ _ _ | .mzero _ z | .mldz _ z _
  | .mstz _ z _ => some z
  | _ => none

/-- R172: a queued command names the bank. -/
def bankBusy (z : Bool) (s : State) : Bool := s.curK.mq.any fun c => c.bank == some z

/-- MRDV (R176, R179). -/
def execMrdv (q : Issue) (z : Bool) (a : XReg) (d : VReg) (s : State) : Answer :=
  let xa := (s.x a).v
  issue q 1 (bankBusy z s)
    (firstFault [s.matrixFaultOf, (64 ≤ xa.toNat, matrixRange 37 xa)]) none
    (fun s =>
      let i := xa.toNat % 32
      let h := xa.toNat / 32 % 2
      let s := s.setCurK (s.curK.detect z (BitVec.ofNat 32 (2 ^ i)))
      let po := (s.curK.zPoison z).getLsbD i || (s.x a).po
      s.writeRegs 6 (lanes.map fun l =>
        (laneKey d l, pv32 (s.curK.zAt z i (32 * h + l)).toNat po))) s

/-- MSTAT (R177). -/
def execMstat (q : Issue) (z : Bool) (d : XReg) (s : State) : Answer :=
  issue q 1 (bankBusy z s) (firstFault [s.matrixFaultOf]) none
    (fun s => s.writeX 2 d
      (BitVec.ofNat 64 ((s.curK.zTag z).toNat * 2 ^ 32 + (s.curK.zPoison z).toNat)) false) s

/-- MWAIT's hold (R172). -/
def mwaitHeld (s : State) : Bool := !s.curK.mq.isEmpty

/-- MWAIT (R178). -/
def execMwait (q : Issue) (s : State) : Answer :=
  issue q 1 (mwaitHeld s) (firstFault [s.matrixFaultOf]) none (fun s => s) s

end Sys2Proof.Machine
end

