-- ==== Sys2Proof/Machine/Grammar.lean ====
section
/-!
DEFINITION. The grammar mask engines: slots and images (R310 to R315), sessions and commands (R316 to
R322), and the five grammar commands (R224, R225).
-/

namespace Sys2Proof.Machine

/-! ### Slots and sessions -/

/-- Grammar slot n of a load, as the system hall of a wing holds it (R310). -/
def State.slotWord (s : State) (wing h n : Nat) : Word64 := s.sysCfg wing (1024 + 8 * h + n)

/-- Session n of a wing's engine. -/
def State.session (s : State) (wing n : Nat) : Session := mapGet {} (256 * wing + n) s.sessions

/-- Session n of a wing's engine replaced. -/
def State.setSession (s : State) (wing n : Nat) (t : Session) : State :=
  { s with sessions := mapPut (256 * wing + n) t s.sessions }

/-! ### Reading an image (R310 to R315, R318) -/

/-- Where a slot's image lies in memory: physical, or in a gallery (R310). A shared BASE in a hall store names no
image (DESIGN CHOICE, log 128). -/
def State.imageBase (s : State) (slot : Word64) : Option Nat :=
  let base := bits slot 0 52
  if bitAt slot 62 then
    match s.sharedKey (BitVec.ofNat 64 base) 128 with
    | some k => if isGalleryKey k then some k else none
    | none => none
  else some (physKey base)

/-- n bytes of an image from an offset lie in the memory that holds it: its gallery, or backed memory. -/
def State.imageInside (s : State) (base off n : Nat) : Bool :=
  if isGalleryKey base then base % 2 ^ 26 + off + n ≤ 2 ^ 26
  else
    let pa := base + off - physKey 0
    s.backed pa && s.backed (pa + n - 1) && pa / 2 ^ 48 == (pa + n - 1) / 2 ^ 48

/-- Bytes of an image; none where a word is poisoned or no memory backs it. -/
def State.imageRead (s : State) (base off n : Nat) : Option (List Byte) :=
  if s.imageInside base off n && !s.poisoned (base + off) n then some (memBytes s.mem (base + off) n) else none

/-- A little-endian word of an image. -/
def State.imageWord (s : State) (base off n : Nat) : Option Nat :=
  (s.imageRead base off n).map bytesToNat

/-- The value of n bytes of a list from an offset. -/
def byteField (l : List Byte) (off n : Nat) : Nat := bytesToNat ((l.drop off).take n)

/-- The parts of an image, by the offset of their field in the header, with the bytes that the header's
counts give them; of the uncertain entries it gives those of one state (R311 to R315). -/
def headerParts (l : List Byte) : List (Nat × Nat) :=
  let f := byteField l
  [(32, 2048 * f 8 4), (40, 16 * f 8 4), (48, 32768 * f 16 4), (56, 32 * f 6 2), (64, 8 * f 28 4),
   (72, 4 * f 12 4)]

/-- R311: every part lies within the image, and so in the memory that holds the image (log 84). -/
def State.partsInside (s : State) (base : Nat) (l : List Byte) : Bool :=
  (headerParts l).all fun p => s.imageInside base (byteField l p.1 8) (max 1 p.2)

/-- The checks of R311 and R319 on a header. -/
def headerOk (l : List Byte) : Bool :=
  let f := byteField l
  f 0 4 == 0x4B475231 && f 4 2 == 1 && f 6 2 ≤ 8192 &&
  1 ≤ f 8 4 && f 8 4 ≤ 65536 && 1 ≤ f 12 4 && f 12 4 ≤ 262144 &&
  1 ≤ f 16 4 && f 16 4 ≤ 65536 && 1 ≤ f 20 2 && f 20 2 ≤ 1024 && f 22 2 < f 8 4 &&
  (f 24 4 < f 12 4 || f 24 4 == 0xFFFFFFFF) && 1 ≤ f 28 4 && f 28 4 ≤ 2 ^ 24 &&
  (steps 32 8 6).all (fun o => f o 8 % 64 == 0) &&
  f 80 4 == (crc32c (l.take 80)).toNat && (l.drop 84).all (· == 0)

/-- What a session keeps of a header. -/
def headerImage (base : Nat) (l : List Byte) : GImage :=
  let f := byteField l
  { base := base, nv := f 12 4, smax := f 20 2, eos := f 24 4, trans := f 32 8, states := f 40 8,
    bitmaps := f 48 8, uncertain := f 56 8, nodes := f 64 8, tokens := f 72 8 }

/-! ### What a command does to a session -/

/-- The status codes of R317. -/
def stOk : Nat := 0
def stNoAdvance : Nat := 1
def stReject : Nat := 2
def stNotOpen : Nat := 3
def stBusy : Nat := 4
def stNotOwner : Nat := 5
def stImage : Nat := 6
def stDone : Nat := 7

/-- GOPEN on a closed session (R319). One that reports IMAGE_ERR, as one that reports BUSY, opens nothing and ends no
span of R321: the noted contexts stay (DESIGN CHOICE, log 127). -/
def State.openSession (s : State) (t : Session) (h : Nat) (slotNo : Nat) (slot : Word64) (seq : Word64) :
    Session × Nat :=
  let hdr := (s.imageBase slot).bind fun b => (s.imageRead b 0 128).map fun l => (b, l)
  match hdr with
  | none => (t, stImage)
  | some (b, l) =>
    if headerOk l && s.partsInside b l then
      ({ state := .opened, live := true, owner := h, pda := BitVec.ofNat 16 (byteField l 22 2),
         slot := BitVec.ofNat 3 slotNo, seq := seq.setWidth 32, image := headerImage b l }, stOk)
    else (t, stImage)

/-- A token is accepted (R320). -/
def Session.accept (t : Session) (tok : Nat) : Session :=
  { t with acc := t.acc + 1, digest := crc32cMore t.digest (natToBytes 4 tok) }

/-- A token is rejected (R320). -/
def Session.reject (t : Session) : Session := { t with rej := t.rej + 1 }

/-- A token's bytes in root-to-leaf order, at most 64 (R315, R320). -/
def State.tokenBytes (s : State) (g : GImage) : Nat → Nat → List Nat → Option (List Nat)
  | 0, _, _ => none
  | n + 1, node, acc =>
    match s.imageWord g.base (g.nodes + 8 * node) 8 with
    | none => none
    | some w =>
      if w % 2 ^ 32 = 0xFFFFFFFF then some acc
      else if acc.length = 64 then none
      else s.tokenBytes g n (w % 2 ^ 32) (w / 2 ^ 32 % 2 ^ 8 :: acc)

/-- What the walk of a token's bytes finds (R312, R320). -/
inductive PdaEnd
  | moved (q : BitVec 16) (stack : List (BitVec 16))
  | reject
  | bad
deriving DecidableEq, Repr

/-- One byte after another (R312, R320); the top of the stack is its head. -/
def State.walkBytes (s : State) (g : GImage) : List Nat → BitVec 16 → List (BitVec 16) → PdaEnd
  | [], q, st => .moved q st
  | y :: ys, q, st =>
    match s.imageWord g.base (g.trans + 8 * (256 * q.toNat + y)) 8 with
    | none => .bad
    | some w =>
      let sym := BitVec.ofNat 16 (w / 2 ^ 16)
      let next := BitVec.ofNat 16 w
      let op := w / 2 ^ 32 % 4
      if op = 3 then .reject
      else if op = 1 then
        if g.smax ≤ st.length then .reject else s.walkBytes g ys next (sym :: st)
      else if op = 2 then
        match st with
        | top :: rest => if top = sym then s.walkBytes g ys next rest else .reject
        | [] => .reject
      else s.walkBytes g ys next st

/-- ACC of a state (R313). -/
def State.accepting (s : State) (t : Session) : Option Bool :=
  (s.imageWord t.image.base (t.image.states + 16 * t.pda.toNat + 8) 8).map fun w => w.testBit 16

/-- GSTEP of a token on an open session (R320). -/
def State.stepSession (s : State) (t : Session) (tok : Nat) : Session × Nat :=
  let g := t.image
  let faulted : Session × Nat := ({ t with state := .faulted }, stImage)
  if g.nv ≤ tok then (t.reject, stReject)
  else if tok = g.eos then
    match s.accepting t with
    | none => faulted
    | some a =>
      if a && t.stack.isEmpty then ({ t with state := .done }.accept tok, stDone)
      else (t.reject, stReject)
  else
    match (s.imageWord g.base (g.tokens + 4 * tok) 4).bind fun leaf => s.tokenBytes g 66 leaf [] with
    | none => faulted
    | some ys =>
      match s.walkBytes g ys t.pda t.stack with
      | .bad => faulted
      | .reject => (t.reject, stReject)
      | .moved q st => ({ t with pda := q, stack := st }.accept tok, stOk)

/-- GSTEP (R317). -/
def State.gstep (s : State) (t : Session) (tok : Nat) : Session × Nat :=
  match t.state with
  | .closed | .faulted => (t, stNotOpen)
  | .opened =>
    if tok = 0xFFFFFFFF then ({ t with empty := t.empty + 1 }, stNoAdvance) else s.stepSession t tok
  | .done => if tok = 0xFFFFFFFF then ({ t with empty := t.empty + 1 }, stNoAdvance) else (t, stNotOpen)

/-- The condition of an uncertain entry (R314); none for an image error. -/
def entryHolds (l : List Byte) (st : List (BitVec 16)) : Option Bool :=
  let f := byteField l
  let n := f 8 1
  if 8 < n || (l.drop 9).take 7 != List.replicate 7 0 then none
  else
    some (decide (f 4 2 ≤ st.length) && decide (st.length ≤ f 6 2) && decide (n ≤ st.length) &&
      (steps 0 1 n).all fun i => st.getD i 0 == BitVec.ofNat 16 (f (16 + 2 * i) 2))

/-- The uncertain entries of a state on a mask (R318); none for an image error. -/
def State.uncertainOn (s : State) (g : GImage) (st : List (BitVec 16)) : Nat → Nat → Nat → Option Nat
  | 0, _, m => some m
  | n + 1, e, m =>
    match s.imageRead g.base (g.uncertain + 32 * e) 32 with
    | none => none
    | some l =>
      match entryHolds l st with
      | none => none
      | some c => s.uncertainOn g st n (e + 1) (if c then m ||| 2 ^ byteField l 0 4 else m)

/-- The mask of an open session as a number, bit t for token t (R318); none for an image error. -/
def State.maskOf (s : State) (t : Session) : Option Nat :=
  let g := t.image
  match s.imageRead g.base (g.states + 16 * t.pda.toNat) 16 with
  | none => none
  | some r =>
    match s.imageWord g.base (g.bitmaps + 32768 * byteField r 0 4) 32768 with
    | none => none
    | some b => (s.uncertainOn g t.stack (byteField r 8 2) (byteField r 4 4) b).map (· % 2 ^ g.nv)

/-- A mask written to shared space, every word full (R225, R318); a poisoned one with free values. -/
def State.writeMask (s : State) (xb : Word64) (m : Option Nat) : State :=
  match s.sharedKey xb 32768 with
  | none => s
  | some key =>
    match m with
    | some v => (s.storeMarked key (natToBytes 32768 v) []).setFull key 32768
    | none =>
      let d := (steps s.fresh 1 4096).flatMap fun i => natToBytes 8 (Config.freeBits i).toNat
      let s := (s.storeMarked key d (steps 0 1 4096)).setFull key 32768
      { s with fresh := s.fresh + 4096 }

/-- GMASK by a load that may use the session (R317, R318): the session, its status, the mask. -/
def State.gmask (s : State) (t : Session) : Session × Nat × Option Nat :=
  match t.state with
  | .closed => (t, stNotOpen, some 0)
  | .done => (t, stOk, some 0)
  | .faulted => (t, stNotOpen, none)
  | .opened =>
    match s.maskOf t with
    | some m => ({ t with masks := t.masks + 1 }, stOk, some m)
    | none => ({ t with state := .faulted }, stImage, none)

/-- The word that a selector names (R322). On a session that GCLOSE or a tear-down has closed the fields of selector 0
but SST read as they stood (DESIGN CHOICE, log 126). -/
def Session.query (t : Session) (sel : Nat) : Word64 :=
  let st := match t.state with
    | .closed => 0
    | .opened => 1
    | .done => 2
    | .faulted => 3
  if sel = 0 then
    BitVec.ofNat 64 (t.pda.toNat * 2 ^ 48 + t.stack.length * 2 ^ 37 + t.owner * 2 ^ 32 +
      t.last.toNat * 2 ^ 16 + t.lcmd.toNat * 2 ^ 13 + t.slot.toNat * 2 ^ 10 + st)
  else if sel = 1 then t.empty ++ t.acc
  else if sel = 2 then t.rej ++ t.seq
  else t.masks ++ t.digest

/-- R321: a session that a second context changes, between two GOPENs, enters one event in the record of the load
that the first of them opened it for. -/
def State.grammarRace (s : State) (wing n : Nat) (c x : Nat) : State :=
  let t := s.session wing n
  let users := setAdd (4 * c + x) t.users
  let race := 1 < users.length && !t.raced
  let s' := s.setSession wing n { t with users := users, raced := t.raced || race }
  if !t.live then s
  else if race then
    s'.detEvent t.owner 8 (BitVec.ofNat 8 x) (BitVec.ofNat 16 (16 * wing)) (BitVec.ofNat 16 n)
      ((s.ctx c x).fix.setWidth 32)
  else s'

/-- LAST and LCMD (R317, R322), of a command of the load that owns the session: one that finds the session
closed, which no load owns, reports only as a GOPEN, by R319. -/
def Session.report (t before : Session) (fn : BitVec 3) (st : Nat) : Session :=
  if before.state = .closed ∧ fn ≠ 0 then t else { t with last := BitVec.ofNat 8 st, lcmd := fn }

/-- A slot's BASE is a shared address at which no header of 128 bytes can lie (R196, R311, R486). -/
def State.slotAstray (s : State) (slot : Word64) : Bool :=
  bitAt slot 62 && (s.sharedKey (BitVec.ofNat 64 (bits slot 0 52)) 128).isNone

/-- RANGE 49 of a grammar engine that meets a shared address which is not well formed: the load stops, and the
record names the engine by its wing's system hall (R483, R486; DEDUCED, log 114). -/
def State.engineFault (s : State) (wing h addr : Nat) : State :=
  s.faultOutside (systemHall wing) h { code := codeRange, detail := memDetail 49 0 addr }

/-- The mask of a GMASK is written, or its address has ceased to be one (R318, R486). -/
def State.sendMask (s : State) (wing : Nat) (c : GramCmd) (m : Option Nat) : State :=
  if (s.sharedKey c.b 32768).isNone then s.engineFault wing c.load c.b.toNat else s.writeMask c.b m

/-- A command's effect at its engine (R317). -/
def State.performCommand (s : State) (c : GramCmd) : State :=
  let wing := bits c.a 8 2
  let n := bits c.a 0 8
  let t := s.session wing n
  let foreign : Bool := t.state != .closed && t.owner != c.load
  if c.fn = 4 then
    s.within 1 64 (.deferredResultArrival c.core c.ctx c.id
      (if foreign then 0 else t.query (bits c.b 0 2)) false)
  else if foreign then if c.fn = 2 then s.sendMask wing c (some 0) else s
  else if c.fn = 0 then
    let slot := s.slotWord (wingOfCore c.core) c.load (bits c.a 10 3)
    if t.state = .closed && s.slotAstray slot then s.engineFault wing c.load (bits slot 0 52)
    else
      let r := if t.state = .closed then s.openSession t c.load (bits c.a 10 3) slot c.b else (t, stBusy)
      s.setSession wing n (r.1.report t 0 r.2)
  else if c.fn = 1 then
    let r := s.gstep t (bits c.b 0 32)
    (s.setSession wing n (r.1.report t 1 r.2)).grammarRace wing n c.core c.ctx
  else if c.fn = 2 then
    let r := s.gmask t
    (s.setSession wing n (r.1.report t 2 r.2.1)).sendMask wing c r.2.2
  else
    let st := if t.state = .closed then stNotOpen else stOk
    (s.setSession wing n ({ t with state := .closed }.report t 3 st)).grammarRace wing n c.core c.ctx

/-- GRAMMAR_COMMAND_PERFORM (R225, R317): behind the context's earlier commands to the engine. -/
def execGrammarCommandPerform (id : Nat) (s : State) : Answer :=
  match mapFind id s.gcmds with
  | none => .next s
  | some c =>
    if c.after.any fun i => (mapFind i s.gcmds).isSome then .next (s.retry (.grammarCommandPerform id))
    else .next { s.performCommand c with gcmds := mapDel id s.gcmds }

/-! ### The commands (R219, R222, R224, R225, R301) -/

/-- RANGE 60: a nonzero bit that R224 marks zero, or a slot that the load does not declare. -/
def State.commandRange (s : State) (fn : Nat) (xa xb : Word64) : List (Bool × FaultInfo) :=
  let slot := bits xa 10 3
  let declared : Bool := match s.curK.load with
    | some h => bitAt (s.slotWord (wingOfCore s.curCore) h slot) 63
    | none => false
  [(bits xa 13 51 != 0 || (fn != 0 && slot != 0), rangeFault 60 0 xa),
   (((fn == 0 || fn == 1) && bits xb 32 32 != 0) || (fn == 4 && bits xb 2 62 != 0), rangeFault 60 0 xb),
   (fn == 0 && !declared, rangeFault 60 0 xa)]

/-- The checks of R225 in order. -/
def State.commandChecks (s : State) (fn : Nat) (a b : XReg) : List (Bool × FaultInfo) :=
  let xa := (s.x a).v
  let xb := (s.x b).v
  [((s.x a).po, poisonX a), ((s.x b).po, poisonX b)] ++ s.commandRange fn xa xb ++
  [(fn == 2 && xb.toNat % 8 != 0, alignFault xb),
   (fn == 2 && (s.sharedKey xb 32768).isNone, rangeFault 49 0 xb)]

/-- A command leaves for its engine, behind the context's earlier commands to it (R225). -/
def State.sendCommand (s : State) (fn : Nat) (xa xb : Word64) : State :=
  let id := s.nextId
  let before := s.gcmds.filter fun e => e.2.core == s.curCore && e.2.ctx == s.curCtx &&
    bits e.2.a 8 2 == bits xa 8 2
  let c : GramCmd :=
    { id := id, core := s.curCore, ctx := s.curCtx, load := s.curK.load.getD 31,
      fn := BitVec.ofNat 3 fn, a := xa, b := xb, after := before.map (·.1) }
  ({ s.newId with gcmds := mapPut id c s.gcmds }).later 1 (.grammarCommandPerform id)

/-- The four commands that write nothing in the core. -/
def commandForm (q : Issue) (fn : Nat) (a b : XReg) (s : State) : Answer :=
  issue q 1 (!s.inStub && s.memHeld)
    (firstFault ((s.inStub, stubFault s.word) :: s.commandChecks fn a b)) none
    (fun s => s.elasticEffect.sendCommand fn (s.x a).v (s.x b).v) s

/-- GOPEN (R224). -/
def execGopen (q : Issue) (a b : XReg) (s : State) : Answer := commandForm q 0 a b s
/-- GSTEP (R224). -/
def execGstep (q : Issue) (a b : XReg) (s : State) : Answer := commandForm q 1 a b s
/-- GMASK (R224). -/
def execGmask (q : Issue) (a b : XReg) (s : State) : Answer := commandForm q 2 a b s
/-- GCLOSE (R224). -/
def execGclose (q : Issue) (a : XReg) (s : State) : Answer := commandForm q 3 a 0 s

/-- GQRY (R224, R322): deferred. -/
def execGqry (q : Issue) (a b : XReg) (s : State) : Answer :=
  issue q 1 (s.memHeld || s.cur.rqFull) (firstFault (s.commandChecks 4 a b)) none
    (fun s => (s.pushEntry s.nextId true).sendCommand 4 (s.x a).v (s.x b).v) s

/-- R232, R316: every session of a load is closed. -/
def State.closeSessions (s : State) (h : Nat) : State :=
  let close := fun (t : Session) =>
    if t.owner == h && t.live then { t with state := .closed, live := false } else t
  { s with sessions := s.sessions.map (fun e => (e.1, close e.2)),
           gcmds := s.gcmds.filter (fun e => e.2.load != h) }

end Sys2Proof.Machine
end

