-- ==== Sys2Proof/Machine/Crypto.lean ====
section
/-!
DEFINITION. SHA-512 and the ECDSA P-521 verification that SECH, SECV and the placing stage use (R234,
R414, R477), by FIPS 180-4 and FIPS 186-5 (log 13).
-/

namespace Sys2Proof.Machine

/-! ### SHA-512 -/

/-- The 80 primes that the constants are made of, those below 410: such a number is prime when nothing
smaller from 2 to 20 divides it. -/
def shaPrimes : List Nat :=
  (steps 2 1 408).filter fun n => (steps 2 1 19).all fun d => n ≤ d || n % d != 0

/-- The integer part of a k-th root of n, built from bit b - 1 down onto r. -/
def rootFrom (k n : Nat) : Nat → Nat → Nat
  | 0, r => r
  | b + 1, r => rootFrom k n b (if (r + 2 ^ b) ^ k ≤ n then r + 2 ^ b else r)

/-- The first 64 bits of the fraction of a prime's k-th root: the low bits of the root of p times 2^(64 k),
which has fewer than 70. -/
def rootFraction (k p : Nat) : Word64 := BitVec.ofNat 64 (rootFrom k (p * 2 ^ (64 * k)) 70 0)

/-- The constants of the rounds come from cube roots, the hash value before the first block from the square
roots of the first 8 primes. -/
def shaConstants : List Word64 := shaPrimes.map (rootFraction 3)
def shaStart : List Word64 := (shaPrimes.take 8).map (rootFraction 2)

/-- Bytes most significant first. -/
def bytesToNatBe (l : List Byte) : Nat := bytesToNat l.reverse

/-- The n low bytes of a value, most significant first. -/
def natToBytesBe (n v : Nat) : List Byte := (natToBytes n v).reverse

/-- The rotations of a word by a list of amounts, added bit by bit. -/
def turned (x : Word64) (by' : List Nat) : Word64 := by'.foldl (fun v n => v ^^^ x.rotateRight n) 0

/-- A message schedule with its next word; the newest stands first. -/
def longer (w : List Word64) : List Word64 :=
  let ago := fun n => w.getD (n - 1) 0
  (ago 16 + ago 7 + (turned (ago 15) [1, 8] ^^^ ago 15 >>> 7) +
    (turned (ago 2) [19, 61] ^^^ ago 2 >>> 6)) :: w

/-- The 80 words of a block's schedule, oldest first. -/
def schedule (block : List Byte) : List Word64 :=
  let first := (steps 0 8 16).map fun i => BitVec.ofNat 64 (bytesToNatBe ((block.drop i).take 8))
  ((steps 0 1 64).foldl (fun w _ => longer w) first.reverse).reverse

/-- One round: the eight working words move down by one, with a new word at the top, and the fifth takes
the same sum but for what the first three add. -/
def workRound (v : List Word64) (kw : Word64) : List Word64 :=
  let at' := fun i => v.getD i 0
  let choice := (at' 4 &&& at' 5) ||| (~~~at' 4 &&& at' 6)
  let majority := (at' 0 &&& (at' 1 ||| at' 2)) ||| (at' 1 &&& at' 2)
  let t := kw + at' 7 + choice + turned (at' 4) [14, 18, 41]
  (t + majority + turned (at' 0) [28, 34, 39]) :: v.take 3 ++ [at' 3 + t] ++ (v.drop 4).take 3

/-- One block of 128 bytes. -/
def shaBlock (h : List Word64) (block : List Byte) : List Word64 :=
  let kw := List.zipWith (· + ·) shaConstants (schedule block)
  List.zipWith (· + ·) h (kw.foldl workRound h)

/-- Blocks in order. -/
def shaBlocks : Nat → List Word64 → List Byte → List Word64
  | 0, h, _ => h
  | n + 1, h, l => shaBlocks n (shaBlock h (l.take 128)) (l.drop 128)

/-- The padded message. -/
def shaPad (l : List Byte) : List Byte :=
  let n := l.length
  let z := (128 - (n + 17) % 128) % 128
  l ++ [0x80] ++ List.replicate z 0 ++ natToBytesBe 16 (8 * n)

/-- SHA-512 of bytes. -/
def sha512 (l : List Byte) : List Byte :=
  let p := shaPad l
  (shaBlocks (p.length / 128) shaStart p).flatMap fun w => natToBytesBe 8 w.toNat

/-! ### ECDSA on P-521 -/

/-- The field prime, the coefficient b, the base point and its order. -/
def p521P : Nat := 2 ^ 521 - 1
def p521B : Nat :=
  0x0051953eb9618e1c9a1f929a21a0b68540eea2da725b99b315f3b8b489918ef109e156193951ec7e937b1652c0bd3bb1bf073573df883d2c34f1ef451fd46b503f00
def p521X : Nat :=
  0xc6858e06b70404e9cd9e3ecb662395b4429c648139053fb521f828af606b4d3dbaa14b5e77efe75928fe1dc127a2ffa8de3348b3c1856a429bf97e7e31c2e5bd66
def p521Y : Nat :=
  0x11839296a789a3bc0045c8a5fb42c7d1bd998f54449579b446817afbd17273e662c97ee72995ef42640c550b9013fad0761353c7086a272c24088be94769fd16650
def p521N : Nat :=
  0x1fffffffffffffffffffffffffffffffffffffffffffffffffffffffffffffffffa51868783bf2f966b7fcc0148f709a5d03bb5c9b8899c47aebb6fb71e91386409

/-- b^e modulo m, over the bits of e. -/
def powMod (m : Nat) : Nat → Nat → Nat → Nat → Nat
  | 0, _, _, acc => acc
  | k + 1, b, e, acc => powMod m k (b * b % m) (e / 2) (if e % 2 = 1 then acc * b % m else acc)

/-- The inverse modulo a prime. -/
def invMod (m x : Nat) : Nat := powMod m 522 (x % m) (m - 2) 1

/-- The sum of two points of the curve; none is the point at infinity. -/
def pointAdd (a b : Option (Nat × Nat)) : Option (Nat × Nat) :=
  match a, b with
  | none, _ => b
  | _, none => a
  | some (x, y), some (u, v) =>
    if x = u ∧ (y + v) % p521P = 0 then none
    else
      let l := if x = u then (3 * x * x + (p521P - 3)) * invMod p521P (2 * y) % p521P
        else (v + p521P - y) * invMod p521P (u + p521P - x) % p521P
      let z := (l * l + 2 * p521P - x - u) % p521P
      some (z, (l * (x + p521P - z) + p521P - y) % p521P)

/-- k times a point, over the bits of k while any is left. -/
def pointMul : Nat → Nat → Option (Nat × Nat) → Option (Nat × Nat) → Option (Nat × Nat)
  | 0, _, _, acc => acc
  | n + 1, k, p, acc =>
    if k = 0 then acc
    else pointMul n (k / 2) (pointAdd p p) (if k % 2 = 1 then pointAdd acc p else acc)

/-- A point satisfies the curve's equation. -/
def onCurve (x y : Nat) : Bool :=
  x < p521P && y < p521P && y * y % p521P == (x * x * x + (p521P - 3) * x + p521B) % p521P

/-- Whether (r, s) is a signature of a digest under a public key. -/
def ecdsaValid (x y r s : Nat) (digest : List Byte) : Bool :=
  let n := p521N
  if r = 0 || n ≤ r || s = 0 || n ≤ s || !onCurve x y then false
  else
    let w := invMod n s
    let e := bytesToNatBe digest
    match pointAdd (pointMul 521 (e * w % n) (some (p521X, p521Y)) none)
        (pointMul 521 (r * w % n) (some (x, y)) none) with
    | none => false
    | some (v, _) => v % n == r

/-! ### Key slots (R234, R477) -/

/-- What SECV finds: a key slot holds a public key as x then y, 66 bytes each, most significant
first. -/
inductive SecvEnd
  | valid | invalid | empty
deriving DecidableEq, Repr

/-- A signature, r then s of 66 bytes, verified under the key of a slot. -/
def State.verify (s : State) (slot : Nat) (digest sig : List Byte) : SecvEnd :=
  match mapFind slot s.keys with
  | none => .empty
  | some k =>
    if ecdsaValid (bytesToNatBe (k.take 66)) (bytesToNatBe ((k.drop 66).take 66))
        (bytesToNatBe (sig.take 66)) (bytesToNatBe ((sig.drop 66).take 66)) digest then .valid
    else .invalid

end Sys2Proof.Machine
end

