-- ==== Sys2Proof/Machine/Image.lean ====
section
/-!
DEFINITION. Stomus images (R111, R413 to R418), placement and relocation (R419 to R421) and the
loader's admission checks (R110, R111, R266, R290, R294, R300, R302, R374, R392), as the loader graph
makes them (log 12). An image is read from a key: that of its staged copy (R423), or of IMAGE itself
(R427). The configuration that an image gives is applied to a state; the checks read the state that
results.
-/

namespace Sys2Proof.Machine

/-! ### The image in memory -/

/-- n bytes of an image at a key. -/
def State.imgBytes (s : State) (img off n : Nat) : List Byte := memBytes s.mem (img + off) n

/-- A little-endian field of an image. -/
def State.imgNat (s : State) (img off n : Nat) : Nat := s.load (img + off) n

/-- The key of the whole staged image of a launch, on which the loader graph's checks are made: an image of
up to 64 segments of 2^26 bytes does not fit in a gallery (R3, R413; log 79). -/
def stageKey (launch : Nat) : Nat := 6 * 2 ^ 60 + launch * 2 ^ 33

/-- The offset in the gallery of a load's first wing at which its image is staged, or its outcome word lies
(R423, R425; log 79): some multiple of 64. -/
def loaderOffset (launch : Nat) (outcome : Bool) : Nat :=
  (Config.loaderOffset launch outcome).toNat / 64 * 64

/-- The shared address of that place (R195, R425). -/
def loaderAddress (launch wing : Nat) (outcome : Bool) : Nat :=
  wing * 2 ^ 38 + 2 ^ 37 + loaderOffset launch outcome

/-- The key of that place. -/
def loaderKey (launch wing : Nat) (outcome : Bool) : Nat := galleryKey wing (loaderOffset launch outcome)

/-- The bytes that memory lists in a range, moved to another key. -/
def moveCells (src dst : Nat) (cells : List Host.Cell) (m : List Host.Cell) : List Host.Cell :=
  cells.foldl (fun m c => memSetByte m (dst + (c.1 - src)) c.2) m

/-- len bytes copied from a key to another, of a place of `room` bytes that is emptied first, marks and
all. -/
def State.copyBytes (s : State) (src dst len room : Nat) : State :=
  let words := (s.poison.filter fun w => src / 8 ≤ w && w < (src + len + 7) / 8).map fun w =>
    w - src / 8 + dst / 8
  { s with mem := moveCells src dst (mapRange src len s.mem) (mapDelRange dst room s.mem),
           poison := words.foldl (fun p w => setAdd w p)
             (setDelRange (dst / 8) ((room + 7) / 8) s.poison) }

/-- The image at a physical address is read whole for a launch (R423; log 79). -/
def State.stage (s : State) (launch pa len : Nat) : State :=
  s.copyBytes (physKey pa) (stageKey launch) len (2 ^ 33)

/-- What of the image fits is copied to the staging area in the gallery of the load's first wing (R423;
log 79). -/
def State.stageInGallery (s : State) (launch wing len : Nat) : State :=
  let n := min len (2 ^ 26 - loaderOffset launch false)
  let dst := loaderKey launch wing false
  (s.copyBytes (stageKey launch) dst n n).setFull dst n

/-- The whole image that was read for a launch is given back. -/
def State.unstage (s : State) (launch : Nat) : State :=
  let key := stageKey launch
  { s with mem := mapDelRange key (2 ^ 33) s.mem, full := setDelRange (key / 8) (2 ^ 30) s.full,
           poison := setDelRange (key / 8) (2 ^ 30) s.poison }

/-- The header of R413. -/
structure ImgHeader where
  loads : Nat
  hlen : Nat
  slot : Nat
  segs : Nat
  len : Nat
  recs : Nat
  digests : Nat
deriving DecidableEq, Repr

/-- The header's fields as they stand. -/
def State.imgHeader (s : State) (img : Nat) : ImgHeader :=
  { loads := s.imgNat img 6 2, hlen := s.imgNat img 8 4, slot := s.imgNat img 12 1,
    segs := s.imgNat img 14 2, len := s.imgNat img 16 8, recs := s.imgNat img 24 8,
    digests := s.imgNat img 32 8 }

/-- A table of an image lies inside a region and starts at a multiple of 64 (R413). -/
def tableOk (off size limit : Nat) : Bool := off % 64 == 0 && off + size ≤ limit

/-- Every byte of an image at a physical address is backed (R370). -/
def State.imageBacked (s : State) (pa len : Nat) : Bool := s.backed pa && s.backed (pa + len - 1)

/-- The limits of R413 on an image whose launch record gives IMGLEN. -/
def State.headerOk (s : State) (img len : Nat) : Bool :=
  let h := s.imgHeader img
  320 ≤ len &&
  s.imgNat img 0 4 == 0x53544931 && s.imgNat img 4 2 == 1 &&
  1 ≤ h.loads && h.loads ≤ 255 &&
  h.hlen % 64 == 0 && 256 ≤ h.hlen && h.hlen ≤ 65536 && h.hlen + 256 < len &&
  h.slot ≤ 15 && s.imgNat img 13 1 < 2 &&
  h.segs == ceilDiv (len - h.hlen - 256) (2 ^ 26) && h.segs ≤ 64 && h.len == len &&
  tableOk h.recs (64 * h.loads) h.hlen && tableOk h.digests (64 * h.segs) h.hlen &&
  (s.imgBytes img 40 216).all (· == 0) &&
  (s.imgBytes img (h.hlen + 132) 124).all (· == 0)

/-- The load record of R415. -/
structure ImgLoad where
  cert : Nat
  certLen : Nat
  halls : Nat
  hallTab : Nat
  routeTab : Nat
  routes : Nat
  tiles : Nat
deriving DecidableEq, Repr

/-- Load record k. -/
def State.imgLoad (s : State) (img k : Nat) : ImgLoad :=
  let o := (s.imgHeader img).recs + 64 * k
  { cert := s.imgNat img o 8, certLen := s.imgNat img (o + 8) 4, halls := s.imgNat img (o + 12) 2,
    hallTab := s.imgNat img (o + 16) 8, routeTab := s.imgNat img (o + 24) 8,
    routes := s.imgNat img (o + 32) 4, tiles := s.imgNat img (o + 40) 8 }

/-- Entry h of the hall table (R416). -/
def State.hallEntry (s : State) (img : Nat) (l : ImgLoad) (h : Nat) : Word64 :=
  BitVec.ofNat 64 (s.imgNat img (l.hallTab + 8 * h) 8)

/-- DOM of a logical hall. -/
def State.domain (s : State) (img : Nat) (l : ImgLoad) (h : Nat) : Nat := bits (s.hallEntry img l h) 16 3

/-- A hall-table entry within R416. -/
def hallEntryOk (w : Word64) : Bool :=
  bits w 19 45 == 0 && bits w 15 1 == 0 && bits w 0 8 == 0 && 1 ≤ bits w 16 3 && bits w 16 3 ≤ 3 &&
    (bitAt w 14 || bits w 8 6 == 0)

/-- Tile t of a load: section offset, record count, CRC (R417). -/
def State.tileEntry (s : State) (img : Nat) (l : ImgLoad) (t : Nat) : Nat × Nat × Nat :=
  let o := l.tiles + 16 * t
  (s.imgNat img o 8, s.imgNat img (o + 8) 4, s.imgNat img (o + 12) 4)

/-- The records of tile t: logical configuration address and data word. -/
def State.tileRecords (s : State) (img : Nat) (l : ImgLoad) (t : Nat) : List (Nat × Word64) :=
  let e := s.tileEntry img l t
  (steps 0 1 e.2.1).map fun i =>
    (s.imgNat img (e.1 + 16 * i) 8, BitVec.ofNat 64 (s.imgNat img (e.1 + 16 * i + 8) 8))

/-- A record's address obeys R417 in tile t. -/
def recordOk (t a : Nat) : Bool :=
  let h := t / 17
  let p := t % 17
  a / 2 ^ 46 == h / 64 && a / 2 ^ 39 % 2 ^ 7 == h % 64 &&
    a / 2 ^ 34 % 2 ^ 5 == (if p = 16 then 31 else p) && (cfgTarget (BitVec.ofNat 64 a)).isSome

/-- The section of tile t lies in the image and its CRC holds (R417, R424). -/
def State.sectionOk (s : State) (img : Nat) (l : ImgLoad) (t : Nat) : Bool :=
  let e := s.tileEntry img l t
  (if e.2.1 = 0 then 0 else crc32c (s.imgBytes img e.1 (16 * e.2.1))) == BitVec.ofNat 32 e.2.2

/-- Tile t is well formed (R417). -/
def State.tileOk (s : State) (img len : Nat) (l : ImgLoad) (t : Nat) : Bool :=
  let e := s.tileEntry img l t
  e.2.1 ≤ 65536 && (e.2.1 == 0 || tableOk e.1 (16 * e.2.1) len) &&
    (s.tileRecords img l t).all fun r => recordOk t r.1

/-! ### Route records (R418) -/

/-- One route record. -/
structure RouteRec where
  rc : Nat
  src : Nat
  dst : Nat
  entry : Word64
  ok : Bool
deriving DecidableEq, Repr

/-- Route record i, and whether its zero bits are zero. -/
def State.routeRec (s : State) (img : Nat) (l : ImgLoad) (i : Nat) : RouteRec :=
  let a := BitVec.ofNat 64 (s.imgNat img (l.routeTab + 16 * i) 8)
  let e := BitVec.ofNat 64 (s.imgNat img (l.routeTab + 16 * i + 8) 8)
  let src := 64 * bits a 40 2 + bits a 42 6
  let dst := 64 * bits a 32 2 + bits a 34 6
  { rc := bits a 48 8, src := src, dst := dst, entry := e,
    ok := bits a 56 8 == 0 && bits a 0 32 == 0 && src < l.halls && dst < l.halls &&
      bits e 60 4 == 0 && bits e 51 5 == 0 && bits e 48 1 == 0 && bits e 13 19 == 0 &&
      bits e 0 10 == 0 }

/-- The route records of a load. -/
def State.routeRecs (s : State) (img : Nat) (l : ImgLoad) : List RouteRec :=
  (steps 0 1 l.routes).map (s.routeRec img l)

/-- Records of one class name one source, and no two destinations of it at one hall differ in WIN
(R418, R421). -/
def routesAgree (rs : List RouteRec) : Bool :=
  rs.all fun a => rs.all fun b => a.rc != b.rc ||
    (a.src == b.src && (a.dst != b.dst || bits a.entry 56 4 == bits b.entry 56 4))

/-! ### The certificate (R111) -/

/-- A word of the certificate. -/
def State.certNat (s : State) (img : Nat) (l : ImgLoad) (off n : Nat) : Nat :=
  s.imgNat img (l.cert + off) n

/-- Modes, actors, windows, queues and arcs of a certificate. -/
def State.certCounts (s : State) (img : Nat) (l : ImgLoad) : Nat × Nat × Nat × Nat × Nat :=
  (s.certNat img l 8 1, s.certNat img l 10 2, s.certNat img l 12 2, s.certNat img l 14 2,
   s.certNat img l 16 2)

/-- Offset of the window records. -/
def State.certWindows (s : State) (img : Nat) (l : ImgLoad) : Nat :=
  let c := s.certCounts img l
  24 + 4 * c.1 * c.2.1

/-- q of an actor number in a mode. -/
def State.certRep (s : State) (img : Nat) (l : ImgLoad) (mode actor : Nat) : Nat :=
  s.certNat img l (24 + 4 * (mode * (s.certCounts img l).2.1 + actor)) 4

/-- Bound and initial tokens of a window number. -/
def State.certWindow (s : State) (img : Nat) (l : ImgLoad) (n : Nat) : Nat × Nat :=
  let w := s.certNat img l (s.certWindows img l + 4 * n) 4
  (w % 2 ^ 12, w / 2 ^ 12 % 2 ^ 12)

/-- The certificate's form and length (R111). -/
def State.certOk (s : State) (img len : Nat) (l : ImgLoad) (k : Nat) : Bool :=
  let c := s.certCounts img l
  tableOk l.cert l.certLen len && 24 ≤ l.certLen &&
  s.certNat img l 0 4 == 0x43455254 && s.certNat img l 4 2 == 1 && s.certNat img l 6 2 == k &&
  1 ≤ c.1 && c.1 ≤ 8 && s.certNat img l 9 1 == 0 && s.certNat img l 18 2 == 0 &&
  l.certLen == 24 + 4 * (c.1 * c.2.1 + c.1 * c.2.2.1 + c.2.2.2.1 + c.2.2.2.2)

/-- Load k of an image is well formed (R415 to R418, R421). -/
def State.loadOk (s : State) (img len k : Nat) : Bool :=
  let l := s.imgLoad img k
  let o := (s.imgHeader img).recs + 64 * k
  1 ≤ l.halls && l.halls ≤ 256 && s.imgNat img (o + 14) 2 == 0 && s.imgNat img (o + 36) 4 == 0 &&
  (s.imgBytes img (o + 48) 16).all (· == 0) && l.routes ≤ 65536 &&
  tableOk l.hallTab (8 * l.halls) len && tableOk l.routeTab (16 * l.routes) len &&
  tableOk l.tiles (16 * 17 * l.halls) len &&
  ((steps 0 1 l.halls).all fun h => hallEntryOk (s.hallEntry img l h)) &&
  ((s.routeRecs img l).all (·.ok)) && routesAgree (s.routeRecs img l) &&
  s.certOk img len l k &&
  (steps 0 1 (17 * l.halls)).all fun t => s.tileOk img len l t

/-! ### Placement (R364, R419) -/

/-- The physical core that carries a program position of a hall. A good position is never moved, under strict
placement neither (R422; DESIGN CHOICE, log 134). -/
def State.coreAt (s : State) (hk p : Nat) : Nat :=
  hk * 32 + if bitAt (s.dmapAt hk) p then p else 16

/-- R364: a hall that may carry a user hall number: usable, and at most one absent core, which the
spare replaces. -/
def State.hallUsable (s : State) (hk : Nat) : Bool :=
  let d := s.dmapAt hk
  bitAt d 17 && bits d 24 8 < 64 && !isSystemHall hk &&
    16 ≤ ((steps 0 1 17).filter fun p => bitAt d p).length

/-- The physical hall of a logical hall. -/
def placed (place : List Nat) (h : Nat) : Nat := place.getD h 0

/-- HOME of a stage-queue descriptor's first word rewritten (R420). -/
def State.relocateHome (s : State) (place : List Nat) (v : Word64) : Word64 :=
  let lw := bits v 38 2
  let lh := if bitAt v 37 then 64 * lw else 64 * lw + bits v 31 6
  let hk := placed place lh
  let v := withBits v 38 2 (hk / 128)
  if bitAt v 37 then v else withBits v 31 6 (s.userOfHall hk)

/-- Whether a word of a hall-units tile is an arc-table entry: its place is the wing's system hall
(R448, R484). -/
def isArcWord (unit space off : Nat) : Bool :=
  unit % 32 == 31 && space == 6 && 2560 ≤ off && off < 3584

/-- An arc-table entry rewritten: EHALL and VC (R420). -/
def State.relocateArc (s : State) (place : List Nat) (lw vc : Nat) (v : Word64) : Word64 :=
  withBits (withBits v 32 6 (s.userOfHall (placed place (64 * lw + bits v 32 6)))) 60 3 vc

/-- What placing gives a load beside its halls. -/
structure Site where
  place : List Nat
  handle : Nat
  vcs : List (Nat × Nat)
deriving DecidableEq, Repr

/-- The wings of a placement. -/
def placeWings (place : List Nat) : List Nat := place.foldl (fun m hk => setAdd (hk / 128) m) []

/-- What R420 makes of one record of hall h: unit, space, offset and data of each word written. A
grammar slot goes to the words of the load's handle in every wing that it uses (R310, R347), a
collective descriptor to its wing's system hall under that handle (R451; log 69). -/
def State.relocate (s : State) (site : Site) (h : Nat) (r : Nat × Word64) :
    List (Nat × Nat × Nat × Word64) :=
  let place := site.place
  let hk := placed place h
  let p := r.1 / 2 ^ 34 % 2 ^ 5
  let space := r.1 / 2 ^ 30 % 16
  let off := r.1 % 2 ^ 30
  let unit := if p = 31 then hallUnits hk else s.coreAt hk p
  let home := hallUnits (systemHall (hk / 128))
  if p != 31 || space != 6 then [(unit, space, off, r.2)]
  else if isArcWord unit space off then
    [(home, space, off, s.relocateArc place (h / 64) (mapGet 0 (hk / 128) site.vcs) r.2)]
  else if 384 ≤ off && off < 512 && off % 4 == 0 then [(unit, space, off, s.relocateHome place r.2)]
  else if 1024 ≤ off && off < 1248 then
    (placeWings place).map fun w =>
      (hallUnits (systemHall w), space, 1024 + 8 * site.handle + off % 8, r.2)
  else if 3584 ≤ off && off < 3616 then
    [(home, space, off, if off % 2 = 0 then withBits r.2 58 5 site.handle else r.2)]
  else [(unit, space, off, r.2)]

/-- The program-visible CORE of a position (R128). -/
def State.coreWord (s : State) (hk p : Nat) : Word64 :=
  BitVec.ofNat 64 (hk / 128 * 1024 + s.userOfHall hk * 16 + p)

/-- One tile written: its records in stored order, then the CORE word (R417, R420, R424). The second
part counts words that read back different or whose unit is not usable (R229). -/
def State.writeTile (s : State) (img : Nat) (l : ImgLoad) (site : Site) (t : Nat) : State × Nat :=
  let h := t / 17
  let p := t % 17
  let put := fun (a : State × Nat) (r : Nat × Nat × Nat × Word64) =>
    if a.1.unitUsable r.1 then
      let s := a.1.cfgStore r.1 r.2.1 r.2.2.1 r.2.2.2
      (s, if s.cfgRead r.1 r.2.1 r.2.2.1 == r.2.2.2 then a.2 else a.2 + 1)
    else (a.1, a.2 + 1)
  let rs := (s.tileRecords img l t).flatMap (s.relocate site h)
  let hk := placed site.place h
  let rs := if p = 16 then rs else rs ++ [(s.coreAt hk p, 5, 50, s.coreWord hk p)]
  rs.foldl put (s, 0)

/-! ### Route trees (R421) -/

/-- The mesh directions from a router to another in one wing: along the row, then along the column;
with the router at which each is taken. -/
def State.meshPath (s : State) (dst : Nat) : Nat → Nat → List (Nat × Nat)
  | 0, _ => []
  | n + 1, hk =>
    let u := s.userOfHall hk
    let v := s.userOfHall dst
    let dir : Option Nat :=
      if u % 8 < v % 8 then some 2 else if v % 8 < u % 8 then some 0
      else if u / 8 < v / 8 then some 3 else if v / 8 < u / 8 then some 1 else none
    match dir with
    | none => []
    | some d =>
      match s.meshTo hk d with
      | none => []
      | some next => (hk, d) :: s.meshPath dst n next

/-- The bits that one route record sets, by router. -/
def State.pathBits (s : State) (place : List Nat) (r : RouteRec) : List (Nat × Nat) :=
  let src := placed place r.src
  let dst := placed place r.dst
  let cross := src / 128 != dst / 128
  let start := if cross then (s.crossTo src (dst / 128)).getD src else src
  let xw := if cross then [(src, 2 ^ 15 + dst / 128 * 2 ^ 13)] else []
  let mesh := (s.meshPath dst 16 start).map fun e => (e.1, 2 ^ (16 + e.2))
  let cores := ((steps 0 1 16).filter fun p => bitAt r.entry (32 + p)).foldl
    (fun n p => n + 2 ^ (32 + s.coreAt dst p % 32)) 0
  let keep := bits r.entry 56 4 * 2 ^ 56 + bits r.entry 49 2 * 2 ^ 49 + bits r.entry 10 3 * 2 ^ 10
  xw ++ mesh ++ [(dst, keep + cores)]

/-- The route entries of a load by router and class (R421). -/
def State.routeTree (s : State) (place : List Nat) (vcs : List (Nat × Nat)) (rs : List RouteRec) :
    List (Nat × Word64) :=
  rs.foldl (fun m r => (s.pathBits place r).foldl (fun m e =>
    let k := e.1 * 256 + r.rc
    let vc := mapGet 0 (e.1 / 128) vcs
    mapPut k (mapGet 0 k m ||| BitVec.ofNat 64 (2 ^ 63 + vc * 2 ^ 60 + e.2)) m) m) []

/-- The route entries are written (R424). -/
def State.writeRoutes (s : State) (m : List (Nat × Word64)) : State :=
  { s with routes := m.foldl (fun a e => mapPutD 0 e.1 e.2 a) s.routes }

/-! ### The load record that an image gives -/

/-- The cores that carry a load's positions, in ascending tile order. -/
def State.placedCores (s : State) (place : List Nat) : List Nat :=
  place.flatMap fun hk => (steps 0 1 16).map fun p => s.coreAt hk p

/-- Actors that are not elastic, in the order of the certificate (log 40): core and record. -/
def State.plainOf (s : State) (cores : List Nat) : List (Nat × Nat) :=
  cores.flatMap fun c => ((s.actorsOf c).filter fun a => !s.elastic c a).map fun a => (c, a)

/-- Elastic actors of cores. -/
def State.elasticOf (s : State) (cores : List Nat) : List (Nat × Nat) :=
  cores.flatMap fun c => ((s.actorsOf c).filter fun a => s.elastic c a).map fun a => (c, a)

/-- Valid streams of halls: hall and number, in ascending number. -/
def State.streamsIn (s : State) (place : List Nat) : List (Nat × Nat) :=
  (steps 0 1 32).flatMap fun n =>
    (place.filter fun hk => bitAt (s.hallCfg hk (8 * n)) 63).map fun hk => (hk, n)

/-- Queues from which an elastic actor claims: the stages. -/
def State.stagesOf (s : State) (cores : List Nat) : List Nat :=
  (steps 0 1 32).filter fun q => (s.elasticOf cores).any fun e => s.queueIn e.1 e.2 == some q

/-- Ends that a window number of the certificate names: a consumer end, or a sink stream (log 40). -/
def State.consumerEnds (s : State) (place cores : List Nat) : List (Nat × Nat × Bool) :=
  (cores.flatMap fun c => (windows.filter fun w => s.isConsumer c w).map fun w => (c, w, false)) ++
  ((s.streamsIn place).filter fun e => s.isSink e.1 e.2 && !s.isQueue e.1 e.2).map
    fun e => (e.1, e.2, true)

/-- The token class of a consumer end. -/
def State.endClass (s : State) (e : Nat × Nat × Bool) : Nat :=
  if e.2.2 then bits (s.streamWord e.1 e.2.1 1) 20 8 else bits (s.win e.1 e.2.1 0) 42 8

/-- Producer ends of a token class. -/
def State.producersOf (s : State) (cores : List Nat) (rc : Nat) : List (Nat × Nat) :=
  cores.flatMap fun c =>
    (windows.filter fun w => s.isProducer c w && bits (s.win c w 0) 42 8 == rc).map fun w => (c, w)

/-- Source streams of a token class. -/
def State.sourcesOf (s : State) (place : List Nat) (rc : Nat) : List (Nat × Nat) :=
  (s.streamsIn place).filter fun e => !s.isSink e.1 e.2 && !s.isQueue e.1 e.2 &&
    bits (s.streamWord e.1 e.2 0) 47 8 == rc

/-- The window ends of a load that belong to arcs (R449), in ascending order. -/
def State.arcEnds (s : State) (cores : List Nat) : List (Nat × Nat) :=
  cores.flatMap fun c => (windows.filter fun w =>
    (s.isConsumer c w || s.isProducer c w) && bitAt (s.win c w 0) 56).map fun w => (c, w)

/-- The token classes of a load's arcs, in the order of their first ends: the arcs' numbers (log 40). -/
def State.arcClasses (s : State) (cores : List Nat) : List Nat :=
  ((s.arcEnds cores).map fun e => bits (s.win e.1 e.2 0) 42 8).eraseDups

/-- The declared delay of arc n (R111). -/
def State.certArc (s : State) (img : Nat) (l : ImgLoad) (n : Nat) : Nat :=
  let c := s.certCounts img l
  s.certNat img l (24 + 4 * (c.1 * c.2.1 + c.1 * c.2.2.1 + c.2.2.2.1 + n)) 4

/-- The initial tokens of every window end (R252): those of its window's record, and at an end of an arc
the arc's declared delay (R449). -/
def State.certInitial (s : State) (img : Nat) (l : ImgLoad) (place cores : List Nat) :
    List (Nat × Nat) :=
  let ends := s.consumerEnds place cores
  let own := (steps 0 1 ends.length).foldl (fun m n =>
    let e := ends.getD n (0, 0, false)
    let t := (s.certWindow img l n).2
    let m := if e.2.2 then m else mapPut (16 * e.1 + e.2.1) t m
    (s.producersOf cores (s.endClass e)).foldl (fun m p => mapPut (16 * p.1 + p.2) t m) m) []
  let arcs := s.arcClasses cores
  (s.arcEnds cores).foldl (fun m e =>
    mapPut (16 * e.1 + e.2)
      (s.certArc img l ((arcs.findIdx? (· == bits (s.win e.1 e.2 0) 42 8)).getD 0)) m) own

/-- The certificate as the machine uses it. What the table of R111 says beside the four refusals is not
checked (DESIGN CHOICE, log 103). -/
def State.certOf (s : State) (img : Nat) (l : ImgLoad) (place cores : List Nat) : Cert :=
  let c := s.certCounts img l
  let plain := s.plainOf cores
  let streams := s.streamsIn place
  let stages := s.stagesOf cores
  { modes := c.1, actors := c.2.1,
    reps := (steps 0 1 (c.1 * c.2.1)).map fun n => (n, s.certNat img l (24 + 4 * n) 4),
    initial := s.certInitial img l place cores,
    actorOf := (steps 0 1 plain.length).foldl
      (fun m i => mapPut (8 * (plain.getD i (0, 0)).1 + (plain.getD i (0, 0)).2) i m) [],
    streamOf := (steps 0 1 streams.length).foldl
      (fun m i => mapPut (streams.getD i (0, 0)).2 (plain.length + i) m) [],
    stageOf := (steps 0 1 stages.length).foldl
      (fun m i => mapPut (stages.getD i 0) (plain.length + streams.length + i) m) [] }

/-! ### Admission checks -/

/-- Firings' counts over q firings of an actor that begins at phase 0. -/
def periodSum (q phases : Nat) (f : Nat → Nat) : Nat :=
  let total := fun n => ((steps 0 1 n).map f).foldl (· + ·) 0
  q / phases * total phases + total (q % phases)

/-- Tokens that an end moves in a period of a mode (R110). -/
def State.periodTokens (s : State) (t : Cert) (mode c w : Nat) : Nat :=
  let a := s.winActor c w
  let phases := bits (s.actorWord c a 0) 27 3 + 1
  periodSum (t.q mode (mapGet t.actors (8 * c + a) t.actorOf)) phases fun p => s.rate c mode p w

/-- R110 for window n in every mode. An arc's other end lies in another package. -/
def State.balanced (s : State) (t : Cert) (place cores : List Nat) (e : Nat × Nat × Bool) : Bool :=
  let rc := s.endClass e
  let stream := fun (m n : Nat) => t.q m (mapGet t.actors n t.streamOf)
  (steps 0 1 t.modes).all fun m =>
    let takes := if e.2.2 then stream m e.2.1 else s.periodTokens t m e.1 e.2.1
    ((s.producersOf cores rc).all fun p => s.periodTokens t m p.1 p.2 == takes) &&
    (s.sourcesOf place rc).all fun p => stream m p.2 == takes

/-- CAP of a consumer end. -/
def State.endCap (s : State) (e : Nat × Nat × Bool) : Nat :=
  if e.2.2 then s.ringCap e.1 e.2.1 else s.winCap e.1 e.2.1

/-- R267's scope codes: the smallest scope that holds two cores. -/
def placeScope (a b : Nat) : Nat :=
  if a = b then 0 else if a / 32 = b / 32 then 1 else if a / 4096 = b / 4096 then 2 else 3

/-- The smallest scope that holds the domains of two logical halls, 0 where one domain holds both
(R290). -/
def domainScope (da db ha hb : Nat) : Nat :=
  if ha = hb then 0
  else if da = db && (da == 3 || (da == 2 && ha / 64 == hb / 64)) then 0
  else if da = 3 || db = 3 || ha / 64 != hb / 64 then 3 else 2

/-- The logical hall of a core. -/
def logicalOf (place : List Nat) (c : Nat) : Nat := (place.findIdx? (· == c / 32)).getD 0

/-- The place of a window's end: a core, or a stream's hall units. -/
def endPlace (e : Nat × Nat × Bool) : Nat := if e.2.2 then hallUnits e.1 else e.1

/-- The smallest scope that holds two ends, and the domains of their halls (R266, R290). -/
def State.spanScope (s : State) (img : Nat) (l : ImgLoad) (place : List Nat) (a b : Nat) : Nat :=
  let ha := logicalOf place a
  let hb := logicalOf place b
  max (placeScope a b) (domainScope (s.domain img l ha) (s.domain img l hb) ha hb)

/-- The consumer ends that a class reaches from a hall by the load's route trees. -/
def State.reached (s : State) (rc hk : Nat) : List (Nat × Nat × Bool) :=
  ((s.windowEnds rc hk).filter fun e => s.isConsumer e.1 e.2).map (fun e => (e.1, e.2, false)) ++
  ((s.streamEnds rc hk).filter fun e => s.isSink e.1 e.2 && !s.isQueue e.1 e.2).map
    fun e => (e.1, e.2, true)

/-- SCOPE of a core's window end. -/
def State.scopeCode (s : State) (c w : Nat) : Nat := bits (s.win c w 0) 50 3

/-- Cause 9 at a producer end: its SCOPE against each end that its tokens reach; an arc needs .s. -/
def State.scopeNarrow (s : State) (img : Nat) (l : ImgLoad) (place : List Nat) (p : Nat × Nat) : Bool :=
  let need : Nat :=
    if bitAt (s.win p.1 p.2 0) 56 then 4
    else (s.reached (bits (s.win p.1 p.2 0) 42 8) (hallOfCore p.1)).foldl
      (fun m e => max m (s.spanScope img l place p.1 (endPlace e))) 0
  s.scopeCode p.1 p.2 < need

/-- Cause 9 at a consumer end: an arc needs .s (R334, R449), and a window that a source stream feeds a
scope that holds the stream's hall. -/
def State.scopeNarrowIn (s : State) (img : Nat) (l : ImgLoad) (place : List Nat) (e : Nat × Nat) : Bool :=
  let feeds := (s.streamsIn place).filter fun f => !s.isSink f.1 f.2 && !s.isQueue f.1 f.2 &&
    (s.reached (bits (s.streamWord f.1 f.2 0) 47 8) f.1).contains (e.1, e.2, false)
  let need : Nat :=
    if bitAt (s.win e.1 e.2 0) 56 then 4
    else feeds.foldl (fun m f => max m (s.spanScope img l place (hallUnits f.1) e.1)) 0
  s.scopeCode e.1 e.2 < need

/-- CAP, SIZE, token class and, at a core, SCOPE of a consumer end (R249, R271). -/
def State.endShape (s : State) (e : Nat × Nat × Bool) : Nat × Nat × Nat × Option Nat :=
  if e.2.2 then (s.ringCap e.1 e.2.1, bits (s.streamWord e.1 e.2.1 0) 39 8, s.endClass e, none)
  else
    let d := s.win e.1 e.2.1 0
    (bits d 17 12, bits d 29 8, s.endClass e, some (bits d 50 3))

/-- Two shapes of one window's ends differ. -/
def shapesDiffer (a b : Nat × Nat × Nat × Option Nat) : Bool :=
  a.1 != b.1 || a.2.1 != b.2.1 || a.2.2.1 != b.2.2.1 ||
    (match a.2.2.2, b.2.2.2 with
    | some x, some y => x != y
    | _, _ => false)

/-- Cause 10 at a producer end: the number of consumer ends that its route tree reaches, and their
shapes (R249). The ends of an arc lie in the other package, where they are held to one another. -/
def State.fanWrong (s : State) (p : Nat × Nat) : Bool :=
  let d := s.win p.1 p.2 0
  let ends := s.reached (bits d 42 8) (hallOfCore p.1)
  (!bitAt d 56 && ends.length != bits d 54 2 + 1) ||
    ends.any fun e => shapesDiffer (s.endShape (p.1, p.2, false)) (s.endShape e)

/-- Cause 10 at a consumer end of an arc: another end of the same arc differs. -/
def State.arcWrong (s : State) (cores : List Nat) (e : Nat × Nat) : Bool :=
  s.isConsumer e.1 e.2 && (s.arcEnds cores).any fun f => s.isConsumer f.1 f.2 &&
    bits (s.win f.1 f.2 0) 42 8 == bits (s.win e.1 e.2 0) 42 8 &&
    shapesDiffer (s.endShape (e.1, e.2, false)) (s.endShape (f.1, f.2, false))

/-- Cause 10 at a source stream: it feeds one consumer end, of its SIZE and class, whose CAP is its WCAP
(R271). -/
def State.sourceWrong (s : State) (e : Nat × Nat) : Bool :=
  let rc := bits (s.streamWord e.1 e.2 0) 47 8
  let ends := s.reached rc e.1
  ends.length != 1 || ends.any fun f =>
    let p := s.endShape f
    f.2.2 || p.1 != bits (s.streamWord e.1 e.2 1) 28 12 ||
      p.2.1 != bits (s.streamWord e.1 e.2 0) 39 8 || p.2.2.1 != rc

/-- Two of a list of ranges share a byte. -/
def rangesMeet : List (Nat × Nat) → Bool
  | [] => false
  | r :: rs => rs.any (fun q => overlaps r.1 r.2 q.1 q.2) || rangesMeet rs

/-- Cause 12 at a consumer end: its ring leaves the tile store, or meets another ring of its core. -/
def State.ringWrong (s : State) (e : Nat × Nat) : Bool :=
  let ring := fun w => (s.winBase e.1 w, s.winCap e.1 w * s.winSize e.1 w)
  let r := ring e.2
  2 ^ 17 < r.1 + r.2 || (windows.filter fun w => s.isConsumer e.1 w && w != e.2).any fun w =>
    overlaps r.1 r.2 (ring w).1 (ring w).2

/-- Cause 12 at a stream: its ring leaves the hall store, or meets another ring of its hall (R271). -/
def State.streamRingWrong (s : State) (e : Nat × Nat) : Bool :=
  let ring := fun n => (bits (s.streamWord e.1 n 1) 0 20, s.ringCap e.1 n * s.streamSize e.1 n)
  let r := ring e.2
  2 ^ 20 < r.1 + r.2 || ((s.streamsIn [e.1]).filter (·.2 != e.2)).any fun f =>
    overlaps r.1 r.2 (ring f.2).1 (ring f.2).2

/-- Cause 13: BASE and strides of a stream, and the wing of a queue stream's queue (R271). A queue stream whose queue
no hall of the load declares, or declares with a HOME that is not well formed, is refused alike (DESIGN CHOICE,
log 125). -/
def State.streamWrong (s : State) (place : List Nat) (e : Nat × Nat) : Bool :=
  bits (s.streamWord e.1 e.2 2) 0 5 != 0 ||
  ((steps 0 1 4).any fun d => bits (s.streamWord e.1 e.2 (3 + d)) 0 5 != 0) ||
  (s.isQueue e.1 e.2 &&
    match (place.filterMap fun hk => s.queueHome hk (s.streamUnit e.1 e.2)).head? with
    | some home => wingOfKey home != e.1 / 128
    | none => true)

/-- The halls of the cores that use a queue. -/
def State.queueCoreHalls (s : State) (cores : List Nat) (q : Nat) : List Nat :=
  (cores.filter fun c => (s.actorsOf c).any fun a =>
    s.queueIn c a == some q || s.queueOut c a == some q).map hallOfCore

/-- Those halls, and the halls whose streams use it. -/
def State.queueUsers (s : State) (place cores : List Nat) (q : Nat) : List Nat :=
  s.queueCoreHalls cores q ++
  ((s.streamsIn place).filter fun e => s.isQueue e.1 e.2 && s.streamUnit e.1 e.2 == q).map (·.1)

/-- R294: a queue's home is the store of the hall in which every core that uses it lies (of any hall of the wing
if no core uses it), and else the gallery of their wing. -/
def homeKept (halls : List Nat) (wing home : Nat) : Bool :=
  let hall := home / 2 ^ 20 % 512
  match halls with
  | [] => isHallKey home && hall / 128 == wing
  | hk :: hs =>
    if hs.all (· == hk) then isHallKey home && hall == hk else isGalleryKey home && wingOfKey home == wing

/-- Cause 14: a queue's users span wings, or its home breaks R294. -/
def State.homeWrong (s : State) (place cores : List Nat) (q : Nat) : Bool :=
  let users := s.queueUsers place cores q
  match users with
  | [] => false
  | hk :: _ =>
    (users.any fun u => u / 128 != hk / 128) ||
    users.any fun u =>
      match s.queueHome u q with
      | none => true
      | some home =>
        bits (s.queueWord u q 0) 0 6 != 0 || !homeKept (s.queueCoreHalls cores q) (hk / 128) home

/-- Trigger entries of an actor that are valid. -/
def State.actorActive (s : State) (c a : Nat) : Bool :=
  windows.any fun e => entryValid (s.entry c e) && entryActor (s.entry c e) == a

/-- Cause 15 at an elastic actor: another of its context is active with it, or its stage's active count
lies outside MIN to MAX of an entry of the load (R302). An entry that holds no limits, MIN 0, sets none
(R305; log 47). -/
def State.activeWrong (s : State) (h : Nat) (cores : List Nat) (e : Nat × Nat) : Bool :=
  let x := fun (a : Nat) => bits (s.actorWord e.1 a 0) 55 2
  (s.actorActive e.1 e.2 && (s.actorsOf e.1).any fun a => a != e.2 && s.elastic e.1 a &&
    s.actorActive e.1 a && x a == x e.2) ||
  (steps 0 1 32).any fun n =>
    let wing := wingOfCore e.1
    let w := s.sysCfg wing (416 + 3 * n)
    let q := bits (s.sysCfg wing (418 + 3 * n)) 0 5
    bitAt w 63 && bits w 58 5 == h && s.queueIn e.1 e.2 == some q && bits w 46 11 != 0 &&
      let active := ((s.elasticOf cores).filter fun f => wingOfCore f.1 == wing &&
        s.queueIn f.1 f.2 == some q && s.actorActive f.1 f.2).length
      active < bits w 46 11 || bits w 35 11 < active

/-- Cause 17: range entry n of a hall (R374): it meets another, leaves the space, or spans directly what
is not backed. -/
def State.rangeWrong (s : State) (hk n : Nat) : Bool :=
  let span := fun n => (s.spanBase hk n, s.spanLen hk n)
  let pa := bits (s.rangeWord hk n 1) 21 31 * 2 ^ 21
  let last := pa + s.spanLen hk n - 1
  bitAt (s.rangeWord hk n 0) 63 &&
    (((steps 0 1 64).any fun m => m != n && bitAt (s.rangeWord hk m 0) 63 &&
        overlaps (span m).1 (span m).2 (span n).1 (span n).2) ||
      2 ^ 56 < s.spanBase hk n + s.spanLen hk n ||
      (!bitAt (s.rangeWord hk n 0) 62 &&
        !(s.backed pa && s.backed last && pa / 2 ^ 48 == last / 2 ^ 48)))

/-- A record of a range entry with a reserved bit set (R374). -/
def rangeReserved (r : Nat × Word64) : Bool :=
  let off := r.1 % 2 ^ 30
  r.1 / 2 ^ 34 % 32 == 31 && r.1 / 2 ^ 30 % 16 == 6 && 256 ≤ off && off < 384 &&
    r.2 &&& ~~~(BitVec.ofNat 64 (hallMask off)) != 0

/-- Cause 18 at landing n of an actor, or at its keep word for n = LTN (R392). -/
def State.landingWrong (s : State) (c a n : Nat) : Bool :=
  let w := s.actorWord c a 0
  let bad := fun (m : Word64) =>
    bits m 59 5 != 0 || (bits m 57 2 != 0 && !s.ownsMatrix c (bits w 55 2))
  let e := s.landing c a n
  if n = s.landings c a then bad (s.keepMap c a)
  else bad e.1 || !bitAt e.2 63 || bits e.2 0 13 < bits w 0 13 ||
    bits w 0 13 + bits w 13 14 ≤ bits e.2 0 13

/-- Cause 18 at an actor's table as a whole (R392): more than 256 entries, outside space 4, or over
another table of its core. -/
def State.tableWrong (s : State) (c a : Nat) : Bool :=
  let base := fun a => bits (s.actorWord c a 0) 33 12
  let size := fun a => 1 + 2 * s.landings c a
  256 < s.landings c a || 4096 < base a + size a ||
    (s.actorsOf c).any fun b => b != a && overlaps (base a) (size a) (base b) (size b)

/-- Cause 18 at a context: a record of the image writes its LMAX word below 256 (R392). Its detail word names actor
record 0 and entry 0 (DESIGN CHOICE, log 133). -/
def State.lmaxWrong (s : State) (img : Nat) (l : ImgLoad) (t : Nat) : Bool :=
  (s.tileRecords img l t).any fun r =>
    r.1 / 2 ^ 30 % 16 == 5 && r.1 % 2 ^ 30 < 1024 && r.1 % 2 ^ 30 % 256 == 48 &&
      ((s.tileRecords img l t).filter fun q => q.1 == r.1).getLast?.any fun q => bits q.2 0 16 < 256

/-- The first refusal of cause 18 at an actor: the entry that the detail word names, the landing's or 0
(R392). -/
def State.actorLanding (s : State) (c a : Nat) : Option Nat :=
  if s.tableWrong c a then some 0
  else ((steps 0 1 (s.landings c a + 1)).find? (s.landingWrong c a)).map fun n =>
    if n = s.landings c a then 0 else n

/-- The first refusal of cause 18 at a core: actor record and entry, as the detail word holds them from
bit 8 (R392). -/
def State.landingsWrong (s : State) (c : Nat) : Option Nat :=
  (s.actorsOf c).findSome? fun a => (s.actorLanding c a).map fun n => a + 2 ^ 8 * n

/-- Cause 19: a collective descriptor of the load whose classes pass 255 (R451). -/
def State.collectiveWrong (s : State) (h wing d : Nat) : Bool :=
  let w := s.sysCfg wing (3584 + 2 * d)
  bitAt w 63 && bits w 58 5 == h &&
    (255 < bits w 40 8 + bits w 52 6 || 255 < bits w 24 8 + bits w 52 6)

/-- The words of an actor's code. -/
def State.codeOf (s : State) (c a : Nat) : List Byte :=
  let w := s.actorWord c a 0
  memBytes s.mem (codeKey c (4 * bits w 0 13)) (4 * bits w 13 14)

/-- Landing table of an actor as it stands. -/
def State.tableOf (s : State) (c a : Nat) : List Word64 :=
  (steps (bits (s.actorWord c a 0) 33 12) 1 (1 + 2 * s.landings c a)).map fun n => s.cfgAt c 4 n

/-- Cause 20: R300 at an elastic actor. A constant window has no producer in any package: it is no end of
an arc, and no class of the load leads to it. -/
def State.elasticWrong (s : State) (t : Cert) (place cores : List Nat) (e : Nat × Nat) : Bool :=
  let c := e.1
  let a := e.2
  let w0 := s.actorWord c a 0
  let x := bits w0 55 2
  (s.queueIn c a).isNone ||
  ((steps 0 1 (bits w0 27 3 + 1)).any fun p => !s.usesQueues c a p) ||
  (windows.any fun w => s.winActor c w == a &&
    (s.isProducer c w ||
     (s.isConsumer c w &&
      (bitAt (s.win c w 0) 56 ||
       s.producersOf cores (bits (s.win c w 0) 42 8) != [] ||
       s.sourcesOf place (bits (s.win c w 0) 42 8) != [] ||
       (steps 0 1 t.modes).any fun m => (steps 0 1 8).any fun p => s.rate c m p w != 0)))) ||
  s.keepMap c a != 0 || bitAt w0 59 ||
  ((s.actorsOf c).any fun b => bits (s.actorWord c b 0) 55 2 == x && !s.elastic c b) ||
  ((steps 0 1 4).any fun n => s.stairBound c x n != 0) ||
  (s.elasticOf cores).any fun f => s.queueIn f.1 f.2 == s.queueIn c a && f != e &&
    (bits (s.actorWord f.1 f.2 0) 0 27 != bits w0 0 27 || s.codeOf f.1 f.2 != s.codeOf c a ||
     s.tableOf f.1 f.2 != s.tableOf c a)

/-- The trigger entries that a load's image writes, by core. -/
def State.imgEntries (s : State) (img : Nat) (l : ImgLoad) (place : List Nat) : List (Nat × BitVec 16) :=
  (steps 0 1 (16 * l.halls)).foldl (fun m n =>
    let rs := s.tileRecords img l (17 * (n / 16) + n % 16)
    mapPut (s.coreAt (placed place (n / 16)) (n % 16))
      (entryMask fun e => rs.any fun r => r.1 % 2 ^ 34 == 3 * 2 ^ 30 + e) m) []

/-- Cause 8 at an actor record (R266): a trigger entry of it, or another record with MAT = 1. Every entry word
that the image writes is checked, VALID or not (DESIGN CHOICE, log 118). -/
def State.entriesWrong (s : State) (written : List (Nat × BitVec 16)) (c a : Nat) : Bool :=
  let r := s.actorWord c a 0
  (windows.any fun e =>
    let w := s.entry c e
    (mapGet 0 c written).getLsbD e && entryActor w == a && (entryCtx w != bits r 55 2 || entryStart w < bits r 0 13 ||
      bits r 0 13 + bits r 13 14 ≤ entryStart w)) ||
  (bitAt r 54 && bitAt r 60 && (s.actorsOf c).any fun b =>
    bitAt (s.actorWord c b 0) 60 && bits r 55 2 != bits (s.actorWord c b 0) 55 2)

/-- Cause 11: a receiver's predicate for signal n outside a keep set (R262). -/
def State.receiverWrong (s : State) (n c : Nat) : Bool :=
  let w := s.receiver c n
  bitAt w 0 && ((s.actorsOf c).any fun a => bits (s.actorWord c a 0) 55 2 == bits w 1 2 &&
    (bits w 3 3 == 0 || !bitAt (s.keepMap c a) (49 + bits w 3 3)))

/-- The certificate numbers the actors and windows that the configuration holds. -/
def State.certFits (s : State) (img : Nat) (l : ImgLoad) (place cores : List Nat) : Bool :=
  let c := s.certCounts img l
  c.2.1 == (s.plainOf cores).length + (s.streamsIn place).length + (s.stagesOf cores).length &&
    c.2.2.1 == (s.consumerEnds place cores).length

/-- The first window whose record of a mode meets a condition on CAP, bound and initial tokens. -/
def State.windowRecord (s : State) (img : Nat) (l : ImgLoad) (place cores : List Nat)
    (bad : Nat → Nat → Nat → Bool) : Option Nat :=
  let c := s.certCounts img l
  let ends := s.consumerEnds place cores
  (steps 0 1 ends.length).find? fun n => (steps 0 1 c.1).any fun m =>
    let r := s.certWindow img l (m * c.2.2.1 + n)
    bad (s.endCap (ends.getD n (0, 0, false))) r.1 r.2

/-- The certificate's number of a core's actor record: its own, or its stage's. -/
def State.actorNumber (s : State) (t : Cert) (e : Nat × Nat) : Nat :=
  if s.elastic e.1 e.2 then mapGet 0 ((s.queueIn e.1 e.2).getD 0) t.stageOf
  else mapGet 0 (8 * e.1 + e.2) t.actorOf

/-- The certificate's number of a consumer end. -/
def State.windowNumber (s : State) (place cores : List Nat) (e : Nat × Nat × Bool) : Nat :=
  ((s.consumerEnds place cores).findIdx? (· == e)).getD 0

/-- The number of the first window that a producer end feeds; 0 for an arc that leaves the package and for an
end whose tree reaches no consumer end, of which the spec names no window (DESIGN CHOICE, log 118). -/
def State.fedNumber (s : State) (place cores : List Nat) (p : Nat × Nat) : Nat :=
  match s.reached (bits (s.win p.1 p.2 0) 42 8) (hallOfCore p.1) with
  | e :: _ => s.windowNumber place cores e
  | [] => 0

/-- The first of a list that a check refuses, by its number. -/
def firstBad {α : Type} (l : List α) (bad : α → Bool) (num : α → Nat) : Option Nat :=
  (l.find? bad).map num

/-- The number of the first window for which a producer end's SCOPE is too narrow, 0 for an arc. -/
def State.scopeNumber (s : State) (img : Nat) (l : ImgLoad) (place cores : List Nat) (p : Nat × Nat) : Nat :=
  match (s.reached (bits (s.win p.1 p.2 0) 42 8) (hallOfCore p.1)).find? fun e =>
      s.scopeCode p.1 p.2 < s.spanScope img l place p.1 (endPlace e) with
  | some e => if bitAt (s.win p.1 p.2 0) 56 then 0 else s.windowNumber place cores e
  | none => 0

/-- The refusals of a load, each with the number that its detail word holds from bit 8, read from the
state `s` that its configuration gives: R111 and R266, and the rules that R266 is joined by. -/
def State.refusals (s : State) (img h : Nat) (l : ImgLoad) (place : List Nat) :
    List (Option Nat × Nat) :=
  let cores := s.placedCores place
  let t := s.certOf img l place cores
  let ends := s.consumerEnds place cores
  let window := s.windowNumber place cores
  let prods := cores.flatMap fun c => (windows.filter (s.isProducer c)).map fun w => (c, w)
  let cons := cores.flatMap fun c => (windows.filter (s.isConsumer c)).map fun w => (c, w)
  let acts := cores.flatMap fun c => (s.actorsOf c).map fun a => (c, a)
  let entries := cores.flatMap fun c => (steps 0 1 8).map fun a => (c, a)
  let written := s.imgEntries img l place
  let streams := s.streamsIn place
  let sources := streams.filter fun e => !s.isSink e.1 e.2 && !s.isQueue e.1 e.2
  let stream := fun (e : Nat × Nat) => mapGet 0 e.2 t.streamOf
  let core := fun (p : Nat × Nat) => window (p.1, p.2, false)
  let crcBad : Bool :=
    crc32c (s.imgBytes img (l.cert + 24) (l.certLen - 24)) != BitVec.ofNat 32 (s.certNat img l 20 4)
  let tiles := steps 0 1 (17 * l.halls)
  let ranges := place.flatMap fun hk => (steps 0 1 64).map fun n => (hk, n)
  [ (if crcBad then some 0 else none, 7),
    (if s.certFits img l place cores then none else some 0, 0x87),
    (firstBad ends (fun e => !s.balanced t place cores e) window, 4),
    (s.windowRecord img l place cores (fun cap bound _ => cap < bound), 5),
    (s.windowRecord img l place cores (fun cap _ init => cap < init), 6),
    (firstBad entries (fun e => s.entriesWrong written e.1 e.2) (s.actorNumber t), 8),
    (firstBad prods (s.scopeNarrow img l place) (s.scopeNumber img l place cores), 9),
    (firstBad cons (s.scopeNarrowIn img l place) core, 9),
    (firstBad prods s.fanWrong (s.fedNumber place cores), 10),
    (firstBad cons (fun e => bitAt (s.win e.1 e.2 0) 56 && s.arcWrong cores e) core, 10),
    (firstBad sources s.sourceWrong stream, 10),
    (firstBad (steps 0 1 64) (fun n => cores.any (s.receiverWrong n)) id, 11),
    (firstBad cons s.ringWrong core, 12), (firstBad streams s.streamRingWrong stream, 12),
    (firstBad streams (s.streamWrong place) stream, 13),
    (firstBad (steps 0 1 32) (s.homeWrong place cores) id, 14),
    (firstBad (s.elasticOf cores) (s.activeWrong h cores) (s.actorNumber t), 15),
    (firstBad ranges (fun e => s.rangeWrong e.1 e.2) (·.2), 17),
    (firstBad (tiles.flatMap (s.tileRecords img l)) rangeReserved
      (fun r => (r.1 % 2 ^ 30 - 256) / 2), 17),
    (cores.findSome? s.landingsWrong, 18), (firstBad tiles (s.lmaxWrong img l) (fun _ => 0), 18),
    ((placeWings place).findSome? fun w =>
      firstBad (steps 0 1 16) (s.collectiveWrong h w) id, 19),
    (firstBad (s.elasticOf cores) (s.elasticWrong t place cores) (s.actorNumber t), 20),
    (firstBad acts (fun e => bits (s.actorWord e.1 e.2 3) 12 8 != 0 &&
      !bitAt (s.actorWord e.1 e.2 3) 5 && !bitAt (s.actorWord e.1 e.2 3) 11) (s.actorNumber t), 21),
    (firstBad (placeWings place)
      (fun w => 32 < (s.stagesOf (cores.filter fun c => wingOfCore c == w)).length) (fun _ => 0), 22) ]

/-- CFG_REJECT's detail word for a refusal (R111, R266, R374, R392). -/
def refusalDetail (cause number : Nat) : Word64 :=
  BitVec.ofNat 64 (cause + 2 ^ 8 * (number % 2 ^ 16))

/-- The first refusal of a load in ascending order of causes (log 41), as its detail word; 0x87 is
malformation. -/
def State.admissionCause (s : State) (img h : Nat) (l : ImgLoad) (place : List Nat) : Option Word64 :=
  (s.refusals img h l place).findSome? fun e => e.1.map fun n => refusalDetail e.2 n

/-! ### Placing (R423, R424, R426) -/

/-- The image's signature and segment digests (R414): 0 good, else the outcome's STATUS. A poisoned
byte fails the check that covers it. -/
def State.signedStatus (s : State) (img : Nat) : Nat :=
  let h := s.imgHeader img
  let digest := sha512 (s.imgBytes img 0 h.hlen)
  let seg := fun n =>
    let o := h.hlen + 256 + 2 ^ 26 * n
    (o, min (2 ^ 26) (h.len - o))
  if s.poisoned img (h.hlen + 256) ||
      s.verify h.slot digest (s.imgBytes img h.hlen 132) != .valid then 1
  else if (steps 0 1 h.segs).any fun n =>
      s.poisoned (img + (seg n).1) (seg n).2 ||
        sha512 (s.imgBytes img (seg n).1 (seg n).2) != s.imgBytes img (h.digests + 64 * n) 64 then 2
  else 0

/-- The tiles from t on, each with its CRC checked first, then written: the state, and the outcome's
TILE and STATUS. -/
def State.writeTiles (img : Nat) (l : ImgLoad) (site : Site) : Nat → Nat → State → State × Nat × Nat
  | 0, t, s => (s, t, 0)
  | n + 1, t, s =>
    if !s.sectionOk img l t then (s, t, 3)
    else
      let r := s.writeTile img l site t
      if r.2 != 0 then (r.1, t, 4) else State.writeTiles img l site n (t + 1) r.1

/-- The whole configuration written, with the outcome's TILE and STATUS. -/
def State.placeImage (s : State) (img : Nat) (l : ImgLoad) (site : Site) : State × Nat × Nat :=
  State.writeTiles img l site (17 * l.halls) 0
    (s.writeRoutes (s.routeTree site.place site.vcs (s.routeRecs img l)))

/-- A configuration written without its checks, for admission. -/
def State.scratch (s : State) (img : Nat) (l : ImgLoad) (site : Site) : State :=
  (steps 0 1 (17 * l.halls)).foldl (fun s t => (s.writeTile img l site t).1)
    (s.writeRoutes (s.routeTree site.place site.vcs (s.routeRecs img l)))

/-- The load record of load k, placed (R231, R366). An image has no field for `ordered` (R285): whether a
load was declared so is a free value of its load record (log 80). The M modes of its certificate are the modes 0
to M - 1 (DESIGN CHOICE, log 102). -/
def State.placedLoad (s : State) (img k : Nat) (site : Site) (areas : List (Nat × Nat))
    (debug : Bool) : Load :=
  let l := s.imgLoad img k
  let cores := s.placedCores site.place
  { state := .running, halls := hallSlots s site.place [], cores := cores, vcs := site.vcs,
    areas := areas, debug := debug,
    ordered := Config.ordered (s.imgBytes img ((s.imgHeader img).recs + 64 * k) 64),
    modes := steps 0 1 (s.certCounts img l).1, signals := s.signalsOf cores,
    cert := s.certOf img l site.place cores, index := k,
    valids := cores.map (fun c => (c, entryMask fun e => entryValid (s.entry c e))),
    entries := s.imgEntries img l site.place }

end Sys2Proof.Machine
end

