-- ==== Sys2Proof/Machine/Save.lean ====
section
/-!
DEFINITION. The save area (R402 to R406), lazy saving (R407, R408), the freeze readout (R411, R180),
restore (R409, R410, R427) and what frees a hall.
-/

namespace Sys2Proof.Machine

/-! ### Writing physical memory -/

/-- Bytes at a physical address. -/
def State.putPhys (s : State) (pa : Nat) (b : List Byte) : State := s.storeMarked (physKey pa) b []

/-- n bytes at a physical address become 0 and clean. -/
def State.zeroPhys (s : State) (pa n : Nat) : State :=
  { s with mem := mapDelRange (physKey pa) n s.mem,
           poison := setDelRange (physKey pa / 8) (n / 8) s.poison }

/-- Bits of a bit array at a physical address are set. -/
def State.putBits (s : State) (pa : Nat) (ids : List Nat) : State :=
  ids.foldl (fun s i =>
    let key := physKey (pa + i / 8)
    { s with mem := memSetByte s.mem key (memByte s.mem key ||| BitVec.ofNat 8 (2 ^ (i % 8))) }) s

/-- The numbers, counted from k, of the members of a set in a range of n from k. -/
def setWithin (k n : Nat) (s : List Nat) : List Nat :=
  (s.filter fun j => k ≤ j && j < k + n).map (· - k)

/-- The numbers whose bits are set in a bit array of n bits at a physical address. -/
def State.getBits (s : State) (pa n : Nat) : List Nat :=
  (steps 0 1 n).filter fun i => (memByte s.mem (physKey (pa + i / 8))).getLsbD (i % 8)

/-- A little-endian field at a physical address. -/
def State.physNat (s : State) (pa n : Nat) : Nat := s.load (physKey pa) n

/-! ### The determinism cause record (R467) -/

/-- The order of R467. -/
def DetEntry.before (a b : DetEntry) : Bool :=
  a.code < b.code || (a.code == b.code && (a.core < b.core || (a.core == b.core &&
    (a.ctx < b.ctx || (a.ctx == b.ctx && a.pc < b.pc)))))

/-- An entry in its place. -/
def detInsert (e : DetEntry) : List DetEntry → List DetEntry
  | [] => [e]
  | d :: ds => if d.before e then d :: detInsert e ds else e :: d :: ds

/-- The 16 bytes of an entry. -/
def DetEntry.bytes (e : DetEntry) : List Byte :=
  natToBytes 1 e.code.toNat ++ natToBytes 1 e.ctx.toNat ++ natToBytes 2 e.core.toNat ++
  natToBytes 2 e.pc.toNat ++ natToBytes 2 0 ++ natToBytes 4 e.count.toNat ++
  natToBytes 4 e.first.toNat

/-- The record of 512 bytes (R467). -/
def detRecord (det : List DetEntry) (overflow : BitVec 32) : List Byte :=
  let es := (det.foldl (fun l e => detInsert e l) []).flatMap DetEntry.bytes
  es ++ List.replicate (256 - es.length) 0 ++ natToBytes 4 overflow.toNat ++ List.replicate 252 0

/-! ### Sections of a context record (R406) -/

/-- A size rounded up to 64. -/
def up64 (n : Nat) : Nat := (n + 63) / 64 * 64

/-- The items that a live map names, by key (700 and 701 are z0 and z1), with the offset of each in
its context record. A vector's lanes stand under the key of its lane 0. -/
def sections (m : Word64) : List (Nat × Nat) :=
  let xs := (steps 1 1 31).filter fun n => bitAt m (n - 1)
  let vs := (steps 0 1 16).filter fun n => bitAt m (31 + n)
  let ks := (steps 1 1 3).filter fun n => bitAt m (46 + n)
  let v0 := 192 + up64 (8 * xs.length)
  let k0 := v0 + up64 (132 * vs.length)
  let z0 := k0 + up64 (4 * ks.length)
  let z1 := z0 + if bitAt m 57 then 8256 else 0
  (xs.zipIdx.map fun e => (e.1, 192 + 8 * e.2)) ++
  (vs.zipIdx.map fun e => (64 + 32 * e.1, v0 + 128 * e.2)) ++
  (ks.zipIdx.map fun e => (600 + e.1, k0 + 4 * e.2)) ++
  (if bitAt m 57 then [(700, z0)] else []) ++ (if bitAt m 58 then [(701, z1)] else [])

/-- Offset of vn's lane poison mask, after all data of the v section. -/
def vecMarks (m : Word64) (n : Nat) : Nat :=
  let xs := (steps 1 1 31).filter fun i => bitAt m (i - 1)
  let vs := (steps 0 1 16).filter fun i => bitAt m (31 + i)
  192 + up64 (8 * xs.length) + 128 * vs.length + 4 * (vs.filter (· < n)).length

/-- D of an item (R407). A predicate has its value in the header, which is always written. -/
def State.itemDirty (s : State) (c x key : Nat) : Bool :=
  let t := s.ctx c x
  let k := s.core c
  if key = 700 then k.zDirty0 else if key = 701 then k.zDirty1
  else if key < 64 || 600 ≤ key then setHas key t.regDirty
  else (steps key 1 32).any fun l => setHas l t.regDirty

/-- S of an item (R407). -/
def State.itemSaved (s : State) (c x key : Nat) : Bool :=
  let t := s.ctx c x
  let k := s.core c
  if key = 700 then k.zSaved0 else if key = 701 then k.zSaved1
  else if key < 64 || 600 ≤ key then setHas key t.regSaved
  else (steps key 1 32).all fun l => !setHas l t.regDirty || setHas l t.regSaved

/-- A register as a save finds it: the running actor's, or one that another actor of the context keeps out
of its sight (R10, R395). -/
def Ctx.kept (t : Ctx) (key : Nat) : PVal :=
  match mapFind key t.regs, mapFind key t.stash with
  | none, some v => v
  | _, _ => t.reg key

/-- An item written to its place. -/
def State.writeItem (s : State) (c x rb : Nat) (m : Word64) (it : Nat × Nat) : State :=
  let t := s.ctx c x
  let k := s.core c
  let pa := rb + it.2
  let bank := fun (b : Bool) =>
    (s.putPhys pa ((steps 0 1 32).flatMap (k.rowBytes b))).putPhys (pa + 8192)
      (natToBytes 4 (k.zPoison b ||| k.zErr b).toNat ++ natToBytes 4 (k.zTag b).toNat)
  if it.1 = 700 then bank false
  else if it.1 = 701 then bank true
  else if it.1 < 64 then s.putPhys pa (natToBytes 8 (t.kept it.1).v.toNat)
  else if 600 ≤ it.1 then s.putPhys pa (natToBytes 4 (t.kept it.1).v.toNat)
  else
    let lanes := steps it.1 1 32
    let marks := ((steps 0 1 32).filter fun l => (t.kept (it.1 + l)).po).foldl (fun n l => n + 2 ^ l) 0
    (s.putPhys pa (lanes.flatMap fun l => natToBytes 4 (t.kept l).v.toNat)).putPhys
      (rb + vecMarks m ((it.1 - 64) / 32)) (natToBytes 4 marks)

/-! ### Context records -/

/-- PARK of R406. In a freeze readout PC is that of the next instruction. -/
def State.parkWord (s : State) (c x : Nat) (freeze : Bool) : Nat :=
  let t := s.ctx c x
  let kind : Nat := match t.park with
    | some p => (match p.kind with
      | .idle => 0
      | .fend => 1
      | .land => 2
      | .ldf => 3)
    | none => 0
  let entry : Nat := match t.park with
    | some p => p.entry.toNat
    | none => 0
  let pc : Nat := if freeze then t.pc.toNat else match t.park with
    | some p => p.pc.toNat
    | none => 0
  let actor : Nat := match t.bound with
    | some (e, _) => entryActor (s.entry c e)
    | none => t.actor
  let bound := t.bound.isSome || t.claimIdx.isSome
  kind * 2 ^ 62 + (if bound then 2 ^ 61 else 0) + entry * 2 ^ 53 + actor * 2 ^ 50 + pc

/-- A loop-stack entry as R406 stores it. -/
def loopWord : Option LoopEntry → Nat
  | none => 0
  | some e => 2 ^ 63 + e.start % 2 ^ 13 * 2 ^ 45 + e.stop % 2 ^ 13 * 2 ^ 32 + e.remaining.toNat

/-- A context record's header (R406). Entry 0 of the loop stack is the outermost loop. -/
def State.ctxHeader (s : State) (c x : Nat) (live : Word64) (freeze : Bool) : List Byte :=
  let t := s.ctx c x
  let stack := (if freeze && t.park.isNone then t.loops else
    if t.run == .idle then [] else t.savedLoops).reverse
  let claim : Nat := match t.bound, t.claimIdx with
    | some (_, i), _ => i.toNat
    | none, some i => i.toNat
    | none, none => 0
  let marks := ((steps 1 1 31).filter fun n => (t.kept n).po) ++
    ((steps 1 1 3).filter fun n => (t.kept (600 + n)).po).map (fun n => 32 + n) ++
    ((steps 1 1 7).filter fun n => (t.kept (610 + n)).po).map (fun n => 40 + n)
  let preds := ((steps 1 1 7).filter fun n => (t.kept (610 + n)).v.getLsbD 0).foldl
    (fun a n => a + 2 ^ n) 0
  let counts := windows.flatMap fun w => natToBytes 8
    (mapGet 0 w t.freed % 2 ^ 12 * 2 ^ 24 + mapGet 0 w t.reserved % 2 ^ 12 * 2 ^ 12 +
      mapGet 0 w t.sent % 2 ^ 12)
  natToBytes 8 live.toNat ++ natToBytes 8 (s.parkWord c x freeze) ++
  natToBytes 8 (loopWord stack[0]?) ++ natToBytes 8 (loopWord stack[1]?) ++
  natToBytes 8 claim ++ natToBytes 8 0 ++
  natToBytes 8 (marks.foldl (fun a n => a + 2 ^ n) 0) ++
  natToBytes 8 (preds + (if t.claimMade then 2 ^ 8 else 0) + (if t.putMade then 2 ^ 9 else 0)) ++
  counts

/-- The live map of a freeze readout: every register and bank. -/
def allLive : Word64 := 0xFFFFFFFFFFFFFFFF

/-- A context parks with nothing to save (R406); one with a bound claim keeps its record (R398). -/
def Ctx.noRecord (t : Ctx) : Bool :=
  t.live == 0 && t.bound.isNone &&
  (match t.park with
  | some p => p.kind == .idle || p.kind == .fend
  | none => t.run == .idle)

/-- A context record written: the header, and each item with D = 1 and S = 0, or each that is not in
the slot because the map in force has changed; in a freeze readout every item. -/
def State.writeCtx (s : State) (c x rb : Nat) (freeze : Bool) : State :=
  let t := s.ctx c x
  if !freeze && t.noRecord then s
  else
    let live := if freeze then allLive else t.live
    let moved := s.physNat rb 8 != live.toNat
    let due := (sections live).filter fun it =>
      freeze || (s.itemDirty c x it.1 && (moved || !s.itemSaved c x it.1))
    let s' := due.foldl (fun a it => a.writeItem c x rb live it) s
    s'.putPhys rb (s.ctxHeader c x live freeze)

/-! ### Core records (R405) and hall slots (R404) -/

/-- The words of space 5's order for a context's special state (R405). -/
def State.specialWords (s : State) (c x : Nat) : List Byte :=
  let t := s.ctx c x
  let w := fun i => s.cfgAt c 5 (256 * x + i)
  ((steps 0 1 4).flatMap fun n =>
    natToBytes 4 (t.stair n).toNat ++ natToBytes 4 (s.stairBound c x n) ++
      natToBytes 8 (w (39 + 2 * n)).toNat) ++
  natToBytes 8 t.gkey.toNat ++ natToBytes 8 t.gseq.toNat ++ natToBytes 8 t.lmax.toNat ++
  natToBytes 8 t.tmode.toNat

/-- The state of a return queue in a freeze readout (R411). -/
def rqState (q : List RqEntry) : Nat :=
  q.zipIdx.foldl (fun a e =>
    a + 2 ^ e.2 + (if e.1.arrived then 2 ^ (8 + e.2) else 0) +
      (if e.1.arrived && e.1.val.po then 2 ^ (16 + e.2) else 0)) 0

/-- The freeze part of a core header: return queues (R411), and the queued matrix commands' words with
their flags from offset 0x40 (R180; log 42). -/
def State.freezeHeader (s : State) (c base : Nat) : State :=
  let k := s.core c
  let s := (steps 0 1 4).foldl (fun s x =>
    let q := (k.ctx x).rq.take 8
    let s := s.putPhys (base + 0x20 + 8 * x) (natToBytes 8 (rqState q))
    q.zipIdx.foldl (fun s e => s.putPhys (base + 0x100 + 64 * x + 8 * e.2)
      (natToBytes 8 (if e.1.arrived then e.1.val.v.toNat else 0))) s) s
  (k.mq.take 8).zipIdx.foldl (fun s e => s.putPhys (base + 0x40 + 8 * e.2)
    (natToBytes 8 (e.1.word.toNat + if e.1.started then 2 ^ 32 else 0))) s

/-- Lines of a store written to a slot: those with D = 1 and S = 0, or every line. -/
def State.writeLines (s : State) (key n pa : Nat) (freeze : Bool) : State :=
  ((steps 0 1 n).filter fun i => freeze ||
    (setHas (key / 256 + i) s.dirty && !setHas (key / 256 + i) s.saved)).foldl
    (fun s i => s.putPhys (pa + 256 * i) (memBytes s.mem (key + 256 * i) 256)) s

/-- A core record (R405). -/
def State.writeCore (s : State) (c base : Nat) (freeze : Bool) : State :=
  let s := (s.zeroPhys base 0x1000).zeroPhys (base + 0x1000) 0x840
  let s := (steps 0 1 4).foldl (fun s x => (s.putBits (base + 8 * x) ((s.ctx c x).corridor.filter (· < 64))).putPhys
    (base + 0xC00 + 256 * x) (s.specialWords c x)) s
  let s := s.putPhys (base + 0x200) ((steps 0 1 64).flatMap fun n => natToBytes 8 (s.cfgAt c 2 n).toNat)
  let s := s.putPhys (base + 0x400) ((steps 0 1 256).flatMap fun n => natToBytes 8 (s.cfgAt c 3 n).toNat)
  let s := s.putBits (base + 0x1000) (setWithin (tileKey c 0 / 256) 512 s.dirty)
  let s := s.putBits (base + 0x1040) (setWithin (tileKey c 0 / 8) 16384 s.poison)
  let s := (steps 0 1 4).foldl (fun s x => s.writeCtx c x (base + 0x2000 + 0x5000 * x) freeze) s
  let s := s.writeLines (tileKey c 0) 512 (base + 0x20000) freeze
  if freeze then s.freezeHeader c base else s

/-- The cumulative number of the token at a stream's recorded position, that of the next to be sent, or of one
withheld, which is begun again after restore (R285, R387). -/
def Stream.savedCount (t : Stream) : Nat := t.cumulative - t.ahead - if t.busy then 1 else 0

/-- A stream's state in a slot (R404). -/
def State.streamRecord (s : State) (hk n : Nat) : List Byte :=
  let t := s.stream hk n
  let i := t.pos - t.ahead
  let b := s.bound hk n
  natToBytes 4 (i % b 0) ++ natToBytes 4 (i / b 0 % b 1) ++ natToBytes 4 (i / (b 0 * b 1) % b 2) ++
  natToBytes 4 (i / (b 0 * b 1 * b 2)) ++ natToBytes 4 t.mode.code ++
  natToBytes 4 (if t.busy && s.isSink hk n then t.line else 0) ++ natToBytes 8 t.savedCount ++
  List.replicate 32 0

/-- Packets of a load that stand in a hall's router, by router port and then in order of arrival. -/
def State.routerPackets (s : State) (h hk : Nat) : List Packet :=
  let mine := s.packets.filter fun e => e.2.load == h && e.2.hall == hk && e.2.atPort.isNone
  (steps 0 1 7).flatMap fun port =>
    ((mine.filter fun e => e.2.port == port).foldl
      (fun m e => mapPut e.2.stamp (mapGet [] e.2.stamp m ++ [e.2]) m) []).flatMap (·.2)

/-- The parts of a load's packets whose flits stand in a hall's router: port, order of arrival and flits. Of a packet
that has come on to the next router, those that it has not taken in stand here yet (R309). -/
def State.routerParts (s : State) (h hk : Nat) : List (Nat × Nat × List (List Byte)) :=
  (s.packets.filter fun e => e.2.load == h && e.2.atPort.isNone).flatMap fun e =>
    let p := e.2
    let fl := p.header :: (dataFlits ((p.data.length + 63) / 64) p.data []).map (·.1)
    let here := if p.hall == hk then [(p.port, p.stamp, fl.take (p.flits - p.owed))] else []
    match p.waitsIn with
    | some (r, port, n) => if r == hk then here ++ [(port, n, fl.drop (p.flits - p.owed))] else here
    | none => here

/-- Their flits, by router port and then in order of arrival; a packet's flits stand there once, whatever the
number of ways that it goes on (R411). -/
def State.routerFlits (s : State) (h hk : Nat) : List (List Byte) :=
  let parts := s.routerParts h hk
  (steps 0 1 7).flatMap fun port =>
    ((parts.filter fun e => e.1 == port).foldl (fun m e =>
      if (mapGet [] e.2.1 m).length < e.2.2.length then mapPut e.2.1 e.2.2 m else m) []).flatMap (·.2)

/-- A packet that a freeze cuts on its way into a ring: a free number of its data flits has landed there
(R412, log 63). -/
def State.landCut (s : State) (p : Packet) : State :=
  let n := 64 * ((Config.freeBits s.fresh).toNat % p.flits)
  let data := p.data.take n
  let poison := p.poison.filter fun i => 8 * i < n
  let ring := match p.coreDest, p.streamDest with
    | some (c, w), _ => if s.isConsumer c w then some (s.windowSlot p c w) else none
    | none, some d => if s.isSink p.hall d then some (s.sinkSlot p d) else none
    | none, none => none
  match p.kind == 0 && p.engineDest.isNone, ring with
  | true, some key => { s.storeMarked key data poison with fresh := s.fresh + 1 }
  | _, _ => s

/-- The physical core that carries position p of the load's hall i. A load of the launch unit lists 16
cores for each hall; a load committed by CFGCOMMIT alone has the positions of the defect map. -/
def State.carrier (s : State) (l : Load) (i p : Nat) : Nat :=
  match l.launch with
  | some _ => l.cores.getD (16 * i + p) 0
  | none => s.coreAt ((l.halls[i]?.map (·.phys)).getD 0) p

/-- A hall slot (R404) of the load's hall i. -/
def State.writeHall (s : State) (h i hk base : Nat) (freeze : Bool) : State :=
  let s := s.zeroPhys base 0x10000
  let s := s.putPhys base ((steps 0 1 512).flatMap fun n => natToBytes 8 (s.hallCfg hk n).toNat)
  let s := s.putBits (base + 0x1000) (setWithin (hallKey hk 0 / 8) (2 ^ 17) s.full)
  let s := s.putBits (base + 0x5000) (setWithin (hallKey hk 0 / 8) (2 ^ 17) s.poison)
  let s := s.putBits (base + 0x9000) (setWithin (hallKey hk 0 / 256) 4096 s.dirty)
  let s := (steps 0 1 32).foldl (fun s n => s.putPhys (base + 0x9200 + 64 * n) (s.streamRecord hk n)) s
  let s := s.writeLines (hallKey hk 0) 4096 (base + 0x10000) freeze
  let s := (steps 0 1 16).foldl (fun s p =>
    s.writeCore (s.carrier (s.loadAt h) i p) (base + 0x110000 + 0x40000 * p) freeze) s
  let s := s.zeroPhys (base + 0x510000) 65536
  if freeze then
    let fl := s.routerFlits h hk
    (s.putPhys (base + 0x510000) (fl.take 1024).flatten).putPhys (base + 0x9A00)
      (natToBytes 8 (min 1024 fl.length + if 1024 < fl.length then 2 ^ 32 else 0))
  else s

/-- The address of a hall's slot. -/
def Load.slotBase (l : Load) (e : LoadHall) : Option Nat :=
  (mapFind (e.phys / 128) l.areas).map fun b => b + 0x10000 + 0x800000 * e.slot

/-- The header of a load's save area in a wing (R403). -/
def State.writeAreaHeader (s : State) (h wing kind : Nat) : State :=
  let l := s.loadAt h
  match mapFind wing l.areas with
  | none => s
  | some base =>
    let hs := l.halls.filter fun e => e.phys / 128 == wing
    let word := fun (e : LoadHall) => e.user + e.phys % 128 * 2 ^ 6 +
      (if e.writtenOut then 2 ^ 13 else 0) + (if e.restored then 2 ^ 14 else 0)
    let drain := (if l.draining then 1 else 0) + l.target.toNat * 2
    let s := s.zeroPhys base 0x10000
    let s := s.putPhys base (natToBytes 4 0x53415645 ++ natToBytes 1 kind ++ natToBytes 1 h ++
      natToBytes 2 hs.length ++ natToBytes 8 drain ++ (hs.take 64).flatMap fun e => natToBytes 8 (word e))
    s.putPhys (base + 528) (detRecord l.det l.overflow)

/-! ### A hall is freed (R231, R232, R408) -/

/-- A hall's code stores hold the fill word throughout (R94). -/
def State.fillCode (s : State) (hk : Nat) : State :=
  { s with mem := mapDelRange (codeKey (hk * 32) 0) (2 ^ 20) s.mem }

/-- The units of a hall return to the unconfigured state: the code stores are filled, so that a word in
which the next image places no code is the fill word (R94, R231), the stores keep their bytes, and no
core stays armed. -/
def State.clearHall (s : State) (hk : Nat) : State :=
  let mine := fun (key : Nat) => key / 2 ^ 39 == hk && !(key / 2 ^ 30 % 16 == 6 && key % 2 ^ 30 == 4088)
  let s := s.fillCode hk
  let s := { s with cfg := s.cfg.filter fun e => !mine e.1,
                    atoms := mapDelRange (hallKey hk 0 / 8) (2 ^ 17) s.atoms,
                    cores := s.cores.filter fun e => e.1 / 32 != hk,
                    streams := s.streams.filter fun e => e.1 / 64 != hk,
                    withheld := s.withheld.filter fun e => e.2.hall != hk,
                    saccs := s.saccs.filter fun e => e.2.hall != hk }
  s.setIdentity hk false 0 0 0

/-- The route entries of a load's channels are cleared, and its packets purged (R232, R411). -/
def State.purgeChannels (s : State) (h : Nat) : State :=
  let l := s.loadAt h
  let mine := fun (e : Nat × Word64) =>
    l.vcs.any fun v => v.1 == e.1 / 2 ^ 15 && v.2 == bits e.2 60 3
  { s with routes := s.routes.filter (fun e => !mine e),
           packets := s.packets.filter fun e => e.2.load != h }

/-- The arc-table entries of a load in a wing: those with its channel. -/
def State.arcEntries (s : State) (wing vc : Nat) : List Nat :=
  (steps 2560 1 1024).filter fun n => bitAt (s.sysCfg wing n) 63 && bits (s.sysCfg wing n) 60 3 == vc

/-! ### Write-out (R407, R408) -/

/-- The items that a slot does not hold, because D = 0 or no record is written (900). -/
def State.cleanItems (s : State) (l : Load) (i : Nat) : List Nat :=
  (steps 0 1 16).flatMap fun p =>
    let c := s.carrier l i p
    (steps 0 1 4).flatMap fun x =>
      let t := s.ctx c x
      let k := (4 * p + x) * 1024
      if t.noRecord then [k + 900]
      else ((sections t.live).filter fun it => !s.itemDirty c x it.1).map fun it => k + it.1

/-- What the launch unit notes of every context of a hall, by 4 position + context. -/
def State.noteCtxs {α : Type} (s : State) (l : Load) (i : Nat) (f : Ctx → Option α) : List (Nat × α) :=
  (steps 0 1 16).flatMap fun p =>
    (steps 0 1 4).filterMap fun x =>
      (f (s.ctx (s.carrier l i p) x)).map fun a => (4 * p + x, a)

/-- The registers of an item: all lanes of a vector. -/
def itemKeys (key : Nat) : List Nat := if key < 64 || 600 ≤ key then [key] else steps key 1 32

/-- The values and marks of the clean items that are registers (R407). -/
def State.cleanValues (s : State) (l : Load) (i : Nat) : List (Nat × PVal) :=
  ((s.cleanItems l i).filter fun k => k % 1024 < 700).flatMap fun k =>
    let t := s.ctx (s.carrier l i (k / 4096)) (k / 1024 % 4)
    (itemKeys (k % 1024)).map fun key => (k / 1024 * 1024 + key, t.kept key)

/-- The identities that the words of a hall's store keep (R466). -/
def State.storeAtoms (s : State) (hk : Nat) : List (Nat × AtomId) :=
  s.atoms.filter fun e => hallKey hk 0 / 8 ≤ e.1 && e.1 < hallKey hk 0 / 8 + 2 ^ 17

/-- The stores of a hall of a load, as LoadHall.cells names their bytes: the hall store, then the tile stores of
the program positions, on the cores that carry them. -/
def storesOf (hk : Nat) (core : Nat → Nat) : List (Nat × Nat × Nat) :=
  (0, hallKey hk 0, 2 ^ 20) :: (steps 0 1 16).map fun p => (2 ^ 20 + 2 ^ 17 * p, tileKey (core p) 0, 2 ^ 17)

/-- The bytes of those stores. -/
def State.noteCells (s : State) (l : Load) (i hk : Nat) : List Host.Cell :=
  (storesOf hk (s.carrier l i)).flatMap fun r => s.mem.filterMap fun c =>
    if r.2.1 ≤ c.1 && c.1 < r.2.1 + r.2.2 then some (c.1 - r.2.1 + r.1, c.2) else none

/-- The stores of a hall that a load is restored onto hold those bytes, and no other (R395). -/
def State.layCells (s : State) (hk : Nat) (cells : List Host.Cell) : State :=
  (storesOf hk (s.coreAt hk)).foldl (fun s r =>
    let s := { s with mem := mapDelRange r.2.1 r.2.2 s.mem }
    (cells.filter fun c => r.1 ≤ c.1 && c.1 < r.1 + r.2.2).foldl (fun s c =>
      { s with mem := memSetByte s.mem (c.1 - r.1 + r.2.1) c.2 }) s) s

/-- What the launch unit notes of a hall that it writes out, beside the slot (R96, R206, R265, R298, R301,
R387, R395, R407, R466, R481; DESIGN CHOICE, log 99). -/
def State.noteHall (s : State) (l : Load) (i : Nat) (e : LoadHall) : LoadHall :=
  let hk := e.phys
  let noteStreams := fun {α : Type} (f : Stream → Option α) =>
    (steps 0 1 32).filterMap fun n => (f (s.stream hk n)).map fun a => (n, a)
  { e with
    clean := s.cleanItems l i
    entered := (s.noteCtxs l i fun t => if t.elastic then some () else none).map (·.1)
    values := (s.cleanValues l i).foldl (fun m v => mapPut v.1 v.2 m) []
    aside := s.noteCtxs l i fun t => if t.stash = [] then none else some t.stash
    bounds := s.noteCtxs l i fun t => t.bound.map (·.1)
    lastPcs := s.noteCtxs l i fun t => if t.prevPc = 0 then none else some t.prevPc
    inHand := (noteStreams fun t => if t.busy then some () else none).map (·.1)
    bars := noteStreams fun t => if t.bar = [] then none else some t.bar
    counts := noteStreams fun t => if t.fcnt = 0 ∧ t.tgt = 0 then none else some (t.fcnt, t.tgt)
    unsent := noteStreams fun t => if 0 < t.ahead then some t.ahead else none
    cells := s.noteCells l i hk
    atoms := (s.storeAtoms hk).map fun a => (a.1 - hallKey hk 0 / 8, a.2) }

/-- The noted identities kept again by the words of the store of a physical hall (R410, R466). -/
def State.readAtoms (s : State) (e : LoadHall) (hk : Nat) : State :=
  { s with atoms := e.atoms.foldl (fun m a => mapPut (hallKey hk 0 / 8 + a.1) a.2 m)
             (mapDelRange (hallKey hk 0 / 8) (2 ^ 17) s.atoms) }

/-- Keys n x core + i of a map with the cores renamed. -/
def renameKeys {α : Type} (f : Nat → Nat) (n : Nat) (m : List (Nat × α)) : List (Nat × α) :=
  m.foldl (fun a e => mapPut (f (e.1 / n) * n + e.1 % n) e.2 a) []

/-- The cores of a load renamed. -/
def Load.rename (l : Load) (f : Nat → Nat) : Load :=
  { l with cores := l.cores.map f, valids := renameKeys f 1 l.valids,
           entries := renameKeys f 1 l.entries,
           timers := renameKeys f 16 l.timers,
           cert := { l.cert with initial := renameKeys f 16 l.cert.initial,
                                 actorOf := renameKeys f 8 l.cert.actorOf } }

/-- VALID of the entries that a core's configuration gave an actor; a trigger word that nothing has
written is no entry, and a retired actor's entries stay cleared (R256, R299). -/
def State.setEntries (s : State) (c a : Nat) (valid : Bool) : State :=
  let mine := match (s.core c).load with
    | some h => mapGet 0 c (s.loadAt h).entries
    | none => (0 : BitVec 16)
  (windows.filter fun e => mine.getLsbD e && entryActor (s.entry c e) == a && !(valid && s.retired c a)).foldl
    (fun s e => s.setCfg c 3 e (withBits (s.entry c e) 0 1 (if valid then 1 else 0))) s

/-- A move whose core parks reaches its boundary there: the save records the recipient's entries as valid
(R307). -/
def State.settleMove (s : State) (c : Nat) : State :=
  match (s.core c).move with
  | some m =>
    let s := (s.setEntries c m.donor false).setEntries c m.recipient true
    s.setCore c { s.core c with move := none }
  | none => s

/-- A load's share of a hall returns to the unconfigured state: the whole hall, or, in a system hall, its own
cores, streams and ranges alone, since device-level graphs and other loads hold the rest (R9, R94; DEDUCED, log 122). -/
def State.clearShare (s : State) (l : Load) (hk : Nat) : State :=
  if isSystemHall hk then
    let mine := fun (c : Nat) => l.cores.contains c && hallOfCore c == hk
    let s := (l.cores.filter mine).foldl (fun s c =>
      { s with mem := mapDelRange (codeKey c 0) (2 ^ 15) s.mem }) s
    { s with cfg := s.cfg.filter fun e => !mine (e.1 / 2 ^ 34) && !l.sysWords.contains e.1,
             cores := s.cores.filter fun e => !mine e.1,
             streams := s.streams.filter fun e => !(e.1 / 64 == hk && l.hasStream hk (e.1 % 64)) }
  else s.clearHall hk

/-- Hall i of a suspended load is written out and freed; with its last hall go its channels in the
wings without arc entries, unless it is resident (R366, R408). -/
def State.writeOut (s : State) (h i : Nat) : State :=
  let l := s.loadAt h
  match l.halls[i]? with
  | none => s
  | some e =>
    match l.slotBase e with
    | none => s
    | some base =>
      let hk := e.phys
      let e := { s.noteHall l i e with inPlace := false, writtenOut := true, restored := false }
      let s := (steps 0 1 17).foldl (fun s p => s.settleMove (32 * hk + p)) s
      let s := s.writeHall h i hk base false
      let s := s.setLoad h { s.loadAt h with halls := (s.loadAt h).halls.set i e }
      let s := s.writeAreaHeader h (hk / 128) 1
      let s := s.clearShare (s.loadAt h) hk
      let l := s.loadAt h
      if l.halls.any (·.inPlace) || l.resident.isSome then s
      else
        let s := s.purgeChannels h
        s.setLoad h { l with vcs := l.vcs.filter fun v => s.arcEntries v.1 v.2 != [] }

/-- HALL_WRITE_OUT (R408): a hall of a suspended load. -/
def execHallWriteOut (load slot : Nat) (s : State) : Answer :=
  let l := s.loadAt load
  match l.halls[slot]? with
  | some e => if l.state == .suspended && e.inPlace then .next ((s.writeOut load slot).later 1 .candidateStart)
    else .next s
  | none => .next s

/-! ### Reading a slot back (R409, R410) -/

/-- A loop-stack entry of a record. -/
def loopOf (w : Word64) : List LoopEntry :=
  if bitAt w 63 then [⟨bits w 45 13, bits w 32 13, BitVec.ofNat 32 (bits w 0 32)⟩] else []

/-- The items of a context that its slot does not hold. -/
def LoadHall.cleanOf (e : LoadHall) (n : Nat) : List Nat :=
  (e.clean.filter fun k => k / 1024 == n).map (· % 1024)

/-- A register of a record, of context n of its hall: from its section, or as the launch unit noted it where
D = 0 (R407). -/
def State.savedReg (s : State) (rb : Nat) (m : Word64) (e : LoadHall) (n : Nat) (it : Nat × Nat)
    (key : Nat) : PVal :=
  let marks := BitVec.ofNat 64 (s.physNat (rb + 48) 8)
  if (e.cleanOf n).contains it.1 then mapGet {} (1024 * n + key) e.values
  else if key < 64 then ⟨BitVec.ofNat 64 (s.physNat (rb + it.2) 8), bitAt marks key⟩
  else if 600 ≤ key then ⟨BitVec.ofNat 64 (s.physNat (rb + it.2) 4), bitAt marks (32 + key - 600)⟩
  else
    let l := key - it.1
    ⟨BitVec.ofNat 64 (s.physNat (rb + it.2 + 4 * l) 4),
     (BitVec.ofNat 64 (s.physNat (rb + vecMarks m ((it.1 - 64) / 32)) 4)).getLsbD l⟩

/-- The parking kind of a code. -/
def ParkKind.ofCode (n : Nat) : ParkKind :=
  if n = 0 then .idle else if n = 1 then .fend else if n = 2 then .land else .ldf

/-- Counts of R186 from a record. -/
def State.savedCounts (s : State) (rb lo : Nat) : List (Nat × Nat) :=
  windows.filterMap fun w =>
    let n := s.physNat (rb + 64 + 8 * w) 8 / 2 ^ lo % 2 ^ 12
    if n = 0 then none else some (w, n)

/-- Context n of a hall from its record, parked; its special state is that of the core record. -/
def State.readCtx (s : State) (c x base : Nat) (e : LoadHall) (n : Nat) : Ctx :=
  let clean := e.cleanOf n
  let rb := base + 0x2000 + 0x5000 * x
  let sp := base + 0xC00 + 256 * x
  let stair := fun n => BitVec.ofNat 32 (s.physNat (sp + 16 * n) 4)
  let t : Ctx :=
    { base := some s.fresh,
      stair0 := stair 0, stair1 := stair 1, stair2 := stair 2, stair3 := stair 3,
      gkey := BitVec.ofNat 64 (s.physNat (sp + 64) 8), gseq := BitVec.ofNat 64 (s.physNat (sp + 72) 8),
      lmax := BitVec.ofNat 16 (s.physNat (sp + 80) 2), tmode := BitVec.ofNat 2 (s.physNat (sp + 88) 1),
      corridor := s.getBits (base + 8 * x) 64, park := some { kind := .idle },
      prevPc := mapGet 0 n e.lastPcs, stash := mapGet [] n e.aside }
  if clean.contains 900 then t
  else
    let live := BitVec.ofNat 64 (s.physNat rb 8)
    let w := BitVec.ofNat 64 (s.physNat (rb + 8) 8)
    let flags := BitVec.ofNat 64 (s.physNat (rb + 56) 8)
    let marks := BitVec.ofNat 64 (s.physNat (rb + 48) 8)
    let kind := ParkKind.ofCode (bits w 62 2)
    let a := bits w 50 3
    let p : Park := { kind := kind, entry := BitVec.ofNat 8 (bits w 53 8), pc := BitVec.ofNat 13 (bits w 0 13) }
    let idx : Option Word32 := if bitAt w 61 then some (BitVec.ofNat 32 (s.physNat (rb + 32) 4)) else none
    let items := (sections live).filter fun it => it.1 < 700
    let regs := items.flatMap fun it =>
      (itemKeys it.1).map fun key => (key, s.savedReg rb live e n it key)
    let preds := ((steps 1 1 7).filter fun n => bitAt live (49 + n)).map fun n =>
      (610 + n, (⟨if bitAt flags n then 1 else 0, bitAt marks (40 + n)⟩ : PVal))
    let dirty := (items.filter fun it => !clean.contains it.1).flatMap fun it => itemKeys it.1
    let all := (regs ++ preds).foldl (fun m e => mapPut e.1 e.2 m) []
    let keys := dirty.foldl (fun m e => setAdd e m) []
    let idle := kind == .idle || kind == .fend
    let loops := loopOf (BitVec.ofNat 64 (s.physNat (rb + 24) 8)) ++
      loopOf (BitVec.ofNat 64 (s.physNat (rb + 16) 8))
    { t with
      regs := all, regDirty := keys, regSaved := keys, live := live, park := some p, resumeAt := p,
      actor := a, savedLoops := loops, claimMade := bitAt flags 8, putMade := bitAt flags 9,
      freed := s.savedCounts rb 24, reserved := s.savedCounts rb 12, sent := s.savedCounts rb 0,
      bound := if idle then idx.map fun i => (mapGet 0 n e.bounds, i) else none,
      claimIdx := if idle then none else idx,
      run := if idle then .idle else .firing, phase := BitVec.ofNat 3 (s.phc c a),
      fix := if s.elastic c a then (idx.getD 0).setWidth 64 else s.actorWord c a 1,
      six0 := t.stair0, six1 := t.stair1, six2 := t.stair2, six3 := t.stair3,
      elastic := e.entered.contains n }

/-- A bank from a context record. -/
def State.readBank (s : State) (k : Core) (b : Bool) (pa : Nat) : Core :=
  let k := k.setBank b fun i j => BitVec.ofNat 32 (s.physNat (pa + 256 * i + 4 * j) 4)
  k.setBankInfo b (BitVec.ofNat 32 (s.physNat (pa + 8192) 4)) (BitVec.ofNat 2 (s.physNat (pa + 8196) 1))

/-- The banks of a core from the records of its contexts; a bank that no map names is +0. -/
def State.readBanks (s : State) (k : Core) (base : Nat) (clean : Nat → List Nat) : Core :=
  let k := (steps 0 1 4).foldl (fun k x =>
    let rb := base + 0x2000 + 0x5000 * x
    if (clean x).contains 900 then k
    else
      (sections (BitVec.ofNat 64 (s.physNat rb 8))).foldl (fun k it =>
        if (it.1 = 700 ∨ it.1 = 701) ∧ !(clean x).contains it.1 then s.readBank k (it.1 == 701) (rb + it.2)
        else k) k) k
  { k with zSaved0 := k.zDirty0, zSaved1 := k.zDirty1 }

/-- Lines of a store read back from a slot where D = 1; they take S = 1 (R409). -/
def State.readLines (s : State) (key n pa bits' : Nat) : State :=
  let ds := s.getBits bits' n
  let s := ds.foldl (fun s i =>
    { s with mem := memSetBytes s.mem (key + 256 * i) (memBytes s.mem (physKey (pa + 256 * i)) 256) }) s
  let mark := fun (m : List Nat) =>
    ds.foldl (fun m i => setAdd (key / 256 + i) m) (setDelRange (key / 256) n m)
  { s with dirty := mark s.dirty, saved := mark s.saved }

/-- A set's members in a range replaced by those of a bit array. -/
def State.readSet (s : State) (pa k n : Nat) (m : List Nat) : List Nat :=
  (s.getBits pa n).foldl (fun m i => setAdd (k + i) m) (setDelRange k n m)

/-- The core of position p of a restored hall (R409). The put counts are those of the queues' homes (R210,
R297); the wait counts of R244 start again and no entry is promoted (DESIGN CHOICE, log 99). -/
def State.readCore (s : State) (h c base : Nat) (e : LoadHall) (p : Nat) : State :=
  let s := (steps 0 1 64).foldl (fun s n =>
    s.setCfg c 2 n (BitVec.ofNat 64 (s.physNat (base + 0x200 + 8 * n) 8))) s
  let s := (steps 0 1 256).foldl (fun s n =>
    s.setCfg c 3 n (BitVec.ofNat 64 (s.physNat (base + 0x400 + 8 * n) 8))) s
  let s := s.readLines (tileKey c 0) 512 (base + 0x20000) (base + 0x1000)
  let s := { s with poison := s.readSet (base + 0x1040) (tileKey c 0 / 8) 16384 s.poison }
  let ctx := fun x => s.readCtx c x base e (4 * p + x)
  let k : Core := { c0 := ctx 0, c1 := ctx 1, c2 := ctx 2, c3 := ctx 3, load := some h, armed := true }
  { s.setCore c (s.readBanks k base fun x => e.cleanOf (4 * p + x)) with fresh := s.fresh + 1 }

/-- A stream from its slot, with the descriptor's counts in word 7. A token that was withheld is in
hand again (R387), and a source has what it had read and not sent, which is not read again (R206, R286). -/
def State.readStream (s : State) (h : Nat) (e : LoadHall) (hk n pa : Nat) : State :=
  let b := s.bound hk n
  let i := fun o => s.physNat (pa + o) 4
  let ahead := mapGet 0 n e.unsent
  let sent := i 0 + b 0 * (i 4 + b 1 * (i 8 + b 2 * i 12))
  let pos := sent + ahead
  let mode : StreamMode := match i 16 with
    | 0 => .idle
    | 1 => .running
    | 2 => .stopping
    | 3 => .held
    | _ => .finished
  let hand := e.inHand.contains n
  let counts := mapGet (0, 0) n e.counts
  let s := s.setStream hk n
    { mode := mode, pos := pos, done := BitVec.ofNat 32 sent, ahead := ahead, fcnt := counts.1,
      tgt := counts.2, cumulative := s.physNat (pa + 24) 8 + ahead + (if hand then 1 else 0),
      line := i 20, busy := hand, issued := s.cycle, bar := mapGet [] n e.bars }
  if hand then
    let a : StreamAcc := { load := h, hall := hk, stream := n, seq := pos, write := s.isSink hk n,
                           lines := s.tokenLines hk n pos }
    { s with saccs := mapPut (streamKey hk n) a s.saccs }
  else s

/-- A hall of a load read back onto a physical hall: configuration, stores, streams and cores from the slot, as they
stand there (R409). -/
def State.readHall (s : State) (h : Nat) (e : LoadHall) (hk base : Nat) : State :=
  let words := steps 0 1 512
  let s := words.foldl (fun s n =>
    s.setHallCfg hk n (BitVec.ofNat 64 (s.physNat (base + 8 * n) 8))) s
  let s := { s with full := s.readSet (base + 0x1000) (hallKey hk 0 / 8) (2 ^ 17) s.full,
                    poison := s.readSet (base + 0x5000) (hallKey hk 0 / 8) (2 ^ 17) s.poison }
  let s := s.readLines (hallKey hk 0) 4096 (base + 0x10000) (base + 0x9000)
  let s := (steps 0 1 32).foldl (fun s n => s.readStream h e hk n (base + 0x9200 + 64 * n)) s
  (steps 0 1 16).foldl (fun s p =>
    s.readCore h (s.coreAt hk p) (base + 0x110000 + 0x40000 * p) e p) s

/-- The queue counts of the cores of a load after a restore. -/
def State.readPuts (s : State) (h : Nat) (cores : List Nat) : State :=
  cores.foldl (fun s c =>
    let qs := (s.actorsOf c).filterMap fun a => if s.elastic c a then none else s.queueOut c a
    let at' := fun (f : Nat → Nat) => qs.foldl (fun m q =>
      match s.homeOf h q with
      | some (home, _) => mapPut q (f home) m
      | none => m) []
    s.setCore c { s.core c with
      puts := at' fun home => s.qPseq home,
      credited := (at' fun home => s.qFreed home).map fun e => (e.1, BitVec.ofNat 32 e.2) }) s

/-! ### Resumption of a parked context (R218, R395, R397, R398) -/

/-- A parked context goes on: a landing's stub begins; an idle context is evaluated again. What other actors of
the context keep stays set aside for their own firings (R11, R410; DESIGN CHOICE, log 5). -/
def State.unpark (s : State) (c x : Nat) : State :=
  let t := s.ctx c x
  match t.park with
  | none => s
  | some p =>
    let t := { t.dropUnkept (liveKeys t.live) [] s.fresh with stash := t.stash }
    let slast := s.slastOf c x
    let idle : Bool := p.kind == .idle || p.kind == .fend
    let t := { t with park := none, stall := 0, ready := s.cycle + 1, evalFrom := s.cycle + 1,
                       yielding := false, yieldNew := false, yieldFor := none }
    let t := if idle then t
      else { t with run := .stub, loops := [], ldist := 0, slast := slast, wild := false,
                    rq := [], pc := BitVec.ofNat 13 (bits (s.landing c t.actor p.entry.toNat).2 0 13) }
    let k := (s.core c).setCtx x t
    let drop := fun (k : Core) (b : Bool) =>
      if bitAt t.live (if b then 58 else 57) then k
      else ((k.setBank b fun _ _ => 0).setBankInfo b 0 0).clearErr b
    let k := if !idle && s.ownsMatrix c x then drop (drop k false) true else k
    { s.setCore c k with fresh := s.fresh + 1 }

end Sys2Proof.Machine
end

