-- ==== Sys2Proof/Machine/Preempt.lean ====
section
/-!
DEFINITION. Pre-emption, stops and freezes (R232, R398 to R401, R411, R412, R455, R463, R464), ERET
(R232, R409) and the security forms (R226, R227, R234).
-/

namespace Sys2Proof.Machine

/-! ### Parking (R398 to R400) -/

/-- An idle context parks at once (R399). -/
def Ctx.parkIdle (t : Ctx) (keep : Word64) : Ctx :=
  if t.run == .idle && t.park.isNone && !t.halted then
    { t with park := some { kind := .idle }, live := keep }
  else t

/-- A flag reaches a core, for all its contexts in one cycle. -/
def State.setFlag (s : State) (c : Nat) (stop : Bool) : State :=
  let k := s.core c
  let p := fun x => (k.ctx x).parkIdle (s.keepUnion c x)
  s.setCore c { k with c0 := p 0, c1 := p 1, c2 := p 2, c3 := p 3,
                       preFlag := k.preFlag || !stop, stopFlag := k.stopFlag || stop }

/-- The state of a core's load. -/
def State.coreLoadState (s : State) (c : Nat) : LoadState :=
  match (s.core c).load with
  | some h => (s.loadAt h).state
  | none => .free

/-- PREEMPT_FLAG_SET (R398). -/
def execPreemptFlagSet (core : Nat) (s : State) : Answer :=
  if s.coreLoadState core == .preempting then .next (s.setFlag core false) else .next s

/-- STOP_FLAG_ARRIVAL (R455). -/
def execStopFlagArrival (core : Nat) (s : State) : Answer :=
  if s.coreLoadState core == .stopping then .next (s.setFlag core true) else .next s

/-- A context has parked, its moves and writes over (R75, R194), or stands at its fault (R455). -/
def Ctx.settled (t : Ctx) : Bool := t.halted || (t.park.isSome && t.tags.isEmpty && t.pend.isEmpty)

/-- A packet whose next link is a Maelle port that is down (R446). -/
def State.packetStuck (s : State) (p : Packet) : Bool :=
  let e := s.route p.hall p.rc.toNat
  p.dest.isNone && bitAt e 63 && bitAt e 12 && !(s.port (4 * (p.hall / 128) + bits e 10 2)).up

/-- A stream stands between tokens, or is withheld (R400): at its page, or behind an access of lower seq
that does not come (R287). -/
def State.streamStands (s : State) (h hk n : Nat) : Bool :=
  !(s.stream hk n).busy ||
    (s.withheld.any fun e => e.2.hall == hk && e.2.stream == n && e.2.failed) ||
    ((s.loadAt h).ordered && s.orderedBehind h hk n)

/-- The load stops for a late arc: flits at a port that is down wait for it no longer (R446, R450). -/
def Load.arcStop (l : Load) : Bool := (l.late.getD []).head? == some 13

/-- Nothing of a load stands in a port of Maelle (R400, R446): no flit in its channel that waits for a
credit, and no token of its cores that has left and has not been acknowledged (DEDUCED, log 43). Where an
arc limit has stopped the load, a port that is down holds nothing. -/
def State.arcsDrained (s : State) (l : Load) : Bool :=
  s.ports.all fun e =>
    let vc := mapGet 8 (e.1 / 4) l.vcs
    (l.arcStop && !e.2.up) ||
      ((mapGet [] vc e.2.waiting).isEmpty &&
        e.2.unacked.all fun i => match mapFind i s.acks with
          | some a => !l.cores.contains (a % 2 ^ 16 / 4)
          | none => true)

/-- A load has drained (R400; log 43 for the other accesses of its contexts). -/
def State.drained (s : State) (h : Nat) : Bool :=
  let l := s.loadAt h
  let mine := fun (c : Nat) => l.cores.contains c
  s.packets.all (fun e => e.2.load != h || (l.arcStop && s.packetStuck e.2)) &&
  s.arcsDrained l &&
  s.copies.all (fun e => !mine e.2.core) && s.accs.all (fun e => !mine e.2.core) &&
  s.gcmds.all (fun e => e.2.load != h) && !s.queueNewsUnderWay h &&
  s.agenda.all (fun e => match e.2 with
    | .corridorArrival c _ => !mine c
    | _ => true) &&
  (s.streamsOf h).all (fun e => s.streamStands h e.1 e.2) &&
  s.allCtxs h fun t => t.asking.isNone

/-- Every context of a load is parked, and the load has drained. -/
def State.atRest (s : State) (h : Nat) : Bool := s.allCtxs h Ctx.settled && s.drained h

/-- Contexts of a load that host an actor and satisfy a condition. -/
def State.countCtxs (s : State) (h : Nat) (p : Ctx → Bool) : Nat :=
  ((s.loadAt h).cores.flatMap fun c => (steps 0 1 4).filter fun x =>
    ((s.actorsOf c).any fun a => bits (s.actorWord c a 0) 55 2 == x) && p (s.ctx c x)).length

/-- Parked at LAND or LDF. -/
def Ctx.atLanding (t : Ctx) : Bool :=
  match t.park with
  | some p => p.kind == .land || p.kind == .ldf
  | none => false

/-- PREQ's result word (R232). -/
def State.preqWord (s : State) (h : Nat) : Nat :=
  s.countCtxs h (fun t => t.atLanding) * 2 ^ 16 +
    s.countCtxs h (fun t => t.park.isSome && !t.atLanding) * 2 ^ 32

/-- A pre-emption begins: the flag goes to each core within 200 cycles (R398). `late` holds the record
of a stop that follows the parking (R386, R450). -/
def State.beginPreempt (s : State) (h : Nat) (late : Option (List Nat)) : State :=
  let l := s.loadAt h
  let s := s.setLoad h { l with state := .preempting, late := late }
  let s := l.cores.foldl (fun s c => s.within 1 200 (.preemptFlagSet c)) s
  s.later 1 (match late with
    | some (12 :: _) => .pageStall
    | some _ => .arcLate
    | none => .preqComplete)

/-- The load is suspended in place, and its PREQs report (R400, R401). -/
def State.suspendLoad (s : State) (h : Nat) : State :=
  let v := s.preqWord h
  let s := s.setLoadHalls h 3
  let l := s.loadAt h
  let s := l.preqs.foldl (fun s q => s.writeResult q.2.2 (natToBytes 8 v)) s
  (s.setLoad h { s.loadAt h with state := .suspended, preqs := [], timers := [] }).later 1
    .candidateStart

/-- A pre-empting load of a kind that is at rest, or one that is still on its way. -/
def State.pollPreempt (s : State) (i : Instr) (kind : Option (List Nat) → Bool)
    (done : State → Nat → State) : Answer :=
  match s.loadWhere fun h l => l.state == .preempting && kind l.late && s.atRest h with
  | some h => .next (done s h)
  | none =>
    if (s.loadWhere fun _ l => l.state == .preempting && kind l.late).isSome then .next (s.retry i)
    else .next s

/-- PREQ_COMPLETE (R232, R400), of the first load at rest. -/
def execPreqComplete (s : State) : Answer :=
  s.pollPreempt .preqComplete (fun l => l.isNone) fun s h => s.suspendLoad h

/-! ### The end of a stop (R455, R386, R450) -/

/-- The load stands stopped: STATE 5, and the completion word (R455). -/
def State.endStop (s : State) (h : Nat) : State :=
  let s := s.failPreqs h
  let s := s.setLoadHalls h 5
  let l := s.loadAt h
  let s := s.setLoad h { l with state := .stopped, timers := [] }
  s.launchFaults h ((l.code.getD 0).toNat)

/-- LOAD_STOPPED (R455): every context stands parked or at its fault, and the load has drained. -/
def execLoadStopped (s : State) : Answer :=
  let flagged := fun (l : Load) => l.cores.all fun c => (s.core c).stopFlag
  match s.loadWhere fun h l => l.state == .stopping && flagged l && s.atRest h with
  | some h => .next (s.endStop h)
  | none =>
    if (s.loadWhere fun _ l => l.state == .stopping).isSome then .next (s.retry .loadStopped)
    else .next s

/-- The record of a stop that followed the parking (R386, R450, R453, R483). -/
def State.lateRecord (s : State) (h : Nat) (late : List Nat) : State :=
  let hallPlace := fun (hk : Nat) =>
    ({ wing := hk / 128, flags := 1, load := h,
       core := if isSystemHall hk then 4096 + hk / 128 * 1024
         else hk / 128 * 1024 + s.userOfHall hk * 16,
       phys := physOf (hallUnits hk) } : FaultPlace)
  match late with
  | [12, hk, n, token, va, cause] =>
    s.logFault (hallPlace hk)
      { code := codePage, kind := 3, unit := n, token := token,
        detail := BitVec.ofNat 64 (va % 2 ^ 56 * 256 + cause % 256) } none
  | [13, 0, c, w] =>
    let a := s.winActor c w
    let consumer := s.isConsumer c w
    s.logFault
      { wing := wingOfCore c, flags := 1, load := h, core := (s.visibleCore c).toNat, phys := physOf c }
      { code := codeArc, kind := 1, unit := w, token := if consumer then s.cmt c w else s.sentOf c w,
        decl := s.rate c (s.modeOf c).toNat (s.phc c a) w,
        act := if consumer then s.heldTokens c w else s.freeSlots c w } none
  | [13, 1, wing, d, n, rank] =>
    s.logFault (hallPlace (systemHall wing))
      { code := codeArc, kind := 3, unit := d, token := n, detail := BitVec.ofNat 64 rank } none
  | _ => s

/-- A load stops after its parking: the record, then STATE 5 and the completion word. -/
def State.lateStop (s : State) (h : Nat) : State :=
  let l := s.loadAt h
  let late := l.late.getD []
  let s := s.lateRecord h late
  let l := s.loadAt h
  (s.setLoad h { l with code := some (BitVec.ofNat 8 (late.headD 0)), stopAt := s.cycle,
                        late := none }).endStop h

/-- PAGE_STALL (R386). -/
def execPageStall (s : State) : Answer :=
  s.pollPreempt .pageStall (fun l => (l.getD []).head? == some 12) State.lateStop

/-- ARC_LATE (R450, R453). -/
def execArcLate (s : State) : Answer :=
  s.pollPreempt .arcLate (fun l => (l.getD []).head? == some 13) State.lateStop

/-! ### PREQ and FRZ (R232) -/

/-- PREQ's effect: its result is known at once, or waits for the parking. -/
def State.doPreq (s : State) (q : Issue) (a b : XReg) (h : Nat) (xa xb : Word64) : State :=
  let l := s.loadAt h
  let now := fun (v : Nat) => s.sendResult 2 (.preq q a b) xa xb (BitVec.ofNat 64 v) false
  let wait := fun (s : State) =>
    let id := s.nextId
    let s := s.startResult 2 (.preq q a b) xa xb 8 [] false
    s.setLoad h { s.loadAt h with preqs := (s.loadAt h).preqs ++ [(s.curCore, s.curCtx, id)] }
  match l.state with
  | .free => now 1
  | .suspended => now 2
  | .stopping | .stopped | .frozen => now 3
  | .preempting => wait s
  | .running | .residentIdle => wait (s.beginPreempt h none)

/-- PREQ (R232, R398). -/
def execPreq (q : Issue) (a b : XReg) (s : State) : Answer :=
  issue q 1 (areaHeld (s.x b).v 8 s) (firstFault (s.handleFaults a b 0)) none
    (fun s => s.doPreq q a b (bits (s.x a).v 0 5) (s.x a).v (s.x b).v) s

/-- The wings of a load. -/
def Load.wingsOf (l : Load) : List Nat := l.halls.foldl (fun m e => setAdd (e.phys / 128) m) []

/-- A load is frozen. Where no hall of it is in place its save area is a frozen one's at once (R403,
R411). -/
def State.freezeLoad (s : State) (h : Nat) : State :=
  let l := s.loadAt h
  (l.wingsOf.filter fun w => l.halls.all fun e => e.phys / 128 != w || !e.inPlace).foldl
    (fun s w => s.writeAreaHeader h w 2) (s.beginFreeze h none)

/-- FRZ (R232, R411). -/
def execFrz (q : Issue) (a b : XReg) (s : State) : Answer :=
  handleForm q (.frz q a b) 2 a b 0
    (fun h _ s =>
      match (s.loadAt h).state with
      | .free => (s, 1)
      | .frozen => (s, 2)
      | _ => (s.freezeLoad h, 0)) s

/-- Some hall of a load has not been reached by its freeze. -/
def State.freezeUnderWay (s : State) (h : Nat) : Bool :=
  let l := s.loadAt h
  l.state == .frozen && l.halls.any fun e => e.inPlace && !l.gated e.phys

/-- A core of a frozen hall stands still; its deferred results are discarded (R411, R412). -/
def Core.gate (k : Core) : Core :=
  let g := fun (t : Ctx) => { t with halted := true, rq := [], pend := [] }
  { k with armed := false, c0 := g k.c0, c1 := g k.c1, c2 := g k.c2, c3 := g k.c3, mq := [] }

/-- FREEZE_ARRIVAL (R411, R412): the hall's readout goes to the save area, its cores stop, and the load's
packets in its router are purged. -/
def execFreezeArrival (load hall : Nat) (s : State) : Answer :=
  let l := s.loadAt load
  match l.halls.findIdx? fun e => e.phys == hall && e.inPlace && !e.writtenOut with
  | none => .next s
  | some i =>
    if l.state != .frozen then .next s
    else
      let e := l.halls.getD i { logical := 0, phys := 0, user := 0 }
      let smear := fun (s : State) (c : Nat) => (s.core c).mq.foldl (State.smearCommand c) s
      let s := (l.cores.filter fun c => c / 32 == hall).foldl smear s
      let s := (s.routerPackets load hall).foldl State.landCut s
      let s := match l.slotBase e with
        | some base => s.writeHall load i hall base true
        | none => s
      let s := s.setLoad load { s.loadAt load with halls := l.halls.set i { e with writtenOut := true } }
      let s := s.writeAreaHeader load (hall / 128) 2
      let gate := fun (k : Nat × Core) =>
        if k.1 / 32 == hall && l.cores.contains k.1 then (k.1, k.2.gate) else k
      let s := { s with cores := s.cores.map gate,
                        packets := s.packets.filter fun p => !(p.2.load == load && p.2.hall == hall) }
      .next (s.setHallState hall 5)

/-! ### The hang monitor's freeze (R463, R464) -/

/-- The context stands at an LDF whose word holds it (R464). -/
def State.atHeldLdf (s : State) (c x : Nat) : Bool :=
  let s := { s with curCore := c, curCtx := x }
  s.running &&
    match decodeWords s.word 0 with
    | .ok (.ldf _ _ a _) => ldfHeld a s
    | _ => false

/-- An entry of the occupancy map. -/
def mapEntry (kind num core fill space await st need : Nat) : List Byte :=
  natToBytes 1 kind ++ natToBytes 1 num ++ natToBytes 2 core ++ natToBytes 4 fill ++
  natToBytes 4 space ++ natToBytes 1 await ++ natToBytes 1 st ++ natToBytes 2 (need % 2 ^ 12)

/-- An entry of an actor that waits for a window's count: its trigger entry. -/
def State.waitingEntry (s : State) (c w : Nat) : Option Nat :=
  windows.find? fun e => s.evaluated c e && entryActor (s.entry c e) == s.winActor c w &&
    s.phaseTerm c e && !s.windowTerm c e w

/-- A source stream has a token to send and no free slot at its consumer (R271). -/
def State.sourceBlocked (s : State) (h hk n : Nat) : Bool :=
  (s.stream hk n).mode != .idle && 0 < (s.stream hk n).ahead && !s.maySend h hk n

/-- The entry of a window, at its consumer end, whose producer may be a source stream (R464). -/
def State.windowEntry (s : State) (h c w : Nat) : List Byte :=
  let rc := bits (s.win c w 0) 42 8
  let prod := (s.producersOf (s.loadAt h).cores rc).head?
  let src := (s.sourcesOf ((s.loadAt h).halls.map (·.phys)) rc).head?
  let space := match prod, src with
    | some p, _ => s.freeSlots p.1 p.2
    | none, some n => bits (s.streamWord n.1 n.2 1) 28 12 - seqDiff (s.streamCnt n.1 n.2) (s.streamPtr n.1 n.2)
    | none, none => 0
  let closed := s.winClosed c w
  let away := s.retired c (s.winActor c w)
  let gone := match prod with
    | some p => s.retired p.1 (s.winActor p.1 p.2)
    | none => false
  let blocked := src.any fun n => s.sourceBlocked h n.1 n.2
  let wait := match s.waitingEntry c w, prod.bind fun p => (s.waitingEntry p.1 p.2).map fun e => (p, e) with
    | some e, _ => ((if closed then 5 else 1), s.entryRate c e w)
    | none, some (p, e) => ((if s.winClosed p.1 p.2 then 5 else 2), s.entryRate p.1 e p.2)
    | none, none => if blocked then ((if away then 5 else 2), 1) else (0, 0)
  mapEntry 1 w (s.visibleCore c).toNat (s.heldTokens c w) space wait.1
    ((if closed then 1 else 0) + (if away then 2 else 0) + (if gone then 4 else 0)) wait.2

/-- The entry of a stage queue at its home (R464). -/
def State.queueEntry (s : State) (h q hk home slots : Nat) : List Byte :=
  let claims := (s.claimers h q).any fun e => windows.any fun n =>
    entryActor (s.entry e.1 n) == e.2 && s.readyButClaim e.1 n && !s.boundTo e.1 n
  let puts := (s.putters h q).any fun e => windows.any fun n =>
    entryActor (s.entry e.1 n) == e.2 && s.evaluated e.1 n && s.phaseTerm e.1 n && !s.putTerm e.1 n
  let closed := s.qClosed home
  let away := (s.claimers h q).all fun e => s.retired e.1 e.2
  let gone := (s.putters h q).all fun e => s.retired e.1 e.2
  mapEntry 2 q (16 * s.userOfHall hk) (s.qFill home slots) (slots - seqDiff (s.qPseq home) (s.qFreed home))
    (if claims then (if s.queueDone h q then 5 else 3) else if puts then 2 else 0)
    ((if closed then 1 else 0) + (if away then 2 else 0) + (if gone then 4 else 0))
    (if claims || puts then 1 else 0)

/-- The actors at the other end of a stream have retired: those of its queue, or that of its window (R256,
R464; DEDUCED, log 110). -/
def State.peerRetired (s : State) (h hk n : Nat) : Bool :=
  let sink := s.isSink hk n
  let cores := (s.loadAt h).cores
  let ends : List (Nat × Nat) :=
    if s.isQueue hk n then
      if sink then s.putters h (s.streamUnit hk n) else s.claimers h (s.streamUnit hk n)
    else if sink then
      (s.producersOf cores (bits (s.streamWord hk n 1) 20 8)).map fun p => (p.1, s.winActor p.1 p.2)
    else
      cores.flatMap fun c => (windows.filter fun w => s.isConsumer c w &&
        bits (s.win c w 0) 42 8 == bits (s.streamWord hk n 0) 47 8).map fun w => (c, s.winActor c w)
  ends != [] && ends.all fun e => s.retired e.1 e.2

/-- CLOSED of a stream's end: of its queue, or, since it keeps no such bit, that the actor at its window has
retired (DEDUCED, log 110). -/
def State.streamClosed (s : State) (h hk n : Nat) : Bool :=
  if s.isQueue hk n then
    match s.homeOf h (s.streamUnit hk n) with
    | some (home, _) => s.qClosed home
    | none => false
  else s.peerRetired h hk n

/-- The entry of a stream (R464): a closed end that it waits for is AWAIT 5. -/
def State.streamEntry (s : State) (h hk n : Nat) : List Byte :=
  let t := s.stream hk n
  let sink := s.isSink hk n
  let fill := if sink then seqDiff (s.streamCnt hk n) (s.streamPtr hk n) else t.ahead
  let idle := t.mode == .idle || t.mode == .finished
  let closed := s.streamClosed h hk n
  let await := if idle then 0 else if t.busy then 4
    else if sink then (if s.tokenThere h hk n then 0 else if closed then 5 else 1)
    else if s.sourceBlocked h hk n then (if closed then 5 else 2) else 0
  let away := if s.peerRetired h hk n then (if sink then 4 else 2) else 0
  mapEntry 3 n (16 * s.userOfHall hk) fill (s.ringCap hk n - fill) await ((if closed then 1 else 0) + away)
    (if await = 1 || await = 2 || await = 5 then 1 else 0)

/-- The consumer ends of a load in a wing, in ascending order of CORE. -/
def State.mapWindows (s : State) (h wing : Nat) : List (Nat × Nat) :=
  let ends := (s.loadAt h).cores.flatMap fun c =>
    if wingOfCore c = wing then (windows.filter (s.isConsumer c)).map fun w => (c, w) else []
  (ends.foldl (fun m e => mapPut (16 * (s.visibleCore e.1).toNat + e.2) e m) []).map (·.2)

/-- Entries of one kind in ascending order of their hall's CORE and their number. -/
def byHall (s : State) (l : List (Nat × Nat × List Byte)) : List (List Byte) :=
  (l.foldl (fun m e => mapPut (32 * s.userOfHall e.1 + e.2.1) e.2.2 m) []).map (·.2)

/-- The entries of a wing's map for a load, in ascending order of kind, CORE and number. -/
def State.mapEntries (s : State) (h wing : Nat) : List (List Byte) :=
  ((s.mapWindows h wing).map fun e => s.windowEntry h e.1 e.2) ++
  byHall s ((s.queuesOf h).filterMap fun q =>
    match s.queueHall h q, s.homeOf h q with
    | some hk, some (home, slots) =>
      if wingOfKey home = wing then some (hk, q, s.queueEntry h q hk home slots) else none
    | _, _ => none) ++
  byHall s (((s.streamsOf h).filter fun e => e.1 / 128 == wing).map fun e =>
    (e.1, e.2, s.streamEntry h e.1 e.2))

/-- A wing's occupancy map is written for a load (R464). -/
def State.writeMap (s : State) (h wing : Nat) : State :=
  let es := s.mapEntries h wing
  let n := min 4092 es.length
  let held := ((s.loadAt h).cores.flatMap fun c => (steps 0 1 4).filter fun x =>
    wingOfCore c == wing && s.atHeldLdf c x).length
  let head := natToBytes 1 h ++ natToBytes 3 0 ++ natToBytes 2 n ++ natToBytes 2 (es.length - n) ++
    natToBytes 2 held ++ List.replicate 54 0
  s.storeMarked (galleryKey wing (bits (s.sysCfg wing 2323) 0 26)) (head ++ (es.take 4092).flatten) []

/-- HANG's detail word (R463). -/
def State.hangDetail (s : State) (h wing : Nat) (drain stall : Bool) : Word64 :=
  BitVec.ofNat 64 (wing * 2 ^ 38 + 2 ^ 37 + bits (s.sysCfg wing 2323) 0 26 +
    min 4092 (s.mapEntries h wing).length * 2 ^ 40 + (if drain then 2 ^ 56 else 0) +
    if stall then 2 ^ 57 else 0)

/-- The HANG record (R463), with SECOND in a load that stops already (R457). -/
def State.hangRecord (s : State) (h : Nat) (drain : Bool) (stalled : Option (Nat × Nat)) : State :=
  let second := if s.secondFault h then 32 else 0
  match stalled with
  | some (c, x) =>
    let t := s.ctx c x
    s.logFault
      { wing := wingOfCore c, flags := 2 + 64 + (if t.run == .stub then 4 else 0) + second, load := h,
        core := (s.visibleCore c).toNat, ctx := x, phase := t.phase.toNat, mode := (s.modeOf c).toNat,
        pc := t.pc.toNat, fix := t.fix, phys := physOf c }
      { code := codeHang, detail := s.hangDetail h (wingOfCore c) drain true } (some t)
  | none =>
    let wing := (s.loadAt h).wingsOf.headD 0
    s.logFault { wing := wing, flags := second, load := h, core := 0, phys := 0 }
      { code := codeHang, detail := s.hangDetail h wing drain false } none

/-- HANG (R463): the maps and the record are written, the load freezes, and its launch ends; a load that
stops for a fault freezes too (R457), and its launch names that fault. -/
def execHang (load : Nat) (drain : Bool) (stalled : Option (Nat × Nat)) (s : State) : Answer :=
  let l := s.loadAt load
  if l.state == .running || l.state == .preempting || l.state == .stopping then
    let s' := (l.wingsOf.foldl (fun a w => a.writeMap load w) s).hangRecord load drain stalled
    .next (s'.beginFreeze load (some codeHang))
  else .next s

/-! ### ERET (R232, R409) -/

/-- Monitors of which no reading has come show positive slack from offset 0 on (DESIGN CHOICE, log 112). -/
def slackAtReset : BitVec 37 := 0x1FFFFF0000

/-- The lowest offset, from −16 to +20 steps, at which all four monitors of a hall show positive slack
(R474). -/
def State.plannedVoff (s : State) (hk : Nat) : Option (BitVec 8) :=
  ((steps 0 1 37).find? fun i => (steps 0 1 4).all fun m =>
    (mapGet slackAtReset (4 * hk + m) s.monitors).getLsbD i).map fun i => BitVec.ofNat 8 (i + 256 - 16)

/-- A hall retires: it is usable still, and stands at +20 without positive slack (R475). -/
def State.retiring (s : State) (hk : Nat) : Bool :=
  bitAt (s.dmapAt hk) 17 && bits (s.dmapAt hk) 32 8 == 20 && (s.plannedVoff hk).isNone

/-- A hall that a load may be given: usable and not about to retire, held by no load, by no placement and by no
open transaction (R364, R365, R475). -/
def State.hallFree (s : State) (hk : Nat) : Bool :=
  s.hallUsable hk && !s.retiring hk && !s.holdsHall hk && bits (s.hallCfg hk 4088) 47 3 == 0 &&
    s.launches.all fun l => !l.2.claimed.contains hk

/-- The free halls of a wing, lowest user hall number first. -/
def State.freeHalls (s : State) (wing : Nat) : List Nat :=
  ((steps 0 1 64).filterMap (s.hallOfUser wing)).filter s.hallFree

/-- What a logical hall asks for: the user hall number that it is fixed to (R416). -/
def State.wanted (s : State) (img : Nat) (l : ImgLoad) (h : Nat) : Option Nat :=
  let e := s.hallEntry img l h
  if bitAt e 14 then some (bits e 8 6) else none

/-- Halls for the unfixed requests, in order; a fixed request takes its own. -/
def takeHalls (fixed : List (Nat × Nat)) : List (Option Nat) → List Nat → Option (List Nat)
  | [], _ => some []
  | some u :: rs, pool =>
    match mapFind u fixed with
    | some hk => (takeHalls fixed rs pool).map (hk :: ·)
    | none => none
  | none :: rs, hk :: pool => (takeHalls fixed rs pool).map (hk :: ·)
  | none :: _, [] => none

/-- Halls of a pool, in its order, for the requests of one wing: the fixed ones first, and none at all
where two are fixed to one number (R416, R419). -/
def State.pickHalls (s : State) (pool : List Nat) (reqs : List (Option Nat)) : Option (List Nat) :=
  let asked := reqs.filterMap id
  let fixed := asked.filterMap fun u => (pool.find? fun hk => s.userOfHall hk == u).map fun hk => (u, hk)
  let mine := fixed.map (·.2)
  if asked.eraseDups.length != asked.length then none
  else
    takeHalls (fixed.foldl (fun m e => mapPut e.1 e.2 m) []) reqs
      (pool.filter fun hk => !mine.contains hk)

/-- The logical halls of a load that are written out in a wing, with what each asks for. -/
def State.outIn (s : State) (l : Load) (wing : Nat) : List (Nat × Option Nat) :=
  let img := physKey l.image
  let il := s.imgLoad img l.index
  (l.halls.zipIdx.filter fun e => !e.1.inPlace && e.1.phys / 128 == wing).map fun e =>
    (e.2, s.wanted img il e.2)

/-- Free halls for the written-out halls of a load, each in its wing (R365, R409): index and hall, where
there are enough. `avoid` are halls that others need first. -/
def State.restorePlan (s : State) (l : Load) (avoid : List Nat) : Option (List (Nat × Nat)) :=
  let picks := (steps 0 1 4).map fun w =>
    let outs := s.outIn l w
    let pool := (s.freeHalls w).filter fun hk => !avoid.contains hk
    (s.pickHalls pool (outs.map (·.2))).map fun p => (outs.map (·.1)).zip p
  if picks.any (·.isNone) then none else some (picks.flatMap fun p => p.getD [])

/-- Channels of a load in each of its wings, with new ones where it holds none (R366). -/
def State.restoreChannels (s : State) (l : Load) : Option (List (Nat × Nat)) :=
  l.wingsOf.foldl (fun m w =>
    match m with
    | none => none
    | some m =>
      match mapFind w l.vcs with
      | some v => some (m ++ [(w, v)])
      | none => (s.freeChannel w).map fun v => m ++ [(w, v)]) (some [])

/-- One hall of a load read back onto a hall, whose identity word names the load again (R366). -/
def State.restoreOne (s : State) (h : Nat) (site : Site) (r : Nat × Nat) : State :=
  let l := s.loadAt h
  let e := l.halls.getD r.1 { logical := 0, phys := 0, user := 0 }
  let img := physKey l.image
  let il := s.imgLoad img l.index
  let base := (l.slotBase e).getD 0
  let s := s.layCells r.2 e.cells
  let s := (steps (17 * r.1) 1 17).foldl (fun s t => (s.writeTile img il site t).1) s
  let s := (s.readHall h e r.2 base).readAtoms e r.2
  let s := s.setIdentity r.2 true h 3 (lseqIn l.lseq r.2)
  let e' := { e with phys := r.2, user := s.userOfHall r.2, inPlace := true, writtenOut := false,
                     restored := true, atoms := [], cells := [] }
  s.setLoad h { s.loadAt h with halls := (s.loadAt h).halls.set r.1 e' }

/-- EHALL of a load's arc entries in a wing, each renamed once: from the numbers that its halls had to
those that they have (R409, R420). -/
def State.renameArcs (s : State) (wing vc : Nat) (names : List (Nat × Nat)) : State :=
  (s.arcEntries wing vc).foldl (fun s n =>
    let w := s.sysCfg wing n
    s.setSysCfg wing n (withBits w 32 6 (mapGet (bits w 32 6) (bits w 32 6) names))) s

/-- HOME of every copy of a load's stage-queue descriptors, renamed once in the same way: a queue homed in the store
of a restored hall moves with it (R294, R410, R420; DEDUCED, log 54). -/
def State.renameHomes (s : State) (h : Nat) (names : Nat → List (Nat × Nat)) : State :=
  (s.loadAt h).halls.foldl (fun s e => (steps 0 1 32).foldl (fun s q =>
    let w := s.queueWord e.phys q 0
    if bitAt w 63 && !bitAt w 37 then
      s.setHallCfg e.phys (384 + 4 * q)
        (withBits w 31 6 (mapGet (bits w 31 6) (bits w 31 6) (names (bits w 38 2))))
    else s) s) s

/-- The old and new user hall numbers of a plan's halls in a wing. -/
def State.newNames (s : State) (l : Load) (plan : List (Nat × Nat)) (wing : Nat) : List (Nat × Nat) :=
  (plan.filter fun r => r.2 / 128 == wing).foldl (fun m r =>
    mapPut (((l.halls[r.1]?).map (·.user)).getD 0) (s.userOfHall r.2) m) []

/-- The written-out halls of a load restored by a plan (R409): halls, cores renamed, routes, arc
entries, and the contexts that have changed a grammar session (R321, R410). Its save area then holds no
suspended load (R403). -/
def State.restoreHalls (s : State) (h : Nat) (plan vcs : List (Nat × Nat)) : State :=
  let l := s.loadAt h
  let place := l.halls.zipIdx.map fun e => mapGet e.1.phys e.2 plan
  let site : Site := { place := place, handle := h, vcs := vcs }
  let moves := plan.flatMap fun r => (steps 0 1 16).map fun p =>
    (l.cores.getD (16 * r.1 + p) 0, s.coreAt r.2 p)
  let rename := fun c => mapGet c c moves
  let s := (s.purgeChannels h).setLoad h { l.rename rename with vcs := vcs }
  let s := (placeWings place).foldl (fun s w =>
    s.renameArcs w (mapGet 0 w vcs) (s.newNames l plan w)) s
  let s := (plan.foldl (fun s r => s.restoreOne h site r) s).renameHomes h (s.newNames l plan)
  let img := physKey l.image
  let s := s.writeRoutes (s.routeTree place vcs (s.routeRecs img (s.imgLoad img l.index)))
  let users := fun (t : Session) =>
    if t.owner = h then { t with users := (t.users.map fun u => 4 * rename (u / 4) + u % 4).eraseDups }
    else t
  let s := { s with sessions := s.sessions.map fun (e : Nat × Session) => (e.1, users e.2) }
  let s := s.mapAtoms fun a =>
    if a.load = some h then some { a with core := rename a.core } else some a
  let s := s.readPuts h ((s.loadAt h).cores.filter fun c => plan.any fun r => r.2 == c / 32)
  (plan.foldl (fun m r => setAdd (r.2 / 128) m) []).foldl (fun s w => s.writeAreaHeader h w 0) s

/-- The sections that a restore reads hold their CRC (R427). -/
def State.restoreCrc (s : State) (l : Load) (plan : List (Nat × Nat)) : Bool :=
  let img := physKey l.image
  plan.all fun r => (steps (17 * r.1) 1 17).all fun t => s.sectionOk img (s.imgLoad img l.index) t

/-- Stream chains of a load go on; a withheld access is made again (R400): a source reads its whole token
again, a sink goes on from the first line that it has not written (R387). -/
def State.resumeStreams (s : State) (h : Nat) : State :=
  let s := { s with withheld := s.withheld.filter fun e => e.2.load != h }
  (s.streamsOf h).foldl (fun s e =>
    let t := s.stream e.1 e.2
    let s := s.setStream e.1 e.2 { t with page := false, issued := s.cycle, lost := none, line := if s.isSink e.1 e.2 then t.line else 0 }
    if t.mode == .idle || t.mode == .finished then s
    else if t.busy then s.resumeToken h e.1 e.2
    else s.kickStream e.1 e.2) s

/-- The load runs again: flags cleared, every context goes on from where it parked, timers afresh
(R218, R409, R450, R453). -/
def State.runAgain (s : State) (h : Nat) : State :=
  let l := s.loadAt h
  let s := l.cores.foldl (fun s c => s.setCore c { s.core c with
    preFlag := false, stopFlag := false, last := 3, armed := true }) s
  let s := l.cores.foldl (fun s c => (steps 0 1 4).foldl (fun s x => s.unpark c x) s) s
  let s := s.setLoad h { s.loadAt h with state := .running, late := none, code := none,
                                         timers := [] }
  let s := (s.setLoadHalls h 2).resumeStreams h
  let fresh := fun (e : Nat × Round) =>
    let d := s.sysCfg (e.1 / 64) (3584 + 2 * (e.1 % 64))
    if bitAt d 63 && bits d 58 5 == h then
      (e.1, { e.2 with starts := e.2.starts.map fun x => (x.1, s.cycle) })
    else e
  let s := { s with rounds := s.rounds.map fresh }
  let s := match l.launch with
    | some n => match mapFind n s.launches with
      | some t => { s with launches := mapPut n { t with suspended := false } s.launches }
      | none => s
    | none => s
  ((s.later 1 .stageRetire).later 1 .outputQueueClose).later 1 .loadComplete

/-- A hall that a load holds in place is claimed by a launch, for which its state is to be written out (R408), or
retires, and its state is to be written out for that (R475). -/
def State.hallClaimed (s : State) (l : Load) : Bool :=
  l.halls.any fun e => e.inPlace &&
    (s.retiring e.phys || s.launches.any fun t => t.2.claimed.contains e.phys)

/-- ERET resume (R232, R409, R427): the state and the status. A load with a hall that is claimed or
retires cannot have that hall back now (log 82). -/
def State.resumeLoad (s : State) (h : Nat) (avoid : List Nat := []) : State × Nat :=
  let l := s.loadAt h
  let may : Nat := match l.state with
    | .free => 1
    | .suspended => 0
    | .frozen => 3
    | .stopped => if resumable ((l.code.getD 0).toNat) then 0 else 3
    | _ => 2
  if may ≠ 0 then (s, may)
  else if s.hallClaimed l then (s, 5)
  else
    match s.restorePlan l avoid, s.restoreChannels l with
    | some plan, some vcs =>
      if plan = [] then (s.runAgain h, 0)
      else if !s.restoreCrc l plan then (s, 3)
      else ((s.restoreHalls h plan vcs).runAgain h, 0)
    | _, _ => (s, 5)

/-- A load that ends leaves its resident graph; one that holds no load and has no launch running is
registered no longer (R359). -/
def State.leaveResident (s : State) (h : Nat) : State :=
  let less := s.residents.map fun e => (e.1, { e.2 with loads := setDel h e.2.loads })
  { s with residents := less.filter (fun e => e.2.running || e.2.loads != []) }

/-- Stage entries of a load are given back (R482). -/
def State.dropStages (s : State) (h : Nat) : State :=
  (steps 0 1 4).foldl (fun s w => (steps 0 1 32).foldl (fun s n =>
    let e := s.sysCfg w (416 + 3 * n)
    if bitAt e 63 && bits e 58 5 == h then s.setSysCfg w (416 + 3 * n) (withBits e 63 1 0) else s) s) s

/-- What the system halls hold for a load ends: arc entries, stage entries, grammar slots, collectives
(R310, R366, R451, R482; log 55). -/
def State.clearSystem (s : State) (h : Nat) : State :=
  let l := s.loadAt h
  let s := l.vcs.foldl (fun s v =>
    (s.arcEntries v.1 v.2).foldl (fun s n => s.setSysCfg v.1 n 0) s) s
  let owned := fun (s : State) (w d : Nat) =>
    bitAt (s.sysCfg w (3584 + 2 * d)) 63 && bits (s.sysCfg w (3584 + 2 * d)) 58 5 == h
  let s := { s with rounds := s.rounds.filter fun e => !owned s (e.1 / 64) (e.1 % 64) }
  (steps 0 1 4).foldl (fun s w =>
    let s := (steps 0 1 8).foldl (fun s n => s.setSysCfg w (1024 + 8 * h + n) 0) s
    (steps 0 1 16).foldl (fun s d =>
      if owned s w d then s.setSysCfg w (3584 + 2 * d) (withBits (s.sysCfg w (3584 + 2 * d)) 63 1 0)
      else s) s) (s.dropStages h)

/-- ERET tear down (R232): the load ends, its channel is purged, its sessions close, its halls are free. -/
def State.teardown (s : State) (h : Nat) : State :=
  let l := s.loadAt h
  let mine := fun (c : Nat) => l.cores.contains c
  let s := (((s.failPreqs h).closeSessions h).clearSystem h).endEpoch h
  let s := s.purgeChannels h
  let s := { s with
    accs := s.accs.filter (fun e => !mine e.2.core), copies := s.copies.filter (fun e => !mine e.2.core),
    acks := s.acks.filter (fun e => !mine (e.2 % 2 ^ 16 / 4)),
    withheld := s.withheld.filter (fun e => e.2.load != h),
    saccs := s.saccs.filter (fun e => e.2.load != h),
    qfcnt := mapDelRange (32 * h) 32 s.qfcnt, qtgt := mapDelRange (32 * h) 32 s.qtgt,
    qbind := s.qbind.filter (fun e => e.1 / 32 != h && e.2 / 32 != h) }
  let s := (l.halls.filter (·.inPlace)).foldl (fun s e => s.clearShare l e.phys) s
  let s := { s with cores := s.cores.filter fun e => !(mine e.1 && e.2.load == some h) }
  ({ s with loads := mapDel h s.loads }.leaveResident h).later 1 .candidateStart

/-- The determinism cause record of a launch's load is kept for its evidence area (R359). -/
def Launch.keepRecord (t : Launch) (l : Load) : Launch :=
  if t.evid then { t with records := mapPut t.next (detRecord l.det l.overflow) t.records } else t

/-- The launch of a load that ERET tears down ends, with STATUS 5 (log 44). -/
def State.dropLaunch (s : State) (h : Nat) : State :=
  match (s.loadAt h).launch with
  | none => s
  | some n =>
    match mapFind n s.launches with
    | none => s
    | some t =>
      if t.status.isSome then s
      else
        let t := t.keepRecord (s.loadAt h)
        { s with launches := mapPut n { t with status := some (5, 0, 0), suspended := false,
                                               claimed := [] } s.launches }.later 1 .completionWord

/-- ERET (R232). An action 2 or 3 on a handle with no committed load reports 4, not 1 (DESIGN CHOICE, log 123). -/
def execEret (q : Issue) (a b : XReg) (s : State) : Answer :=
  handleForm q (.eret q a b) 2 a b (3 * 2 ^ 8)
    (fun h xa s =>
      let act := bits xa 8 2
      if 1 < act then (s, 4)
      else if !(s.loadAt h).committed then (s, 1)
      else if act = 0 then
        let r := s.resumeLoad h
        (r.1, BitVec.ofNat 64 r.2)
      else ((s.dropLaunch h).teardown h, 0)) s

/-! ### SECH and SECV (R234) -/

/-- A block's bytes and whether one is poisoned, as they stand at issue. -/
def State.blockAt (s : State) (a n : Nat) : List Byte × Bool :=
  (memBytes s.mem (tileKey s.curCore a) n, s.poisoned (tileKey s.curCore a) n)

/-- The checks of a security form on its block and its area: the block's ALIGN and RANGE come before the area's
(DESIGN CHOICE, log 117). -/
def State.securityChecks (s : State) (a b : XReg) (block area : Nat) : Option FaultInfo :=
  let xa := (s.x a).v
  firstFault ([s.privFaultOf, ((s.x a).po, poisonX a), (xa.toNat % 8 != 0, alignFault xa),
    (2 ^ 17 < xa.toNat + block, rangeFault 48 0 xa)] ++ s.areaChecks b area)

/-- The hold of a security form: its area, and a queued write to its block. -/
def securityHeld (a b : XReg) (block area : Nat) (s : State) : Bool :=
  areaHeld (s.x b).v area s || s.curK.addrHeld (s.x a).v block false

/-- SECH's result area: 208 bytes for op 1, 72 for op 0 (R234), and 72 for any other op (DESIGN CHOICE, log 124). -/
def State.sechArea (s : State) (a : XReg) : Nat :=
  if memByte s.mem (tileKey s.curCore ((s.x a).v.toNat + 16)) = 1 then 208 else 72

/-- A security form's result under way. -/
def State.startSecurity (s : State) (i : Instr) (a b : XReg) (block area : Nat) : State :=
  let id := s.nextId
  let xa := (s.x a).v
  let r := s.blockAt xa.toNat block
  (s.startResult 1 i xa (s.x b).v area r.1 r.2).later 1 (.resultAreaWrite id)

/-- SECH (R234). -/
def execSech (q : Issue) (a b : XReg) (s : State) : Answer :=
  issue q 1 (securityHeld a b 32 (s.sechArea a) s) (s.securityChecks a b 32 (s.sechArea a)) none
    (fun s => s.startSecurity (.sech q a b) a b 32 (s.sechArea a)) s

/-- SECV (R234). -/
def execSecv (q : Issue) (a b : XReg) (s : State) : Answer :=
  issue q 1 (securityHeld a b 208 8 s) (s.securityChecks a b 208 8) none
    (fun s => s.startSecurity (.secv q a b) a b 208 8) s

/-- What SECH writes: poison before malformation; a status other than 0 is the whole result (log 45). -/
def State.sechResult (s : State) (block : List Byte) (po : Bool) : State × List Byte :=
  let src := BitVec.ofNat 64 (byteField block 0 8)
  let len := byteField block 8 8
  let op := byteField block 16 1
  match s.sharedKey src len with
  | none => (s, natToBytes 8 (if po then 1 else 2))
  | some key =>
    if po then (s, natToBytes 8 1)
    else if len = 0 ∨ 2 ^ 26 < len ∨ 1 < op ∨ byteField block 17 15 ≠ 0 then (s, natToBytes 8 2)
    else if s.poisoned key len then (s, natToBytes 8 1)
    else
      let d := sha512 (memBytes s.mem key len)
      if op = 0 then (s, natToBytes 8 0 ++ d)
      else
        let sig := (Config.signature s.fresh d).take 132
        ({ s with fresh := s.fresh + 1 },
          natToBytes 8 0 ++ d ++ sig ++ List.replicate (136 - sig.length) 0)

/-- What SECV writes: of a block that is poisoned and malformed, status 4 (DESIGN CHOICE, log 117). -/
def State.secvResult (s : State) (block : List Byte) (po : Bool) : List Byte :=
  let slot := byteField block 196 1
  if po then natToBytes 8 4
  else if 15 < slot || byteField block 197 11 != 0 then natToBytes 8 3
  else
    match s.verify slot (block.take 64) ((block.drop 64).take 132) with
    | .valid => natToBytes 8 0
    | .invalid => natToBytes 8 1
    | .empty => natToBytes 8 2

/-- An earlier form of the same context and group is not performed yet (R227). -/
def State.resultBehind (s : State) (r : Result) : Bool :=
  r.group != 2 && s.results.any fun e => e.1 < r.id && e.2.core == r.core && e.2.ctx == r.ctx &&
    e.2.group == r.group

/-- RESULT_AREA_WRITE (R226, R227, R234): the form is performed and its area written; FRZ waits for its
load's halls. -/
def execResultAreaWrite (id : Nat) (s : State) : Answer :=
  match mapFind id s.results with
  | none => .next s
  | some r =>
    if s.resultBehind r then .next (s.retry (.resultAreaWrite id))
    else
      match r.instr with
      | .sech .. =>
        let x := s.sechResult r.block r.blockPoison
        .next (x.1.writeResult id x.2)
      | .secv .. => .next (s.writeResult id (s.secvResult r.block r.blockPoison))
      | .frz .. =>
        if s.freezeUnderWay (bits r.a 0 5) then .next (s.retry (.resultAreaWrite id))
        else .next (s.writeResult id r.block)
      | _ => .next (s.writeResult id r.block (if r.blockPoison then [0] else []))

end Sys2Proof.Machine
end

