-- ==== Sys2Proof/Machine/Balance.lean ====
section
/-!
DEFINITION. The balance unit (R304 to R308, R482) and the admission limiter's windows (R309).
-/

namespace Sys2Proof.Machine

/-- BEN and NSAMP of a wing (R304). -/
def State.balanceOn (s : State) (wing : Nat) : Bool := bitAt (s.sysCfg wing 384) 13
def State.samples (s : State) (wing : Nat) : Nat := min 4096 (max 4 (bits (s.sysCfg wing 384) 0 13))

/-- The cycle of the wing's clock (R306). -/
def State.clockCycle (s : State) (wing : Nat) : Nat := s.cycle - mapGet 0 wing s.balBase

/-- The cycle at which the current interval started. A new NSAMP counts at once: intervals of the new length are
laid from sample 0 of the clock on (DESIGN CHOICE, log 121). -/
def State.intervalStart (s : State) (wing : Nat) : Nat :=
  let n := 256 * s.samples wing
  mapGet 0 wing s.balBase + s.clockCycle wing / n * n

/-- A sample is due in a wing. -/
def State.sampleDue (s : State) (wing : Nat) : Bool :=
  s.balanceOn wing && s.clockCycle wing % 256 == 0

/-- An interval ends in a wing. -/
def State.intervalEndDue (s : State) (wing : Nat) : Bool :=
  let n := 256 * s.samples wing
  s.balanceOn wing && s.clockCycle wing % n == n - 1

/-- A new admission window opens in a wing (R304, R309). -/
def State.windowStartDue (s : State) (wing : Nat) : Bool :=
  let w := s.sysCfg wing 385
  bitAt w 39 && s.clockCycle wing % (256 * 2 ^ min 12 (bits w 32 4)) == 0

/-! ### Stage entries (R305) -/

/-- Word i of stage entry n of a wing. -/
def State.stageWord (s : State) (wing n i : Nat) : Word64 := s.sysCfg wing (416 + 3 * n + i)

/-- The valid stages of a wing. -/
def State.stages (s : State) (wing : Nat) : List Nat :=
  (steps 0 1 32).filter fun n => bitAt (s.stageWord wing n 0) 63

/-- Fields of a stage entry. -/
def State.stageLoad (s : State) (wing n : Nat) : Nat := bits (s.stageWord wing n 0) 58 5
def State.stageMin (s : State) (wing n : Nat) : Nat := bits (s.stageWord wing n 0) 46 11
def State.stageMax (s : State) (wing n : Nat) : Nat := bits (s.stageWord wing n 0) 35 11
def State.stageRepl (s : State) (wing n : Nat) : Nat := bits (s.stageWord wing n 0) 24 11
def State.stageIn (s : State) (wing n : Nat) : Nat := bits (s.stageWord wing n 2) 0 5

/-- A 32-bit signed field. -/
def signed32 (n : Nat) : Int := (BitVec.ofNat 32 n).toInt

/-- TP and TN. -/
def State.stageTp (s : State) (wing n : Nat) : Int := signed32 (bits (s.stageWord wing n 1) 32 32)
def State.stageTn (s : State) (wing n : Nat) : Int := signed32 (bits (s.stageWord wing n 1) 0 32)

/-- FILL of a load's queue; a queue that the load does not declare holds nothing. -/
def State.fillOf (s : State) (h q : Nat) : Nat :=
  match s.homeOf h q with
  | some (home, slots) => s.qFill home slots
  | none => 0

/-- Candidates of a stage in a wing (R305): core and actor record. -/
def State.stageCores (s : State) (wing n : Nat) : List (Nat × Nat) :=
  (s.claimers (s.stageLoad wing n) (s.stageIn wing n)).filter fun e =>
    s.elastic e.1 e.2 && wingOfCore e.1 == wing

/-- R302: a candidate actor is active on its core. -/
def State.candidateActive (s : State) (c a : Nat) : Bool :=
  !s.retired c a && windows.any fun e => entryValid (s.entry c e) && entryActor (s.entry c e) == a

/-- R306: a stage that the choice leaves out. -/
def State.excluded (s : State) (wing n : Nat) : Bool :=
  let l := s.loadAt (s.stageLoad wing n)
  l.state != .running || l.draining || s.intervalStart wing < l.since

/-! ### Samples (R306) -/

/-- One stage's accumulator takes its fills. -/
def State.sampleStage (wing : Nat) (s : State) (n : Nat) : State :=
  let w2 := s.stageWord wing n 2
  let h := s.stageLoad wing n
  let out : Int := if bitAt w2 10 then s.fillOf h (bits w2 5 5) else 0
  let k := 32 * wing + n
  { s with balAcc := mapPut k (mapGet 0 k s.balAcc + s.fillOf h (s.stageIn wing n) - out) s.balAcc }

/-- BALANCE_SAMPLE (R306), in every wing in which a sample is due. -/
def execBalanceSample (s : State) : Answer :=
  .next (((steps 0 1 4).filter s.sampleDue).foldl (fun s wing =>
    (s.stages wing).foldl (State.sampleStage wing) s) s)

/-! ### The end of an interval (R306, R307) -/

/-- D of a stage: floor(256 acc / NSAMP). -/
def State.demand (s : State) (wing n : Nat) : Int :=
  (256 * mapGet 0 (32 * wing + n) s.balAcc).fdiv (s.samples wing)

/-- A list with an element in its place. -/
def insertBy (before : Nat → Nat → Bool) (n : Nat) : List Nat → List Nat
  | [] => [n]
  | m :: ms => if before n m then n :: m :: ms else m :: insertBy before n ms

/-- The stages of a wing by demand, ties by lower number. -/
def State.byDemand (s : State) (wing : Nat) (down : Bool) : List Nat :=
  let d := s.demand wing
  let before := fun (a b : Nat) =>
    (if down then decide (d b < d a) else decide (d a < d b)) || (d a == d b && decide (a < b))
  (s.stages wing).foldl (fun l n => insertBy before n l) []

/-- A stage may receive a core. -/
def State.mayReceive (s : State) (wing r : Nat) : Bool :=
  !s.excluded wing r && s.stageRepl wing r < s.stageMax wing r && s.stageTp wing r ≤ s.demand wing r

/-- A stage may give a core to another. -/
def State.mayDonate (s : State) (wing r d : Nat) : Bool :=
  d != r && s.stageLoad wing d == s.stageLoad wing r && !s.excluded wing d &&
    s.stageMin wing d < s.stageRepl wing d && s.demand wing d ≤ s.stageTn wing d

/-- The core that a donor gives to a recipient: core, and the actor records of both stages. -/
def State.movable (s : State) (wing r d : Nat) : Option (Nat × Nat × Nat) :=
  let take := s.stageCores wing r
  let from' := (s.stageCores wing d).filterMap fun e =>
    if s.candidateActive e.1 e.2 && (s.core e.1).pin == 0 then
      (take.find? fun f => f.1 == e.1).map fun f => ((s.visibleCore e.1).toNat, e.1, e.2, f.2)
    else none
  (from'.foldl (fun (m : Option (Nat × Nat × Nat × Nat)) e =>
    match m with
    | some b => if e.1 < b.1 then some e else some b
    | none => some e) none).map (·.2)

/-- The move of an interval end: recipient, donor, core and actor records. -/
def State.choice (s : State) (wing : Nat) : Option (Nat × Nat × Nat × Nat × Nat) :=
  let pairs := ((s.byDemand wing true).filter (s.mayReceive wing)).flatMap fun r =>
    ((s.byDemand wing false).filter (s.mayDonate wing r)).filterMap fun d =>
      (s.movable wing r d).map fun m => (r, d, m)
  pairs.head?

/-- REPL of a stage changed. -/
def State.setRepl (s : State) (wing n v : Nat) : State :=
  s.setSysCfg wing (416 + 3 * n) (withBits (s.stageWord wing n 0) 24 11 v)

/-- The move of core k (R306, R307). -/
def State.moveCore (s : State) (wing r d k a b : Nat) : State :=
  let s := (s.setRepl wing d (s.stageRepl wing d - 1)).setRepl wing r (s.stageRepl wing r + 1)
  let w := s.sysCfg wing 386
  let s := s.setSysCfg wing 386 (BitVec.ofNat 64
    (2 ^ 63 + d * 2 ^ 58 + r * 2 ^ 53 + (s.visibleCore k).toNat % 2 ^ 10 * 2 ^ 43 + bits w 0 32))
  let s := s.setCore k { s.core k with
    pin := 2, move := some { donor := a, recipient := b, passed := false } }
  s.at (s.cycle + 1) .moveBoundary

/-- The pin counts of a wing's candidate cores fall by one. -/
def State.lowerPins (s : State) (wing : Nat) : State :=
  let cs := ((s.stages wing).flatMap fun n => (s.stageCores wing n).map (·.1)).foldl
    (fun m c => setAdd c m) []
  cs.foldl (fun s c => s.setCore c { s.core c with pin := (s.core c).pin - 1 }) s

/-- The end of an interval in a wing (R306). -/
def State.endInterval (s : State) (wing : Nat) : State :=
  let s := s.lowerPins wing
  let pick := s.choice wing
  let w := s.sysCfg wing 386
  let s := s.setSysCfg wing 386 (withBits (withBits w 0 32 (bits w 0 32 + 1)) 63 1 0)
  let s := (s.stages wing).foldl (fun s n =>
    s.setSysCfg wing (418 + 3 * n)
      (withBits (s.stageWord wing n 2) 32 32 ((BitVec.ofInt 32 (s.demand wing n)).toNat))) s
  let s := { s with balAcc := mapDelRange (32 * wing) 32 s.balAcc }
  match pick with
  | some (r, d, k, a, b) => s.moveCore wing r d k a b
  | none => s

/-- BALANCE_INTERVAL_END (R306), in every wing whose interval ends. -/
def execBalanceIntervalEnd (s : State) : Answer :=
  .next (((steps 0 1 4).filter s.intervalEndDue).foldl State.endInterval s)

/-- An event of the clock that falls in this cycle after all. -/
def State.clockEvent (s : State) (due : Bool) (i : Instr) : State :=
  if due && !(s.agenda.any fun e => e.2 == i && e.1 ≤ s.cycle) then s.at s.cycle i else s

/-- BEN_RESTART (R304): the clock is at sample 0, ICNT is 0, and so are the wing's accumulators (DESIGN CHOICE,
log 121). -/
def execBenRestart (wing : Nat) (s : State) : Answer :=
  let s := s.setSysCfg wing 386 (withBits (s.sysCfg wing 386) 0 32 0)
  let s := { s with balBase := mapPut wing s.cycle s.balBase,
                    balAcc := mapDelRange (32 * wing) 32 s.balAcc }
  .next ((s.clockEvent (s.sampleDue wing) .balanceSample).clockEvent (s.windowStartDue wing)
    .admissionWindowStart)

/-! ### Moves (R307) -/

/-- The context of an actor stands at the boundary: idle with no claim bound, or parked. A request that is still out
does not hold it; a grant of it fires as granted (R298, R307). -/
def State.atBoundary (s : State) (c a : Nat) : Bool :=
  let t := s.ctx c (bits (s.actorWord c a 0) 55 2)
  t.park.isSome || (t.run == .idle && !t.halted && t.bound.isNone)

/-- One moved core: the donor's entries are cleared; at its boundary the recipient's become valid
within 64 cycles, in the next cycle at a park. -/
def State.stepMove (s : State) (c : Nat) : State :=
  match (s.core c).move with
  | none => s
  | some m =>
    if m.passed then s
    else
      let s := s.setEntries c m.donor false
      if s.atBoundary c m.donor then
        let s' := s.setCore c { s.core c with move := some { m with passed := true } }
        if (s.ctx c (bits (s.actorWord c m.donor 0) 55 2)).park.isSome then
          s'.at (s.cycle + 1) (.moveEntriesValid c)
        else s'.within 1 64 (.moveEntriesValid c)
      else s

/-- Cores whose move has not passed its boundary; a context that a fault has stopped never will. -/
def State.movingCores (s : State) : List Nat :=
  (s.cores.filter fun e => match e.2.move with
    | some m => !m.passed && !(s.ctx e.1 (bits (s.actorWord e.1 m.donor 0) 55 2)).halted
    | none => false).map (·.1)

/-- MOVE_BOUNDARY (R307), of every core that moves; those not at their boundary are looked at again. -/
def execMoveBoundary (s : State) : Answer :=
  let s' := s.movingCores.foldl State.stepMove s
  if s'.movingCores = [] then .next s' else .next (s'.retry .moveBoundary)

/-- MOVE_ENTRIES_VALID (R307): the core is the recipient stage's. -/
def execMoveEntriesValid (core : Nat) (s : State) : Answer :=
  match (s.core core).move with
  | some m =>
    if m.passed then
      .next ((s.setEntries core m.recipient true).setCore core
        { (s.setEntries core m.recipient true).core core with move := none })
    else .next s
  | none => .next s

/-! ### The admission limiter (R309) -/

/-- ADMISSION_WINDOW_START (R309), in every wing whose window starts: waiting flits may enter. -/
def execAdmissionWindowStart (s : State) : Answer :=
  let due := (steps 0 1 4).filter s.windowStartDue
  .next { s with admitted := s.admitted.filter fun e => !due.contains (e.1 / 128) }

end Sys2Proof.Machine
end

