-- ==== Sys2Proof/Machine/Host.lean ====
section
/-!
DEFINITION. The PCIe function (R435 to R440), soft errors (R469), the self-test and the vestibule state
(R470, R471), the management registers and the safe state (R472, R473), voltage re-plans and hall
retirement (R474 to R476), and power (R9).
-/

namespace Sys2Proof.Machine

/-! ### BAR0 (R436 to R438, R354, R472) -/

/-- STATE of STATUS (R437). -/
def DevState.code : DevState → Nat
  | .selfTest => 0
  | .vestibule => 1
  | .running => 2
  | .safe => 3

/-- The part answers at every offset: in the vestibule state, and during the self-test that may end in
it, only offsets below 0x200 of BAR0 answer (R437; log 50). -/
def State.answersAll (s : State) : Bool := s.dev == .running || s.dev == .safe

/-- The pending-bit array, word i. -/
def State.pendingWord (s : State) (i : Nat) : Word64 :=
  BitVec.ofNat 64 ((setWithin (64 * i) 64 s.msixPending).foldl (fun a n => a + 2 ^ n) 0)

/-- What an aligned 8-byte read of BAR0 gives (R436, R437); none is Unsupported Request. HEALTH_READ is
the read of 0x0100, which also clears. The other reads come as inputs. -/
def State.bar0Read (s : State) (off : Nat) : Option Word64 :=
  if !s.answersAll && 0x200 ≤ off then none
  else if off = 0 then some 0x0001000000004096
  else if off = 8 then some (BitVec.ofNat 64 (s.failBlk.toNat * 2 ^ 16 + s.dev.code))
  else if off = 0x10 then some s.ien
  else if off = 0x18 then some s.ipend
  else if off = 0x100 then
    some (BitVec.ofNat 64 (s.cm.toNat * 2 ^ 48 + s.ce.toNat * 2 ^ 32 + s.pwr.toNat * 2 ^ 16 +
      s.tj.toNat))
  else if off = 0x108 then some (s.plim.setWidth 64)
  else if off = 0x118 then some (s.retn.setWidth 64)
  else if 0x1000 ≤ off ∧ off < 0x1200 then
    some (LaunchQueue.word (mapGet {} ((off - 0x1000) / 8) s.queues))
  else if 0x2000 ≤ off ∧ off < 0x2410 then
    let i := (off - 0x2000) / 8
    some (mapGet (if i % 2 = 1 then 0x100000000 else 0) i s.msixTable)
  else if off = 0x3000 ∨ off = 0x3008 then some (s.pendingWord ((off - 0x3000) / 8))
  else some 0

/-- A word of the MSI-X table is written (R438): a mask that clears sends what is pending. -/
def State.writeMsix (s : State) (i : Nat) (v : Word64) : State :=
  let v := if i % 2 = 1 then v &&& 0x1FFFFFFFF else v
  let was := s.msixMasked (i / 2)
  let s := { s with msixTable := mapPut i v s.msixTable }
  if was && !s.msixMasked (i / 2) && setHas (i / 2) s.msixPending then
    s.at (s.cycle + 1) (.msixUnmask (i / 2))
  else s

/-- The usable halls of the package, whose voltages the firmware plans (R233, R474): wing and hall. -/
def State.plannedHalls (s : State) : List (Nat × Nat) :=
  (steps 0 1 4).flatMap fun w =>
    ((steps 0 1 67).filter fun n => bitAt (s.dmapAt (128 * w + n)) 17).map fun n => (w, n)

/-- The firmware re-plans the voltage of every hall, once MCMD = 1 is written (R472, R474). -/
def State.replanAll (s : State) : State :=
  s.plannedHalls.foldl (fun s e => s.at (s.cycle + 1) (.voltageReplan e.1 e.2 none)) s

/-- REGISTER_WRITE (R436 to R438, R472): an aligned write of 8 bytes. -/
def execRegisterWrite (off : BitVec 14) (v : Word64) (s : State) : Answer :=
  let o := off.toNat
  if !s.power || o % 8 != 0 || (!s.answersAll && decide (0x200 ≤ o)) then .next s
  else if o = 0x10 then .next { s with ien := v }
  else if o = 0x18 then .next { s with ipend := s.ipend &&& ~~~v }
  else if o = 0x108 then .next { s with plim := v.setWidth 12 }
  else if o = 0x110 then
    let s := { s with mcmd := v.setWidth 2 }
    .next (if v.setWidth 2 = 2#2 then s.at (s.cycle + 1) .enterSafeState
      else if v.setWidth 2 = 1#2 then s.replanAll else s)
  else if 0x1000 ≤ o ∧ o < 0x1200 then
    .next (s.at (s.cycle + 1) (.doorbellWrite (BitVec.ofNat 6 ((o - 0x1000) / 8)) v))
  else if 0x2000 ≤ o ∧ o < 0x2410 then .next (s.writeMsix ((o - 0x2000) / 8) v)
  else .next s

/-- MSIX_UNMASK (R438): the masks of a vector have cleared, and stand clear; its pending message is
sent. -/
def execMsixUnmask (vector : Nat) (s : State) : Answer :=
  if !s.msixMasked vector && setHas vector s.msixPending then
    .next { s with msixPending := setDel vector s.msixPending,
                   hostOut := s.hostOut ++ [.msix vector] }
  else .next s

/-- HEALTH_READ (R472): the counts are read and cleared. -/
def execHealthRead (s : State) : Answer :=
  if !s.power then .next s
  else
    .next { s with hostOut := s.hostOut ++ [.answer ((s.bar0Read 0x100).getD 0)], cm := 0, ce := 0 }

/-- A read of BAR0 (R436, R437, R472): one of another size or alignment than 8 bytes reads as 0. -/
def State.readBar0 (s : State) (off size : Nat) : State :=
  let whole := off % 8 = 0 ∧ size = 8
  let v : Option Word64 :=
    if !s.answersAll && 0x200 ≤ off then none
    else if whole then s.bar0Read off else some 0
  let s := { s with hostOut := s.hostOut ++ [match v with
    | some v => .answer v
    | none => .unsupported] }
  if whole ∧ off = 0x100 then { s with cm := 0, ce := 0 } else s

/-- A read over I3C at target address 0x3A: register n of the management registers sits at index n / 8, and
its read clears what a read by BAR0 clears (R472; DEDUCED, log 113). -/
def State.readI3c (s : State) (target index : Nat) : State :=
  if target ≠ 0x3A then s
  else
    let off := 8 * index
    let v := if 0x100 ≤ off ∧ off < 0x200 then (s.bar0Read off).getD 0 else 0
    let s := { s with hostOut := s.hostOut ++ [.i3c v] }
    if off = 0x100 then { s with cm := 0, ce := 0 } else s

/-- The MSI-X function mask is set or cleared (R438): what is pending at unmasked vectors is sent. -/
def State.maskFunction (s : State) (on : Bool) : State :=
  let s := { s with msixFunctionMask := on }
  (s.msixPending.filter fun v => !s.msixMasked v).foldl
    (fun s v => s.at (s.cycle + 1) (.msixUnmask v)) s

/-- An input from outside takes place. -/
def State.takeInput (s : State) (e : Nat × OutsideInput) : State :=
  if !s.power then s
  else
    match e.2 with
    | .cxlWrite a d po => if (cxlPortOf a).isSome then s.storeMarked (physKey a) d po else s
    | .bar0Read off n => s.readBar0 off n
    | .functionMask on => s.maskFunction on
    | .linkCredit port vc n => s.takeCredits port vc n
    | .cxlSilent port => { s with cxlSilent := setAdd port s.cxlSilent }
    | .i3cRead target index => s.readI3c target index
    | .slack hall monitor good => { s with monitors := mapPut (4 * hall + monitor) good s.monitors }

/-- The inputs that are due take place in their order. -/
def State.takeInputs (s : State) : State :=
  (s.outside.filter fun e => e.1 ≤ s.cycle).foldl State.takeInput
    { s with outside := s.outside.filter fun e => s.cycle < e.1 }

/-! ### BAR2 (R437, R439, R440) -/

/-- The gallery byte of a BAR2 offset. -/
def bar2Key (off : Nat) : Nat := galleryKey (off / 2 ^ 26) (off % 2 ^ 26)

/-- 8-byte words whose bits are free (R54). -/
def State.freeWords (s : State) (words : List Nat) : State :=
  let r := words.foldl (fun (a : List Host.Cell × Nat) w =>
    (memSetBytes a.1 (8 * w) (natToBytes 8 (Config.freeBits a.2).toNat), a.2 + 1)) (s.mem, s.fresh)
  { s with mem := r.1, fresh := r.2, poison := words.foldl (fun p w => setAdd w p) s.poison }

/-- BAR2_WRITE (R437, R439): the words are written, and keep their full/empty bits; a TLP with EP set
leaves them poisoned, with unspecified bits. -/
def execBar2Write (off : BitVec 28) (data : List Byte) (ep : Bool) (s : State) : Answer :=
  let key := bar2Key off.toNat
  if !s.power || !s.answersAll then .next s
  else if ep then .next (s.freeWords (unitsOf 8 key data.length))
  else .next (markStore (s.store key data) key data.length false)

/-- BAR2_READ (R437, R439). -/
def execBar2Read (off : BitVec 28) (n : Nat) (s : State) : Answer :=
  let key := bar2Key off.toNat
  if !s.power then .next s
  else if !s.answersAll then .next { s with hostOut := s.hostOut ++ [.unsupported] }
  else
    .next { s with hostOut := s.hostOut ++ [.data (memBytes s.mem key n) (s.poisoned key n)] }

/-! ### Soft errors (R179, R468, R469) -/

/-- A count of HEALTH after one more, saturating (R472). -/
def bump (n : BitVec 16) : BitVec 16 := if n = BitVec.allOnes 16 then n else n + 1

/-- n bytes with unspecified bits. -/
def State.freeBytes (s : State) (n : Nat) : List Byte :=
  ((steps s.fresh 1 ((n + 7) / 8)).flatMap fun i => natToBytes 8 (Config.freeBits i).toNat).take n

/-- A 32-byte unit is found at a consumption point with other bits than its check value was made of
(R468, R469): unless they have the same check value, its words are poisoned and CM counts it. A strike
shows nowhere before that point, so the model lets it fall there (log 85). -/
def State.unitMismatch (s : State) (key : Nat) : State :=
  let lo := key / 32 * 32
  let old := memBytes s.mem lo 32
  let new := s.freeBytes 32
  let s := { s with mem := memSetBytes s.mem lo new, fresh := s.fresh + 4 }
  if checkValue new = checkValue old then s
  else { s with cm := bump s.cm, poison := (unitsOf 8 lo 32).foldl (fun p w => setAdd w p) s.poison }

/-- The same of unit n of a packet's data. -/
def State.flitMismatch (s : State) (p : Packet) (n : Nat) : State :=
  let old := (p.data.drop (32 * n)).take 32
  let new := s.freeBytes old.length
  let data := p.data.take (32 * n) ++ new ++ p.data.drop (32 * n + 32)
  let po := (steps (4 * n) 1 ((old.length + 7) / 8)).foldl (fun m w => setAdd w m) p.poison
  let s := { s with fresh := s.fresh + 4 }
  if old = [] then s
  else if checkValue new = checkValue old then
    { s with packets := mapPut p.id { p with data := data } s.packets }
  else { s with cm := bump s.cm, packets := mapPut p.id { p with data := data, poison := po } s.packets }

/-- An uncorrectable error in words that an open transaction has written is what their target reads back: they are
rejected (R229; DEDUCED, log 77). -/
def State.rejectWords (s : State) (words : List Nat) : State :=
  let mark := fun (w : CfgWrite) =>
    match cfgTarget w.addr with
    | some (unit, space, off) =>
      let key := storeKey unit space off
      if isStore space && words.contains (key / 8) then
        { w with rejected := true, data := s.load64 (key / 8 * 8) }
      else w
    | none => w
  let ctx := fun (t : Ctx) => { t with txn := t.txn.map fun x => { x with words := x.words.map mark } }
  { s with cores := s.cores.map fun e =>
      (e.1, { e.2 with c0 := ctx e.2.c0, c1 := ctx e.2.c1, c2 := ctx e.2.c2, c3 := ctx e.2.c3 }) }

/-- SRAM_ERROR (R179, R229, R468, R469): a single-bit error is corrected and counted; an uncorrectable one
leaves its word poisoned, or its row to be found at the next read, and their bits unspecified; one that
only the check value tells poisons its unit. -/
def execSramError (t : SramTarget) (correctable : Bool) (s : State) : Answer :=
  if correctable then
    .next { s with ce := bump s.ce }
  else
    match t with
    | .word key => .next ((s.freeWords [key / 8]).rejectWords [key / 8])
    | .unit key => .next ((s.unitMismatch key).rejectWords (unitsOf 8 (key / 32 * 32) 32))
    | .flit id n =>
      match mapFind id s.packets with
      | some p => .next (s.flitMismatch p n)
      | none => .next s
    | .row core bank row =>
      let k := s.core core
      let b := bank == 1
      let bit : BitVec 32 := BitVec.ofNat 32 (2 ^ row)
      let old := fun (i j : Nat) => if i = row
        then (Config.freeBits (s.fresh + j)).setWidth 32 else k.zAt b i j
      let info := fun (k' : Core) => { k' with zDirty0 := k.zDirty0, zSaved0 := k.zSaved0,
                                               zDirty1 := k.zDirty1, zSaved1 := k.zSaved1 }
      let k' := info (k.setBank b old)
      let k' := if b then { k' with zErr1 := k'.zErr1 ||| bit } else { k' with zErr0 := k'.zErr0 ||| bit }
      .next { s.setCore core k' with fresh := s.fresh + 64 }

/-! ### The safe state (R473) -/

/-- Events that come from outside the package's compute: they are still there when it is unpowered. -/
def isInput : Instr → Bool
  | .doorbellWrite .. | .bar2Write .. | .bar2Read .. | .registerWrite .. | .msixUnmask ..
  | .healthRead | .thermalTrip .. | .powerTrip .. | .powerOn | .powerOff | .selfTestDone ..
  | .linkFlitReceive .. | .linkRetry .. | .linkRetrainDone .. | .cxlTimeout .. | .cxlLinkDown ..
  | .sramError .. | .voltageReplan .. => true
  | _ => false

/-- Inputs that the part takes in any state: those of its PCIe function, its sensors and its power. -/
def isHostSide : Instr → Bool
  | .doorbellWrite .. | .bar2Write .. | .bar2Read .. | .registerWrite .. | .msixUnmask ..
  | .healthRead | .thermalTrip .. | .powerTrip .. | .powerOn | .powerOff | .selfTestDone .. => true
  | _ => false

/-- Committed loads that no freeze has begun for. -/
def State.unfrozen (s : State) : List Nat :=
  (s.loads.filter fun e => e.2.committed && e.2.state != .frozen).map (·.1)

/-- Some freeze has halls still to reach. -/
def State.freezing (s : State) : Bool := s.loads.any fun e => s.freezeUnderWay e.1

/-- ENTER_SAFE_STATE (R473): every committed load is frozen, compute is unpowered, STATE is 3. -/
def execEnterSafeState (s : State) : Answer :=
  if !s.power || s.dev != .running then .next s
  else
    match s.unfrozen with
    | h :: hs => .next (((h :: hs).foldl State.freezeLoad s).retry .enterSafeState)
    | [] =>
      if s.freezing then .next (s.retry .enterSafeState)
      else .next { s with dev := .safe, todo := [], agenda := s.agenda.filter fun e => isInput e.2 }

/-- THERMAL_TRIP (R472, R473): the junction temperature is measured. -/
def execThermalTrip (tj : BitVec 8) (s : State) : Answer :=
  let s := { s with tj := tj }
  .next (if 105 ≤ tj.toNat then s.at s.cycle .enterSafeState else s)

/-- POWER_TRIP (R472, R473): the module power has been measured for 1 ms. -/
def execPowerTrip (pwr : BitVec 16) (s : State) : Answer :=
  let s := { s with pwr := pwr }
  .next (if 2640 < pwr.toNat then s.at s.cycle .enterSafeState else s)

/-- The power envelope in W: values of PLIM above 2,400 act as 2,400 (R472). -/
def State.envelope (s : State) : Nat := min s.plim.toNat 2400

/-- AFL that the firmware sets in a wing (R304, R472): the one that it asks for while PWR stays within the
envelope, else one that the spec leaves open (log 113). -/
def State.nextAfl (s : State) (wing : Nat) (afl : Word32) : Word32 :=
  if s.pwr.toNat ≤ s.envelope then afl
  else Config.envelopeFlits wing s.pwr.toNat s.envelope afl.toNat

/-- POWER_ENVELOPE_CONTROL (R472): the firmware sets AFL of a wing by PWR and the envelope. -/
def execPowerEnvelopeControl (wing : Nat) (afl : Word32) (s : State) : Answer :=
  .next (s.setSysCfg wing 385 (withBits (s.sysCfg wing 385) 0 32 (s.nextAfl wing afl).toNat))

/-! ### Voltages and hall retirement (R474 to R476) -/

/-- A DMAP record replaced. -/
def State.setDmap (s : State) (hk : Nat) (v : Word64) : State := { s with dmap := mapPut hk v s.dmap }

/-- User hall numbers of a wing that no hall carries. -/
def State.unusedNumbers (s : State) (wing : Nat) : List Nat :=
  (steps 0 1 64).filter fun u => (s.hallOfUser wing u).isNone

/-- Spare halls of a wing that may take a number (R364, R475). -/
def State.spareHalls (s : State) (wing : Nat) : List Nat :=
  (steps (128 * wing) 1 66).filter fun hk =>
    let d := s.dmapAt hk
    bitAt d 17 && bitAt d 18 && 64 ≤ bits d 24 8 &&
      16 ≤ ((steps 0 1 17).filter fun p => bitAt d p).length

/-- Spare halls take the unused user hall numbers, lowest first (R475, step 5). -/
def State.assignSpares (s : State) (wing : Nat) : State :=
  ((s.unusedNumbers wing).zip (s.spareHalls wing)).foldl (fun s e =>
    s.setDmap e.2 (withBits (withBits (s.dmapAt e.2) 24 8 e.1) 18 1 0)) s

/-- VOFF moves one step toward its plan (R474): the record, and whether it has arrived. -/
def stepVoltage (d : Word64) (plan : BitVec 8) : Word64 × Bool :=
  let now := BitVec.ofNat 8 (bits d 32 8)
  let next := if now.toInt < plan.toInt then now + 1 else if plan.toInt < now.toInt then now - 1 else now
  (withBits d 32 8 next.toNat, next == plan)

/-- The defect map as it is signed: the DMAP records of every hall, wing by wing, and RETN (R472, R475, R477;
DESIGN CHOICE, log 111). -/
def State.mapRecord (s : State) : List Byte :=
  ((steps 0 1 4).flatMap fun w => (steps 0 1 67).flatMap fun n =>
    natToBytes 8 (s.dmapAt (128 * w + n)).toNat) ++ natToBytes 1 s.retn.toNat

/-- The defect map is rewritten: it is signed with the device identity key (R475, R477). -/
def State.signMap (s : State) : State :=
  { s with firmware := { s.firmware with mapSig := Config.signature s.fresh (sha512 s.mapRecord) },
           fresh := s.fresh + 1 }

/-- A change that has rewritten a record of the defect map has it signed anew. -/
def State.resigned (before after : State) : State :=
  if after.dmap = before.dmap then after else after.signMap

/-- The hall is retired: HOK 0, UHALL none, RETN one more, in the rewritten defect map (R475). -/
def State.retireHall (s : State) (hk : Nat) : State :=
  { s.setDmap hk (withBits (withBits (s.dmapAt hk) 17 1 0) 24 8 0xFF) with retn := s.retn + 1 }.signMap

/-- The launch of a load waits, as the launch unit's own victims do, to be restored elsewhere. -/
def State.markSuspended (s : State) (h : Nat) : State :=
  match (s.loadAt h).launch with
  | none => s
  | some n =>
    match mapFind n s.launches with
    | none => s
    | some t => { s with launches := mapPut n { t with suspended := true } s.launches }

/-- A hall with no positive slack retires (R475, R476): a load that it holds is pre-empted and written
out of it first. -/
def State.retire (s : State) (wing hall : Nat) : State :=
  let hk := wing * 128 + hall
  let again := Instr.voltageReplan wing hall none
  if !bitAt (s.dmapAt hk) 17 then s
  else if s.launches.any fun t => t.2.claimed.contains hk then s.retry again
  else
    match s.ownerOf hk with
    | none => s.retireHall hk
    | some h =>
      let l := s.loadAt h
      let out := fun (s : State) =>
        match l.halls.findIdx? fun e => e.phys == hk && e.inPlace with
        | some i => s.writeOut h i
        | none => s
      match l.state with
      | .running | .residentIdle => ((s.markSuspended h).beginPreempt h none).retry again
      | .preempting | .stopping => s.retry again
      | .suspended => ((out s).retireHall hk).later 1 .candidateStart
      | .stopped => (if resumable ((l.code.getD 0).toNat) then out s else s).retireHall hk
      | .frozen | .free => s.retireHall hk

/-- A step of VOFF toward a plan; no other follows for 1 µs (R474). A hall that stands at +20 and has no positive
slack there either is planned once more, and retires. -/
def State.stepVoff (s : State) (wing hall : Nat) (v : BitVec 8) : State :=
  let hk := wing * 128 + hall
  let r := stepVoltage (s.dmapAt hk) v
  if r.1 ≠ s.dmapAt hk then
    (s.resigned (s.setDmap hk r.1)).at (s.cycle + 1050) (.voltageReplan wing hall (some v))
  else if v = 20#8 && (s.plannedVoff hk).isNone then s.later 1 (.voltageReplan wing hall none)
  else s

/-- The firmware reads a hall's monitors: a new plan takes the place of the one under way, whose next step falls
no earlier for it. A hall that shows no positive slack at any offset goes to +20, and retires there (R474,
R475). -/
def State.planVoff (s : State) (wing hall : Nat) : State :=
  let hk := wing * 128 + hall
  let moves := fun (i : Instr) => match i with
    | .voltageReplan w n (some _) => w == wing && n == hall
    | _ => false
  let due := (s.agenda.find? fun e => moves e.2).map (·.1)
  let s := { s with agenda := s.agenda.filter fun e => !moves e.2 }
  let go := fun (v : BitVec 8) => match due with
    | some d => s.at d (.voltageReplan wing hall (some v))
    | none => s.stepVoff wing hall v
  match s.plannedVoff hk with
  | some v => go v
  | none => if bits (s.dmapAt hk) 32 8 = 20 then s.retire wing hall else go 20

/-- VOLTAGE_REPLAN (R474 to R476): spares take unused numbers, and the firmware plans a hall's VOFF by its
monitors; or, with an offset given, VOFF moves one step to that plan. For a hall that retires it is the
retirement that goes on. -/
def execVoltageReplan (wing hall : Nat) (voff : Option (BitVec 8)) (s : State) : Answer :=
  match voff with
  | none =>
    let s := if s.retiring (wing * 128 + hall) then s else s.resigned (s.assignSpares wing)
    .next (s.planVoff wing hall)
  | some v => if v.toInt < -16 ∨ 20 < v.toInt then .next s else .next (s.stepVoff wing hall v)

/-! ### Power and the self-test (R9, R470, R471) -/

/-- What the package keeps without power: the firmware store with its defect map and RETN, the key of slot 0
(R477), what its monitors show, and the inputs to come. -/
def State.unpowered (s : State) (power : Bool) (dev : DevState) : State :=
  { State.reset with
    cycle := s.cycle, power := power, dev := dev, retn := s.retn,
    keys := s.keys.filter (fun e => e.1 == 0), firmware := s.firmware, monitors := s.monitors,
    dmap := s.dmap.map fun e => (e.1, withBits e.2 32 8 0),
    agenda := s.agenda.filter (fun e => isInput e.2), outside := s.outside, hostOut := s.hostOut, fresh := s.fresh,
    nextId := s.nextId }

/-- POWER_OFF (R9): the device span and every state end. -/
def execPowerOff (s : State) : Answer := .next (s.unpowered false .selfTest)

/-- POWER_ON (R470): the self-test starts. -/
def execPowerOn (s : State) : Answer :=
  if s.power then .next s else .next (s.unpowered true .selfTest)

/-- A wing with fewer than 64 usable user halls. -/
def State.shortWing (s : State) : Option Nat :=
  (steps 0 1 4).find? fun w => s.unusedNumbers w != []

/-- Failed halls take HOK 0 and give up their user hall numbers, which spares take (R470). -/
def State.markFailed (s : State) (failed : List Nat) : State :=
  (steps 0 1 4).foldl State.assignSpares
    (failed.foldl (fun s hk => s.setDmap hk (withBits (withBits (s.dmapAt hk) 17 1 0) 24 8 0xFF)) s)

/-- The firmware's signature holds under the key of slot 0 (R470, R477). -/
def State.firmwareGood (s : State) : Bool := s.verify 0 (sha512 s.firmware.image) s.firmware.sig == .valid

/-- FAILBLK (R471) of the first failing block, in the order of the steps of R470: the firmware, the base die,
the security engine, the HBM4 stacks, the wings (DEDUCED, log 115). -/
def State.failingBlock (s : State) (r : SelfTest) : Option Nat :=
  if !s.firmwareGood then some 3
  else if !r.baseDie then some 1
  else if !r.security then some 2
  else match (steps 0 1 8).find? r.hbm.contains with
    | some n => some (0x100 + n)
    | none => s.shortWing.map fun w => 0x200 + w

/-- The keys of slots 1 to 15 come from the firmware (R477). -/
def State.loadKeys (s : State) : State :=
  { s with keys := (s.keys.filter fun e => e.1 == 0) ++
             s.firmware.slots.filter fun e => decide (1 ≤ e.1 ∧ e.1 < 16) }

/-- SELF_TEST_DONE (R470, R471, R477): spares take the numbers of failed halls, and the map is signed; the part runs, its cycle
count from 0, or it is in the vestibule state. -/
def execSelfTestDone (r : SelfTest) (s : State) : Answer :=
  if !s.power || s.dev != .selfTest then .next s
  else
    let s := (s.markFailed r.halls).signMap
    match s.failingBlock r with
    | some b => .next { s with dev := .vestibule, failBlk := BitVec.ofNat 16 b }
    | none =>
      let s := s.loadKeys
      .next { s with dev := .running, cycle := 0,
                     agenda := s.agenda.map (fun e => (e.1 - s.cycle, e.2)),
                     outside := s.outside.map fun e => (e.1 - s.cycle, e.2) }

end Sys2Proof.Machine
end

