-- ==== Sys2Proof/Machine/Invalidate.lean ====
section
/-!
DEFINITION. Invalidations (R383, R384) and the fault limit of withheld accesses (R386).
-/

namespace Sys2Proof.Machine

/-! ### Invalidations (R384) -/

/-- What an invalidation covers: ISEL, VA[55:21], ASN (R383), and a page given by an ASN and an
address. -/
def invalCovers (i : Nat × Nat × Nat) (asn va : Nat) : Bool :=
  if i.1 = 0 then asn == i.2.2 && va / 2 ^ 21 == i.2.1
  else if i.1 = 1 then asn == i.2.2 && va / 2 ^ 33 == i.2.1 / 2 ^ 12
  else if i.1 = 2 then asn == i.2.2
  else true

/-- A TLB entry holds a page that an invalidation covers: a 2 MiB entry its own page, an 8 GiB entry
every page in it. -/
def TlbEntry.coveredBy (e : TlbEntry) (i : Nat × Nat × Nat) : Bool :=
  if e.large && i.1 == 0 then e.asn.toNat == i.2.2 && e.vpn == i.2.1 / 2 ^ 12
  else invalCovers i e.asn.toNat (e.vpn * (if e.large then 2 ^ 33 else 2 ^ 21))

/-- Every entry of the wing's four ports that an invalidation covers is removed. -/
def State.removeEntries (s : State) (wing : Nat) (i : Nat × Nat × Nat) : State :=
  { s with tlbs := s.tlbs.map fun p =>
      if p.1 / 4 == wing then (p.1, p.2.filter fun e => !e.coveredBy i) else p }

/-- The walks in flight of a wing that an invalidation covers. -/
def State.coveredWalks (s : State) (wing : Nat) (i : Nat × Nat × Nat) : List Nat :=
  (s.walks.filter fun e => e.2.port / 4 == wing && invalCovers i e.2.asn.toNat e.2.va.toNat).map (·.1)

/-- Walks in flight are discarded, and their accesses walked again (R384); the port tags that come free
serve the misses that wait for one (R382). -/
def State.discardWalks (s : State) (ids : List Nat) : State :=
  let lost := s.withheld.filter fun e => e.2.walk.any ids.contains
  let ports := (s.walks.filter fun e => ids.contains e.1).map (·.2.port)
  let s := { s with walks := s.walks.filter fun e => !ids.contains e.1 }
  let s := lost.foldl (fun s e =>
    (s.putWithheld { e.2 with walk := none, again := true }).joinWalk e.1) s
  ports.eraseDups.foldl State.wakeMisses s

/-- AN INVALIDATION in progress: entries go, covered walks are discarded, and it completes later. -/
def State.runInvalidation (s : State) (wing : Nat) (i : Nat × Nat × Nat) : State :=
  ((s.removeEntries wing i).discardWalks (s.coveredWalks wing i)).later 1 .invalidationComplete

/-- The invalidation of a wing that is in progress is this one. -/
def State.invalCurrent (s : State) (wing : Nat) (i : Nat × Nat × Nat) : Bool :=
  (mapGet [] wing s.invals).head? == some i

/-- INVALIDATE_PAGE (R384): ISEL 0. -/
def execInvalidatePage (wing : Nat) (va : BitVec 35) (asn : BitVec 11) (s : State) : Answer :=
  let i := (0, va.toNat, asn.toNat)
  if s.invalCurrent wing i then .next (s.runInvalidation wing i) else .next s

/-- INVALIDATE_REGION (R384): ISEL 1. -/
def execInvalidateRegion (wing : Nat) (va : BitVec 35) (asn : BitVec 11) (s : State) : Answer :=
  let i := (1, va.toNat, asn.toNat)
  if s.invalCurrent wing i then .next (s.runInvalidation wing i) else .next s

/-- The invalidation in progress in a wing is of a kind. -/
def State.invalHead (s : State) (wing : Nat) : Nat × Nat × Nat :=
  (mapGet [] wing s.invals).headD (4, 0, 0)

/-- INVALIDATE_ASN (R384): ISEL 2. -/
def execInvalidateAsn (wing : Nat) (asn : BitVec 11) (s : State) : Answer :=
  let i := s.invalHead wing
  if i.1 = 2 ∧ i.2.2 = asn.toNat then .next (s.runInvalidation wing i) else .next s

/-- INVALIDATE_ALL (R384): ISEL 3. -/
def execInvalidateAll (wing : Nat) (s : State) : Answer :=
  let i := s.invalHead wing
  if i.1 = 3 then .next (s.runInvalidation wing i) else .next s

/-- Withheld accesses of a wing whose page an invalidation covers, with no walk under way. -/
def State.coveredWaits (s : State) (wing : Nat) (i : Nat × Nat × Nat) : List Nat :=
  (s.withheld.filter fun e => e.2.hall / 128 == wing && e.2.failed && e.2.walk.isNone &&
    s.streamsLive e.2.load e.2.hall && invalCovers i e.2.asn.toNat e.2.va.toNat).map (·.1)

/-- An access of the wing whose walk was discarded has not been walked again (R384). -/
def State.rewalking (s : State) (wing : Nat) : Bool :=
  s.withheld.any fun e => e.2.hall / 128 == wing && e.2.again

/-- An invalidation finishes: no covered entry is left, ICNT counts it, withheld accesses that it covers
are walked again at once, and the next write to word 2306 that waits starts (R384, R385). -/
def State.endInvalidation (s : State) (wing : Nat) (i : Nat × Nat × Nat) : State :=
  let s := s.removeEntries wing i
  let w := s.sysCfg wing 2307
  let s := s.setSysCfg wing 2307 (withBits w 32 32 (bits w 32 32 + 1))
  let s := (s.coveredWaits wing i).foldl (fun s id => s.joinWalk id) s
  match (mapGet [] wing s.invals).tail with
  | [] => { s with invals := mapDel wing s.invals }
  | j :: js =>
    { s with invals := mapPut wing (j :: js) s.invals }.later 1
      (invalidationEvent wing j.1 j.2.1 j.2.2)

/-- An invalidation of a wing whose event has been carried out. -/
def State.invalStarted (s : State) (wing : Nat) : Bool :=
  (mapGet [] wing s.invals) != [] && s.agenda.all fun e =>
    match e.2 with
    | .invalidatePage w _ _ => w != wing
    | .invalidateRegion w _ _ => w != wing
    | .invalidateAsn w _ => w != wing
    | .invalidateAll w => w != wing
    | _ => true

/-- INVALIDATION_COMPLETE (R384), of the first wing with an invalidation under way, once the accesses of
the discarded walks have been walked again. -/
def execInvalidationComplete (s : State) : Answer :=
  match (steps 0 1 4).find? fun w => s.invalStarted w && !s.rewalking w with
  | some wing => .next (s.endInvalidation wing (s.invalHead wing))
  | none =>
    if (steps 0 1 4).any s.invalStarted then .next (s.retry .invalidationComplete) else .next s

/-! ### The fault limit (R386) -/

/-- The access of a load withheld longest; the lower stream number on a tie. -/
def State.longestWithheld (s : State) (h : Nat) : Option Withheld :=
  ((s.withheld.filter fun e => e.2.load == h && e.2.failed).map (·.2)).foldl (fun m w =>
    match m with
    | none => some w
    | some v => if w.since < v.since || (w.since == v.since && w.stream < v.stream) then some w
      else some v) none

/-- FLIM_EXPIRY (R386): a withheld access has waited FLIM cycles: its load is pre-empted, and stops
with PAGE_STALL once it is parked. One that comes early, because FLIM was raised, waits for its due cycle. -/
def execFlimExpiry (id : Nat) (s : State) : Answer :=
  match mapFind id s.withheld with
  | none => .next s
  | some w =>
    let due := w.since + s.walkLimit (w.hall / 128)
    if !w.failed || (s.loadAt w.load).state != .running then .next s
    else if s.cycle < due then .next (s.at due (.flimExpiry id))
    else
      match s.longestWithheld w.load with
      | none => .next s
      | some v =>
        .next (s.beginPreempt w.load
          (some [12, v.hall, v.stream, v.token, v.va.toNat, v.cause.toNat]))

end Sys2Proof.Machine
end

