-- ==== Sys2Proof/Machine/Launch.lean ====
section
/-!
DEFINITION. Launch queues and records (R353 to R357), kinds of launch (R358 to R361), selection,
victims and placement (R362 to R366), overlap and chaining (R367, R368), and the launch unit's part in
placing an image (R423 to R426). The launch units and the loader graph act through these events
(log 12).
-/

namespace Sys2Proof.Machine

/-! ### Launches and queues -/

/-- A launch replaced. -/
def State.setLaunch (s : State) (id : Nat) (t : Launch) : State :=
  { s with launches := mapPut id t s.launches }

/-- A queue's state, and its state replaced. -/
def State.queue (s : State) (q : Nat) : LaunchQueue := mapGet {} q s.queues
def State.setQueue (s : State) (q : Nat) (t : LaunchQueue) : State :=
  { s with queues := mapPut q t s.queues }

/-- Word 0 of a queue's descriptor (R353). -/
def State.queueConfig (s : State) (q : Nat) : Word64 := s.sysCfg (q / 16) (2048 + 2 * (q % 16))

/-- VALID, PRIO and 2^LSZ of a queue. -/
def State.queueValid (s : State) (q : Nat) : Bool := bitAt (s.queueConfig q) 63
def State.queuePrio (s : State) (q : Nat) : Nat := bits (s.queueConfig q) 60 3
def State.ringSize (s : State) (q : Nat) : Nat := 2 ^ min 12 (bits (s.queueConfig q) 56 4)

/-- BUSY (R353): a launch of the queue has started and has not completed. -/
def State.refreshBusy (s : State) (q : Nat) : State :=
  s.setQueue q { s.queue q with busy := s.launches.any fun e => e.2.queue == q && e.2.started }

/-- DOORBELL_WRITE (R354, R437). -/
def execDoorbellWrite (queue : BitVec 6) (v : Word64) (s : State) : Answer :=
  let n := queue.toNat
  let q := s.queue n
  let tail := v.setWidth 16
  if !s.power || s.dev != .running || !s.queueValid n || q.tail = tail then .next s
  else
    let err := s.ringSize n < (tail - q.head).toNat
    .next ((s.setQueue n { q with tail := tail, err := q.err || err }).within 1 64 .candidateStart)

/-! ### Records (R355, R356) -/

/-- A gallery shared address of n bytes. -/
def State.galleryAddr (s : State) (a n : Nat) : Bool :=
  match s.sharedKey (BitVec.ofNat 64 a) n with
  | some k => isGalleryKey k
  | none => false

/-- The limits of R356 on a record of 64 bytes. -/
def State.recordGood (s : State) (b : List Byte) : Bool :=
  let f := byteField b
  let kind := f 0 1
  let flags := f 1 1
  let chbOk := (steps 0 1 4).all fun i => f (44 + 2 * i) 2 / 2 ^ 13 % 4 == 0 && f (44 + 2 * i) 2 / 2 ^ 5 % 8 == 0
  kind < 4 && flags < 8 && f 4 4 < 64 && (kind != 0 || f 4 4 == 0) &&
  (1 < kind || (f 8 8 % 64 == 0 && f 8 8 < 2 ^ 52)) && 1 ≤ f 16 8 && f 16 8 ≤ 2 ^ 32 &&
  f 24 8 % 8 == 0 && s.galleryAddr (f 24 8) 8 &&
  (if flags / 4 % 2 = 1 then f 32 8 % 512 == 0 && s.galleryAddr (f 32 8) 512 else f 32 8 == 0) &&
  f 40 2 < 16 && f 42 2 == 0 && (if flags % 2 = 1 then chbOk else f 44 8 == 0) && f 52 12 == 0

/-- The launch that a record asks for. -/
def State.launchOf (s : State) (q : Nat) (b : List Byte) : Launch :=
  let f := byteField b
  let flag := fun (i : Nat) => f 1 1 / 2 ^ i % 2 == 1
  { queue := q, kind := if s.recordGood b then f 0 1 else 4, chain := flag 0, debug := flag 1,
    evid := flag 2, tag := BitVec.ofNat 16 (f 2 2), gid := f 4 4, image := f 8 8, imageLen := f 16 8,
    caddr := f 24 8, eaddr := f 32 8,
    wmask := BitVec.ofNat 4 (f 40 2), chb := BitVec.ofNat 64 (f 44 8) }

/-- The head record of a queue is read once, and HEAD advances past it (R355). A ring that runs past its gallery's end
goes on at the gallery's start (DESIGN CHOICE, log 129), and a record with poisoned words runs as its bits stand
(DESIGN CHOICE, log 130). -/
def State.readHead (s : State) (q : Nat) : State :=
  let t := s.queue q
  let unread := s.launches.all fun e => e.2.queue != q || e.2.started
  if s.queueValid q && !t.err && t.head != t.tail && unread then
    let off := (bits (s.queueConfig q) 0 26 + 64 * (t.head.toNat % s.ringSize q)) % 2 ^ 26
    let l := s.launchOf q (memBytes s.mem (galleryKey (q / 16) off) 64)
    let id := s.nextId
    (s.newId.setLaunch id l).setQueue q { t with head := t.head + 1 }
  else s

/-! ### Ends of launches (R357) -/

/-- What a placement holds is given back: its halls, channels, save areas, stage entries. -/
def State.freePlacing (s : State) (id : Nat) (t : Launch) : State :=
  let s := if t.placing then
      t.claimed.foldl (fun s hk => s.setIdentity hk false 0 0 0)
        (s.dropStages (t.current.getD 31))
    else s
  s.setLaunch id { t with placing := false, claimed := [], vcs := [], areas := [], job := [],
                          current := if t.placing then none else t.current }

/-- A launch ends with a STATUS, a CODE and a CAUSE; what was given to it is free. -/
def State.finishLaunch (s : State) (id st code cause : Nat) : State :=
  match mapFind id s.launches with
  | none => s
  | some t =>
    let s := s.freePlacing id t
    let t := mapGet t id s.launches
    (s.setLaunch id { t with status := some (st, code, cause) }).later 1 .completionWord

/-- A refusal by the loader: STATUS 3 with the CFG_REJECT cause of a detail word (R357, R458). -/
def State.refuse (s : State) (id : Nat) (detail : Word64) : State :=
  match mapFind id s.launches with
  | none => s
  | some t => (s.setLaunch id { t with detail := detail }).finishLaunch id 3 16 (bits detail 0 8)

/-- The completion word of R357. -/
def Launch.word (t : Launch) (st code cause : Nat) : Word64 :=
  BitVec.ofNat 64 (t.tag.toNat * 2 ^ 48 + cause % 256 * 2 ^ 40 + t.done % 256 * 2 ^ 32 +
    (if st = 0 then 0 else t.next % 256) * 2 ^ 24 + t.handle % 256 * 2 ^ 16 + code % 256 * 2 ^ 8 +
    st % 256)

/-- Bytes at a shared address, where it exists. -/
def State.storeShared (s : State) (a : Nat) (b : List Byte) : State :=
  match s.sharedKey (BitVec.ofNat 64 a) b.length with
  | some k => s.storeMarked k b []
  | none => s

/-- The evidence, then the completion word, then IPEND and the vector (R357, R438). A bad record whose
CADDR is no place for the word gets none (R356; log 56). -/
def State.writeCompletion (s : State) (t : Launch) (st code cause : Nat) : State :=
  let s := t.records.foldl (fun s r => s.storeShared (t.eaddr + 512 * r.1) r.2) s
  let place := if t.caddr % 8 = 0 && s.galleryAddr t.caddr 8 then
      s.sharedKey (BitVec.ofNat 64 t.caddr) 8
    else none
  match place with
  | none => s
  | some k =>
    let s := s.storeFull k (t.word st code cause)
    if bitAt s.ien t.queue then
      { s with ipend := s.ipend ||| BitVec.ofNat 64 (2 ^ t.queue) }.raiseMsix t.queue
    else s

/-- The loads of a launch that are committed for it. -/
def State.loadsOf (s : State) (id : Nat) : List Nat :=
  (s.loads.filter fun e => e.2.committed && e.2.launch == some id).map (·.1)

/-- Chain partners of a launch (R367, R368). -/
def State.partners (s : State) (id : Nat) : List Nat :=
  (s.launches.filter fun e => e.2.started && e.2.status.isNone &&
    (e.2.pred == some id ||
      (mapFind id s.launches).any fun t => t.pred == some e.1)).map (·.1)

/-- A launch's chain: its partners, and theirs, within a number of links. -/
def State.chainOf (s : State) : Nat → List Nat → List Nat
  | 0, l => l
  | n + 1, l => s.chainOf n ((l.flatMap s.partners).foldl (fun m i => setAdd i m) l)

/-- The loads of a launch's graph that are committed: of a resident graph, those of its other loads too. -/
def State.graphLoads (s : State) (id : Nat) : List Nat :=
  match mapFind id s.launches with
  | none => s.loadsOf id
  | some t =>
    let more := if 0 < t.kind && t.kind < 3 then (mapGet {} t.gid s.residents).loads else []
    more.foldl (fun m h => setAdd h m) (s.loadsOf id)

/-- A chain partner is torn down with STATUS 5, a resident graph with all its loads (R368). -/
def State.abortChain (s : State) (id : Nat) : State :=
  let hs := s.loadsOf id
  let all := s.graphLoads id
  let s := match mapFind id s.launches with
    | some t => hs.foldl (fun s h => s.setLaunch id (t.keepRecord (s.loadAt h))) s
    | none => s
  (all.foldl State.teardown s).finishLaunch id 5 0 0

/-- A launch is over: its loads that stay keep no launch, the resident graph that it ran or registered may run
again, a kind 1 graph that holds no load is not registered. -/
def State.dropEnded (s : State) (id : Nat) (t : Launch) : State :=
  let rs := s.residents.map fun e =>
    if (if t.kind = 1 then t.registered else t.kind == 2 && t.started) && e.1 == t.gid then (e.1, { e.2 with running := false })
    else e
  let ls := s.loads.map fun (e : Nat × Load) =>
    if e.2.launch == some id then (e.1, { e.2 with launch := none }) else e
  let ts := (mapDel id s.launches).map fun (e : Nat × Launch) =>
    if e.2.pred == some id then (e.1, { e.2 with pred := none }) else e
  let s := s.unstage id
  let s := { s with loads := ls, launches := ts,
                    residents := rs.filter (fun e => e.2.running || e.2.loads != []) }
  s.refreshBusy t.queue

/-- COMPLETION_WORD (R357, R438), of the first launch that has ended. -/
def execCompletionWord (s : State) : Answer :=
  match s.launches.find? fun e => e.2.status.isSome with
  | none => .next s
  | some (id, t) =>
    let e := t.status.getD (0, 0, 0)
    let t := match t.current, e.1 with
      | some h, 1 => t.keepRecord (s.loadAt h)
      | _, _ => t
    let mates := if e.1 = 1 then s.partners id else []
    let s := s.writeCompletion t e.1 e.2.1 e.2.2
    let s := mates.foldl State.abortChain s
    let s := (s.dropEnded id t).later 1 .candidateStart
    .next (if s.launches.any fun e => e.2.status.isSome then s.later 1 .completionWord else s)

/-! ### Starts (R362, R366) -/

/-- A launch starts: BUSY, its priority, LSEQ, and its place in the rotation and among starts. -/
def State.startLaunch (s : State) (id : Nat) : State :=
  match mapFind id s.launches with
  | none => s
  | some t =>
    if t.started then s
    else
      let wing := t.queue / 16
      let n := mapGet 0 wing s.lseq + 1
      let prio := s.queuePrio t.queue
      let counts := mapPut wing n s.lseq
      let s := s.setLaunch id { t with started := true, prio := prio, start := s.nextId, lseq := counts }
      ({ s.newId with lseq := counts,
                      rotation := mapPut (8 * wing + prio) (t.queue % 16) s.rotation }).refreshBusy t.queue

/-- A kind 1 launch registers its graph (R359). -/
def State.registerGraph (s : State) (id : Nat) : State :=
  match mapFind id s.launches with
  | none => s
  | some t =>
    if t.kind = 1 && (mapFind t.gid s.residents).isNone then
      let r : Resident := { running := true, image := t.image, imageLen := t.imageLen }
      { s.setLaunch id { t with registered := true } with residents := mapPut t.gid r s.residents }
    else s

/-! ### Choice of halls (R364, R365, R416, R419) -/

/-- Loads that a launch of a priority may pre-empt (R363), in the order of victims: suspended first,
then lower priority, then later start. Resident graphs and other loads are none. -/
def State.victims (s : State) (prio : Nat) : List Nat :=
  let cand := s.loads.filterMap fun e =>
    match e.2.launch.bind fun n => mapFind n s.launches with
    | some t =>
      let may := e.2.state == .running || e.2.state == .suspended || e.2.state == .preempting
      if t.kind = 0 && t.prio < prio && t.status.isNone && may && e.2.late.isNone then
        some ((if e.2.state == .suspended then 0 else 2 ^ 70) + t.prio * 2 ^ 64 +
          (2 ^ 64 - 1 - t.start % 2 ^ 64), e.1)
      else none
    | none => none
  (cand.foldl (fun m e => mapPut e.1 e.2 m) []).map (·.2)

/-- Halls of a victim in a wing, highest user hall number first. -/
def State.victimHalls (s : State) (wing h : Nat) : List Nat :=
  let mine := ((s.loadAt h).halls.filter fun e => e.inPlace && e.phys / 128 == wing).map (·.phys)
  ((mine.foldl (fun m hk => mapPut (s.userOfHall hk) hk m) []).map (·.2)).reverse

/-- How far a choice of halls may go: the free halls, those of the first n victims too, or any that no resident
graph holds. -/
inductive Reach | free | victims (n : Nat) | any
deriving DecidableEq, Repr

/-- A launch of a priority takes its victims in their order, no more of them than it needs (R363). -/
def State.victimReaches (s : State) (prio : Nat) : List Reach :=
  (steps 1 1 (s.victims prio).length).map .victims

/-- What a choice of halls is made for: a launch, its priority, how far it may go, and the free halls that
candidates before it need (R362). -/
structure Choice where
  launch : Launch
  prio : Nat
  reach : Reach
  avoid : List Nat
deriving DecidableEq, Repr

/-- Halls of a wing that a launch may be given, in the order of R365: those that no candidate before it needs
come first. -/
def State.hallPool (s : State) (c : Choice) (wing : Nat) : List Nat :=
  let claimed := fun (hk : Nat) => s.launches.any fun e => e.2.claimed.contains hk
  let free := (s.freeHalls wing).filter fun hk => !c.avoid.contains hk
  let held := fun (n : Nat) =>
    (((s.victims c.prio).take n).flatMap (s.victimHalls wing)).filter fun hk => !claimed hk
  let pool := match c.reach with
    | .free => free
    | .victims n => free ++ held n
    | .any =>
      let first := free ++ held (s.victims c.prio).length
      first ++ ((steps 0 1 64).filterMap (s.hallOfUser wing)).filter fun hk =>
        !first.contains hk && s.hallUsable hk && match s.ownerOf hk with
          | some h => (s.loadAt h).resident.isNone
          | none => true
  pool.filter fun hk => !c.launch.excluded.contains hk

/-- The ways to give n logical wings a physical wing each, lowest first. -/
def wingChoices : Nat → List Nat → List (List Nat)
  | 0, _ => [[]]
  | n + 1, ws => ws.flatMap fun w => (wingChoices n (ws.filter (· != w))).map (w :: ·)

/-- The image that a launch has staged, and its load k. -/
def State.stagedLoad (s : State) (id k : Nat) : ImgLoad := s.imgLoad (stageKey id) k

/-- What the logical halls of load k of a launch ask for. -/
def State.requests (s : State) (id k : Nat) : List (Option Nat) :=
  let l := s.stagedLoad id k
  (steps 0 1 l.halls).map (s.wanted (stageKey id) l)

/-- The ways to give load k of a launch its wings, within WMASK. -/
def State.wingsFor (s : State) (id k : Nat) (t : Launch) : List (List Nat) :=
  wingChoices (((s.stagedLoad id k).halls + 63) / 64)
    ((steps 0 1 4).filter fun w => t.wmask = 0 || t.wmask.getLsbD w)

/-- The halls of a load's logical halls in order, on a choice of wings. -/
def State.placeOn (s : State) (c : Choice) (reqs : List (Option Nat)) : List Nat → Option (List Nat)
  | [] => some []
  | w :: ws =>
    match s.pickHalls (s.hallPool c w) (reqs.take 64), s.placeOn c (reqs.drop 64) ws with
    | some a, some b => some (a ++ b)
    | _, _ => none

/-- The placements of load k of a launch, one on each choice of wings that has the halls, in order (R365,
R419). -/
def State.places (s : State) (id k : Nat) (c : Choice) : List (List Nat) :=
  (s.wingsFor id k c.launch).filterMap (s.placeOn c (s.requests id k))

/-- The requests of a load on a choice of wings, each with its wing. -/
def wingRequests (reqs : List (Option Nat)) : List Nat → List (Nat × Option Nat)
  | [] => []
  | w :: ws => (reqs.take 64).map (fun r => (w, r)) ++ wingRequests (reqs.drop 64) ws

/-- Loads that stay committed together fit in the halls that a launch may reach at most (R363). -/
def State.fit (s : State) (id : Nat) (c : Choice) : List Nat → List (Nat × Option Nat) → Bool
  | [], held => (steps 0 1 4).all fun w =>
      (s.pickHalls (s.hallPool c w) ((held.filter (·.1 == w)).map (·.2))).isSome
  | k :: ks, held => (s.wingsFor id k c.launch).any fun ws =>
      s.fit id c ks (held ++ wingRequests (s.requests id k) ws)

/-- R363: the graph of a launch could be placed with every non-resident hall of its wings: load by load,
or all loads together where they stay committed (kind 1). -/
def State.placeable (s : State) (id : Nat) (t : Launch) (prio : Nat) : Bool :=
  let c : Choice := { launch := t, prio := prio, reach := .any, avoid := [] }
  let left := steps t.next 1 (t.loads - t.next)
  if t.kind = 1 then s.fit id c left [] else left.all fun k => s.fit id c [k] []

/-! ### The other resources (R362, R366, R402, R482) -/

/-- The lowest handle that no committed load and no placement holds. -/
def State.freeHandle (s : State) : Option Nat :=
  (steps 0 1 28).find? fun h => !(s.loadAt h).committed &&
    s.launches.all fun e => !(e.2.placing && e.2.current == some h)

/-- The configuration of load k of a launch on its halls, nothing else standing there. -/
def State.drawn (s : State) (id k : Nat) (site : Site) : State :=
  (site.place.foldl State.clearHall s).scratch (stageKey id) (s.stagedLoad id k) site

/-- The stages of a placed load in a wing. -/
def State.stagesIn (s : State) (place : List Nat) (wing : Nat) : List Nat :=
  s.stagesOf ((s.placedCores place).filter fun c => wingOfCore c == wing)

/-- Stage entries of a wing that are free. -/
def State.freeStages (s : State) (wing : Nat) : List Nat :=
  (steps 0 1 32).filter fun n => !bitAt (s.sysCfg wing (416 + 3 * n)) 63

/-- A stage of a load that holds no stage entry of a wing yet. -/
def State.lacksEntry (s : State) (h wing q : Nat) : Bool :=
  (steps 0 1 32).all fun n =>
    let w := s.sysCfg wing (416 + 3 * n)
    !(bitAt w 63 && bits w 58 5 == h && bits (s.sysCfg wing (418 + 3 * n)) 0 5 == q)

/-- Stage entries for the stages of a load in its wings, whose configuration stands in `d` (R482): wing,
entry, word 2. None where other loads leave too few; more than 32 stages of a wing are the loader's to
refuse. -/
def State.stagePlan (s d : State) (h : Nat) (place : List Nat) : Option (List (Nat × Nat × Nat)) :=
  let acts := d.elasticOf (d.placedCores place)
  let word := fun (q : Nat) => q + match (acts.filterMap fun a =>
      if d.queueIn a.1 a.2 == some q then d.queueOut a.1 a.2 else none).head? with
    | some o => 2 ^ 10 + o * 2 ^ 5
    | none => 0
  let plans := (placeWings place).map fun w =>
    let qs := (d.stagesIn place w).filter (s.lacksEntry h w)
    let free := s.freeStages w
    if 32 < qs.length || qs.length ≤ free.length then
      some ((qs.zip free).map fun e => (w, e.2, word e.1))
    else none
  if plans.any (·.isNone) then none else some (plans.flatMap fun p => p.getD [])

/-- R482: the launch unit assigns stage entries to a load: VALID, LOAD and the queues. Limits and
thresholds are those that system software has written there (log 47). -/
def State.assignStages (s : State) (h : Nat) (plan : List (Nat × Nat × Nat)) : State :=
  plan.foldl (fun s e =>
    (s.setSysCfg e.1 (416 + 3 * e.2.1) (withBits (s.sysCfg e.1 (416 + 3 * e.2.1)) 58 6 (32 + h))).setSysCfg
      e.1 (418 + 3 * e.2.1) (BitVec.ofNat 64 e.2.2)) s

/-- What a placement gives a load. -/
structure Grant where
  site : Site
  areas : List (Nat × Nat)
  stages : List (Nat × Nat × Nat)
deriving DecidableEq, Repr

/-- Handle, channels, save areas and stage entries for a placement, where all are there (R362). -/
def State.grant (s : State) (id k : Nat) (place : List Nat) : Option Grant :=
  let ws := placeWings place
  let vcs := ws.filterMap fun w => (s.freeChannel w).map fun v => (w, v)
  let areas := s.reserveAreas place
  match s.freeHandle with
  | none => none
  | some h =>
    let site : Site := { place := place, handle := h, vcs := vcs }
    if vcs.length = ws.length ∧ areas.length = ws.length then
      (s.stagePlan (s.drawn id k site) h place).map fun p => { site := site, areas := areas, stages := p }
    else none

/-! ### Chain bindings (R368) -/

/-- The valid bindings of a launch: own queue, the predecessor's queue. -/
def Launch.bindings (t : Launch) : List (Nat × Nat) :=
  (steps 0 1 4).filterMap fun n =>
    if bitAt t.chb (16 * n + 15) then some (bits t.chb (16 * n + 8) 5, bits t.chb (16 * n) 5) else none

/-- The predecessor's last load, once it is committed. -/
def State.lastLoad (s : State) (p : Nat) : Option Nat :=
  match mapFind p s.launches with
  | some t => if t.next + 1 = t.loads && !t.placing then t.current else none
  | none => none

/-- A binding that R368 accepts, in the drawn configuration of the successor. -/
def State.bindingOk (s : State) (place : List Nat) (hp : Nat) (b : Nat × Nat) : Bool :=
  let users := (s.placedCores place).filter fun c =>
    (s.actorsOf c).any fun a => s.queueIn c a == some b.1
  let sinks := (s.streamsIn place).filter fun e => s.isQueue e.1 e.2 && s.isSink e.1 e.2 &&
    s.streamUnit e.1 e.2 == b.1
  let own := place.find? fun hk => bitAt (s.queueWord hk b.1 0) 63
  match s.homeOf hp b.2, s.queueHall hp b.2, own with
  | some (home, _), some hk, some mine =>
    isGalleryKey home && s.queueSize mine b.1 == s.queueSize hk b.2 &&
      ((users.map wingOfCore) ++ sinks.map fun (e : Nat × Nat) => e.1 / 128).contains (wingOfKey home)
  | _, _, _ => false

/-- A bound queue of a successor is its predecessor's: home, descriptor and slots. -/
def State.bindQueue (h hp : Nat) (s : State) (b : Nat × Nat) : State :=
  match s.queueHall hp b.2 with
  | none => s
  | some from' =>
    let w0 := s.queueWord from' b.2 0
    let w1 := s.queueWord from' b.2 1
    let mine := ((s.loadAt h).halls.map (·.phys)).filter fun hk => bitAt (s.queueWord hk b.1 0) 63
    let l := s.loadAt h
    let words := mine.flatMap fun hk => (steps (384 + 4 * b.1) 1 2).map fun n =>
      (cfgKey (hallUnits hk) 6 n, s.hallCfg hk n)
    let s := s.setLoad h { l with ownWords := l.ownWords ++ words }
    let s := mine.foldl (fun s hk =>
      (s.setHallCfg hk (384 + 4 * b.1) w0).setHallCfg hk (385 + 4 * b.1)
        (withBits (s.queueWord hk b.1 1) 62 2 (bits w1 62 2))) s
    { s with qbind := mapPut (32 * h + b.1) (32 * hp + b.2) s.qbind }

/-- A re-armed load has its own queue descriptors again (R360, R368). -/
def State.unbindQueues (s : State) (h : Nat) : State :=
  let l := s.loadAt h
  let s := l.ownWords.foldl (fun s e => s.setCfg (e.1 / 2 ^ 34) 6 (e.1 % 2 ^ 30) e.2) s
  { s.setLoad h { l with ownWords := [] } with qbind := s.qbind.filter fun e => e.1 / 32 != h }

/-- A successor's first load is bound to its predecessor's last (R368). -/
def State.bindLoad (s : State) (h : Nat) (t : Launch) : State :=
  match t.pred.bind s.lastLoad with
  | some hp => if t.next = 0 then t.bindings.foldl (State.bindQueue h hp) s else s
  | none => s

/-! ### Placing (R423 to R426) -/

/-- The outcome word of the placing stage (R426). -/
def outcomeWord (tile cst status : Nat) : Word64 :=
  BitVec.ofNat 64 (tile * 2 ^ 16 + cst * 2 ^ 8 + status)

/-- The PLACE word for a hall of a load (R425). -/
def State.placeWord (s : State) (site : Site) (debug : Bool) : Word64 :=
  let hk := site.place.headD 0
  BitVec.ofNat 64 ((if debug then 2 ^ 40 else 0) + mapGet 0 (hk / 128) site.vcs * 2 ^ 32 +
    site.handle * 2 ^ 24 + s.userOfHall hk * 2 ^ 16 + hk % 128 * 2 ^ 8 + hk / 128)

/-- The job token of the placing stage (R425): the addresses of the staged image and of the outcome word,
and between them the PLACE word, which names the load's first hall (log 79). -/
def State.jobToken (s : State) (id : Nat) (site : Site) (debug : Bool) : List Byte :=
  let wing := site.place.headD 0 / 128
  natToBytes 8 (loaderAddress id wing false) ++ natToBytes 8 (s.placeWord site debug).toNat ++
    natToBytes 8 (loaderAddress id wing true) ++ List.replicate 40 0

/-- PLACE of a launch's job token. -/
def Launch.placeWord (t : Launch) : Word64 := BitVec.ofNat 64 (byteField t.job 8 8)

/-- The chain part of a start: wait, refuse, or go on. -/
def State.chainReady (s : State) (t : Launch) (place : List Nat) (d : State) : Option Bool :=
  if t.next ≠ 0 ∨ t.bindings = [] then some true
  else
    match t.pred with
    | none => some false
    | some p =>
      if (mapFind p s.launches).all fun x => x.status.isSome then some false
      else
        match s.lastLoad p with
        | none => none
        | some hp => some (t.bindings.all (d.bindingOk place hp))

/-- The first refusal of the loads of a launch after the one that is placed first, each drawn on halls that
it might be given (R423). FLOAD of its completion is the index of the load being placed (DESIGN CHOICE, log 131). -/
def State.laterRefusal (s : State) (id : Nat) (t : Launch) : Option Word64 :=
  let c : Choice := { launch := t, prio := 0, reach := .any, avoid := [] }
  if t.next ≠ 0 then none
  else (steps 1 1 (t.loads - 1)).findSome? fun k =>
    match s.places id k c with
    | [] => none
    | place :: _ =>
      let site : Site := { place := place, handle := 31, vcs := [] }
      (s.drawn id k site).admissionCause (stageKey id) 31 (s.stagedLoad id k) place

/-- A launch's load goes to the loader graph on its halls: the copy in its first wing's gallery, admission,
before the first load for the whole image, then the placing stage, whose outcome arrives later (R423 to
R426). -/
def State.beginPlacing (s : State) (id : Nat) (g : Grant) : Option State :=
  let s := s.startLaunch id
  match mapFind id s.launches with
  | none => none
  | some t =>
    let place := g.site.place
    let s := (s.registerGraph id).stageInGallery id (place.headD 0 / 128) t.imageLen
    let t := mapGet t id s.launches
    let h := g.site.handle
    let d := (s.drawn id t.next g.site).assignStages h g.stages
    match s.chainReady t place d with
    | none => none
    | some false => some (s.finishLaunch id 3 16 16)
    | some true =>
      match (d.admissionCause (stageKey id) h (s.stagedLoad id t.next) place).orElse
          fun _ => s.laterRefusal id t with
      | some c => some (s.refuse id c)
      | none =>
        let s := place.foldl (fun s hk => s.setIdentity hk true h 1 (lseqIn t.lseq hk)) s
        let s := (s.assignStages h g.stages).setLaunch id
          { t with placing := true, claimed := place, current := some h, vcs := g.site.vcs,
                   areas := g.areas, job := s.jobToken id g.site t.debug }
        some (s.later 1 (.placingOutcome id 0))

/-- The load is committed on its halls (R231, R424). -/
def State.commitPlaced (s : State) (id : Nat) (t : Launch) (site : Site) (debug : Bool) : State :=
  let h := site.handle
  let l := s.placedLoad (stageKey id) t.next site t.areas debug
  let l := { l with launch := some id, resident := if t.kind = 1 then some t.gid else none,
                    image := t.image, imageLen := t.imageLen, lseq := t.lseq }
  let s := (s.commitLoad h l).bindLoad h t
  let s := match mapFind t.gid s.residents with
    | some r => if t.kind = 1 then
        { s with residents := mapPut t.gid { r with loads := r.loads ++ [h] } s.residents }
      else s
    | none => s
  s.setLaunch id { t with placing := false, claimed := [], vcs := [], areas := [], job := [],
                          handle := if t.next = 0 then h else t.handle }

/-- What the placing stage writes of the records of tile t (R420, R424): unit, space, offset and data. -/
def State.tileWords (s : State) (img : Nat) (l : ImgLoad) (site : Site) (t : Nat) :
    List (Nat × Nat × Nat × Word64) :=
  (s.tileRecords img l t).flatMap (s.relocate site (t / 17))

/-- CFGABORT by the placing stage, on the state from before its writes (R231, R424, R428): written words of
stores are 0 and empty, written words of the system halls invalid, and the halls unconfigured. -/
def State.abortPlacing (s : State) (site : Site) (words : List (Nat × Nat × Nat × Word64)) : State :=
  let s := words.foldl (fun s w =>
    if s.unitUsable w.1 then s.unwrite (cfgKey w.1 w.2.1 w.2.2.1) else s) s
  site.place.foldl State.fillCode s

/-- The first route address of a load whose entry another load holds (R229). -/
def State.routeClash (s : State) (img : Nat) (l : ImgLoad) (site : Site) : Option Nat :=
  ((s.routeTree site.place site.vcs (s.routeRecs img l)).find? fun e =>
    s.routeHeld (e.1 / 256) (e.1 % 256)).map fun e => e.1 / 256 * 2 ^ 39 + e.1 % 256

/-- A word of a tile lies in a unit that an open transaction of a system context has (R229). -/
def State.wordTaken (s : State) (w : Nat × Nat × Nat × Word64) : Bool := s.targetTaken 0 0 w.1

/-- The record of a CFG_REJECT raised in the loader by an RTW or a CFGW, neither of which names a load, in
the launch unit's wing (R458): the cause and [31:0] of the form's address. It is raised in a firing of the loader,
so a continuation record follows (R461, R462), with the counts 0 that the spec's placing actor has at those forms;
PC and FIX are 0 (DESIGN CHOICE, log 79). -/
def State.loaderRecord (s : State) (wing cause a : Nat) : State :=
  s.logFault { wing := wing, flags := 82, load := 255, core := 4096 + wing * 1024,
               phys := physOf (systemHall wing * 32) }
    { code := codeReject, detail := BitVec.ofNat 64 (cause + 2 ^ 32 * (a % 2 ^ 32)) } (some {})

/-- The status of the placing stage's CFGCOMMIT (R231). -/
def State.placingCommit (s : State) (site : Site) : Nat :=
  if (s.loadAt site.handle).committed then 3
  else if site.vcs.any fun v => s.loads.any fun l => l.2.committed && l.2.vcs.contains v then 4
  else 0

/-- THE PLACING STAGE (R423, R424, R426): its checks in the order of the spec's placing actor, the
configuration, the commit; the state that it leaves and its outcome word. A CFG_REJECT of its own, by an RTW
or by a CFGW whose target another transaction has (R229), ends it as a refused commit does (log 79). -/
def State.placingStage (s : State) (id : Nat) (t : Launch) : State × Word64 :=
  let img := stageKey id
  let l := s.stagedLoad id t.next
  let p := t.placeWord
  let site : Site := { place := t.claimed, handle := bits p 24 5, vcs := t.vcs }
  let st := s.signedStatus img
  if st ≠ 0 then (s, outcomeWord 0 0 st)
  else if site.place.any fun hk => !s.hallUsable hk then (s, outcomeWord 0 0 6)
  else if !s.loadOk img t.imageLen t.next then (s, outcomeWord 0 0 7)
  else
    match s.routeClash img l site with
    | some a => (s.loaderRecord (t.queue / 16) 3 a, outcomeWord 0 0 5)
    | none =>
      let r := (site.place.foldl State.fillCode s).placeImage img l site
      let words := fun (n : Nat) => (steps 0 1 n).flatMap (s.tileWords img l site)
      let tile := r.2.1
      let met := (steps 0 1 (if r.2.2 = 0 then tile else if r.2.2 = 4 then tile + 1 else tile)).find? fun t =>
        (s.tileWords img l site t).any s.wordTaken
      match met, (met.map fun t => words (t + 1)).bind fun ws => ws.find? s.wordTaken with
      | some t', some w =>
        let s' := s.abortPlacing site ((words (t' + 1)).takeWhile fun w => !s.wordTaken w)
        (s'.loaderRecord (t.queue / 16) 2 (cfgKey w.1 w.2.1 w.2.2.1), outcomeWord t' 0 5)
      | _, _ =>
        if r.2.2 ≠ 0 then
          (s.abortPlacing site (words (if r.2.2 = 4 then tile + 1 else tile)), outcomeWord tile 0 r.2.2)
        else
          let c := s.placingCommit site
          if c ≠ 0 then (s.abortPlacing site (words tile), outcomeWord tile c 5)
          else (r.1.commitPlaced id t site (bitAt p 40), outcomeWord tile 0 0)

/-- A placing stage that ends by itself with an outcome word other than 0: the words that it wrote up to the
tile reached are taken back first (R424, R428); those of a tile at which STATUS 7 ends it are taken for written
(log 79). -/
def State.placingFails (s : State) (id : Nat) (t : Launch) (word : Word64) : State :=
  let st := bits word 0 8
  let tile := bits word 16 16
  let site : Site := { place := t.claimed, handle := bits t.placeWord 24 5, vcs := t.vcs }
  let l := s.stagedLoad id t.next
  if st = 3 ∨ st = 4 ∨ st = 5 ∨ st = 7 then
    s.abortPlacing site ((steps 0 1 (min (17 * l.halls) (if st = 4 ∨ st = 7 then tile + 1 else tile))).flatMap
      (s.tileWords (stageKey id) l site))
  else s

/-- The end of a placing stage and its outcome word: what the stage comes to, or what an event says. -/
def State.placingEnd (s : State) (id : Nat) (t : Launch) (word : Word64) : State × Word64 :=
  if bits word 0 8 = 0 then s.placingStage id t else (s.placingFails id t word, word)

/-- The launch unit acts on an outcome word that reports a failure (R426). -/
def State.actOnOutcome (s : State) (id : Nat) (t : Launch) (word : Word64) : State :=
  let st := bits word 0 8
  if st = 1 ∨ st = 2 ∨ st = 3 ∨ st = 7 then s.refuse id (BitVec.ofNat 64 (0x80 + st))
  else if st = 4 then
    let bad := t.claimed.getD (bits word 16 16 / 17) 0
    let s := { s with reports := setAdd bad s.reports }
    (s.freePlacing id { t with excluded := setAdd bad t.excluded }).later 1 .candidateStart
  else s.finishLaunch id 7 0 0

/-- PLACING_OUTCOME (R424 to R426): the placing stage runs to its end and writes its outcome word full,
and the launch unit, which waits on that word, acts on it: a load whose launch has been pre-empted meanwhile
receives PREQ at once (R363). An event that carries a STATUS other than 0 stands for a stage that ends so by
itself. -/
def execPlacingOutcome (launch : Nat) (word : Word64) (s : State) : Answer :=
  match mapFind launch s.launches with
  | none => .next s
  | some t =>
    if !t.placing then .next s
    else
      let r := s.placingEnd launch t word
      let s := r.1.storeFull (loaderKey launch (t.claimed.headD 0 / 128) true) r.2
      if bits r.2 0 8 ≠ 0 then .next (s.actOnOutcome launch t r.2)
      else if t.suspended then .next (s.beginPreempt (t.current.getD 31) none)
      else .next s

/-! ### Claims of victims' halls (R363, R408) -/

/-- Committed loads that hold claimed halls in place. -/
def State.holders (s : State) (halls : List Nat) : List Nat :=
  halls.foldl (fun m hk => match s.ownerOf hk with
    | some h => setAdd h m
    | none => m) []

/-- A launch between two loads (R358). -/
def Launch.between (t : Launch) : Bool :=
  t.started && t.status.isNone && !t.placing && !t.suspended && t.current.isNone

/-- A launch is pre-empted: its running load receives PREQ; one whose next load is being placed or has not
been yet goes on no further. -/
def State.preemptLaunch (s : State) (id : Nat) : State :=
  match mapFind id s.launches with
  | none => s
  | some t =>
    let run := (s.loadsOf id).filter fun h => (s.loadAt h).state == .running
    if run = [] && !t.placing && !t.between then s
    else (run.foldl (fun s h => s.beginPreempt h none) s).setLaunch id { t with suspended := true }

/-- A victim is pre-empted, its whole chain with it (R363). -/
def State.preemptVictim (s : State) (h : Nat) : State :=
  match (s.loadAt h).launch with
  | some n => (s.chainOf s.launches.length [n]).foldl State.preemptLaunch s
  | none => s

/-- Claimed halls of a suspended load are written out (R408). -/
def State.claimHalls (s : State) (h : Nat) (halls : List Nat) : State :=
  (s.loadAt h).halls.zipIdx.foldl (fun s e =>
    let i := Instr.hallWriteOut h e.2
    if e.1.inPlace && halls.contains e.1.phys && !(s.agenda.any fun a => a.2 == i) then s.later 1 i
    else s) s

/-- One step toward claimed halls: running holders are pre-empted, suspended ones written out; a holder
that has stopped ends the claim. None when there is nothing to do but wait. -/
def State.stepClaims (s : State) (id : Nat) (t : Launch) : Option State :=
  let hs := s.holders t.claimed
  if hs.any fun h =>
      let st := (s.loadAt h).state
      st == .stopping || st == .stopped || st == .frozen || (s.loadAt h).late.isSome then
    some (s.setLaunch id { t with claimed := [] })
  else
    let s' := hs.foldl (fun s h =>
      match (s.loadAt h).state with
      | .running => s.preemptVictim h
      | .suspended => s.claimHalls h t.claimed
      | _ => s) s
    if s' = s then none else some s'

/-- A placement that needs victims' halls: the claim stands, and its first step is taken. -/
def State.claimPlace (s : State) (id : Nat) (place : List Nat) : State :=
  let s := (s.startLaunch id).registerGraph id
  match mapFind id s.launches with
  | none => s
  | some t =>
    let t := { t with claimed := place }
    let s := s.setLaunch id t
    (s.stepClaims id t).getD s

/-! ### Candidates -/

/-- The first stage of the loader graph (R423): the image is copied, and its form checked (R413, R415 to
R418, R421); malformation gives STATUS 3. -/
def State.stageLaunch (s : State) (id : Nat) (t : Launch) : State :=
  let refused := fun (s : State) => (s.startLaunch id).refuse id 0x87
  if !s.imageBacked t.image t.imageLen then refused s
  else
    let s := s.stage id t.image t.imageLen
    let img := stageKey id
    if !s.headerOk img t.imageLen then refused s
    else
      let n := (s.imgHeader img).loads
      if (steps 0 1 n).any fun k => !s.loadOk img t.imageLen k then refused s
      else s.setLaunch id { t with staged := true, loads := n }

/-- The next load of a cold launch whose image is staged: refused, placed, its halls claimed, or waiting
(none). -/
def State.placeNext (s : State) (id : Nat) (t : Launch) (avoid : List Nat) : Option State :=
  let prio := if t.started then t.prio else s.queuePrio t.queue
  let pick := fun (r : Reach) =>
    s.places id t.next { launch := t, prio := prio, reach := r, avoid := avoid }
  if t.claimed ≠ [] then
    if s.holders t.claimed ≠ [] then s.stepClaims id t
    else
      let s' := s.setLaunch id { t with claimed := [] }
      (s'.grant id t.next t.claimed).bind (s'.beginPlacing id)
  else if !s.placeable id t prio then some ((s.startLaunch id).finishLaunch id 7 0 0)
  else
    match (pick .free).findSome? (s.grant id t.next) with
    | some g => s.beginPlacing id g
    | none =>
      if pick .free ≠ [] then none
      else ((s.victimReaches prio).findSome? fun r => (pick r).find? fun p =>
        (s.grant id t.next p).isSome).map (s.claimPlace id)

/-- The next load of a cold launch; a launch taken up for the first time has its image staged. -/
def State.tryPlace (s : State) (id : Nat) (t : Launch) (avoid : List Nat) : Option State :=
  if t.staged then s.placeNext id t avoid
  else
    let s := s.stageLaunch id t
    match mapFind id s.launches with
    | some t => if t.status.isSome then some s else some ((s.placeNext id t avoid).getD s)
    | none => none

/-- Trigger entries of a load take the VALID bits that they had at commit (R360). -/
def State.restoreValids (s : State) (l : Load) : State :=
  l.valids.foldl (fun s v => windows.foldl (fun s e =>
    s.setCfg v.1 3 e (withBits (s.entry v.1 e) 0 1 (if v.2.getLsbD e then 1 else 0))) s) s

/-- Every register that a re-arm has written carries D (R360, R407). -/
def State.markRearmed (s : State) (cores : List Nat) : State :=
  cores.foldl (fun s c => (steps 0 1 4).foldl (fun s x =>
    let t := s.ctx c x
    s.setCtx c x { t with
      regDirty := (liveKeys (s.keepUnion c x)).foldl (fun m k => setAdd k m) t.regDirty }) s) s

/-- RE-ARM (R360) of a resident load for a launch, whose stages have their entries again (R482). The
mode is 0 (R127; log 81). -/
def State.rearm (s : State) (id h : Nat) (t : Launch) (stages : List (Nat × Nat × Nat)) : State :=
  let s := (s.unbindQueues h).assignStages h stages
  let l := s.loadAt h
  let s := (s.restoreValids l).closeSessions h
  let s := s.setLoad h { l with state := .running, launch := some id, debug := t.debug, det := [],
                                overflow := 0, mode := 0, draining := false, paused := false,
                                targets := false, code := none, late := none, hang := 0, drainAge := 0,
                                timers := [], lseq := t.lseq }
  let s := s.setLaunch id { t with current := some h, handle := if t.next = 0 then h else t.handle }
  let s := (l.halls.filter (·.inPlace)).foldl
    (fun s e => s.setIdentity e.phys true h 4 (lseqIn t.lseq e.phys)) s
  ((s.armLoad h).markRearmed l.cores).bindLoad h t

/-- A resident load in place starts (R360): re-armed, once there are entries for its stages and its
chain, where it has one, is joined (R368, R482). -/
def State.startInPlace (s : State) (id : Nat) (t : Launch) (h : Nat) : Option State :=
  let place := (s.loadAt h).halls.map (·.phys)
  match s.chainReady t place (s.unbindQueues h) with
  | none => none
  | some false => some (s.finishLaunch id 3 16 16)
  | some true =>
    (s.stagePlan ((s.unbindQueues h).restoreValids (s.loadAt h)) h place).map (s.rearm id h t)

/-- Halls that a load's written-out halls would be given, victims' halls or any others among them. -/
def State.resumeHalls (s : State) (t : Launch) (l : Load) (avoid : List Nat) (reach : Reach) :
    Option (List Nat) :=
  let prio := if t.started then t.prio else s.queuePrio t.queue
  let c : Choice := { launch := t, prio := prio, reach := reach, avoid := avoid }
  let picks := l.wingsOf.map fun w => s.pickHalls (s.hallPool c w) ((s.outIn l w).map (·.2))
  if picks.any (·.isNone) then none else some (picks.flatMap fun p => p.getD [])

/-- Those halls with the victims that it takes, the first few that suffice. -/
def State.victimResume (s : State) (t : Launch) (l : Load) (avoid : List Nat) : Option (List Nat) :=
  (s.victimReaches (if t.started then t.prio else s.queuePrio t.queue)).findSome? (s.resumeHalls t l avoid)

/-- A launch claims the victims' halls that its load needs to be restored (R363, R365). -/
def State.claimRestore (s : State) (id : Nat) (t : Launch) (l : Load) (avoid : List Nat) : Option State :=
  match s.victimResume t l avoid with
  | none => none
  | some halls =>
    let held := halls.filter fun hk => (s.ownerOf hk).isSome
    if held = [] then none
    else
      let t := { t with claimed := held }
      let s := s.setLaunch id t
      some ((s.stepClaims id t).getD s)

/-- Load k of a resident graph starts, restored onto free halls first where a retirement has written it out,
without which the launch gives STATUS 7 (R476). None while it waits: for free halls that candidates before it
need, or for channels (R362), or while a hall of it retires (R475). -/
def State.startResident (s : State) (id : Nat) (t : Launch) (h : Nat) (avoid : List Nat) : Option State :=
  let l := s.loadAt h
  match l.state with
  | .residentIdle => s.startInPlace id t h
  | .suspended =>
    if s.hallClaimed l then none else
    match s.restorePlan l avoid with
    | some plan =>
      match s.restoreChannels l with
      | none => none
      | some vcs =>
        if !s.restoreCrc l plan then some (s.finishLaunch id 7 0 0)
        else (if plan = [] then s else s.restoreHalls h plan vcs).startInPlace id t h
    | none => if (s.restorePlan l []).isNone then some (s.finishLaunch id 7 0 0) else none
  | _ => none

/-- A resident run that has not started or is between loads (R359). -/
def State.tryResident (s : State) (id : Nat) (t : Launch) (avoid : List Nat) : Option State :=
  match mapFind t.gid s.residents with
  | none => some (s.finishLaunch id 4 0 0)
  | some r =>
    let idle := r.loads.all fun h =>
      let st := (s.loadAt h).state
      st == .residentIdle || st == .suspended
    if !t.started && (r.running || !idle) then none
    else
      let t := { t with loads := r.loads.length }
      let s := (s.setLaunch id t).startLaunch id
      let s := { s with residents := mapPut t.gid { r with running := true } s.residents }
      match mapFind id s.launches, r.loads[t.next]? with
      | some t, some h => s.startResident id t h avoid
      | _, _ => some (s.finishLaunch id 4 0 0)

/-- A release (R359): the loads' records are kept for the evidence area, and the loads torn down. -/
def State.tryRelease (s : State) (id : Nat) (t : Launch) : Option State :=
  match mapFind t.gid s.residents with
  | none => some (s.finishLaunch id 4 0 0)
  | some r =>
    if r.running then none
    else
      let s := s.startLaunch id
      let s := match mapFind id s.launches with
        | some t =>
          let keep := fun (t : Launch) (e : Nat × Nat) =>
            ({ t with next := e.2 } : Launch).keepRecord (s.loadAt e.1)
          s.setLaunch id { r.loads.zipIdx.foldl keep t with next := 0, handle := r.loads.headD 0 }
        | none => s
      let s := r.loads.foldl State.teardown s
      some ({ s with residents := mapDel t.gid s.residents }.finishLaunch id 6 0 0)

/-- A suspended launch resumes: on free halls, or on those of victims (R362, R363, R365), unless a hall of its
load is claimed or retires (R408, R475). One that had no load when its chain was pre-empted goes on once the chain's loads have
resumed. -/
def State.tryResume (s : State) (id : Nat) (t : Launch) (avoid : List Nat) : Option State :=
  match t.current with
  | none =>
    let waits := (s.chainOf s.launches.length [id]).any fun n =>
      match mapFind n s.launches with
      | some m => m.suspended && m.current.isSome
      | none => false
    if waits then none else some (s.setLaunch id { t with suspended := false })
  | some h =>
    let l := s.loadAt h
    match l.state with
    | .suspended =>
      if s.hallClaimed l then none
      else if s.holders t.claimed ≠ [] then s.stepClaims id t
      else
        let s := s.setLaunch id { t with claimed := [] }
        let r := s.resumeLoad h avoid
        if r.2 = 0 then some r.1
        else if r.2 ≠ 5 || (s.restoreChannels l).isNone then none
        else s.claimRestore id t l avoid
    | .running => some (s.setLaunch id { t with suspended := false, claimed := [] })
    | _ => none

/-- A launch that has not started may (R362, R367): nothing of its queue is before it, or it is chained
and all that is has started. -/
def State.mayStart (s : State) (id : Nat) (t : Launch) : Bool :=
  !t.started && t.status.isNone && s.launches.all fun e =>
    e.2.queue != t.queue || id ≤ e.1 || (t.chain && e.2.started)

/-- A chained launch is bound to the latest launch of its queue before it (R367). -/
def State.bindPred (s : State) (id : Nat) (t : Launch) : State :=
  let before := (s.launches.filter fun e => e.2.queue == t.queue && e.1 < id).map (·.1)
  if t.chain && t.pred.isNone && !t.started then s.setLaunch id { t with pred := before.getLast? }
  else s

/-- A kind of launch that has not started tries to, on halls that no candidate before it needs. -/
def State.tryStart (s : State) (id kind : Nat) (avoid : List Nat) : Option State :=
  match mapFind id s.launches with
  | none => none
  | some t =>
    if t.kind ≠ kind || !s.mayStart id t then none
    else
      let s := s.bindPred id t
      let t := mapGet t id s.launches
      if kind = 0 then s.tryPlace id t avoid
      else if kind = 1 then
        if (mapFind t.gid s.residents).isSome && t.claimed = [] then some (s.finishLaunch id 4 0 0)
        else s.tryPlace id t avoid
      else if kind = 2 then s.tryResident id t avoid
      else if kind = 3 then s.tryRelease id t
      else some (s.finishLaunch id 2 0 0)

/-- The launch event of a kind. -/
def launchEvent (kind queue : Nat) : Instr :=
  let q := BitVec.ofNat 6 queue
  if kind = 0 then .launchCold q else if kind = 1 then .launchColdResident q
  else if kind = 2 then .launchResidentRun q else .launchRelease q

/-- What a candidate does now, where it can do something. -/
def State.tryCandidate (s : State) (id : Nat) (avoid : List Nat) : Option State :=
  match mapFind id s.launches with
  | none => none
  | some t =>
    if t.suspended then s.tryResume id t avoid
    else if t.between then
      if t.kind = 2 then s.tryResident id t avoid else s.tryPlace id t avoid
    else if s.mayStart id t then
      if t.kind = 4 then s.tryStart id 4 avoid
      else if (s.tryStart id t.kind avoid).isSome then some (s.at s.cycle (launchEvent t.kind t.queue))
      else none
    else none

/-- The free halls that a waiting candidate needs, which those after it leave alone (R362; log 82): those
that it has claimed, that it would be given now, or of those that it could be given at most. -/
def State.hallsNeeded (s : State) (id : Nat) (avoid : List Nat) : List Nat :=
  match mapFind id s.launches with
  | none => []
  | some t =>
    let prio := if t.started then t.prio else s.queuePrio t.queue
    let pick := fun (r : Reach) =>
      s.places id t.next { launch := t, prio := prio, reach := r, avoid := avoid }
    let back := fun (h : Nat) (r : Reach) => s.resumeHalls t (s.loadAt h) avoid r
    let reaches := .free :: s.victimReaches prio ++ [.any]
    let want := if t.claimed ≠ [] then t.claimed
      else if t.suspended then (t.current.bind fun h => reaches.findSome? (back h)).getD []
      else if t.kind = 2 then
        (((mapGet {} t.gid s.residents).loads[t.next]?).bind fun h => back h .free).getD []
      else if !t.staged || 1 < t.kind then []
      else (reaches.findSome? fun r => (pick r).head?).getD []
    want.filter s.hallFree

/-- The candidates of a launch unit in the order of R362. -/
def State.candidatesOf (s : State) (wing : Nat) : List Nat :=
  let key := fun (id : Nat) (t : Launch) =>
    let prio := if t.started then t.prio else s.queuePrio t.queue
    let last := mapGet 15 (8 * wing + prio) s.rotation
    (7 - prio) * 2 ^ 132 +
      (if t.started then t.start % 2 ^ 64 * 2 ^ 64
       else 2 ^ 130 + (t.queue % 16 + 15 - last) % 16 * 2 ^ 64) + id % 2 ^ 64
  let all := s.launches.filter fun e => e.2.queue / 16 == wing &&
    (e.2.suspended || e.2.between || s.mayStart e.1 e.2)
  (all.foldl (fun m e => mapPut (key e.1 e.2) e.1 m) []).map (·.2)

/-- The halls that the candidates before one need. -/
def State.hallsBefore (s : State) (ids : List Nat) (id : Nat) : List Nat :=
  (ids.takeWhile (· != id)).foldl (fun avoid n => avoid ++ s.hallsNeeded n avoid) []

/-- A launch unit's first candidate that can do something does it. -/
def State.takeCandidate (s : State) (wing : Nat) : State :=
  let ids := s.candidatesOf wing
  (ids.findSome? fun id => s.tryCandidate id (s.hallsBefore ids id)).getD s

/-- CANDIDATE_START (R355, R362): heads are read, and each launch unit takes up its candidates. -/
def execCandidateStart (s : State) : Answer :=
  let s := (steps 0 1 64).foldl State.readHead s
  let s := (steps 0 1 4).foldl State.takeCandidate s
  let waits := (steps 0 1 4).any fun w => s.candidatesOf w != []
  let queued := s.agenda.any fun e => e.2 == .candidateStart
  .next (if waits && !queued then s.retry .candidateStart else s)

/-- The launch of a queue that has not started. -/
def State.headLaunch (s : State) (q : Nat) : Option Nat :=
  (s.launches.find? fun e => e.2.queue == q && !e.2.started && e.2.status.isNone).map (·.1)

/-- A kind's launch event on its queue. -/
def State.launchKind (s : State) (queue : BitVec 6) (kind : Nat) : State :=
  match s.headLaunch queue.toNat with
  | some id =>
    (s.tryStart id kind (s.hallsBefore (s.candidatesOf (queue.toNat / 16)) id)).getD s
  | none => s

/-- LAUNCH_COLD (R359): kind 0. -/
def execLaunchCold (queue : BitVec 6) (s : State) : Answer := .next (s.launchKind queue 0)

/-- LAUNCH_COLD_RESIDENT (R359): kind 1. -/
def execLaunchColdResident (queue : BitVec 6) (s : State) : Answer := .next (s.launchKind queue 1)

/-- LAUNCH_RESIDENT_RUN (R359, R360): kind 2. -/
def execLaunchResidentRun (queue : BitVec 6) (s : State) : Answer := .next (s.launchKind queue 2)

/-- LAUNCH_RELEASE (R359): kind 3. -/
def execLaunchRelease (queue : BitVec 6) (s : State) : Answer := .next (s.launchKind queue 3)

/-! ### Completion of loads (R256, R358, R359) -/

/-- R256: every actor has retired and every stream has finished; what the load has sent has arrived
(R357, R434). A stream that was never started, or that SSTOP has stopped, has not finished (log 48). -/
def State.loadDone (s : State) (h : Nat) : Bool :=
  let l := s.loadAt h
  l.state == .running &&
  (l.cores.all fun c => (s.actorsOf c).all fun a => s.retired c a) &&
  ((s.streamsOf h).all fun e => (s.stream e.1 e.2).mode == .finished) && s.drained h

/-- Running loads of launches that are complete. -/
def State.doneLoads (s : State) : List Nat :=
  (s.loads.filter fun e => e.2.state == .running && e.2.launch.isSome && s.loadDone e.1).map (·.1)

/-- A load of a launch completes: kept for the evidence, torn down or held; then the next load, or the
end of the launch (R357 to R359). -/
def State.completeLoad (s : State) (h : Nat) : State :=
  match (s.loadAt h).launch with
  | none => s
  | some id =>
    match mapFind id s.launches with
    | none => s.setLoad h { s.loadAt h with launch := none }
    | some t =>
      let t := t.keepRecord (s.loadAt h)
      let last := t.loads ≤ t.next + 1
      let t := { t with done := t.done + 1, current := none, next := if last then t.next else t.next + 1 }
      let s := s.setLaunch id t
      let s := if t.kind = 0 then s.teardown h
        else
          (s.setLoadHalls h 4).setLoad h { (s.setLoadHalls h 4).loadAt h with
            state := .residentIdle, launch := none }
      if last then s.finishLaunch id 0 0 0 else s.later 1 .nextLoadStart

/-- LOAD_COMPLETE (R256, R358, R359), of the first load that is complete. -/
def execLoadComplete (s : State) : Answer :=
  match s.doneLoads with
  | [] => .next s
  | h :: rest =>
    let s := s.completeLoad h
    .next (if rest = [] then s else s.later 1 .loadComplete)

/-- NEXT_LOAD_START (R358): the first launch between two loads whose next load can be committed or
re-armed; one that cannot waits as a candidate. -/
def execNextLoadStart (s : State) : Answer :=
  let ids := (s.launches.filter fun e => e.2.between).map (·.1)
  let go := fun (id : Nat) =>
    let wing := (mapGet { queue := 0, kind := 0 } id s.launches).queue / 16
    s.tryCandidate id (s.hallsBefore (s.candidatesOf wing) id)
  match ids.findSome? go with
  | some s' => .next s'
  | none => .next (if ids = [] then s else s.later 1 .candidateStart)

end Sys2Proof.Machine
end

