-- ==== Sys2Proof/Machine/Links.lean ====
section
/-!
DEFINITION. Arcs (R449, R450), the collective engine (R451 to R453), Maelle reception and retry (R446,
R448) and the errors of the CXL ports (R444).
-/

namespace Sys2Proof.Machine

/-! ### Waiting on arcs (R450) -/

/-- ARC of a window end. -/
def State.isArc (s : State) (c w : Nat) : Bool := bitAt (s.win c w 0) 56

/-- ATOL of a consumer end. -/
def State.atol (s : State) (c w : Nat) : Nat := max 1 (bits (s.win c w 3) 0 32)

/-- ALIM of a wing (R448). -/
def State.alim (s : State) (wing : Nat) : Nat := max 1 (bits (s.sysCfg wing 3840) 0 32)

/-- The window of an arc whose count is the only term that an entry's guard lacks. -/
def State.arcWait (s : State) (c e : Nat) : Option Nat :=
  if s.evaluated c e && s.phaseTerm c e && s.guardTerm c e && s.putTerm c e && s.drainTerm c e &&
      !s.boundElsewhere c e && ((s.needsClaim c e).isNone || s.boundTo c e) then
    match windows.filter fun w => !s.windowTerm c e w with
    | [w] => if s.isArc c w then some w else none
    | _ => none
  else none

/-- Valid entries of a load whose context is idle and unparked and that are not ready. -/
def State.blockedEntries (s : State) (h : Nat) : List (Nat × Nat) :=
  (s.loadAt h).cores.flatMap fun c => (windows.filter fun e =>
    let t := s.ctx c (entryCtx (s.entry c e))
    entryValid (s.entry c e) && t.run == .idle && t.park.isNone && !t.halted && !s.entryReady c e).map
      fun e => (c, e)

/-- The load waits on arcs: none of its contexts runs an instruction, and every blocked side is a
guard that waits on an arc. -/
def State.waitsOnArcs (s : State) (h : Nat) : Bool :=
  let b := s.blockedEntries h
  s.allCtxs h (fun t => t.run == .idle || t.park.isSome || t.halted) && b != [] &&
    b.all fun e => (s.arcWait e.1 e.2).isSome

/-- The window is served: an entry of its actor is ready, or a firing of the actor runs. -/
def State.arcServed (s : State) (c w : Nat) : Bool :=
  let a := s.winActor c w
  (windows.any fun e => entryActor (s.entry c e) == a && s.entryReady c e) ||
    (steps 0 1 4).any fun x => (s.ctx c x).run == .firing && (s.ctx c x).actor == a

/-- A timer's key in a load's timers, and that of the mark that its tolerance has been noted. -/
def timerKey (c w : Nat) : Nat := 16 * c + w
def toleratedMark : Nat := 2 ^ 20

/-- The context that hosts the actor of a window end neither is parked nor stands at a fault. -/
def State.endEvaluated (s : State) (c w : Nat) : Bool :=
  let t := s.ctx c (bits (s.actorWord c (s.winActor c w) 0) 55 2)
  t.park.isNone && !t.halted

/-- The timers of a load's arc ends at the evaluation of a cycle (R450): each is 0 at the first evaluation at
which its guard waits, counts from there until the guard is found ready, and stands while its context is
parked. -/
def State.arcTimers (s : State) (h : Nat) : List (Nat × Nat) :=
  let l := s.loadAt h
  (l.cores.flatMap fun c => (windows.filter (s.isArc c)).map fun w => (c, w)).foldl (fun m e =>
    let k := timerKey e.1 e.2
    if s.arcServed e.1 e.2 then mapDel (toleratedMark + k) (mapDel k m)
    else if !s.endEvaluated e.1 e.2 then m
    else if (mapFind k m).isSome then mapPut k (mapGet 0 k m + 1) m
    else if windows.any fun i => s.arcWait e.1 i == some e.2 then mapPut k 0 m
    else m) l.timers

/-- The timers of a load proper: core, window, cycles. -/
def State.arcTimesOf (s : State) (h : Nat) : List (Nat × Nat × Nat) :=
  ((s.loadAt h).timers.filter fun e => e.1 < toleratedMark).map fun e => (e.1 / 16, e.1 % 16, e.2)

/-- The consumer ends of a load whose timer has reached their tolerance and is not noted yet. -/
def State.arcsTolerated (s : State) (h : Nat) : List (Nat × Nat) :=
  ((s.arcTimesOf h).filter fun e =>
    s.isConsumer e.1 e.2.1 && s.atol e.1 e.2.1 ≤ e.2.2 &&
      (mapFind (toleratedMark + timerKey e.1 e.2.1) (s.loadAt h).timers).isNone).map
        fun e => (e.1, e.2.1)

/-- The first end of a load whose timer has reached ALIM. -/
def State.arcExpired (s : State) (h : Nat) : Option (Nat × Nat) :=
  (((s.arcTimesOf h).filter fun e => s.alim (wingOfCore e.1) ≤ e.2.2).head?).map
    fun e => (e.1, e.2.1)

/-- The running loads. -/
def State.runningLoads (s : State) : List Nat :=
  (s.loads.filter fun e => e.2.state == .running).map (·.1)

/-- A load whose contexts are not all parked yet: its arc waits are timed (R450, R453). -/
def Load.timed (l : Load) : Bool := l.state == .running || l.state == .preempting || l.state == .stopping

/-- The loads whose arc waits are timed. -/
def State.timedLoads (s : State) : List Nat := (s.loads.filter fun e => e.2.timed).map (·.1)

/-- A late-arc event of a consumer end that has reached its tolerance. -/
def State.noteLate (h : Nat) (s : State) (e : Nat × Nat) : State :=
  let x := bits (s.actorWord e.1 (s.winActor e.1 e.2) 0) 55 2
  let s := s.detEvent h 4 (BitVec.ofNat 8 x) ((s.visibleCore e.1).setWidth 16) 0
    (BitVec.ofNat 32 (s.cmt e.1 e.2))
  s.setLoad h { s.loadAt h with
    timers := mapPut (toleratedMark + timerKey e.1 e.2) 1 (s.loadAt h).timers }

/-- ARC_TOLERANCE (R450, R465): one late-arc event for each consumer end that has reached its
tolerance. -/
def execArcTolerance (s : State) : Answer :=
  .next (s.timedLoads.foldl (fun s h => (s.arcsTolerated h).foldl (State.noteLate h) s) s)

/-- ALIM_EXPIRY (R450): the load is pre-empted, and stops once it is parked. In one that parks already it changes
nothing (DEDUCED, log 58). -/
def execAlimExpiry (s : State) : Answer :=
  .next (s.runningLoads.foldl (fun s h =>
    match s.arcExpired h with
    | some (c, w) => s.beginPreempt h (some [13, 0, c, w])
    | none => s) s)

/-! ### The collective engine (R451 to R453) -/

/-- Word i of a wing's descriptor. -/
def State.engineWord (s : State) (wing d i : Nat) : Word64 := s.sysCfg wing (3584 + 2 * d + i)

/-- A descriptor's fields. -/
def State.ranks (s : State) (wing d : Nat) : Nat := bits (s.engineWord wing d 0) 52 6 + 1
def State.engineSize (s : State) (wing d : Nat) : Nat := 32 * (bits (s.engineWord wing d 0) 32 8 + 1)
def State.engineLoad (s : State) (wing d : Nat) : Nat := bits (s.engineWord wing d 0) 58 5

/-- The state of a descriptor's rounds. -/
def State.round (s : State) (wing d : Nat) : Round := mapGet {} (roundKey wing d) s.rounds

/-- Ranks whose contribution to a round has not committed. -/
def State.missing (s : State) (wing d n : Nat) : List Nat :=
  (steps 0 1 (s.ranks wing d)).filter fun r => (mapFind (64 * n + r) (s.round wing d).contrib).isNone

/-- The shared address of a round's result slot (R451, R452). -/
def State.resultAddr (s : State) (wing d n : Nat) : Nat :=
  let w := s.engineWord wing d 1
  bits w 0 40 + n % (bits w 40 12 + 1) * s.engineSize wing d

/-- Its place, where the address is well formed. -/
def State.resultSlot (s : State) (wing d n : Nat) : Option Nat :=
  s.sharedKey (BitVec.ofNat 64 (s.resultAddr wing d n)) (s.engineSize wing d)

/-- A descriptor's load runs, and no stop for a late round is under way (R453). -/
def State.engineGoes (s : State) (wing d : Nat) : Bool :=
  let l := s.loadAt (s.engineLoad wing d)
  bitAt (s.engineWord wing d 0) 63 && l.state.goes && l.late.isNone

/-- R452: every contribution to the next round has committed, and the slot's last word is empty. A
reserved OP or FMT names no operation, and its rounds do not complete (log 46). -/
def State.roundReady (s : State) (wing d : Nat) : Bool :=
  let n := (s.round wing d).next
  s.engineGoes wing d && s.missing wing d n == [] &&
  bits (s.engineWord wing d 0) 50 2 != 3 && bits (s.engineWord wing d 0) 48 2 != 3 &&
  (match s.resultSlot wing d n with
  | some k => !setHas ((k + s.engineSize wing d - 8) / 8) s.full
  | none => false)

/-- R486: every contribution to the next round has committed, and its result address is not well formed; the
load has not stopped for a fault yet. -/
def State.roundAstray (s : State) (wing d : Nat) : Bool :=
  let n := (s.round wing d).next
  s.engineGoes wing d && (s.loadAt (s.engineLoad wing d)).code.isNone && s.missing wing d n == [] &&
    (s.resultSlot wing d n).isNone

/-- RANGE 49 of an engine, which names the descriptor and the round (R483, R486). -/
def State.roundFault (s : State) (wing d : Nat) : State :=
  let n := (s.round wing d).next
  s.faultOutside (systemHall wing) (s.engineLoad wing d)
    { code := codeRange, kind := 3, unit := d, token := n,
      detail := memDetail 49 d (s.resultAddr wing d n) }

/-- Two elements combined (R452): FP32 by RN, INT32 wrapping or signed. -/
def combine (op : Nat) (int : Bool) (a b : Nat) : Nat :=
  if int then
    if op = 0 then (a + b) % 2 ^ 32
    else if op = 1 then (if intOf 32 a < intOf 32 b then b else a)
    else if intOf 32 b < intOf 32 a then b else a
  else if op = 0 then fadd fmtF32 a b
  else if op = 1 then fmax fmtF32 a b else fmin fmtF32 a b

/-- Element e of a round's result, as bytes: contributions in ascending rank. -/
def roundElement (op fmt e : Nat) (cs : List (List Byte)) : List Byte :=
  let get := fun (c : List Byte) =>
    if fmt = 1 then byteField c (2 * e) 2 * 2 ^ 16 else byteField c (4 * e) 4
  match cs.map get with
  | [] => []
  | a :: rest =>
    let v := rest.foldl (combine op (fmt == 2)) a
    if fmt = 1 then natToBytes 2 (fround fmtBf16 .rn 0 (fdecode fmtF32 v)) else natToBytes 4 v

/-- A round is written and its contributions are credited (R451, R452); the next is numbered as SEQ counts
(R254). -/
def State.finishRound (s : State) (wing d : Nat) : State :=
  let w := s.engineWord wing d 0
  let r := s.round wing d
  let n := r.next
  let size := s.engineSize wing d
  let ranks := steps 0 1 (s.ranks wing d)
  let fmt := bits w 48 2
  let cs := ranks.map fun k => mapGet [] (64 * n + k) r.contrib
  let out := (steps 0 1 (if fmt = 1 then size / 2 else size / 4)).flatMap fun e =>
    roundElement (bits w 50 2) fmt e cs
  let po := ranks.foldl (fun m k => (mapGet [] (64 * n + k) r.poison).foldl (fun m i => setAdd i m) m) []
  let key := (s.resultSlot wing d n).getD 0
  let s := (s.storeMarked key out po).setFull key size
  let r := { r with next := (n + 1) % 2 ^ 32, contrib := mapDelRange (64 * n) 64 r.contrib,
                    poison := mapDelRange (64 * n) 64 r.poison, starts := mapDel n r.starts }
  let s := { s with rounds := mapPut (roundKey wing d) r s.rounds }
  ranks.foldl (fun s k => s.sendPacket
    { id := 0, load := s.engineLoad wing d, rc := BitVec.ofNat 8 (bits w 24 8 + k), kind := 1, fan := 0,
      size := BitVec.ofNat 8 (bits w 32 8), seq := BitVec.ofNat 32 (n + 1), data := [], poison := [],
      hall := systemHall wing }) s

/-- Every descriptor: wing and number. -/
def engines : List (Nat × Nat) :=
  (steps 0 1 4).flatMap fun w => (steps 0 1 16).map fun d => (w, d)

/-- COLLECTIVE_ROUND (R452, R486), of the first descriptor whose round may complete; one whose
contributions are whole waits, or stops its load where its result has no place. -/
def execCollectiveRound (s : State) : Answer :=
  match engines.find? (fun e => s.roundReady e.1 e.2),
    engines.find? (fun e => s.roundAstray e.1 e.2) with
  | some e, _ => .next ((s.finishRound e.1 e.2).later 1 .collectiveRound)
  | none, some e => .next ((s.roundFault e.1 e.2).later 1 .collectiveRound)
  | none, none =>
    let whole := engines.any fun e => bitAt (s.engineWord e.1 e.2 0) 63 &&
      (s.round e.1 e.2).contrib != [] && s.missing e.1 e.2 (s.round e.1 e.2).next == []
    if whole then .next (s.retry .collectiveRound) else .next s

/-- TOL of a rank that arrives on an arc of the wing: of the entry of its class whose channel is the
load's (R448, R453, R484). -/
def State.rankTol (s : State) (wing d r : Nat) : Option Nat :=
  let c := bits (s.engineWord wing d 0) 40 8 + r
  let vc := mapFind wing (s.loadAt (s.engineLoad wing d)).vcs
  (((steps 0 1 4).map fun p => s.sysCfg wing (2560 + 256 * p + c)).find? fun w =>
    bitAt w 63 && some (bits w 60 3) == vc).map fun w => max 1 (bits w 0 32)

/-- Rounds under way of descriptors whose load runs or still parks: wing, descriptor, round, cycles since it began. -/
def State.openRounds (s : State) : List (Nat × Nat × Nat × Nat) :=
  engines.flatMap fun e =>
    if bitAt (s.engineWord e.1 e.2 0) 63 && (s.loadAt (s.engineLoad e.1 e.2)).timed then
      ((s.round e.1 e.2).starts.filter fun x => s.missing e.1 e.2 x.1 != []).map
        fun x => (e.1, e.2, x.1, s.cycle - x.2)
    else []

/-- Missing ranks that stand at their tolerance: wing, descriptor, round. -/
def State.ranksTolerated (s : State) : List (Nat × Nat × Nat) :=
  s.openRounds.flatMap fun o => ((s.missing o.1 o.2.1 o.2.2.1).filter fun r =>
    s.rankTol o.1 o.2.1 r == some o.2.2.2).map fun _ => (o.1, o.2.1, o.2.2.1)

/-- Rounds that have reached ALIM. -/
def State.roundsExpired (s : State) : List (Nat × Nat × Nat) :=
  (s.openRounds.filter fun o => s.alim o.1 ≤ o.2.2.2).map fun o => (o.1, o.2.1, o.2.2.1)

/-- COLLECTIVE_TOLERANCE (R453, R465): a late-arc event for each missing rank at its tolerance. -/
def execCollectiveTolerance (s : State) : Answer :=
  .next (s.ranksTolerated.foldl (fun s e =>
    s.detEvent (s.engineLoad e.1 e.2.1) 4 0 (BitVec.ofNat 16 (16 * 66)) (BitVec.ofNat 16 e.2.1)
      (BitVec.ofNat 32 e.2.2)) s)

/-- COLLECTIVE_LIMIT (R453): the load is pre-empted, and stops once it is parked. -/
def execCollectiveLimit (s : State) : Answer :=
  .next (s.roundsExpired.foldl (fun s e =>
    let h := s.engineLoad e.1 e.2.1
    if (s.loadAt h).state == .running then
      s.beginPreempt h (some [13, 1, e.1, e.2.1, e.2.2, (s.missing e.1 e.2.1 e.2.2).headD 0])
    else s) s)

/-! ### Maelle reception and retry (R446, R448) -/

/-- Data flits of a packet by its header word (R254). -/
def dataFlitCount (w : Word64) : Nat := if bits w 45 3 = 0 then (32 * (bits w 32 8 + 1) + 63) / 64 else 0

/-- A whole packet waits at its port for its arc-table entry (R448). -/
def State.packetArrived (s : State) (port : Nat) (fl : List LinkFlit) : State :=
  match fl with
  | [] => s
  | hd :: rest =>
    let w := BitVec.ofNat 64 (byteField hd.data 0 8)
    let size := if bits w 45 3 = 0 then 32 * (bits w 32 8 + 1) else 0
    let po := rest.zipIdx.flatMap fun e => e.1.poison.map fun i => 8 * e.2 + i
    let id := s.nextId
    let p : Packet :=
      { id := id, load := 31, rc := BitVec.ofNat 8 (bits w 48 8), kind := BitVec.ofNat 3 (bits w 45 3),
        fan := BitVec.ofNat 2 (bits w 40 2), size := BitVec.ofNat 8 (bits w 32 8),
        seq := BitVec.ofNat 32 (bits w 0 32), data := (rest.flatMap (·.data)).take size,
        linkVc := hd.vc.toNat, link := some (port, BitVec.ofNat 8 (bits w 48 8)), poison := halfMarks po, hall := systemHall (port / 4), atPort := some port }
    ({ s.newId with packets := mapPut id p s.packets }).later 1 (.routerForward id)

/-- Both check values of a flit hold (R446, R468). -/
def LinkFlit.good (f : LinkFlit) : Bool := (f.check0, f.check1) == flitChecks f.data

/-- An accepted flit: its credits come back, and the packet that it ends is whole (R446 to R448). -/
def State.acceptFlit (s : State) (port : Nat) (f : LinkFlit) : State :=
  let s := match f.credit with
    | some c => s.takeCredits port c.1.toNat c.2.toNat
    | none => s
  let t := s.port port
  let vc := f.vc.toNat
  let got := mapGet [] vc t.inbox ++ [f]
  let whole : Bool := match got with
    | hd :: rest => rest.length == dataFlitCount (BitVec.ofNat 64 (byteField hd.data 0 8))
    | [] => false
  let s := s.setPort port { t with
    expect := t.expect + 1, seeking := false, past := 0,
    inbox := if whole then mapDel vc t.inbox else mapPut vc got t.inbox }
  if whole then s.packetArrived port got else s

/-- While a port waits for the flit that it asked for, a good flit further on than the last stands for one that
was under way behind the failed one; any other out of its turn is of a resend that has failed (R446; DEDUCED,
log 98). -/
def LinkPort.underWay (t : LinkPort) (f : LinkFlit) : Bool :=
  t.seeking && LinkFlit.good f && t.past < (f.seq - t.expect).toNat

/-- LINK_FLIT_RECEIVE (R446): a flit with good check values and the next sequence number is accepted;
any other asks for a retry, but for those that were under way behind a failed one. A port that is down or
retrains takes none. -/
def execLinkFlitReceive (port : Nat) (f : LinkFlit) (s : State) : Answer :=
  let t := s.port port
  if !t.up || t.training then .next s
  else if LinkFlit.good f && f.seq == t.expect then .next (s.acceptFlit port f)
  else
    let far := if LinkFlit.good f then (f.seq - t.expect).toNat else 0
    let s := s.setPort port { t with seeking := true, past := far }
    if t.underWay f then .next s
    else .next { s with hostOut := s.hostOut ++ [.retryRequest port t.expect] }

/-- The flits of a retry buffer from a sequence number on. -/
def resendFrom (seq : BitVec 12) : List LinkFlit → List LinkFlit
  | [] => []
  | f :: fs => if f.seq == seq then f :: fs else resendFrom seq fs

/-- The sender resends its kept flits. -/
def State.resend (s : State) (port : Nat) (seq : BitVec 12) : State :=
  { s with hostOut := s.hostOut ++ (resendFrom seq (s.port port).retry).map (HostOut.flit port) }

/-- LINK_RETRY (R446): the other end asks for flits again; after 16 failed resends in a row the port
retrains. -/
def execLinkRetry (port : Nat) (seq : BitVec 12) (s : State) : Answer :=
  let t := s.port port
  if !t.up || t.training then .next s
  else
    let fails := if t.asked == some seq then t.fails + 1 else 0
    let failed := { t with training := true, since := s.cycle, fails := 0, asked := some seq }
    if 16 ≤ fails then .next (s.setPort port failed)
    else .next ((s.setPort port { t with fails := fails, asked := some seq }).resend port seq)

/-- LINK_RETRAIN_DONE (R446): the port works again and resends, or it is down. -/
def execLinkRetrainDone (port : Nat) (up : Bool) (s : State) : Answer :=
  let t := s.port port
  let s := s.setPort port { t with up := up, training := false, asked := none, seeking := false, past := 0 }
  match t.training && up, t.asked with
  | true, some q => .next ((s.resend port q).pumpPort port)
  | _, _ => .next s

/-- Cycles of 100 µs, the longest retrain (R446). -/
def retrainLimit : Nat := 105000

/-- Ports whose retrain has lasted as long as one may: it has failed. -/
def State.retrainsOver (s : State) : List Nat :=
  (s.ports.filter fun e => e.2.training && e.2.since + retrainLimit ≤ s.cycle).map (·.1)

/-! ### CXL errors (R444) -/

/-- The virtual address of the line that a stream's token in hand waits for. -/
def State.lineVa (s : State) (hk n : Nat) : Nat :=
  let t := s.stream hk n
  let va := s.tokenVa hk n t.pos
  let off := ((piecesOf va (s.streamSize hk n)).drop t.line).head?.map (·.1)
  (va + off.getD 0) % 2 ^ 56

/-- A stream of a load has a request outstanding at a CXL port: the one that it has sent, or the line of its token in
hand lies there; an ordered access that waits for another has sent none. -/
def State.asksPort (s : State) (port h hk n : Nat) : Bool :=
  (s.stream hk n).busy && !s.isShared hk n && !s.waitsWalk hk n &&
  match (s.stream hk n).lost with
  | some p => p == port
  | none => !((s.loadAt h).ordered && s.orderedBehind h hk n) &&
    (s.physAddr hk (s.lineVa hk n) (s.isSink hk n)).bind cxlPortOf == some port

/-- Streams of running loads with a request outstanding at a CXL port, the oldest first: load, hall,
stream. -/
def State.portStreams (s : State) (port : Nat) : List (Nat × Nat × Nat) :=
  let all := (s.loads.filter fun e => e.2.state.goes).flatMap fun e =>
    ((s.streamsOf e.1).filter fun x => s.asksPort port e.1 x.1 x.2).map fun x => (e.1, x.1, x.2)
  (all.foldl (fun m e =>
    let k := (s.stream e.2.1 e.2.2).issued
    mapPut k (mapGet [] k m ++ [e]) m) []).flatMap (·.2)

/-- A load stops with RANGE, cause 68, at the line that it waits for; its other accesses to the port, those
to come among them, are discarded. -/
def State.memoryPortError (s : State) (port : Nat) (e : Nat × Nat × Nat) : State :=
  let h := e.1
  let t := s.stream e.2.1 e.2.2
  let others := (s.portStreams port).filter fun o => o.1 == h
  let s := s.streamFault e.2.1 e.2.2 h t.pos codeRange (memDetail 68 e.2.2 (s.lineVa e.2.1 e.2.2))
  let s := s.setLoad h { s.loadAt h with deadPorts := setAdd port (s.loadAt h).deadPorts }
  others.foldl (fun s o => s.cutAccess o.2.1 o.2.2) s

/-- Requests that the port has left without an answer for 1 ms, the oldest first. -/
def State.overdue (s : State) (port : Nat) : List (Nat × Nat × Nat) :=
  (s.portStreams port).filter fun e =>
    let t := s.stream e.2.1 e.2.2
    t.lost == some port && t.issued + cxlPatience ≤ s.cycle

/-- CXL_TIMEOUT (R444): the oldest outstanding request of the port has had no completion for 1 ms. -/
def execCxlTimeout (port : Nat) (s : State) : Answer :=
  match (s.overdue port).head? with
  | some e => .next (s.memoryPortError port e)
  | none => .next s

/-- The first stream of each load of a list. -/
def firstOfLoads : List (Nat × Nat × Nat) → List Nat → List (Nat × Nat × Nat)
  | [], _ => []
  | e :: es, seen =>
    if seen.contains e.1 then firstOfLoads es seen else e :: firstOfLoads es (e.1 :: seen)

/-- CXL_LINK_DOWN (R444): every load with requests outstanding at the port stops, and no later request
completes. -/
def execCxlLinkDown (port : Nat) (s : State) : Answer :=
  let s' := { s with cxlDown := setAdd port s.cxlDown }
  .next ((firstOfLoads (s.portStreams port) []).foldl (fun s e => s.memoryPortError port e) s')

end Sys2Proof.Machine
end

