-- ==== Sys2Proof/Machine/Dispatch.lean ====
section
/-!
DEFINITION. The dispatch: one direct call of an instruction's meaning per constructor.
-/

namespace Sys2Proof.Machine

def exec (i : Instr) (s : State) : Host.Outcome State Fault Refusal :=
  match i with
  | .add q d a b => Sys2Proof.Machine.execAdd q d a b s
  | .sub q d a b => Sys2Proof.Machine.execSub q d a b s
  | .mul q d a b => Sys2Proof.Machine.execMul q d a b s
  | .mulh q d a b => Sys2Proof.Machine.execMulh q d a b s
  | .mulhu q d a b => Sys2Proof.Machine.execMulhu q d a b s
  | .div q a b => Sys2Proof.Machine.execDiv q a b s
  | .divu q a b => Sys2Proof.Machine.execDivu q a b s
  | .rem q a b => Sys2Proof.Machine.execRem q a b s
  | .remu q a b => Sys2Proof.Machine.execRemu q a b s
  | .and q d a b => Sys2Proof.Machine.execAnd q d a b s
  | .or q d a b => Sys2Proof.Machine.execOr q d a b s
  | .xor q d a b => Sys2Proof.Machine.execXor q d a b s
  | .andn q d a b => Sys2Proof.Machine.execAndn q d a b s
  | .shl q d a b => Sys2Proof.Machine.execShl q d a b s
  | .shr q d a b => Sys2Proof.Machine.execShr q d a b s
  | .sra q d a b => Sys2Proof.Machine.execSra q d a b s
  | .rol q d a b => Sys2Proof.Machine.execRol q d a b s
  | .clz q d a => Sys2Proof.Machine.execClz q d a s
  | .ctz q d a => Sys2Proof.Machine.execCtz q d a s
  | .popc q d a => Sys2Proof.Machine.execPopc q d a s
  | .min q d a b => Sys2Proof.Machine.execMin q d a b s
  | .max q d a b => Sys2Proof.Machine.execMax q d a b s
  | .minu q d a b => Sys2Proof.Machine.execMinu q d a b s
  | .maxu q d a b => Sys2Proof.Machine.execMaxu q d a b s
  | .sel q d a b p => Sys2Proof.Machine.execSel q d a b p s
  | .cmp q c p a b => Sys2Proof.Machine.execCmp q c p a b s
  | .addi q d a imm => Sys2Proof.Machine.execAddi q d a imm s
  | .andi q d a imm => Sys2Proof.Machine.execAndi q d a imm s
  | .ori q d a imm => Sys2Proof.Machine.execOri q d a imm s
  | .xori q d a imm => Sys2Proof.Machine.execXori q d a imm s
  | .shli q d a n => Sys2Proof.Machine.execShli q d a n s
  | .shri q d a n => Sys2Proof.Machine.execShri q d a n s
  | .srai q d a n => Sys2Proof.Machine.execSrai q d a n s
  | .movi q d imm => Sys2Proof.Machine.execMovi q d imm s
  | .moviLong q d imm => Sys2Proof.Machine.execMoviLong q d imm s
  | .lih q d imm => Sys2Proof.Machine.execLih q d imm s
  | .lea q d a imm => Sys2Proof.Machine.execLea q d a imm s
  | .cmpiEq q p a imm => Sys2Proof.Machine.execCmpiEq q p a imm s
  | .cmpiNe q p a imm => Sys2Proof.Machine.execCmpiNe q p a imm s
  | .cmpiLt q p a imm => Sys2Proof.Machine.execCmpiLt q p a imm s
  | .cmpiLtu q p a imm => Sys2Proof.Machine.execCmpiLtu q p a imm s
  | .cmpiGe q p a imm => Sys2Proof.Machine.execCmpiGe q p a imm s
  | .cmpiGeu q p a imm => Sys2Proof.Machine.execCmpiGeu q p a imm s
  | .br q p off => Sys2Proof.Machine.execBr q p off s
  | .brn q p off => Sys2Proof.Machine.execBrn q p off s
  | .jmp q off => Sys2Proof.Machine.execJmp q off s
  | .jal q off => Sys2Proof.Machine.execJal q off s
  | .jr q a => Sys2Proof.Machine.execJr q a s
  | .loop q a imm => Sys2Proof.Machine.execLoop q a imm s
  | .pand q d a b => Sys2Proof.Machine.execPand q d a b s
  | .por q d a b => Sys2Proof.Machine.execPor q d a b s
  | .pxor q d a b => Sys2Proof.Machine.execPxor q d a b s
  | .pnot q d a => Sys2Proof.Machine.execPnot q d a s
  | .pset q d v => Sys2Proof.Machine.execPset q d v s
  | .srd q d r => Sys2Proof.Machine.execSrd q d r s
  | .swr q r b => Sys2Proof.Machine.execSwr q r b s
  | .dpop q d => Sys2Proof.Machine.execDpop q d s
  | .vadd q t d a b k => Sys2Proof.Machine.execVadd q t d a b k s
  | .vsub q t d a b k => Sys2Proof.Machine.execVsub q t d a b k s
  | .vmul q t d a b k => Sys2Proof.Machine.execVmul q t d a b k s
  | .vfma q t d a b k => Sys2Proof.Machine.execVfma q t d a b k s
  | .vfms q t d a b k => Sys2Proof.Machine.execVfms q t d a b k s
  | .vmin q t d a b k => Sys2Proof.Machine.execVmin q t d a b k s
  | .vmax q t d a b k => Sys2Proof.Machine.execVmax q t d a b k s
  | .vabs q t d a k => Sys2Proof.Machine.execVabs q t d a k s
  | .vneg q t d a k => Sys2Proof.Machine.execVneg q t d a k s
  | .vaddSat q t d a b k => Sys2Proof.Machine.execVaddSat q t d a b k s
  | .vsubSat q t d a b k => Sys2Proof.Machine.execVsubSat q t d a b k s
  | .vrcp q d a k => Sys2Proof.Machine.execVrcp q d a k s
  | .vrsq q d a k => Sys2Proof.Machine.execVrsq q d a k s
  | .vsqrt q d a k => Sys2Proof.Machine.execVsqrt q d a k s
  | .vexp2 q d a k => Sys2Proof.Machine.execVexp2 q d a k s
  | .vlog2 q d a k => Sys2Proof.Machine.execVlog2 q d a k s
  | .vshl q t d a b k => Sys2Proof.Machine.execVshl q t d a b k s
  | .vshr q t d a b k => Sys2Proof.Machine.execVshr q t d a b k s
  | .vsra q t d a b k => Sys2Proof.Machine.execVsra q t d a b k s
  | .vcmp q t c m a b k => Sys2Proof.Machine.execVcmp q t c m a b k s
  | .vredsum q t d a k => Sys2Proof.Machine.execVredsum q t d a k s
  | .vredmax q t d a k => Sys2Proof.Machine.execVredmax q t d a k s
  | .vredmin q t d a k => Sys2Proof.Machine.execVredmin q t d a k s
  | .vredarg q t d a k => Sys2Proof.Machine.execVredarg q t d a k s
  | .vand q d a b k => Sys2Proof.Machine.execVand q d a b k s
  | .vor q d a b k => Sys2Proof.Machine.execVor q d a b k s
  | .vxor q d a b k => Sys2Proof.Machine.execVxor q d a b k s
  | .vsel q d a b k => Sys2Proof.Machine.execVsel q d a b k s
  | .vkand q d a b => Sys2Proof.Machine.execVkand q d a b s
  | .vkor q d a b => Sys2Proof.Machine.execVkor q d a b s
  | .vknot q d a => Sys2Proof.Machine.execVknot q d a s
  | .vkpop q d a => Sys2Proof.Machine.execVkpop q d a s
  | .vmov q d a k => Sys2Proof.Machine.execVmov q d a k s
  | .vbcast q d a k => Sys2Proof.Machine.execVbcast q d a k s
  | .vext q d a b => Sys2Proof.Machine.execVext q d a b s
  | .vins q d a b => Sys2Proof.Machine.execVins q d a b s
  | .vperm q d a b k => Sys2Proof.Machine.execVperm q d a b k s
  | .vshuf q d a b k => Sys2Proof.Machine.execVshuf q d a b k s
  | .vrot q d a b k => Sys2Proof.Machine.execVrot q d a b k s
  | .vcvt q d a m k sat src dst => Sys2Proof.Machine.execVcvt q d a m k sat src dst s
  | .vpack q d a b part m c => Sys2Proof.Machine.execVpack q d a b part m c s
  | .vunpk q d a part k c => Sys2Proof.Machine.execVunpk q d a part k c s
  | .vscale q d a b k e => Sys2Proof.Machine.execVscale q d a b k e s
  | .vscaleApply q d a b k e => Sys2Proof.Machine.execVscaleApply q d a b k e s
  | .vld q d a b k => Sys2Proof.Machine.execVld q d a b k s
  | .vst q d a b k => Sys2Proof.Machine.execVst q d a b k s
  | .vlds q d a b k => Sys2Proof.Machine.execVlds q d a b k s
  | .vsts q d a b k => Sys2Proof.Machine.execVsts q d a b k s
  | .vgath q d a b k => Sys2Proof.Machine.execVgath q d a b k s
  | .vscat q d a b k => Sys2Proof.Machine.execVscat q d a b k s
  | .vrng q d a k => Sys2Proof.Machine.execVrng q d a k s
  | .vsamp q d a b k p => Sys2Proof.Machine.execVsamp q d a b k p s
  | .vsampGreedy q d a b k p => Sys2Proof.Machine.execVsampGreedy q d a b k p s
  | .vmaskld q m a b => Sys2Proof.Machine.execVmaskld q m a b s
  | .mma q z a b f kc => Sys2Proof.Machine.execMma q z a b f kc s
  | .mmas q z a b f kc => Sys2Proof.Machine.execMmas q z a b f kc s
  | .mmai q z a b kc => Sys2Proof.Machine.execMmai q z a b kc s
  | .mzero q z => Sys2Proof.Machine.execMzero q z s
  | .mldz q z a => Sys2Proof.Machine.execMldz q z a s
  | .mstz q z a => Sys2Proof.Machine.execMstz q z a s
  | .mrdv q z a d => Sys2Proof.Machine.execMrdv q z a d s
  | .mwait q => Sys2Proof.Machine.execMwait q s
  | .mstat q z d => Sys2Proof.Machine.execMstat q z d s
  | .ld q w d a o => Sys2Proof.Machine.execLd q w d a o s
  | .st q w d a o => Sys2Proof.Machine.execSt q w d a o s
  | .wget q d w b => Sys2Proof.Machine.execWget q d w b s
  | .wfree q w b => Sys2Proof.Machine.execWfree q w b s
  | .wres q w b => Sys2Proof.Machine.execWres q w b s
  | .wput q w b => Sys2Proof.Machine.execWput q w b s
  | .wavail q d w => Sys2Proof.Machine.execWavail q d w s
  | .wspace q d w => Sys2Proof.Machine.execWspace q d w s
  | .tmovIn q d a b => Sys2Proof.Machine.execTmovIn q d a b s
  | .tmovOut q d a b => Sys2Proof.Machine.execTmovOut q d a b s
  | .twait q n => Sys2Proof.Machine.execTwait q n s
  | .ald q acq sc dw a => Sys2Proof.Machine.execAld q acq sc dw a s
  | .ast q rel sc dw a b => Sys2Proof.Machine.execAst q rel sc dw a b s
  | .acas q o sc dw a b => Sys2Proof.Machine.execAcas q o sc dw a b s
  | .atomAdd q o sc a b => Sys2Proof.Machine.execAtomAdd q o sc a b s
  | .atomSwap q o sc a b => Sys2Proof.Machine.execAtomSwap q o sc a b s
  | .atomAnd q o sc a b => Sys2Proof.Machine.execAtomAnd q o sc a b s
  | .atomOr q o sc a b => Sys2Proof.Machine.execAtomOr q o sc a b s
  | .atomXor q o sc a b => Sys2Proof.Machine.execAtomXor q o sc a b s
  | .atomMin q o sc a b => Sys2Proof.Machine.execAtomMin q o sc a b s
  | .atomMax q o sc a b => Sys2Proof.Machine.execAtomMax q o sc a b s
  | .atomMaxu q o sc a b => Sys2Proof.Machine.execAtomMaxu q o sc a b s
  | .ldf q d a e => Sys2Proof.Machine.execLdf q d a e s
  | .stf q d a => Sys2Proof.Machine.execStf q d a s
  | .sete q d a => Sys2Proof.Machine.execSete q d a s
  | .fence q sc => Sys2Proof.Machine.execFence q sc s
  | .sstart q n => Sys2Proof.Machine.execSstart q n s
  | .sstop q n => Sys2Proof.Machine.execSstop q n s
  | .sbar q b => Sys2Proof.Machine.execSbar q b s
  | .sstat q n => Sys2Proof.Machine.execSstat q n s
  | .qclaim q n => Sys2Proof.Machine.execQclaim q n s
  | .qput q n b => Sys2Proof.Machine.execQput q n b s
  | .qstat q n => Sys2Proof.Machine.execQstat q n s
  | .fend q => Sys2Proof.Machine.execFend q s
  | .resume q => Sys2Proof.Machine.execResume q s
  | .land q e t => Sys2Proof.Machine.execLand q e t s
  | .mode q m => Sys2Proof.Machine.execMode q m s
  | .sig q n => Sys2Proof.Machine.execSig q n s
  | .trapN q c => Sys2Proof.Machine.execTrapN q c s
  | .trapS q c => Sys2Proof.Machine.execTrapS q c s
  | .brk q => Sys2Proof.Machine.execBrk q s
  | .gopen q a b => Sys2Proof.Machine.execGopen q a b s
  | .gstep q a b => Sys2Proof.Machine.execGstep q a b s
  | .gmask q a b => Sys2Proof.Machine.execGmask q a b s
  | .gclose q a => Sys2Proof.Machine.execGclose q a s
  | .gqry q a b => Sys2Proof.Machine.execGqry q a b s
  | .cfgw q a b => Sys2Proof.Machine.execCfgw q a b s
  | .cfgr q a b => Sys2Proof.Machine.execCfgr q a b s
  | .cfgcrc q a b => Sys2Proof.Machine.execCfgcrc q a b s
  | .cfgcommit q a b => Sys2Proof.Machine.execCfgcommit q a b s
  | .cfgabort q b => Sys2Proof.Machine.execCfgabort q b s
  | .rtw q a b => Sys2Proof.Machine.execRtw q a b s
  | .sech q a b => Sys2Proof.Machine.execSech q a b s
  | .secv q a b => Sys2Proof.Machine.execSecv q a b s
  | .eret q a b => Sys2Proof.Machine.execEret q a b s
  | .preq q a b => Sys2Proof.Machine.execPreq q a b s
  | .frz q a b => Sys2Proof.Machine.execFrz q a b s
  | .dmap q a b => Sys2Proof.Machine.execDmap q a b s
  | .resultWriteback core ctx => Sys2Proof.Machine.execResultWriteback core ctx s
  | .deferredResultArrival core ctx id v po => Sys2Proof.Machine.execDeferredResultArrival core ctx id v po s
  | .firingStart core entry => Sys2Proof.Machine.execFiringStart core entry s
  | .guardPoison core entry => Sys2Proof.Machine.execGuardPoison core entry s
  | .windowClosed core entry => Sys2Proof.Machine.execWindowClosed core entry s
  | .claimRequest core entry => Sys2Proof.Machine.execClaimRequest core entry s
  | .claimDecide core ctx => Sys2Proof.Machine.execClaimDecide core ctx s
  | .claimAnswer core ctx grant idx => Sys2Proof.Machine.execClaimAnswer core ctx grant idx s
  | .queueSlotCommit id => Sys2Proof.Machine.execQueueSlotCommit id s
  | .claimCopyRetire id => Sys2Proof.Machine.execClaimCopyRetire id s
  | .queueCredit load queue freed => Sys2Proof.Machine.execQueueCredit load queue freed s
  | .queueClose load queue final => Sys2Proof.Machine.execQueueClose load queue final s
  | .routerForward id => Sys2Proof.Machine.execRouterForward id s
  | .tokenCommit id => Sys2Proof.Machine.execTokenCommit id s
  | .wputReadDone id => Sys2Proof.Machine.execWputReadDone id s
  | .creditArrival id => Sys2Proof.Machine.execCreditArrival id s
  | .closePacketArrival id => Sys2Proof.Machine.execClosePacketArrival id s
  | .commitAck core ctx id => Sys2Proof.Machine.execCommitAck core ctx id s
  | .tmovRetire id => Sys2Proof.Machine.execTmovRetire id s
  | .matrixCommandStart core => Sys2Proof.Machine.execMatrixCommandStart core s
  | .matrixStreamEnd core => Sys2Proof.Machine.execMatrixStreamEnd core s
  | .matrixCommandRetire core => Sys2Proof.Machine.execMatrixCommandRetire core s
  | .resultAreaWrite id => Sys2Proof.Machine.execResultAreaWrite id s
  | .corridorArrival core sig => Sys2Proof.Machine.execCorridorArrival core sig s
  | .corridorApply core ctx => Sys2Proof.Machine.execCorridorApply core ctx s
  | .drainStart load m => Sys2Proof.Machine.execDrainStart load m s
  | .streamToken hall stream => Sys2Proof.Machine.execStreamToken hall stream s
  | .orderedAccessPerform hall stream => Sys2Proof.Machine.execOrderedAccessPerform hall stream s
  | .walkResult id => Sys2Proof.Machine.execWalkResult id s
  | .rewalk id => Sys2Proof.Machine.execRewalk id s
  | .flimExpiry id => Sys2Proof.Machine.execFlimExpiry id s
  | .invalidatePage wing va asn => Sys2Proof.Machine.execInvalidatePage wing va asn s
  | .invalidateRegion wing va asn => Sys2Proof.Machine.execInvalidateRegion wing va asn s
  | .invalidateAsn wing asn => Sys2Proof.Machine.execInvalidateAsn wing asn s
  | .invalidateAll wing => Sys2Proof.Machine.execInvalidateAll wing s
  | .preemptFlagSet core => Sys2Proof.Machine.execPreemptFlagSet core s
  | .hallWriteOut load slot => Sys2Proof.Machine.execHallWriteOut load slot s
  | .freezeArrival load hall => Sys2Proof.Machine.execFreezeArrival load hall s
  | .stopFlagArrival core => Sys2Proof.Machine.execStopFlagArrival core s
  | .hang load drain stalled => Sys2Proof.Machine.execHang load drain stalled s
  | .moveEntriesValid core => Sys2Proof.Machine.execMoveEntriesValid core s
  | .benRestart wing => Sys2Proof.Machine.execBenRestart wing s
  | .grammarCommandPerform id => Sys2Proof.Machine.execGrammarCommandPerform id s
  | .doorbellWrite queue v => Sys2Proof.Machine.execDoorbellWrite queue v s
  | .launchCold queue => Sys2Proof.Machine.execLaunchCold queue s
  | .launchColdResident queue => Sys2Proof.Machine.execLaunchColdResident queue s
  | .launchResidentRun queue => Sys2Proof.Machine.execLaunchResidentRun queue s
  | .launchRelease queue => Sys2Proof.Machine.execLaunchRelease queue s
  | .msixUnmask vector => Sys2Proof.Machine.execMsixUnmask vector s
  | .placingOutcome launch word => Sys2Proof.Machine.execPlacingOutcome launch word s
  | .bar2Write off data ep => Sys2Proof.Machine.execBar2Write off data ep s
  | .bar2Read off n => Sys2Proof.Machine.execBar2Read off n s
  | .registerWrite off v => Sys2Proof.Machine.execRegisterWrite off v s
  | .voltageReplan wing hall voff => Sys2Proof.Machine.execVoltageReplan wing hall voff s
  | .thermalTrip tj => Sys2Proof.Machine.execThermalTrip tj s
  | .powerTrip pwr => Sys2Proof.Machine.execPowerTrip pwr s
  | .selfTestDone r => Sys2Proof.Machine.execSelfTestDone r s
  | .cxlTimeout port => Sys2Proof.Machine.execCxlTimeout port s
  | .cxlLinkDown port => Sys2Proof.Machine.execCxlLinkDown port s
  | .linkFlitReceive port f => Sys2Proof.Machine.execLinkFlitReceive port f s
  | .linkRetry port seq => Sys2Proof.Machine.execLinkRetry port seq s
  | .linkRetrainDone port up => Sys2Proof.Machine.execLinkRetrainDone port up s
  | .accessReachesBank id => Sys2Proof.Machine.execAccessReachesBank id s
  | .sramError t correctable => Sys2Proof.Machine.execSramError t correctable s
  | .powerEnvelopeControl wing afl => Sys2Proof.Machine.execPowerEnvelopeControl wing afl s
  | .balanceSample => Sys2Proof.Machine.execBalanceSample s
  | .balanceIntervalEnd => Sys2Proof.Machine.execBalanceIntervalEnd s
  | .admissionWindowStart => Sys2Proof.Machine.execAdmissionWindowStart s
  | .loadStopped => Sys2Proof.Machine.execLoadStopped s
  | .preqComplete => Sys2Proof.Machine.execPreqComplete s
  | .pageStall => Sys2Proof.Machine.execPageStall s
  | .arcLate => Sys2Proof.Machine.execArcLate s
  | .loadComplete => Sys2Proof.Machine.execLoadComplete s
  | .drainTargetSet => Sys2Proof.Machine.execDrainTargetSet s
  | .quiescentPoint => Sys2Proof.Machine.execQuiescentPoint s
  | .candidateStart => Sys2Proof.Machine.execCandidateStart s
  | .nextLoadStart => Sys2Proof.Machine.execNextLoadStart s
  | .completionWord => Sys2Proof.Machine.execCompletionWord s
  | .invalidationComplete => Sys2Proof.Machine.execInvalidationComplete s
  | .stageRetire => Sys2Proof.Machine.execStageRetire s
  | .outputQueueClose => Sys2Proof.Machine.execOutputQueueClose s
  | .moveBoundary => Sys2Proof.Machine.execMoveBoundary s
  | .collectiveRound => Sys2Proof.Machine.execCollectiveRound s
  | .arcTolerance => Sys2Proof.Machine.execArcTolerance s
  | .alimExpiry => Sys2Proof.Machine.execAlimExpiry s
  | .collectiveTolerance => Sys2Proof.Machine.execCollectiveTolerance s
  | .collectiveLimit => Sys2Proof.Machine.execCollectiveLimit s
  | .healthRead => Sys2Proof.Machine.execHealthRead s
  | .enterSafeState => Sys2Proof.Machine.execEnterSafeState s
  | .powerOn => Sys2Proof.Machine.execPowerOn s
  | .powerOff => Sys2Proof.Machine.execPowerOff s

end Sys2Proof.Machine
end

