-- ==== Sys2Proof/Machine/Cycle.lean ====
section
/-!
DEFINITION. What a step does between and around the meanings: fetch (R60, R94 to R97), the arbiter
(R61 to R64), the firing unit's turn (R243, R244), events, the end of a cycle with the hang monitor
(R463) and the clocks, and how a program is placed for the next step (log 11).
-/

namespace Sys2Proof.Machine

/-! ### Fetch (R60, R94 to R97) -/

/-- A word of the code store lies in the extent of the actor that the executing context runs (R96). -/
def State.inExtent (s : State) (pc : Nat) : Bool :=
  let w := s.actorWord s.curCore s.cur.actor 0
  bits w 0 13 ≤ pc && pc < bits w 0 13 + bits w 13 14 && pc < 8192

/-- CODE_BOUND (R96): 1 for the extent, 2 for the fill word. -/
def State.boundFault (s : State) (why : Nat) : FaultInfo :=
  { code := codeBound, detail := BitVec.ofNat 64 (s.cur.prevPc.toNat + why * 2 ^ 16) }

/-- The 8 bytes of the code store from the executing context's PC on. -/
def State.codeBytes (s : State) : List Byte :=
  memBytes s.mem (codeKey s.curCore (4 * s.cur.pc.toNat)) 8

/-- The words of an ILLEGAL_OP detail (R81, R97). -/
def illegalWords (b : List Byte) : FaultInfo :=
  let w := BitVec.ofNat 32 (bytesToNat (b.take 4))
  illegalFault w (if wordLong w then BitVec.ofNat 32 (bytesToNat (b.drop 4)) else 0)

/-- FETCH AND DECODE (R97 steps 1 and 2): the instruction at the executing context's PC, or the fault
that the words there raise. -/
def State.fetch (s : State) : Except FaultInfo Instr :=
  let pc := s.cur.pc.toNat
  if s.cur.wild || !s.inExtent pc then .error (s.boundFault 1)
  else if s.word == 0xFFFFFFFF#32 then .error (s.boundFault 2)
  else if wordLong s.word && !s.inExtent (pc + 1) then .error (s.boundFault 1)
  else
    match decode s.codeBytes with
    | .ok (i, _) => .ok i
    | .error _ => .error (illegalWords s.codeBytes)

/-! ### The arbiter (R61 to R64) -/

/-- A context becomes the executing one. -/
def State.focus (s : State) (c x : Nat) : State := { s with curCore := c, curCtx := x }

/-- The context has issued or faulted: a held instruction changes nothing (R61). -/
def Ctx.spent (before after : Ctx) : Bool :=
  before.ready != after.ready || before.halted != after.halted || before.run != after.run

/-- The form whose holds a word of the code store has (R61): the decoded instruction, or the one that a
nonzero reserved bit spoils (DEDUCED, log 107). -/
def State.heldForm (s : State) : Option Instr :=
  match decode s.codeBytes with
  | .ok (i, _) => some i
  | .error (.reservedBits i) => some i
  | .error _ => none

/-- An instruction that may not be fetched, or whose reserved bits are not zero, is held all the same where
a hold meets its form: holds come before faults (R61). -/
def State.heldOutside (s : State) : Bool :=
  !s.cur.wild && (s.cur.pc.toNat < 8191 || !wordLong s.word) &&
  (match s.heldForm with
  | some i =>
    (match exec i s with
    | .next s' => !s.cur.spent s'.cur
    | _ => false)
  | none => false)

/-- What the instruction at a context's PC does. -/
def State.attempt (s : State) (c x : Nat) : Answer :=
  let s := s.focus c x
  match s.fetch with
  | .error f => if s.heldOutside then .next s else .next (s.takeFault f)
  | .ok i => exec i s

/-- R61: a context is eligible. A system-hall core that a transaction has taken is unarmed until its
commit and issues nothing (R99, R229). -/
def State.eligible (s : State) (c x : Nat) : Bool :=
  let t := s.ctx c x
  t.run != .idle && !t.halted && t.park.isNone && t.ready ≤ s.cycle &&
  ((s.core c).armed || !isSystemCore c) &&
  (match s.attempt c x with
  | .next s' => t.spent (s'.ctx c x)
  | _ => true)

/-- The contexts in the arbiter's order (R62). -/
def State.order (s : State) (c : Nat) : List Nat :=
  let l := (s.core c).last.toNat
  [(l + 1) % 4, (l + 2) % 4, (l + 3) % 4, l]

/-- R64: a context that has just yielded waits for the others that are eligible now, and for those
that an earlier yield of its own still waits for. -/
def State.fixYield (s : State) (c x : Nat) : State :=
  let t := s.ctx c x
  if t.yieldNew then
    let now := (steps 0 1 4).filter fun y => y != x && s.eligible c y
    match now.foldl (fun l y => setAdd y l) (t.yieldFor.getD []) with
    | [] => s.setCtx c x { t with yielding := false, yieldNew := false, yieldFor := none }
    | l => s.setCtx c x { t with yieldNew := false, yieldFor := some l }
  else s

/-- R62, R64: the context that issues. -/
def State.selected (s : State) (c : Nat) : Option Nat :=
  match (s.order c).find? fun x => !(s.ctx c x).yielding && s.eligible c x with
  | some x => some x
  | none => (s.order c).find? fun x => s.eligible c x

/-- A core's issue slot of a cycle. -/
def State.issueSlot (s : State) (c : Nat) : Answer :=
  let s := (steps 0 1 4).foldl (fun s x => s.fixYield c x) s
  match s.selected c with
  | some x => s.attempt c x
  | none => .next s

/-! ### The firing unit (R243, R244) -/

/-- A core's firing unit takes its next action of this cycle; `rest` is what then stands. A system-hall
core whose guard faults has done for the cycle (log 16). -/
def State.fireSlot (s : State) (c : Nat) (rest : List Slot) : Answer :=
  match s.fireEvent c with
  | none => .next ({ s with todo := rest }.updateWaits c none)
  | some (.claimRequest k e, _) => exec (.claimRequest k e) s
  | some (i, true) => exec i { s with todo := if isSystemCore c then rest else s.todo }
  | some (i, false) => exec i ({ s with todo := rest }.updateWaits c (s.chosen c))

/-! ### Events -/

/-- The first context with register writes that are due (R66). -/
def State.dueWriteback (s : State) : Option (Nat × Nat) :=
  s.cores.findSome? fun e =>
    ((steps 0 1 4).find? fun x => (e.2.ctx x).pend.any fun w => w.due ≤ s.cycle).map fun x => (e.1, x)

/-- An event of the agenda, which has left it. A part that does not run takes only the inputs of its
host side. -/
def State.runEvent (s : State) (i : Instr) : Answer :=
  if i.encoded || !i.wf then .fault .illFormedEvent
  else if s.dev != .running && !isHostSide i then .next s
  else exec i s

/-! ### The hang monitor (R265, R463) -/

/-- 2^HEXP of a wing (R459). -/
def State.hangLimit (s : State) (wing : Nat) : Nat :=
  2 ^ min 40 (max 16 (bits (s.sysCfg wing 2322) 0 6))

/-- A load whose counters the monitor holds. -/
def Load.watched (l : Load) : Bool := l.state == .running || l.state == .preempting

/-- R463: a cycle in which the load's counters count. -/
def State.hangCounts (s : State) (h : Nat) : Bool :=
  (s.loadAt h).watched && (s.withheld.all fun e => e.2.load != h || !e.2.failed) && !s.waitsOnArcs h &&
    !s.loadDone h

/-- A stall counter after a cycle that counts. -/
def Ctx.countStall (t : Ctx) : Ctx :=
  if t.run != .idle && t.park.isNone && !t.halted then { t with stall := t.stall + 1 } else t

/-- The counters of a load at the start of a cycle; what happens in it returns them to 0. -/
def State.countLoad (s : State) (h : Nat) : State :=
  let l := s.loadAt h
  if !l.watched then s
  else
    let on := s.hangCounts h
    let s := s.setLoad h { l with hang := if on then l.hang + 1 else l.hang,
                                  drainAge := if !l.draining then 0 else if on then l.drainAge + 1 else l.drainAge }
    if on then
      l.cores.foldl (fun s c =>
        let k := s.core c
        s.setCore c { k with c0 := k.c0.countStall, c1 := k.c1.countStall, c2 := k.c2.countStall,
                             c3 := k.c3.countStall }) s
    else s

/-- The context of a load whose stall counter has reached the interval. -/
def State.stalledCtx (s : State) (h : Nat) : Option (Nat × Nat) :=
  (s.loadAt h).cores.findSome? fun c =>
    ((steps 0 1 4).find? fun x => s.hangLimit (wingOfCore c) ≤ (s.ctx c x).stall).map fun x => (c, x)

/-- The HANG that a load's counters call for; the load counter and the drain go by the lowest wing. -/
def State.hangDue (s : State) (h : Nat) : Option Instr :=
  let l := s.loadAt h
  let n := s.hangLimit (l.wingsOf.headD 0)
  if !l.watched then none
  else if n < l.drainAge then some (.hang h true none)
  else if n ≤ l.hang then some (.hang h false none)
  else (s.stalledCtx h).map fun e => .hang h false (some e)

/-! ### The end of a cycle -/

/-- Cycles of one hour, after which the firmware plans the voltages again (R474). -/
def replanPeriod : Nat := 3780000000000

/-- The clocks' and monitors' events of a cycle that begins. -/
def State.clockEvents (s : State) : List Instr :=
  let wings := steps 0 1 4
  let on := fun (b : Bool) (i : Instr) => if b then [i] else []
  s.retrainsOver.map (fun p => .linkRetrainDone p false) ++
  on (wings.any s.sampleDue) .balanceSample ++
  on (wings.any s.intervalEndDue) .balanceIntervalEnd ++
  on (wings.any s.windowStartDue) .admissionWindowStart ++
  on (s.ranksTolerated != []) .collectiveTolerance ++
  on (s.roundsExpired != []) .collectiveLimit ++
  (if s.cycle % replanPeriod = 0 then s.plannedHalls.map fun e => .voltageReplan e.1 e.2 none else [])

/-- The timers of arc ends at the evaluation of a cycle, and what they have reached (R450). -/
def State.stepTimers (s : State) : State :=
  let s := s.timedLoads.foldl (fun s h => s.setLoad h { s.loadAt h with timers := s.arcTimers h }) s
  let s := if s.timedLoads.any fun h => s.arcsTolerated h != [] then s.at s.cycle .arcTolerance else s
  if s.runningLoads.any fun h => (s.arcExpired h).isSome then s.at s.cycle .alimExpiry else s

/-- Loads that are complete are taken up (R256). -/
def State.noticeDone (s : State) : State :=
  if s.doneLoads != [] && !(s.agenda.any fun e => e.2 == .loadComplete) then s.later 1 .loadComplete
  else s

/-- What is to be done in a cycle: the timers of arc ends, then the cores' firing units and issue slots, in
ascending order (log 1). -/
def State.slots (s : State) : List Slot :=
  (if s.timedLoads = [] then [] else [.timers]) ++ s.cores.flatMap fun e => [.fire e.1, .issue e.1]

/-- THE NEXT CYCLE begins: the monitors' verdict on the last one, the inputs from outside, the counters, the
clocks, and the cores' slots. In a part that does not run only time passes and inputs arrive. -/
def State.tick (s : State) : State :=
  if !s.power || s.dev != .running then { s with cycle := s.cycle + 1 }.takeInputs
  else
    let hangs := s.loads.filterMap fun e => s.hangDue e.1
    let s := { s.returnCredits with cycle := s.cycle + 1 }.takeInputs
    let s := (s.loads.map (·.1)).foldl State.countLoad s
    let s := (hangs ++ s.clockEvents).foldl (fun s i => s.at s.cycle i) s
    let s := s.noticeDone
    { s with todo := s.slots }

/-- What a step does once nothing is due: the next slot of the cycle, or the next cycle. -/
def State.nextSlot (s : State) : Answer :=
  match s.todo with
  | .timers :: rest => .next { s with todo := rest }.stepTimers
  | .fire c :: rest => s.fireSlot c rest
  | .issue c :: rest => { s with todo := rest }.issueSlot c
  | [] => .next s.tick

/-- Register writes that are due, then the events that are due, then the slots of the cycle. -/
def State.advanceMachine (s : State) : Answer :=
  match s.dueWriteback with
  | some (c, x) => exec (.resultWriteback c x) s
  | none =>
    match s.agenda with
    | (d, i) :: rest =>
      if d ≤ s.cycle then { s with agenda := rest }.runEvent i else s.nextSlot
    | [] => s.nextSlot

/-! ### A program placed for the next step (log 11) -/

/-- Every register write that is due takes effect. -/
def Core.settle (k : Core) (now : Nat) : Core :=
  { k with c0 := k.c0.writeback now, c1 := k.c1.writeback now, c2 := k.c2.writeback now,
           c3 := k.c3.writeback now }

/-- The core on which a placed program runs: core 0 of the system hall of wing 0, the only kind of core
that runs without a load and may issue every form. -/
def placedCore : Nat := systemHall 0 * 32

/-- A state whose next step fetches at context 0 of the placed core, from word `pc` of its code store:
what is due is done or moved to the next cycle, the context runs a firing of actor record 0, and the
record's extent is the whole code store. -/
def State.readyToRun (s : State) (pc : Nat) : State :=
  let c := placedCore
  let s := { s with power := true, dev := .running,
                    cores := s.cores.map (fun (e : Nat × Core) => (e.1, e.2.settle s.cycle)),
                    agenda := s.agenda.map (fun (e : Nat × Instr) => (max e.1 (s.cycle + 1), e.2)),
                    todo := [.issue c] }
  let k := s.core c
  let quiet := fun (t : Ctx) => { t with ready := max t.ready (s.cycle + 1), yielding := false,
                                         yieldNew := false, yieldFor := none }
  let t := { quiet k.c0 with ready := s.cycle, run := .firing, park := none, halted := false, actor := 0,
                             pc := BitVec.ofNat 13 pc, wild := false }
  let s := s.setCore c { k with armed := true, c0 := t, c1 := quiet k.c1, c2 := quiet k.c2, c3 := quiet k.c3, last := 3 }
  s.setActorWord c 0 0 (withBits (withBits (s.actorWord c 0 0) 0 13 0) 13 14 8192)

/-- An instruction's words in the placed core's code store, at its word 0 (log 11). -/
def State.placeWords (s : State) (v : Nat) : State :=
  (s.readyToRun 0).store (codeKey placedCore 0)
    (bytesOfWords [BitVec.ofNat 32 v, BitVec.ofNat 32 (v >>> 32)])

end Sys2Proof.Machine
end

