-- ==== Sys2Proof/Machine/Step.lean ====
section
/-!
DEFINITION. One step of the machine (log 1), and the placement of an instruction for the next step.
-/

namespace Sys2Proof.Machine

/-- ONE STEP: register writes that are due, else the first event that is due, else the next core's
slot of the cycle, else the next cycle. -/
def step (s : State) : Host.Outcome State Fault Refusal := s.advanceMachine

/-- The state with an instruction of the opcode table where `step` fetches next (log 11). -/
def State.withFetchWord (s : State) (nbits w : Nat) : State := s.placeWords (w % 2 ^ nbits)

end Sys2Proof.Machine
end

