-- ==== Sys2Proof/Safety.lean ====
section
/-!
DEFINITION. The terms in which claims about the machine are stated: what a safe run is, the invariant
of memory, when an instruction issues, and what the issue of an instruction leaves as it was.
-/

namespace Sys2Proof.Machine

/-! ### Runs -/

/-- t stands after some steps from s, each of which answered a next state. -/
inductive Reaches (s : State) : State → Prop
  | here : Reaches s s
  | onward {t u : State} : Reaches s t → step t = .next u → Reaches s u

/-- A run from s is safe: whatever state it reaches, the next step answers a next state. -/
def RunsSafely (s : State) : Prop := ∀ t, Reaches s t → ∃ u, step t = .next u

/-- The canonical form of what a read after a write rests on: memory strictly rising with no entry
equal to what an unlisted address reads as, and the configuration words strictly rising. -/
def Tidy (s : State) : Prop := memWf s.mem = true ∧ mapSorted s.cfg = true

/-- No event that a host of the model has put into the agenda is ill-formed. -/
def AgendaOk (s : State) : Prop := ∀ e ∈ s.agenda, e.2.encoded = false ∧ e.2.wf = true

/-- An event stands in the agenda for a later cycle than this one. -/
def Scheduled (s u : State) (e : Instr) : Prop := ∃ due, s.cycle < due ∧ (due, e) ∈ u.agenda

/-! ### Balance -/

/-- Core k, an active core of stage d of a wing with no pin, may be given to stage r, whose candidate it is too;
a and b are its actor records of the two stages (R306). -/
structure CoreMovable (s : State) (wing r d k a b : Nat) : Prop where
  donor : (k, a) ∈ s.stageCores wing d
  recipient : (k, b) ∈ s.stageCores wing r
  active : s.candidateActive k a = true
  free : (s.core k).pin = 0

/-- Stage r may receive a core of stage d (R306), and d has one to give. -/
structure PairFits (s : State) (wing r d : Nat) : Prop where
  valid : r ∈ s.stages wing ∧ d ∈ s.stages wing ∧ d ≠ r
  counted : s.excluded wing r = false ∧ s.excluded wing d = false
  load : s.stageLoad wing d = s.stageLoad wing r
  above : s.stageRepl wing r < s.stageMax wing r ∧ s.stageTp wing r ≤ s.demand wing r
  below : s.stageMin wing d < s.stageRepl wing d ∧ s.demand wing d ≤ s.stageTn wing d
  core : ∃ k a b, CoreMovable s wing r d k a b

/-- The order in which R306 takes pairs of recipient and donor up. -/
def pairBefore (s : State) (wing r d r' d' : Nat) : Prop :=
  s.demand wing r' < s.demand wing r ∨ (s.demand wing r' = s.demand wing r ∧ r < r') ∨
  (r' = r ∧ (s.demand wing d < s.demand wing d' ∨ (s.demand wing d = s.demand wing d' ∧ d ≤ d')))

/-- The first pair that fits, and its lowest core, in program-visible numbers. -/
structure Chosen (s : State) (wing r d k a b : Nat) : Prop where
  fits : PairFits s wing r d
  first : ∀ r' d', PairFits s wing r' d' → pairBefore s wing r d r' d'
  movable : CoreMovable s wing r d k a b
  lowest : ∀ k' a' b', CoreMovable s wing r d k' a' b' → s.visibleCore k ≤ s.visibleCore k'

/-! ### Save areas -/

/-- The bytes that stand at a physical address, and bit n of a bit array there. -/
def State.physBytes (s : State) (pa n : Nat) : List Byte := memBytes s.mem (physKey pa) n
def State.physBit (s : State) (pa n : Nat) : Bool :=
  (memByte s.mem (physKey (pa + n / 8))).getLsbD (n % 8)

/-- Words n, n + 1, … of a configuration space as bytes (R15). -/
def State.cfgBytes (s : State) (unit space n : Nat) : List Byte :=
  (steps 0 1 n).flatMap fun i => natToBytes 8 (s.cfgAt unit space i).toNat

/-- The lines of a store whose slot lies at pa in t are those of u that a write-out copies, D = 1 and S = 0
(R407), or every one in a freeze readout (R411); there too stand their D bits and their poison bits. -/
structure StoreLaid (u t : State) (key lines pa dAt poAt : Nat) (freeze : Bool) : Prop where
  dirty : ∀ n < lines, t.physBit dAt n = setHas (key / 256 + n) u.dirty
  poison : ∀ n < 32 * lines, t.physBit poAt n = setHas (key / 8 + n) u.poison
  data : ∀ n < lines, (freeze = true ∨ setHas (key / 256 + n) u.dirty = true ∧
    setHas (key / 256 + n) u.saved = false) →
    t.physBytes (pa + 256 * n) 256 = memBytes u.mem (key + 256 * n) 256

/-- What a context record holds of a register or bank (R406). -/
def State.itemBytes (s : State) (c x key : Nat) : List Byte :=
  let t := s.ctx c x
  if key = 700 then (steps 0 1 32).flatMap ((s.core c).rowBytes false)
  else if key = 701 then (steps 0 1 32).flatMap ((s.core c).rowBytes true)
  else if key < 64 then natToBytes 8 (t.kept key).v.toNat
  else if 600 ≤ key then natToBytes 4 (t.kept key).v.toNat
  else (steps key 1 32).flatMap fun l => natToBytes 4 (t.kept l).v.toNat

/-- A context record of u stands at rb in t (R406): the header, and every item of the live map that has D = 1
and is not in the slot, or every item in a freeze readout (R407, R411). -/
structure CtxLaid (u t : State) (c x rb : Nat) (freeze : Bool) : Prop where
  header : (freeze = true ∨ (u.ctx c x).noRecord = false) →
    let live := if freeze then allLive else (u.ctx c x).live
    t.physBytes rb 192 = u.ctxHeader c x live freeze ∧
    ∀ it ∈ sections live, (freeze = true ∨ u.itemDirty c x it.1 = true ∧ u.itemSaved c x it.1 = false) →
      t.physBytes (rb + it.2) (u.itemBytes c x it.1).length = u.itemBytes c x it.1

/-- A core record of u stands at pa in t (R405, R411). -/
structure CoreLaid (u t : State) (c pa : Nat) (freeze : Bool) : Prop where
  signals : ∀ x < 4, ∀ n < 64, t.physBit (pa + 8 * x) n = (u.ctx c x).corridor.contains n
  units : t.physBytes (pa + 0x200) 512 = u.cfgBytes c 2 64 ∧ t.physBytes (pa + 0x400) 2048 = u.cfgBytes c 3 256
  special : ∀ x < 4, t.physBytes (pa + 0xC00 + 256 * x) 96 = u.specialWords c x
  store : StoreLaid u t (tileKey c 0) 512 (pa + 0x20000) (pa + 0x1000) (pa + 0x1040) freeze
  contexts : ∀ x < 4, CtxLaid u t c x (pa + 0x2000 + 0x5000 * x) freeze
  queues : freeze = true → ∀ x < 4,
    t.physBytes (pa + 0x20 + 8 * x) 8 = natToBytes 8 (rqState ((u.ctx c x).rq.take 8)) ∧
    ∀ n e, n < 8 → (u.ctx c x).rq[n]? = some e → t.physBytes (pa + 0x100 + 64 * x + 8 * n) 8 =
      natToBytes 8 (if e.arrived then e.val.v.toNat else 0)
  commands : freeze = true → ∀ n e, n < 8 → (u.core c).mq[n]? = some e →
    t.physBytes (pa + 0x40 + 8 * n) 8 = natToBytes 8 (e.word.toNat + if e.started then 2 ^ 32 else 0)

/-- Hall i of load h in u, the physical hall hk, stands in the slot at base in t (R404, R411). -/
structure SlotLaid (u t : State) (h i hk base : Nat) (freeze : Bool) : Prop where
  words : t.physBytes base 4096 = u.cfgBytes (hallUnits hk) 6 512
  full : ∀ n < 2 ^ 17, t.physBit (base + 0x1000) n = setHas (hallKey hk 0 / 8 + n) u.full
  store : StoreLaid u t (hallKey hk 0) 4096 (base + 0x10000) (base + 0x9000) (base + 0x5000) freeze
  streams : ∀ n < 32, t.physBytes (base + 0x9200 + 64 * n) 64 = u.streamRecord hk n
  cores : ∀ p < 16, CoreLaid u t (u.carrier (u.loadAt h) i p) (base + 0x110000 + 0x40000 * p) freeze
  flits : freeze = true → ∀ n d, n < 1024 → (u.routerFlits h hk)[n]? = some d →
    t.physBytes (base + 0x510000 + 64 * n) 64 = d
  count : freeze = true → let n := (u.routerFlits h hk).length
    t.physBytes (base + 0x9A00) 8 = natToBytes 8 (min 1024 n + if 1024 < n then 2 ^ 32 else 0)

/-- The header of load h's save area in a wing, which lies at pa, names what stands in t (R403). -/
structure AreaHeaded (t : State) (h wing pa kind : Nat) : Prop where
  head : let l := t.loadAt h
    t.physBytes pa 16 = natToBytes 4 0x53415645 ++ natToBytes 1 kind ++ natToBytes 1 h ++
      natToBytes 2 (l.halls.filter fun e => e.phys / 128 == wing).length ++
      natToBytes 8 ((if l.draining then 1 else 0) + l.target.toNat * 2)
  slots : ∀ n e, n < 64 → ((t.loadAt h).halls.filter fun e => e.phys / 128 == wing)[n]? = some e →
    t.physBytes (pa + 16 + 8 * n) 8 = natToBytes 8 (e.user + e.phys % 128 * 2 ^ 6 +
      (if e.writtenOut then 2 ^ 13 else 0) + (if e.restored then 2 ^ 14 else 0))

/-! ### Launches -/

/-- Launch id has ended with a STATUS, a CODE and a CAUSE, and its completion word is under way (R357). -/
structure LaunchEnds (s u : State) (id st code cause : Nat) : Prop where
  status : ∃ x, mapFind id u.launches = some x ∧ x.status = some (st, code, cause)
  word : Scheduled s u .completionWord

/-- The next load of launch id is being placed with a grant (R362, R366, R423): the launch has started and holds the
halls, handle, channels and save areas, which were free; the halls' identity words name the handle and the
state "loading", the stage entries the handle (R482); the outcome of the placing stage is under way. -/
structure PlacingBegun (s u : State) (id : Nat) (avoid : List Nat) (g : Grant) : Prop where
  launch : ∃ x, mapFind id u.launches = some x ∧ x.started = true ∧ x.placing = true ∧
    x.claimed = g.site.place ∧ x.current = some g.site.handle ∧ x.vcs = g.site.vcs ∧ x.areas = g.areas
  halls : ∀ hk ∈ g.site.place, s.hallFree hk = true ∧ hk ∉ avoid
  handle : g.site.handle < 28 ∧ (s.loadAt g.site.handle).state = .free
  channels : (∀ v ∈ g.site.vcs, s.freeChannel v.1 = some v.2) ∧
    g.site.vcs.length = (placeWings g.site.place).length
  savings : g.areas = s.reserveAreas g.site.place ∧ g.areas.length = (placeWings g.site.place).length
  identity : Tidy s → ∀ hk ∈ g.site.place,
    bits (u.hallCfg hk 4088) 50 6 = 32 + g.site.handle ∧ bits (u.hallCfg hk 4088) 47 3 = 1
  stages : Tidy s → ∀ e ∈ g.stages, bits (u.sysCfg e.1 (416 + 3 * e.2.1)) 58 6 = 32 + g.site.handle
  outcome : Scheduled s u (.placingOutcome id 0)

/-- Launch id has started and claims halls that victims hold (R363, R408): their running loads have received
PREQ, and the claimed halls of the suspended ones are being written out. -/
structure HallsClaimed (s u : State) (id : Nat) (place : List Nat) : Prop where
  launch : ∃ x, mapFind id u.launches = some x ∧ x.started = true ∧ x.claimed = place
  running : ∀ h ∈ s.holders place, ∀ n x, (s.loadAt h).state = .running → (s.loadAt h).launch = some n →
    mapFind n s.launches = some x → (u.loadAt h).state = .preempting
  suspended : ∀ h ∈ s.holders place, (s.loadAt h).state = .suspended → ∀ i e, (s.loadAt h).halls[i]? = some e →
    e.inPlace = true → e.phys ∈ place → ∃ due, (due, Instr.hallWriteOut h i) ∈ u.agenda

/-- A resident load runs for a launch (R359, R360). -/
structure ResidentRuns (u : State) (id gid h : Nat) (r : Resident) : Prop where
  load : let l := u.loadAt h
    l.state = .running ∧ l.launch = some id ∧ l.mode = 0 ∧ l.det = [] ∧ l.overflow = 0 ∧ l.draining = false
  launch : ∃ x, mapFind id u.launches = some x ∧ x.started = true ∧ x.current = some h
  resident : mapFind gid u.residents = some { r with running := true }
  cores : ∀ c ∈ (u.loadAt h).cores, (u.core c).armed = true ∧ (u.core c).load = some h
  sessions : ∀ e ∈ u.sessions, e.2.owner = h → e.2.live = false

/-- R362: of two candidates of one launch unit, whether the first is taken up no later than the second. -/
def candidateBefore (s : State) (wing : Nat) (a b : Launch) : Prop :=
  let prio := fun (t : Launch) => if t.started then t.prio else s.queuePrio t.queue
  let turn := fun (t : Launch) => (t.queue % 16 + 15 - mapGet 15 (8 * wing + prio t) s.rotation) % 16
  prio b < prio a ∨ (prio a = prio b ∧
    ((a.started = true ∧ b.started = false) ∨ (a.started = true ∧ b.started = true) ∨
      (a.started = false ∧ b.started = false ∧ turn a ≤ turn b)))

/-! ### The issue of an instruction -/

/-- R61, R394: the executing context runs a firing or a stub, is not parked or stopped, and one issue
more stays within LMAX. -/
def State.issues (s : State) : Prop := s.running = true ∧ s.overrun = false

/-- The state in which an instruction of `len` words has completed whose own effect is a list of
register writes that can be read `lat` cycles later (R60, R66, R76). -/
def State.wrote (s : State) (q : Issue) (len lat : Nat) (ws : List (Nat × PVal)) : State :=
  s.complete q len none fun u => u.writeRegs lat ws

/-- The state in which an instruction of one word with a write of x d has completed. -/
def State.wroteX (s : State) (q : Issue) (lat : Nat) (d : XReg) (v : Word64) (po : Bool) : State :=
  s.wrote q 1 lat [(xKey d, ⟨v, po⟩)]

/-- The state in which an instruction of one word with a write of p d has completed. -/
def State.wroteP (s : State) (q : Issue) (lat : Nat) (d : PReg) (v po : Bool) : State :=
  s.wrote q 1 lat [(pKey d, ⟨if v then 1 else 0, po⟩)]

/-- The state in which a vector form has completed that computes each active lane of v d: `f` gives
lane l its 32 bits and `po` its mark (R51, R135). -/
def State.wroteLanes (s : State) (q : Issue) (lat : Nat) (d : VReg) (k : KReg) (f : Nat → Nat)
    (po : Nat → Bool) : State :=
  s.wrote q 1 lat (s.laneWrites d k fun l => pv32 (f l) (po l))

/-- An element-wise operation on lane l of va and vb (R42). -/
def State.zipLane (s : State) (t : VType) (a b : VReg) (f : Nat → Nat → Nat) (l : Nat) : Nat :=
  laneMap t (fun x y _ => f x y) (s.laneN a l) (s.laneN b l) 0

/-- An element-wise operation on lane l of va. -/
def State.mapLane (s : State) (t : VType) (a : VReg) (f : Nat → Nat) (l : Nat) : Nat :=
  laneMap t (fun x _ _ => f x) (s.laneN a l) 0 0

/-- An element-wise operation on lane l of va, vb and vd. -/
def State.zip3Lane (s : State) (t : VType) (a b d : VReg) (f : Nat → Nat → Nat → Nat) (l : Nat) : Nat :=
  laneMap t f (s.laneN a l) (s.laneN b l) (s.laneN d l)

/-- The state in which an instruction of one word with no effect of its own has completed, `target`
being where a taken transfer goes. -/
def State.moved (s : State) (q : Issue) (target : Option Int) : State :=
  s.complete q 1 target fun u => u

/-- The instruction completes: exec answers the next state that an issue leaves of u, where u has LDIST
counted (R76) and the instruction's own effect done. -/
def CompletesWith (i : Instr) (s : State) (q : Issue) (P : State → Prop) : Prop :=
  ∃ u, exec i s = .next (u.advance q 1 none) ∧ u.cur.ldist = s.cur.ldist + 1 ∧ P u

/-- Nothing is written yet: memory with its marks, every register, flag, accumulator and special
register, and every other context and core stand as they were. Of the executing context only what
counts and orders its operations may differ, and of its core the scoreboard, the matrix queue and the
put counts. -/
structure NothingWritten (s u : State) : Prop where
  mem : u.mem = s.mem
  poison : u.poison = s.poison
  full : u.full = s.full
  own : u.cur = { s.cur with
    ldist := u.cur.ldist, rq := u.cur.rq, tags := u.cur.tags, acq := u.cur.acq, fence := u.cur.fence,
    areas := u.cur.areas, claimMade := u.cur.claimMade, putMade := u.cur.putMade, freed := u.cur.freed,
    reserved := u.cur.reserved, sent := u.cur.sent, elastic := u.cur.elastic, txn := u.cur.txn }
  units : u.curK = { s.curK with
    c0 := u.curK.c0, c1 := u.curK.c1, c2 := u.curK.c2, c3 := u.curK.c3,
    score := u.curK.score, mq := u.curK.mq, puts := u.curK.puts }
  contexts : ∀ x, x < 4 → x ≠ min s.curCtx 3 → u.ctx s.curCore x = s.ctx s.curCore x
  others : ∀ c, c ≠ s.curCore → u.core c = s.core c

/-- An access of the executing context has left for its bank (R197, R202, R273): its record under the
next operation number, and the event of its arrival, one cycle later at the earliest. -/
structure AccessSent (s u : State) (kind : AccKind) (key bytes : Nat) (a b : Word64) : Prop where
  sent : ∃ e, mapFind s.nextId u.accs = some e ∧ e.core = s.curCore ∧ e.ctx = s.curCtx ∧
    e.kind = kind ∧ e.key = key ∧ e.bytes = bytes ∧ e.a = a ∧ e.b = b
  arrives : ∃ due, s.cycle < due ∧ (due, Instr.accessReachesBank s.nextId) ∈ u.agenda
  unwritten : NothingWritten s u

/-- The access of the next number is performed behind all that a release of the executing context covers at
a scope (R199). -/
def AccessReleases (s u : State) (sc : Scope) : Prop :=
  ∃ e, mapFind s.nextId u.accs = some e ∧ ∀ i ∈ s.covered s.curCore s.curCtx sc, i ∈ e.after

/-- The operation with the next number fills the last entry of the return queue (R69). -/
def Deferred (s u : State) : Prop :=
  u.cur.rq = s.cur.rq ++ [⟨s.nextId, false, {}, true⟩]

/-- A copy of the executing context is under way (R192, R209): its record under the next operation
number, and the event of its end, one cycle later at the earliest. -/
structure CopyStarted (s u : State) (kind : CopyKind) (tile key len : Nat) (e : Instr) : Prop where
  started : ∃ c, mapFind s.nextId u.copies = some c ∧ c.core = s.curCore ∧ c.ctx = s.curCtx ∧
    c.kind = kind ∧ c.tile = tile ∧ c.key = key ∧ c.len = len
  ends : ∃ due, s.cycle < due ∧ (due, e) ∈ u.agenda
  unwritten : NothingWritten s u

/-- The lowest free tag is taken by the next operation (R192). -/
def TagTaken (s u : State) : Prop :=
  ∃ g, g < 4 ∧ (∀ e ∈ s.cur.tags, e.1 ≠ g) ∧ (∀ h, h < g → ∃ e ∈ s.cur.tags, e.1 = h) ∧
    u.cur.tags = s.cur.tags ++ [(g, s.nextId)]

/-- A range entry of the scoreboard holds later accesses to the range (R173, R187, R192). -/
def RangeTaken (s u : State) (lo len : Nat) (write slot : Bool) : Prop :=
  u.curK.score = s.curK.score ++ [⟨s.nextId, lo, len, write, slot⟩]

/-- A multiply-accumulate. -/
def isMac : Instr → Bool
  | .mma .. | .mmas .. | .mmai .. => true
  | _ => false

/-- A command has entered the matrix queue behind the others, with its cycles (R168, R169): it starts at
the earliest 2 cycles after issue, and not before an earlier command has stopped streaming, where both
accumulate, or retired. Its tile ranges are held (R173). -/
structure MatrixQueued (s u : State) (i : Instr) (stream drain : Nat) (ranges : List (Nat × Nat))
    (write : Bool) : Prop where
  queued : ∃ c, u.curK.mq = s.curK.mq ++ [c] ∧ c.id = s.nextId ∧ c.instr = i ∧ c.started = false ∧
    c.stop = c.start + stream ∧ c.retire = c.stop + drain ∧ s.cycle + 2 ≤ c.start ∧
    (∀ e ∈ s.curK.mq, (if isMac i && isMac e.instr then e.stop else e.retire) ≤ c.start) ∧
    (c.start = s.cycle + 2 ∨
      ∃ e ∈ s.curK.mq, c.start = if isMac i && isMac e.instr then e.stop else e.retire) ∧
    (c.start, Instr.matrixCommandStart s.curCore) ∈ u.agenda ∧
    (c.stop, Instr.matrixStreamEnd s.curCore) ∈ u.agenda ∧
    (c.retire, Instr.matrixCommandRetire s.curCore) ∈ u.agenda
  held : u.curK.score =
    s.curK.score ++ ranges.map fun r => ⟨s.nextId, r.1, r.2, write, false⟩
  unwritten : NothingWritten s u

/-- Ranges of the tile store that lie inside it and that no entry of the scoreboard holds. -/
def RangesFree (s : State) (write : Bool) (ranges : List (Nat × Nat)) : Prop :=
  ∀ r ∈ ranges, r.1 + r.2 ≤ 2 ^ 17 ∧ s.curK.rangeHeld r.1 r.2 write = false

/-- The waits of R215: every deferred result and every register write has arrived, no result area is
outstanding, no matrix command of an owner is queued, and no tag of a set is in use. -/
def LandingClear (s : State) (tags : Nat → Prop) : Prop :=
  s.cur.rq = [] ∧ s.cur.pend = [] ∧ s.cur.areas = [] ∧ (∀ e ∈ s.cur.tags, ¬ tags e.1) ∧
  (s.ownsMatrix s.curCore s.curCtx = true → s.curK.mq = [])

/-- A grammar command of the executing context has left for its engine (R224, R225), behind the
context's earlier commands to the engines of that wing. -/
structure CommandSent (s u : State) (fn : BitVec 3) (xa xb : Word64) : Prop where
  sent : ∃ c, mapFind s.nextId u.gcmds = some c ∧ c.core = s.curCore ∧ c.ctx = s.curCtx ∧
    c.fn = fn ∧ c.a = xa ∧ c.b = xb ∧ c.load = s.curK.load.getD 31 ∧
    ∀ e ∈ s.gcmds, e.2.core = s.curCore → e.2.ctx = s.curCtx → bits e.2.a 8 2 = bits xa 8 2 →
      e.1 ∈ c.after
  performs : Scheduled s u (.grammarCommandPerform s.nextId)
  unwritten : NothingWritten s u

/-- The result of a system form is under way to its area (R226): its record, the area's range held and
counted as outstanding, and the event that writes it. -/
structure ResultUnderWay (s u : State) (i : Instr) (area len : Nat) (block : List Byte) : Prop where
  pending : ∃ r, mapFind s.nextId u.results = some r ∧ r.core = s.curCore ∧ r.ctx = s.curCtx ∧
    r.instr = i ∧ r.area = area ∧ r.block = block
  held : RangeTaken s u area len true true
  outstanding : setHas s.nextId u.cur.areas = true
  written : Scheduled s u (.resultAreaWrite s.nextId)
  unwritten : NothingWritten s u

/-- A result area that a system form may name (R61, R226): clean, aligned, inside the tile store, held
by nothing, with an entry of the scoreboard left. -/
def AreaFree (s : State) (b : XReg) (len : Nat) : Prop :=
  (s.x b).po = false ∧ (s.x b).v.toNat % 8 = 0 ∧ (s.x b).v.toNat + len ≤ 2 ^ 17 ∧
  s.curK.rangeHeld (s.x b).v.toNat len true = false ∧ (s.curK.score.filter (·.slot)).length < 8

/-- A clean operand that names load handle h, with nothing else set but bits of a mask (R228). -/
def NamesLoad (s : State) (a : XReg) (mask h : Nat) : Prop :=
  (s.x a).po = false ∧ (s.x a).v &&& ~~~(BitVec.ofNat 64 (31 + mask)) = 0 ∧
  (s.x a).v.toNat % 32 = h ∧ h < 28

/-- A context after an issue whose own effect leaves it as `t`: only the fields that the issue itself
moves are those of `u` (R60, R62 to R64, R73, R74, R76, R463). -/
def Ctx.movedTo (t u : Ctx) : Ctx :=
  { t with pc := u.pc, wild := u.wild, prevPc := u.prevPc, ready := u.ready,
           yielding := u.yielding, yieldNew := u.yieldNew, yieldFor := u.yieldFor, loops := u.loops, ldist := u.ldist,
           stall := u.stall }

/-- Nothing outside the executing core differs, and no byte of memory does. -/
structure OutsideKept (s t : State) : Prop where
  rest : t = { s with cores := t.cores }
  others : ∀ c, c ≠ s.curCore → t.core c = s.core c
  bytes : ∀ key, memByte t.mem key = memByte s.mem key

/-- Of the executing core, only its contexts and the arbiter's number differ; of its other contexts,
only whom they wait for after a yield (R64). -/
structure CoreKept (s t : State) : Prop where
  units : t.curK = { s.curK with c0 := t.curK.c0, c1 := t.curK.c1, c2 := t.curK.c2, c3 := t.curK.c3,
                                 last := t.curK.last }
  contexts : ∀ x, x < 4 → x ≠ min s.curCtx 3 →
    t.ctx s.curCore x = { s.ctx s.curCore x with
      yielding := (t.ctx s.curCore x).yielding, yieldFor := (t.ctx s.curCore x).yieldFor }

/-- What an instruction that only writes the registers of a list of keys leaves as it was: the device,
memory, every other core and context, every field of its own context but those of the issue and the
pending writes, and, at every cycle, the value of every register outside the list. -/
structure RegistersOnly (keys : List Nat) (s t : State) : Prop where
  outside : OutsideKept s t
  core : CoreKept s t
  own : t.cur = { s.cur.movedTo t.cur with pend := t.cur.pend }
  kept : ∀ now key, key ∉ keys → (t.cur.writeback now).reg key = (s.cur.writeback now).reg key

/-- The keys of the 32 lanes of v n. -/
def laneKeys (d : VReg) : List Nat := lanes.map (laneKey d)

/-- The registers that an instruction writes, of the instructions whose own effect is nothing but a
register write: none for the other instructions. -/
def writtenKeys : Instr → Option (List Nat)
  | .add _ d _ _ | .sub _ d _ _ | .mul _ d _ _ | .mulh _ d _ _ | .mulhu _ d _ _ | .and _ d _ _
  | .or _ d _ _ | .xor _ d _ _ | .andn _ d _ _ | .shl _ d _ _ | .shr _ d _ _ | .sra _ d _ _
  | .rol _ d _ _ | .clz _ d _ | .ctz _ d _ | .popc _ d _ | .min _ d _ _ | .max _ d _ _
  | .minu _ d _ _ | .maxu _ d _ _ | .sel _ d _ _ _ | .addi _ d _ _ | .andi _ d _ _ | .ori _ d _ _
  | .xori _ d _ _ | .shli _ d _ _ | .shri _ d _ _ | .srai _ d _ _ | .movi _ d _ | .moviLong _ d _
  | .lih _ d _ | .lea _ d _ _ | .srd _ d _ | .ld _ _ d _ _ | .wget _ d _ _ | .wavail _ d _
  | .wspace _ d _ | .mstat _ _ d => some [xKey d]
  | .vkpop _ d _ | .vext _ d _ _ => some [xKey (scalarOf d)]
  | .cmp _ _ p _ _ | .cmpiEq _ p _ _ | .cmpiNe _ p _ _ | .cmpiLt _ p _ _ | .cmpiLtu _ p _ _
  | .cmpiGe _ p _ _ | .cmpiGeu _ p _ _ | .pand _ p _ _ | .por _ p _ _ | .pxor _ p _ _
  | .pnot _ p _ | .pset _ p _ => some [pKey p]
  | .br .. | .brn .. | .jmp .. | .jr .. | .loop .. | .twait .. | .mwait .. => some []
  | .jal .. => some [31]
  | .vadd _ _ d _ _ _ | .vsub _ _ d _ _ _ | .vmul _ _ d _ _ _ | .vfma _ _ d _ _ _
  | .vfms _ _ d _ _ _ | .vmin _ _ d _ _ _ | .vmax _ _ d _ _ _ | .vabs _ _ d _ _
  | .vneg _ _ d _ _ | .vaddSat _ _ d _ _ _ | .vsubSat _ _ d _ _ _ | .vrcp _ d _ _
  | .vrsq _ d _ _ | .vsqrt _ d _ _ | .vexp2 _ d _ _ | .vlog2 _ d _ _ | .vshl _ _ d _ _ _
  | .vshr _ _ d _ _ _ | .vsra _ _ d _ _ _ | .vredsum _ _ d _ _ | .vredmax _ _ d _ _
  | .vredmin _ _ d _ _ | .vredarg _ _ d _ _ | .vand _ d _ _ _ | .vor _ d _ _ _
  | .vxor _ d _ _ _ | .vsel _ d _ _ _ | .vmov _ d _ _ | .vbcast _ d _ _ | .vins _ d _ _
  | .vperm _ d _ _ _ | .vshuf _ d _ _ _ | .vrot _ d _ _ _ | .vcvt _ d _ _ _ _ _ _
  | .vpack _ d _ _ _ _ _ | .vunpk _ d _ _ _ _ | .vscaleApply _ d _ _ _ _ | .vld _ d _ _ _
  | .vlds _ d _ _ _ | .vgath _ d _ _ _ | .vrng _ d _ _ => some (laneKeys d)
  | .vscale _ d _ b _ _ => some (xKey (scalarOf b) :: laneKeys d)
  | .vcmp _ _ _ m _ _ _ | .vkand _ m _ _ | .vkor _ m _ _ | .vknot _ m _ | .vmaskld _ m _ _ =>
    some [kKey m]
  | _ => none

end Sys2Proof.Machine
end

