-- ==== Sys2Proof/Certificates/Slice0/Obligations.lean ====
section
/-!
DEFINITION. The statements: what each instruction and event does, what it leaves alone, what every
step keeps, and that decoding is right. Each docstring names the rules of spec/ that it rests on.
-/

open Sys2Proof Sys2Proof.Machine

set_option linter.unusedVariables false

/-! ### Scalar instructions -/

/-- R112: the register forms write the value that the rule's table gives, with latency 1 or 3, marked
where an operand is (R51). -/
def Obligations.RegisterFormsWriteResults : Prop :=
  ∀ (s : State) (q : Issue) (d a b : XReg), s.issues →
    let x := (s.x a).v
    let y := (s.x b).v
    let po := (s.x a).po || (s.x b).po
    exec (.add q d a b) s = .next (s.wroteX q 1 d (x + y) po) ∧
    exec (.sub q d a b) s = .next (s.wroteX q 1 d (x - y) po) ∧
    exec (.mul q d a b) s = .next (s.wroteX q 3 d (x * y) po) ∧
    exec (.mulh q d a b) s =
      .next (s.wroteX q 3 d (BitVec.ofInt 64 (x.toInt * y.toInt / 2 ^ 64)) po) ∧
    exec (.mulhu q d a b) s =
      .next (s.wroteX q 3 d (BitVec.ofNat 64 (x.toNat * y.toNat / 2 ^ 64)) po) ∧
    exec (.and q d a b) s = .next (s.wroteX q 1 d (x &&& y) po) ∧
    exec (.or q d a b) s = .next (s.wroteX q 1 d (x ||| y) po) ∧
    exec (.xor q d a b) s = .next (s.wroteX q 1 d (x ^^^ y) po) ∧
    exec (.andn q d a b) s = .next (s.wroteX q 1 d (x &&& ~~~y) po) ∧
    exec (.shl q d a b) s = .next (s.wroteX q 1 d (x <<< (y.toNat % 64)) po) ∧
    exec (.shr q d a b) s = .next (s.wroteX q 1 d (x >>> (y.toNat % 64)) po) ∧
    exec (.sra q d a b) s = .next (s.wroteX q 1 d (x.sshiftRight (y.toNat % 64)) po) ∧
    exec (.rol q d a b) s = .next (s.wroteX q 1 d (x.rotateLeft (y.toNat % 64)) po) ∧
    exec (.min q d a b) s = .next (s.wroteX q 1 d (if y.toInt < x.toInt then y else x) po) ∧
    exec (.max q d a b) s = .next (s.wroteX q 1 d (if x.toInt < y.toInt then y else x) po) ∧
    exec (.minu q d a b) s = .next (s.wroteX q 1 d (if y.toNat < x.toNat then y else x) po) ∧
    exec (.maxu q d a b) s = .next (s.wroteX q 1 d (if x.toNat < y.toNat then y else x) po)

/-- R112, R115 to R117: the forms on one register or a constant. CLZ, CTZ and POPC are said by their
property: the count of leading or trailing zeros, and of ones. -/
def Obligations.ConstantFormsWriteResults : Prop :=
  ∀ (s : State) (q : Issue) (d a : XReg) (i : BitVec 11) (n : BitVec 6) (w : Word32), s.issues →
    let x := (s.x a).v
    let po := (s.x a).po
    (∃ c : Nat, exec (.clz q d a) s = .next (s.wroteX q 2 d (BitVec.ofNat 64 c) po) ∧ c ≤ 64 ∧
      (∀ j < c, x.getLsbD (63 - j) = false) ∧ (c < 64 → x.getLsbD (63 - c) = true)) ∧
    (∃ c : Nat, exec (.ctz q d a) s = .next (s.wroteX q 2 d (BitVec.ofNat 64 c) po) ∧ c ≤ 64 ∧
      (∀ j < c, x.getLsbD j = false) ∧ (c < 64 → x.getLsbD c = true)) ∧
    exec (.popc q d a) s = .next (s.wroteX q 2 d
      (BitVec.ofNat 64 ((List.range 64).countP fun j => x.getLsbD j)) po) ∧
    exec (.addi q d a i) s = .next (s.wroteX q 1 d (x + i.signExtend 64) po) ∧
    exec (.andi q d a i) s = .next (s.wroteX q 1 d (x &&& i.signExtend 64) po) ∧
    exec (.ori q d a i) s = .next (s.wroteX q 1 d (x ||| i.signExtend 64) po) ∧
    exec (.xori q d a i) s = .next (s.wroteX q 1 d (x ^^^ i.signExtend 64) po) ∧
    exec (.shli q d a n) s = .next (s.wroteX q 1 d (x <<< n.toNat) po) ∧
    exec (.shri q d a n) s = .next (s.wroteX q 1 d (x >>> n.toNat) po) ∧
    exec (.srai q d a n) s = .next (s.wroteX q 1 d (x.sshiftRight n.toNat) po) ∧
    exec (.lea q d a i) s = .next (s.wroteX q 1 d (x + i.signExtend 64) po) ∧
    exec (.movi q d i) s = .next (s.wroteX q 1 d (i.signExtend 64) false) ∧
    exec (.moviLong q d w) s =
      .next (s.wrote q 2 1 [(xKey d, ⟨w.signExtend 64, false⟩)]) ∧
    exec (.lih q d w) s =
      .next (s.wrote q 2 1 [(xKey d, ⟨w ++ (s.x d).v.extractLsb' 0 32, (s.x d).po⟩)])

/-- R118 to R120: compares, predicate logic and selection. -/
def Obligations.PredicateFormsWriteResults : Prop :=
  ∀ (s : State) (q : Issue) (c : Cond) (p p' : PReg) (r : PReg) (d a b : XReg) (i : BitVec 11)
    (v : Bool), s.issues →
    let x := (s.x a).v
    let y := (s.x b).v
    let k : Word64 := i.signExtend 64
    let po := (s.x a).po
    let two := (s.x a).po || (s.x b).po
    exec (.cmp q c r a b) s = .next (s.wroteP q 1 r (match c with
      | .eq => decide (x = y)
      | .ne => decide (x ≠ y)
      | .lt => decide (x.toInt < y.toInt)
      | .ltu => decide (x.toNat < y.toNat)
      | .ge => decide (y.toInt ≤ x.toInt)
      | .geu => decide (y.toNat ≤ x.toNat)) two) ∧
    exec (.cmpiEq q r a i) s = .next (s.wroteP q 1 r (decide (x = k)) po) ∧
    exec (.cmpiNe q r a i) s = .next (s.wroteP q 1 r (decide (x ≠ k)) po) ∧
    exec (.cmpiLt q r a i) s = .next (s.wroteP q 1 r (decide (x.toInt < k.toInt)) po) ∧
    exec (.cmpiLtu q r a i) s = .next (s.wroteP q 1 r (decide (x.toNat < k.toNat)) po) ∧
    exec (.cmpiGe q r a i) s = .next (s.wroteP q 1 r (decide (k.toInt ≤ x.toInt)) po) ∧
    exec (.cmpiGeu q r a i) s = .next (s.wroteP q 1 r (decide (k.toNat ≤ x.toNat)) po) ∧
    exec (.sel q d a b p) s =
      .next (s.wroteX q 1 d (if s.pv p then x else y) (two || (s.p p).po)) ∧
    exec (.pand q r p p') s =
      .next (s.wroteP q 1 r (s.pv p && s.pv p') ((s.p p).po || (s.p p').po)) ∧
    exec (.por q r p p') s =
      .next (s.wroteP q 1 r (s.pv p || s.pv p') ((s.p p).po || (s.p p').po)) ∧
    exec (.pxor q r p p') s =
      .next (s.wroteP q 1 r (s.pv p != s.pv p') ((s.p p).po || (s.p p').po)) ∧
    exec (.pnot q r p) s = .next (s.wroteP q 1 r (!s.pv p) (s.p p).po) ∧
    exec (.pset q r v) s = .next (s.wroteP q 1 r v false)

/-- R113, R114, R69 to R71: a division that finds room in the return queue appends an entry, which its
value fills 6 to 70 cycles after issue, at a time that the operands alone decide; DPOP hands over the
head. Division by zero gives all ones, and the dividend as the remainder. -/
def Obligations.DivisionsDeferAndPop : Prop :=
  ∀ (s : State) (q : Issue) (d a b : XReg), s.issues →
    let x := (s.x a).v
    let y := (s.x b).v
    let po := (s.x a).po || (s.x b).po
    let answers := fun (i : Instr) (v : Word64) =>
      ∃ n, 6 ≤ n ∧ n ≤ 70 ∧ exec i s = .next (s.complete q 1 none fun u =>
        (u.setCur { u.cur with rq := u.cur.rq ++ [⟨s.nextId, false, {}, false⟩] }).newId.at
          (s.cycle + n) (.deferredResultArrival s.curCore s.curCtx s.nextId v po))
    (s.cur.rq.length < 8 →
      answers (.div q a b) (if y = 0 then BitVec.allOnes 64 else BitVec.ofInt 64 (x.toInt.tdiv y.toInt)) ∧
      answers (.divu q a b) (if y = 0 then BitVec.allOnes 64 else BitVec.ofNat 64 (x.toNat / y.toNat)) ∧
      answers (.rem q a b) (if y = 0 then x else BitVec.ofInt 64 (x.toInt.tmod y.toInt)) ∧
      answers (.remu q a b) (if y = 0 then x else BitVec.ofNat 64 (x.toNat % y.toNat))) ∧
    (8 ≤ s.cur.rq.length → exec (.div q a b) s = .next s ∧ exec (.divu q a b) s = .next s ∧
      exec (.rem q a b) s = .next s ∧ exec (.remu q a b) s = .next s) ∧
    (∀ e es, s.cur.rq = e :: es →
      exec (.dpop q d) s = if e.arrived then
        .next (s.complete q 1 none fun u =>
          (u.setCur { u.cur with rq := es }).writeX 1 d e.val.v e.val.po)
      else .next s) ∧
    (s.cur.rq = [] →
      exec (.dpop q d) s = .next (s.takeFault { code := codeRange, detail := 1 }))

/-- R121 to R123: transfers, with the faults that R134 and R133 give them. An end word of a LOOP beyond
8,191 is kept as computed, the model's choice (log 87); that a LOOP's own entry is pushed before its word is
compared with the end word, so that a LOOP at the end word of an enclosing loop does not step that loop, is
the model's reading (log 29). -/
def Obligations.TransfersMoveThePc : Prop :=
  ∀ (s : State) (q : Issue) (p : PReg) (a : XReg) (off : BitVec 17) (i : BitVec 11), s.issues →
    let pc : Int := s.cur.pc.toNat
    let n := (s.x a).v.toNat
    ((s.p p).po = false →
      exec (.br q p off) s = .next (s.moved q (if s.pv p then some (pc + off.toInt) else none)) ∧
      exec (.brn q p off) s = .next (s.moved q (if s.pv p then none else some (pc + off.toInt)))) ∧
    ((s.p p).po = true → exec (.br q p off) s = .next (s.takeFault (poisonP p)) ∧
      exec (.brn q p off) s = .next (s.takeFault (poisonP p))) ∧
    exec (.jmp q off) s = .next (s.moved q (some (pc + off.toInt))) ∧
    exec (.jal q off) s = .next (s.complete q 1 (some (pc + off.toInt)) fun u =>
      u.writeX 1 31 (BitVec.ofNat 64 (s.cur.pc.toNat + 1)) false) ∧
    ((s.x a).po = true → exec (.jr q a) s = .next (s.takeFault (poisonX a)) ∧
      exec (.loop q a i) s = .next (s.takeFault (poisonX a))) ∧
    ((s.x a).po = false →
      exec (.jr q a) s = (if n < 2 ^ 13 then .next (s.moved q (some (n : Int)))
        else .next (s.takeFault (scalarRange 4 (s.x a).v))) ∧
      exec (.loop q a i) s =
        if 2 ^ 32 ≤ n then .next (s.takeFault (scalarRange 3 (s.x a).v))
        else if n = 0 then .next (s.moved q (some (pc + i.toNat + 1)))
        else if 2 ≤ s.cur.loops.length then .next (s.takeFault (scalarRange 2 0))
        else .next (s.complete q 1 none fun u => u.setCur { u.cur with
          loops := ⟨s.cur.pc.toNat + 1, s.cur.pc.toNat + i.toNat, BitVec.ofNat 32 n⟩ :: u.cur.loops }))

/-- R126 to R132: SRD reads a special register, LDIST with the SRD itself counted; SWR writes the registers
that are RW, LMAX from a system hall only and 256 at least. That LMAX elsewhere raises PRIV with detail 0 is
log 64, and what CORE of a system-hall core reads that has no position assigned is log 78. -/
def Obligations.SpecialRegistersReadAndWrite : Prop :=
  ∀ (s : State) (q : Issue) (d b : XReg), s.issues →
    let v := (s.x b).v
    (∀ r : SpecReg, exec (.srd q d r) s = .next (s.wroteX q 2 d (match r with
      | .fix => s.cur.fix
      | .phs => s.cur.phase.setWidth 64
      | .mde => (s.modeOf s.curCore).setWidth 64
      | .ctx => BitVec.ofNat 64 s.curCtx
      | .core => (s.visibleCore s.curCore).setWidth 64
      | .ldist => (s.cur.ldist + 1).setWidth 64
      | .cyc => BitVec.ofNat 64 s.cycle
      | .gkey => s.cur.gkey
      | .gseq => s.cur.gseq
      | .lmax => s.cur.lmax.setWidth 64
      | .tmode => s.cur.tmode.setWidth 64
      | .slast => s.cur.slast.setWidth 64
      | .six0 => s.cur.six0.setWidth 64
      | .six1 => s.cur.six1.setWidth 64
      | .six2 => s.cur.six2.setWidth 64
      | .six3 => s.cur.six3.setWidth 64) false)) ∧
    ((s.x b).po = false →
      exec (.swr q .gkey b) s = .next (s.complete q 1 none fun u => u.setCur { u.cur with gkey := v }) ∧
      exec (.swr q .gseq b) s = .next (s.complete q 1 none fun u => u.setCur { u.cur with gseq := v }) ∧
      exec (.swr q .tmode b) s =
        .next (s.complete q 1 none fun u => u.setCur { u.cur with tmode := v.setWidth 2 }) ∧
      (isSystemCore s.curCore = true → 256 ≤ v.toNat % 2 ^ 16 → exec (.swr q .lmax b) s =
        .next (s.complete q 1 none fun u => u.setCur { u.cur with lmax := v.setWidth 16 })) ∧
      (isSystemCore s.curCore = true → v.toNat % 2 ^ 16 < 256 → exec (.swr q .lmax b) s =
        .next (s.takeFault (scalarRange 5 v)))) ∧
    (isSystemCore s.curCore = false → exec (.swr q .lmax b) s = .next (s.takeFault privFault)) ∧
    ((s.x b).po = true → exec (.swr q .gkey b) s = .next (s.takeFault (poisonX b)) ∧
      exec (.swr q .gseq b) s = .next (s.takeFault (poisonX b)) ∧
      exec (.swr q .tmode b) s = .next (s.takeFault (poisonX b)) ∧
      (isSystemCore s.curCore = true → exec (.swr q .lmax b) s = .next (s.takeFault (poisonX b))))

/-! ### Vector instructions -/

/-- R20, R31, R39 to R41, R65, R135 to R139: typed arithmetic on the elements of the active lanes, in floating
point and in integers wrapped or saturated, with latency 4 and 2; the forms on one operand, of which the five
functions of R41 have latency 10. -/
def Obligations.ElementwiseFormsWriteLanes : Prop :=
  (∀ (s : State) (q : Issue) (t : VType) (d a b : VReg) (k : KReg), s.issues →
     let n := VType.bits t
     let fl := VType.isFloat t
     let g := vFmt t
     let lat := if fl then 4 else 2
     let two := fun l => (s.lane a l).po || (s.lane b l).po
     let three := fun l => (s.lane a l).po || (s.lane b l).po || (s.lane d l).po
     let int := fun (f : Int → Int → Int) x y => intPattern n (f (intOf n x) (intOf n y))
     let sat := fun (f : Int → Int → Int) x y => intPattern n (clampInt n (f (intOf n x) (intOf n y)))
     exec (.vadd q t d a b k) s = .next (s.wroteLanes q lat d k
       (s.zipLane t a b (if fl then fadd g else int (· + ·))) two) ∧
     exec (.vsub q t d a b k) s = .next (s.wroteLanes q lat d k
       (s.zipLane t a b (if fl then fsub g else int (· - ·))) two) ∧
     exec (.vmul q t d a b k) s = .next (s.wroteLanes q lat d k
       (s.zipLane t a b (if fl then fmul g else int (· * ·))) two) ∧
     exec (.vmin q t d a b k) s = .next (s.wroteLanes q lat d k
       (s.zipLane t a b (if fl then fmin g else int min)) two) ∧
     exec (.vmax q t d a b k) s = .next (s.wroteLanes q lat d k
       (s.zipLane t a b (if fl then fmax g else int max)) two) ∧
     exec (.vfma q t d a b k) s = .next (s.wroteLanes q 4 d k (s.zip3Lane t a b d (ffma g)) three) ∧
     exec (.vfms q t d a b k) s = .next (s.wroteLanes q 4 d k (s.zip3Lane t a b d (ffms g)) three) ∧
     exec (.vaddSat q t d a b k) s =
       .next (s.wroteLanes q lat d k (s.zipLane t a b (sat (· + ·))) two) ∧
     exec (.vsubSat q t d a b k) s =
       .next (s.wroteLanes q lat d k (s.zipLane t a b (sat (· - ·))) two) ∧
     exec (.vshl q t d a b k) s = .next (s.wroteLanes q lat d k
       (s.zipLane t a b fun x y => x * 2 ^ (y % n) % 2 ^ n) two) ∧
     exec (.vshr q t d a b k) s = .next (s.wroteLanes q lat d k
       (s.zipLane t a b fun x y => x / 2 ^ (y % n)) two) ∧
     exec (.vsra q t d a b k) s = .next (s.wroteLanes q lat d k
       (s.zipLane t a b fun x y => intPattern n ((intOf n x).fdiv (2 ^ (y % n)))) two)) ∧
  (∀ (s : State) (q : Issue) (t : VType) (d a : VReg) (k : KReg), s.issues →
     let n := VType.bits t
     let lat := if VType.isFloat t then 4 else 2
     let po := fun l => (s.lane a l).po
     exec (.vabs q t d a k) s = .next (s.wroteLanes q lat d k (s.mapLane t a fun x =>
       if VType.isFloat t then fabs (vFmt t) x else intPattern n (intOf n x).natAbs) po) ∧
     exec (.vneg q t d a k) s = .next (s.wroteLanes q lat d k (s.mapLane t a fun x =>
       if VType.isFloat t then fneg (vFmt t) x else intPattern n (-(intOf n x))) po) ∧
     exec (.vrcp q d a k) s = .next (s.wroteLanes q 10 d k (s.mapLane .f32 a frcp) po) ∧
     exec (.vrsq q d a k) s = .next (s.wroteLanes q 10 d k (s.mapLane .f32 a frsq) po) ∧
     exec (.vsqrt q d a k) s = .next (s.wroteLanes q 10 d k (s.mapLane .f32 a fsqrt) po) ∧
     exec (.vexp2 q d a k) s = .next (s.wroteLanes q 10 d k (s.mapLane .f32 a fexp2) po) ∧
     exec (.vlog2 q d a k) s = .next (s.wroteLanes q 10 d k (s.mapLane .f32 a flog2) po))

/-- R48, R49, R140, R141, R143: VCMP writes the bit of each active lane, 1 where every element meets the
condition; the mask forms write a whole register. Reductions fold the tree of R48 over every element, the
identity standing in for those of inactive lanes, into lane 0 of vd, lane 1 the index of VREDARG and zeros
elsewhere. What VCMP leaves of a partly written mask's mark (log 34), and that the lanes written 0 stay clean
under a poisoned mask (log 88), are the model's readings. -/
def Obligations.MasksAndReductionsWrite : Prop :=
  (∀ (s : State) (q : Issue) (t : VType) (c : VCond) (m k k' : KReg) (x : SReg) (a b : VReg), s.issues →
     exec (.vcmp q t c m a b k) s = .next (s.wrote q 1 2 (s.maskWrites m k
       (fun l => (steps 0 1 (32 / VType.bits t)).all fun j =>
         let x := elem (VType.bits t) (s.laneN a l) j
         let y := elem (VType.bits t) (s.laneN b l) j
         if VType.isFloat t then vcondFloat c (fdecode (vFmt t) x) (fdecode (vFmt t) y)
         else match c with
           | .eq => intOf (VType.bits t) x == intOf (VType.bits t) y
           | .ne => intOf (VType.bits t) x != intOf (VType.bits t) y
           | .lt => decide (intOf (VType.bits t) x < intOf (VType.bits t) y)
           | .le => decide (intOf (VType.bits t) x ≤ intOf (VType.bits t) y)
           | .gt => decide (intOf (VType.bits t) y < intOf (VType.bits t) x)
           | .ge => decide (intOf (VType.bits t) y ≤ intOf (VType.bits t) x))
       ((s.activeLanes k).any fun l => (s.lane a l).po || (s.lane b l).po))) ∧
     exec (.vkand q m k k') s = .next (s.wrote q 1 2 [(kKey m,
       ⟨((s.k k).v &&& (s.k k').v) &&& 0xFFFFFFFF, (s.k k).po || (s.k k').po⟩)]) ∧
     exec (.vkor q m k k') s = .next (s.wrote q 1 2 [(kKey m,
       ⟨((s.k k).v ||| (s.k k').v) &&& 0xFFFFFFFF, (s.k k).po || (s.k k').po⟩)]) ∧
     exec (.vknot q m k) s =
       .next (s.wrote q 1 2 [(kKey m, ⟨~~~(s.k k).v &&& 0xFFFFFFFF, (s.k k).po⟩)]) ∧
     exec (.vkpop q x k) s = .next (s.wrote q 1 2 [(xKey (0#1 ++ x),
       ⟨BitVec.ofNat 64 ((List.range 32).countP fun j => (s.k k).v.getLsbD j), (s.k k).po⟩)])) ∧
  (∀ (s : State) (q : Issue) (t : VType) (d a : VReg) (k : KReg), s.issues →
     let g := vFmt t
     let n := VType.bits t
     let fl := VType.isFloat t
     let int := fun (f : Int → Int → Int) x y => intPattern n (f (intOf n x) (intOf n y))
     let folds := fun (i : Instr) (ident : Nat) (op : Nat → Nat → Nat) =>
       ∃ r, treeFold op (vLevels t) ((leavesOf t).map fun e =>
           if s.active k e.1 then elem n (s.laneN a e.1) e.2 else ident) = [r] ∧
         exec i s = .next (s.wrote q 1 7 (reduceWrites d r none (s.activePoison a k)))
     folds (.vredsum q t d a k) (vSumId t) (if fl then fadd g else int (· + ·)) ∧
     folds (.vredmax q t d a k) (vMaxId t) (if fl then fmax g else int max) ∧
     folds (.vredmin q t d a k) (vMinId t) (if fl then fmin g else int min) ∧
     ∃ r, treeFold (argWin t) (vLevels t) ((leavesOf t).map fun e =>
         (s.active k e.1, elem n (s.laneN a e.1) e.2, 32 / n * e.1 + e.2)) = [r] ∧
       exec (.vredarg q t d a k) s = .next (s.wrote q 1 7 (reduceWrites d
         (if !r.1 then vMaxId t else if fl && (fdecode g r.2.1).isNan then g.nan else r.2.1)
         (some (if r.1 then r.2.2 else 0xFFFFFFFF)) (s.activePoison a k))))

/-- R142, R144, R145: untyped forms and lane moves. -/
def Obligations.LaneMovesWriteLanes : Prop :=
  ∀ (s : State) (q : Issue) (d a b : VReg) (x y : SReg) (k : KReg), s.issues →
    let raw := fun (f : Word64 → Word64 → Word64) l =>
      (⟨f (s.lane a l).v (s.lane b l).v, (s.lane a l).po || (s.lane b l).po⟩ : PVal)
    let vx := s.x (0#1 ++ x)
    let vy := s.x (0#1 ++ y)
    exec (.vand q d a b k) s = .next (s.wrote q 1 2 (s.laneWrites d k (raw (· &&& ·)))) ∧
    exec (.vor q d a b k) s = .next (s.wrote q 1 2 (s.laneWrites d k (raw (· ||| ·)))) ∧
    exec (.vxor q d a b k) s = .next (s.wrote q 1 2 (s.laneWrites d k (raw (· ^^^ ·)))) ∧
    exec (.vsel q d a b k) s = .next (s.wrote q 1 2 (lanes.map fun l =>
      let v := if s.active k l then s.lane a l else s.lane b l
      (laneKey d l, ⟨v.v, v.po || (s.k k).po⟩))) ∧
    exec (.vmov q d a k) s = .next (s.wrote q 1 2 (s.laneWrites d k (s.lane a))) ∧
    exec (.vbcast q d x k) s =
      .next (s.wroteLanes q 2 d k (fun _ => vx.v.toNat) fun _ => vx.po) ∧
    exec (.vperm q d a b k) s = .next (s.wrote q 1 3 (s.laneWrites d k fun l =>
      let v := s.lane a (s.laneN b l % 32)
      ⟨v.v, v.po || (s.lane b l).po⟩)) ∧
    exec (.vshuf q d a b k) s = .next (s.wrote q 1 3 (s.laneWrites d k fun l =>
      let v := s.lane (if s.laneN b l / 32 % 2 = 1 then d else a) (s.laneN b l % 32)
      ⟨v.v, v.po || (s.lane b l).po⟩)) ∧
    exec (.vrot q d a y k) s = .next (s.wrote q 1 3 (s.laneWrites d k fun l =>
      let v := s.lane a ((l + vy.v.toNat % 32) % 32)
      ⟨v.v, v.po || vy.po⟩)) ∧
    (vy.v.toNat < 32 →
      exec (.vext q x a y) s = .next (s.wrote q 1 2 [(xKey (0#1 ++ x),
        ⟨(s.lane a vy.v.toNat).v, (s.lane a vy.v.toNat).po || vy.po⟩)]) ∧
      exec (.vins q d x y) s = .next (s.wrote q 1 2 ((laneKey d vy.v.toNat,
        pv32 vx.v.toNat (vx.po || vy.po)) ::
        if vy.po then lanes.map fun l => (1000 + laneKey d l, ⟨0, true⟩) else []))) ∧
    (32 ≤ vy.v.toNat → exec (.vext q x a y) s = .next (s.takeFault (laneRange 17 0 vy.v)) ∧
      exec (.vins q d x y) s = .next (s.takeFault (laneRange 17 0 vy.v)))

/-- R146 to R150, R29: conversions, and the block scale and its application. What VCVT writes between types of
two and of four elements a lane is the model's choice (log 89). -/
def Obligations.ConversionsWriteLanes : Prop :=
  ∀ (s : State) (q : Issue) (d a b : VReg) (x : SReg) (k : KReg) (m : RMode) (sat : Bool)
    (u v : VType) (c : PackCode) (part : BitVec 2) (n : BitVec 4) (e : ElemFmt), s.issues →
    let wide := (packSides c).1.1
    let narrow := (packSides c).2.1
    let vx := s.x (0#1 ++ x)
    exec (.vcvt q d a m k sat u v) s =
      (if !VType.isFloat u && !VType.isFloat v && m != .rn then .next (s.takeFault (illegalFault s.word 0))
      else .next (s.wroteLanes q 4 d k (fun l => convertLane u v m sat (s.laneN a l))
        fun l => (s.lane a l).po)) ∧
    (packLegal c part m = true → exec (.vpack q d a b part m c) s = .next (s.wrote q 1 4
      ((steps 0 1 (packWidth c)).map fun l =>
        let src := fun j => if j < 32 then s.lane a j else s.lane b (j - 32)
        let rs := steps (l * (32 / narrow)) 1 (32 / narrow)
        (laneKey d (part.toNat * packWidth c + l), pv32
          (packLane narrow (rs.map fun r => s.packElem c m (part.toNat * packWidth c * (32 / narrow) + r)
            (elem wide (src (r / (32 / wide))).v.toNat (r % (32 / wide)))))
          (rs.any fun r => (src (r / (32 / wide))).po))))) ∧
    (packLegal c part m = false →
      exec (.vpack q d a b part m c) s = .next (s.takeFault (illegalFault s.word 0))) ∧
    exec (.vunpk q d a n k c) s =
      (if wide / narrow ≤ n.toNat then .next (s.takeFault (illegalFault s.word 0))
      else .next (s.wroteLanes q 4 d k
        (fun l => packLane wide ((steps (n.toNat * 32 * (32 / wide) + l * (32 / wide)) 1 (32 / wide)).map
          fun j => unpackElem c (elem narrow (s.laneN a (j / (32 / narrow))) (j % (32 / narrow)))))
        fun l => (steps (n.toNat * 32 * (32 / wide) + l * (32 / wide)) 1 (32 / wide)).any
          fun j => (s.lane a (j / (32 / narrow))).po)) ∧
    exec (.vscale q d a x k e) s =
      (let sc := blockScale ((s.activeLanes k).map fun l => fdecode fmtF32 (s.laneN a l)) (emaxOf e)
      .next (s.wrote q 1 4 (s.laneWrites d k (fun l =>
        pv32 (if sc = 255 then 0 else scaledDown (fdecode fmtF32 (s.laneN a l)) ((sc : Int) - 127))
          (s.activePoison a k)) ++
        [(xKey (0#1 ++ x), ⟨BitVec.ofNat 64 sc, s.activePoison a k⟩)]))) ∧
    exec (.vscaleApply q d a x k e) s = .next (s.wroteLanes q 4 d k
      (fun l => if vx.v.toNat % 256 = 255 then fmtF32.nan
        else fround fmtF32 .rn 0 ((fdecode fmtF32 (s.laneN a l)).scale ((vx.v.toNat % 256 : Int) - 127)))
      fun l => (s.lane a l).po || vx.po)

/-- R151 to R153, R155: vector loads and stores at the addresses of R151, when no memory-class
instruction and no range holds them and no lane's address is poisoned, misaligned or out of range; else the
first failure of R152 in ascending lanes, with the detail word of R161 and no lane accessed. The mark of a word
that two lanes of one store reach is the model's reading (log 90). -/
def Obligations.VectorMemoryAccessesTileStore : Prop :=
  ∀ (s : State) (q : Issue) (d b : VReg) (x y : SReg) (k m : KReg) (j : Nat) (f : FaultInfo),
    s.issues →
    let clear := fun (ls : List Nat) (addr : Nat → Word64) (write : Bool) (po : Nat → Bool) =>
      s.memHeld = false ∧ ∀ l ∈ ls, po l = false ∧ (addr l).toNat % 4 = 0 ∧ (addr l).toNat ≤ 0x1FFFC ∧
        s.curK.rangeHeld (addr l).toNat 4 write = false
    let word := fun (a : Word64) => pv32 (s.load (tileKey s.curCore a.toNat) 4)
      (s.poisoned (tileKey s.curCore a.toNat) 4)
    let ls := s.activeLanes k
    let row := fun l => (s.x (0#1 ++ x)).v + (s.x (0#1 ++ y)).v + BitVec.ofNat 64 (4 * l)
    let stride := fun l => (s.x (0#1 ++ x)).v + BitVec.ofNat 64 l * (s.x (0#1 ++ y)).v
    let gather := fun l => (s.x (0#1 ++ x)).v + BitVec.ofNat 64 (s.laneN b l)
    let xy := fun (_ : Nat) => (s.x (0#1 ++ x)).po || (s.x (0#1 ++ y)).po
    let xb := fun l => (s.x (0#1 ++ x)).po || (s.lane b l).po
    let mask := (s.x (0#1 ++ x)).v + 4 * (s.x (0#1 ++ y)).v
    let failure := fun (addr : Nat → Word64) (second : Nat → Bool × FaultInfo) (l : Nat) =>
      if (s.x (0#1 ++ x)).po then some (poisonLane 0 x.toNat l)
      else if (second l).1 then some (second l).2
      else if (addr l).toNat % 4 ≠ 0 then some (laneRange 0 l (addr l))
      else if 0x1FFFC < (addr l).toNat then some (laneRange 16 l (addr l)) else none
    let fails := fun (ls : List Nat) (addr : Nat → Word64) (write : Bool) (second : Nat → Bool × FaultInfo) =>
      s.memHeld = false ∧ j ∈ ls ∧ failure addr second j = some f ∧
        (∀ l ∈ ls, l < j → failure addr second l = none) ∧
        ∀ l ∈ ls, (addr l).toNat ≤ 0x1FFFC → s.curK.rangeHeld (addr l).toNat 4 write = false
    let secondX := fun (l : Nat) => ((s.x (0#1 ++ y)).po, poisonLane 0 y.toNat l)
    let secondV := fun (l : Nat) => ((s.lane b l).po, poisonLane 2 b.toNat l)
    let loads := fun (lat : Nat) (addr : Nat → Word64) =>
      s.wrote q 1 lat (s.laneWrites d k fun l => word (addr l))
    let stores := fun (addr : Nat → Word64) => s.complete q 1 none fun u =>
      u.storeLanes (ls.map fun l => (tileKey s.curCore (addr l).toNat, s.lane d l))
    (clear ls row false xy → exec (.vld q d x y k) s = .next (loads 5 row)) ∧
    (clear ls stride false xy → exec (.vlds q d x y k) s = .next (loads 5 stride)) ∧
    (clear ls gather false xb → exec (.vgath q d x b k) s = .next (loads 8 gather)) ∧
    (clear ls row true xy → exec (.vst q d x y k) s = .next (stores row)) ∧
    (clear ls stride true xy → exec (.vsts q d x y k) s = .next (stores stride)) ∧
    (clear ls gather true xb → exec (.vscat q d x b k) s = .next (stores gather)) ∧
    (clear [0] (fun _ => mask) false xy →
      exec (.vmaskld q m x y) s = .next (s.wrote q 1 5 [(kKey m, word mask)])) ∧
    (fails ls row false secondX → exec (.vld q d x y k) s = .next (s.takeFault f)) ∧
    (fails ls stride false secondX → exec (.vlds q d x y k) s = .next (s.takeFault f)) ∧
    (fails ls gather false secondV → exec (.vgath q d x b k) s = .next (s.takeFault f)) ∧
    (fails ls row true secondX → exec (.vst q d x y k) s = .next (s.takeFault f)) ∧
    (fails ls stride true secondX → exec (.vsts q d x y k) s = .next (s.takeFault f)) ∧
    (fails ls gather true secondV → exec (.vscat q d x b k) s = .next (s.takeFault f)) ∧
    (fails [0] (fun _ => mask) false secondX → exec (.vmaskld q m x y) s = .next (s.takeFault f))

/-- R154, R156 to R160, R323: counter-based random numbers, and sampling with its events. That pF carries the
pair's mark, and the order of the two events of one sampling, are the model's reading (log 65). -/
def Obligations.SamplingWritesThePair : Prop :=
  ∀ (s : State) (q : Issue) (d a : VReg) (x : SReg) (k : KReg) (p : PReg), s.issues →
    let seq := s.cur.gseq
    let vx := s.x (0#1 ++ x)
    let base := vx.v.toNat % 2 ^ 32
    let samples := fun (i : Instr) (greedy : Bool) =>
      let r := s.sample greedy a base (vx.v.toNat / 2 ^ 32) (s.activeLanes k) (s.incoming d)
      let po := (s.lane d 0).po || (s.lane d 1).po || s.activePoison a k || vx.po
      let empty := r.1.2 == 0xFFFFFFFF
      exec i s = .next (s.complete q 1 none fun u =>
        (u.sampleEvents (empty && p != 0) r.2 base).writeRegs 14
          ([(laneKey d 0, pv32 (if empty then 0xFF800000 else r.1.1) po), (laneKey d 1, pv32 r.1.2 po)] ++
            if p = 0 then [] else [(pKey p, ⟨if empty then 1 else 0, po⟩)]))
    exec (.vrng q d a k) s = .next (s.wroteLanes q 4 d k
      (fun l => (gen s.cur.gkey ((seq >>> 32).setWidth 32) (seq.setWidth 32)
        ((s.lane a l).v.setWidth 32) 0).toNat) fun l => (s.lane a l).po) ∧
    (base ≤ 0xFFFFFFDF → samples (.vsamp q d a x k p) false ∧ samples (.vsampGreedy q d a x k p) true) ∧
    (0xFFFFFFDF < base →
      exec (.vsamp q d a x k p) s = .next (s.takeFault (laneRange 18 0 vx.v)) ∧
      exec (.vsampGreedy q d a x k p) s = .next (s.takeFault (laneRange 18 0 vx.v)))

/-! ### Tile store, windows, shared space and queues -/

/-- R182 to R184: LD and ST at xa plus the scaled offset, once no order and no range holds them; what
R183 faults on, in its order. -/
def Obligations.TileLoadsAndStores : Prop :=
  ∀ (s : State) (q : Issue) (wd : Width) (d a : XReg) (o : BitVec 9), s.issues → s.memHeld = false →
    let n := Width.size wd
    let addr := (s.x a).v + BitVec.ofInt 64 (o.toInt * n)
    let key := tileKey s.curCore addr.toNat
    let free := fun (write : Bool) => addr.toNat + n ≤ 2 ^ 17 → s.curK.rangeHeld addr.toNat n write = false
    let fault := if (s.x a).po then some (poisonX a)
      else if addr.toNat % n ≠ 0 then some (alignFault addr)
      else if 2 ^ 17 < addr.toNat + n then some (rangeFault 48 0 addr) else none
    (fault = none → free false → exec (.ld q wd d a o) s =
      .next (s.wroteX q 4 d (BitVec.ofNat 64 (s.load key n)) (s.poisoned key n))) ∧
    (fault = none → free true → exec (.st q wd d a o) s =
      .next (s.complete q 1 none fun u => u.storeVal key n (s.x d).v (s.x d).po)) ∧
    (∀ f, fault = some f →
      (free false → exec (.ld q wd d a o) s = .next (s.takeFault f)) ∧
      (free true → exec (.st q wd d a o) s = .next (s.takeFault f)))

/-- R185, R186: what the window forms read and count, at an end of their kind. -/
def Obligations.WindowFormsCount : Prop :=
  ∀ (s : State) (q : Issue) (d b : XReg) (w : BitVec 4), s.issues → s.memHeld = false →
    let c := s.curCore
    let n := w.toNat
    let v := (s.x b).v.toNat
    (s.isConsumer c n = true →
      exec (.wavail q d w) s = .next (s.wroteX q 2 d
        (BitVec.ofNat 64 ((s.cmt c n + 2 ^ 32 - s.rd c n) % 2 ^ 32)) false) ∧
      ((s.x b).po = false → s.freedCount n + v < s.declared n → exec (.wget q d w b) s =
        .next (s.wroteX q 2 d (BitVec.ofNat 64
          (s.winBase c n + (s.rd c n + v) % 2 ^ 32 % s.winCap c n * s.winSize c n)) false)) ∧
      ((s.x b).po = false → s.inStub = false → s.freedCount n + v ≤ s.declared n →
        CompletesWith (.wfree q w b) s q fun u => NothingWritten s u ∧
          (v = 0 → u = s.countIssue) ∧
          (0 < v → Tidy s → u.freedCount n = s.freedCount n + v ∧
            u.rd c n = (s.rd c n + v) % 2 ^ 32 ∧ u.cmt c n = s.cmt c n ∧
            ∃ p, mapFind s.nextId u.packets = some p ∧ p.kind = 1 ∧ p.seq.toNat = u.rd c n ∧
              ∃ due, s.cycle < due ∧ (due, Instr.routerForward s.nextId) ∈ u.agenda))) ∧
    (s.isProducer c n = true →
      exec (.wspace q d w) s = .next (s.wroteX q 2 d
        (BitVec.ofInt 64 ((s.freeSlots c n : Int) - s.reservedCount n)) false) ∧
      ((s.x b).po = false → s.inStub = false → s.reservedCount n + v ≤ s.declared n - s.sentCount n →
        exec (.wres q w b) s = .next (s.complete q 1 none fun u =>
          u.setCur { u.cur with reserved := mapPut n (s.reservedCount n + v) u.cur.reserved })))

/-- R185, R187, R254: WPUT sends the token's bytes as they stand, counts it, and holds its bytes
against writes until the router has read them. -/
def Obligations.WputSendsTheToken : Prop :=
  ∀ (s : State) (q : Issue) (b : XReg) (w : BitVec 4), s.issues → s.memHeld = false → s.inStub = false →
    let c := s.curCore
    let n := w.toNat
    let a := (s.x b).v.toNat
    let size := s.winSize c n
    s.isProducer c n = true → (s.x b).po = false → a % 32 = 0 → a + size ≤ 2 ^ 17 →
    s.firstPoison c a size = none → s.sentCount n < s.declared n →
    s.curK.rangeHeld a size false = false →
    CompletesWith (.wput q w b) s q fun u => NothingWritten s u ∧
      u.sentCount n = s.sentCount n + 1 ∧ u.reservedCount n = s.reservedCount n - 1 ∧
      RangeTaken s u a size false false ∧
      (∃ p, mapFind s.nextId u.packets = some p ∧ p.kind = 0 ∧
        p.data = memBytes s.mem (tileKey c a) size ∧ p.seq.toNat = s.sentOf c n ∧
        p.rc.toNat = bits (s.win c n 0) 42 8 ∧ p.covers = s.covered c s.curCtx (s.winScope c n)) ∧
      (Tidy s → u.sentOf c n = (s.sentOf c n + 1) % 2 ^ 32) ∧
      (∃ due, s.cycle < due ∧ (due, Instr.routerForward s.nextId) ∈ u.agenda) ∧
      (∃ due, s.cycle < due ∧ (due, Instr.wputReadDone s.nextId) ∈ u.agenda)

/-- R191 to R193: a tile move takes a tag and a scoreboard entry; TMOV.out carries the tile bytes as
they stand. TWAIT waits until at most n moves are outstanding. -/
def Obligations.TileMovesStart : Prop :=
  ∀ (s : State) (q : Issue) (d a b : XReg) (n : BitVec 2) (key : Nat), s.issues → s.memHeld = false →
    let lo := (s.x a).v.toNat
    let len := (s.x d).v.toNat
    (n.toNat < s.cur.tags.length → exec (.twait q n) s = .next s) ∧
    (s.cur.tags.length ≤ n.toNat → exec (.twait q n) s = .next (s.moved q none)) ∧
    ((s.x a).po = false → (s.x b).po = false → (s.x d).po = false → lo % 8 = 0 →
      (s.x b).v.toNat % 8 = 0 → len % 8 = 0 → 8 ≤ len → len ≤ 65536 → lo + len ≤ 2 ^ 17 →
      s.sharedKey (s.x b).v len = some key → (∃ g, g < 4 ∧ ∀ e ∈ s.cur.tags, e.1 ≠ g) →
      (s.curK.score.filter (·.slot)).length < 8 →
      (s.curK.rangeHeld lo len true = false → CompletesWith (.tmovIn q d a b) s q fun u =>
        CopyStarted s u .tmovIn lo key len (.tmovRetire s.nextId) ∧ TagTaken s u ∧
        RangeTaken s u lo len true true) ∧
      (s.curK.rangeHeld lo len false = false → s.inStub = false → s.firstPoison s.curCore lo len = none →
        CompletesWith (.tmovOut q d a b) s q fun u =>
          CopyStarted s u .tmovOut lo key len (.tmovRetire s.nextId) ∧ TagTaken s u ∧
          RangeTaken s u lo len false true ∧
          ∃ c, mapFind s.nextId u.copies = some c ∧ c.data = memBytes s.mem (tileKey s.curCore lo) len))

/-- R197 to R200: shared-space loads, stores and atomics leave for their bank; those that return a value
append an entry to the return queue; an acquire holds the later memory-class instructions, and a release is
performed behind all that it covers at its scope (the sets of log 9). -/
def Obligations.SharedAccessesAreSent : Prop :=
  ∀ (s : State) (q : Issue) (acq dw : Bool) (o : Order) (sc : Scope) (a b : XReg) (key : Nat),
    s.issues → s.memHeld = false → (s.x a).po = false →
    let xa := (s.x a).v
    let xb := (s.x b).v
    let n := if dw then 8 else 4
    let atom := fun (i : Instr) (kind : AccKind) => CompletesWith i s q fun u =>
      AccessSent s u kind key 8 xb 0 ∧ Deferred s u ∧ (o = .rel ∨ o = .ar → AccessReleases s u sc) ∧
      (o = .acq ∨ o = .ar → setHas s.nextId u.cur.acq = true)
    (s.sharedKey xa n = some key → xa.toNat % n = 0 →
      (s.cur.rq.length < 8 → CompletesWith (.ald q acq sc dw a) s q fun u =>
        AccessSent s u .load key n 0 0 ∧ Deferred s u ∧
        (acq = true → setHas s.nextId u.cur.acq = true)) ∧
      (s.inStub = false → (s.x b).po = false →
        (CompletesWith (.ast q acq sc dw a b) s q fun u => AccessSent s u .store key n xb 0 ∧
          u.cur.rq = s.cur.rq ∧ (acq = true → AccessReleases s u sc)) ∧
        (s.cur.rq.length < 8 → (s.x (b + 1)).po = false →
          CompletesWith (.acas q o sc dw a b) s q fun u =>
            AccessSent s u .cas key n xb (s.x (b + 1)).v ∧ Deferred s u ∧
            (o = .rel ∨ o = .ar → AccessReleases s u sc) ∧ (o = .acq ∨ o = .ar → setHas s.nextId u.cur.acq = true)))) ∧
    (s.sharedKey xa 8 = some key → xa.toNat % 8 = 0 → s.cur.rq.length < 8 → s.inStub = false →
      (s.x b).po = false →
      atom (.atomAdd q o sc a b) .add ∧ atom (.atomSwap q o sc a b) .swap ∧
      atom (.atomAnd q o sc a b) .and ∧ atom (.atomOr q o sc a b) .or ∧
      atom (.atomXor q o sc a b) .xor ∧ atom (.atomMin q o sc a b) .min ∧
      atom (.atomMax q o sc a b) .max ∧ atom (.atomMaxu q o sc a b) .maxu)

/-- R202 to R205, R396: STF and SETE leave for their word; LDF reads a full word, which it does not change,
and resets LDIST, but in a rebuild stub, where it is no landing, counts as any instruction; FENCE holds
later memory-class instructions until every earlier operation is done. -/
def Obligations.FullEmptyFormsComplete : Prop :=
  ∀ (s : State) (q : Issue) (d a : XReg) (e : BitVec 8) (sc : Scope) (key : Nat), s.issues →
    s.memHeld = false → (s.x a).po = false →
    let xa := (s.x a).v
    let n := (s.x d).v.toNat
    (s.inStub = false → (s.x d).po = false → xa.toNat % 8 = 0 →
      (s.sharedKey xa 8 = some key → CompletesWith (.stf q d a) s q fun u =>
        AccessSent s u .storeFull key 8 (s.x d).v 0 ∧ u.cur.rq = s.cur.rq) ∧
      (1 ≤ n → n ≤ 131072 → s.sharedKey xa (8 * n) = some key → CompletesWith (.sete q d a) s q fun u =>
        AccessSent s u .setEmpty key (8 * n) 0 0 ∧ u.cur.rq = s.cur.rq)) ∧
    (xa.toNat % 8 = 0 → s.sharedKey xa 8 = some key → setHas (key / 8) s.full = true →
      s.allPerformed (s.priorOn s.curCore s.curCtx key 8) = true →
      e.toNat < s.landings s.curCore s.cur.actor →
      (s.inStub = false → s.parkAsked = false → s.cur.rq = [] → s.cur.tags = [] → s.cur.pend = [] →
        s.curK.mq = [] → exec (.ldf q d a e) s = .next (((s.setCur { s.cur with ldist := 0 }).writeX 4 d
          (s.load64 key) (s.poisoned key 8)).advance q 1 none)) ∧
      (s.inStub = true → exec (.ldf q d a e) s = .next ((s.countIssue.writeX 4 d
        (s.load64 key) (s.poisoned key 8)).advance q 1 none))) ∧
    CompletesWith (.fence q sc) s q fun u =>
      u.cur.fence = some (s.nextId, sc) ∧ NothingWritten s u

/-- R209 to R211: QCLAIM copies the claimed slot to the claim buffer, QPUT the bytes at xb to the slot
of the firing's output index, and QSTAT defers the queue's fill and next index. -/
def Obligations.QueueFormsComplete : Prop :=
  ∀ (s : State) (q : Issue) (n : BitVec 5) (b : XReg) (home : Nat), s.issues → s.memHeld = false →
    let c := s.curCore
    let hk := hallOfCore c
    let z := n.toNat
    let size := s.queueSize hk z
    let slots := s.queueSlots hk z
    let a := (s.x b).v.toNat
    let t := s.cur
    s.queueHome hk z = some home →
    (t.rq.length < 8 → CompletesWith (.qstat q n) s q fun u => Deferred s u ∧ NothingWritten s u ∧
      ∃ due, s.cycle < due ∧ (due, Instr.deferredResultArrival c s.curCtx s.nextId
        (BitVec.ofNat 64 (s.qFill home slots * 2 ^ 32 + s.qNext home)) false) ∈ u.agenda) ∧
    (s.inStub = false → s.queueIn c t.actor = some z → s.usesQueues c t.actor t.phase.toNat = true →
      t.claimMade = false → (∃ g, g < 4 ∧ ∀ e ∈ t.tags, e.1 ≠ g) →
      (s.curK.score.filter (·.slot)).length < 8 →
      s.curK.rangeHeld (s.claimBuffer hk z) size true = false →
      CompletesWith (.qclaim q n) s q fun u =>
        CopyStarted s u .qclaim (s.claimBuffer hk z)
          (tokenKey home slots size (s.indexIn % slots)) size (.claimCopyRetire s.nextId) ∧
        TagTaken s u ∧ u.cur.claimMade = true) ∧
    (s.inStub = false → s.queueOut c t.actor = some z → s.usesQueues c t.actor t.phase.toNat = true →
      t.putMade = false → (s.x b).po = false → a % 32 = 0 → a + size ≤ 2 ^ 17 →
      s.firstPoison c a size = none → s.curK.rangeHeld a size false = false →
      CompletesWith (.qput q n b) s q fun u =>
        CopyStarted s u .qput a (tokenKey home slots size (s.indexOut z % slots)) size
          (.queueSlotCommit s.nextId) ∧
        (∃ e, mapFind s.nextId u.copies = some e ∧ e.data = memBytes s.mem (tileKey c a) size ∧
          e.covers = s.covered c s.curCtx (putScope home)) ∧
        RangeTaken s u a size false false ∧ u.cur.putMade = true)

/-! ### Matrix unit -/

/-- R165 to R169, R173, R175: the queued matrix forms enter the queue of the context that owns the matrix
when the queue has room, with the ranges of R165 and the streaming cycles of R166. A command's start,
streaming end and retirement in the cycles of an unstalled array are the model's choice (log 51). -/
def Obligations.MatrixFormsEnterTheQueue : Prop :=
  ∀ (s : State) (q : Issue) (z : Bool) (a b : XReg) (f : MFmt) (kc : BitVec 6), s.issues →
    s.ownsMatrix s.curCore s.curCtx = true → s.curK.mq.length < 4 →
    let n := kc.toNat + 1
    let g := (n + 31) / 32
    let at' := fun (r : XReg) => (s.x r).v.toNat
    let ab := fun (f : MFmt) => [(at' a, 128 * MFmt.bits f * g), (at' b, 256 * MFmt.bits f * g)]
    let sc := [(at' (a + 1), 32 * g), (at' (b + 1), 64 * g)]
    let stream := fun (f : MFmt) => (n * MFmt.bits f + 7) / 8
    (CompletesWith (.mzero q z) s q fun u => MatrixQueued s u (.mzero q z) 1 0 [] false) ∧
    ((s.x a).po = false → at' a % 8 = 0 → (s.x b).po = false → at' b % 8 = 0 →
      (MFmt.plain f = true → RangesFree s false (ab f) → CompletesWith (.mma q z a b f kc) s q fun u =>
        MatrixQueued s u (.mma q z a b f kc) (stream f) 96 (ab f) false) ∧
      (RangesFree s false (ab .i8) → CompletesWith (.mmai q z a b kc) s q fun u =>
        MatrixQueued s u (.mmai q z a b kc) (stream .i8) 96 (ab .i8) false) ∧
      (MFmt.scaled f = true → (s.x (a + 1)).po = false → (s.x (b + 1)).po = false →
        RangesFree s false (ab f ++ sc) → CompletesWith (.mmas q z a b f kc) s q fun u =>
          MatrixQueued s u (.mmas q z a b f kc) (stream f) 96 (ab f ++ sc) false)) ∧
    ((s.x a).po = false → at' a % 256 = 0 → s.memHeld = false →
      (RangesFree s false [(at' a, 8192)] → CompletesWith (.mldz q z a) s q fun u =>
        MatrixQueued s u (.mldz q z a) 16 0 [(at' a, 8192)] false) ∧
      (RangesFree s true [(at' a, 8192)] → CompletesWith (.mstz q z a) s q fun u =>
        MatrixQueued s u (.mstz q z a) 16 0 [(at' a, 8192)] true))

/-- R172, R176 to R179: once no queued command names the bank, MRDV reads half a row of it into vd with
the row's mark, and MSTAT its tag and marks; MWAIT waits until the queue is empty. -/
def Obligations.MatrixReadsWaitForTheBank : Prop :=
  ∀ (s : State) (q : Issue) (z : Bool) (a x : XReg) (d : VReg), s.issues →
    s.ownsMatrix s.curCore s.curCtx = true →
    let n := (s.x a).v.toNat
    let k := s.curK.detect z (BitVec.ofNat 32 (2 ^ (n % 32)))
    ((∀ c ∈ s.curK.mq, c.bank ≠ some z) →
      exec (.mstat q z x) s = .next (s.wroteX q 2 x
        (BitVec.ofNat 64 ((s.curK.zTag z).toNat * 2 ^ 32 + (s.curK.zPoison z).toNat)) false) ∧
      (n < 64 → exec (.mrdv q z a d) s = .next (s.complete q 1 none fun u =>
        (u.setCurK (u.curK.detect z (BitVec.ofNat 32 (2 ^ (n % 32))))).writeRegs 6 (lanes.map fun l =>
          (laneKey d l, pv32 (s.curK.zAt z (n % 32) (32 * (n / 32) + l)).toNat
            ((k.zPoison z).getLsbD (n % 32) || (s.x a).po))))) ∧
      (64 ≤ n → exec (.mrdv q z a d) s = .next (s.takeFault (matrixRange 37 (s.x a).v)))) ∧
    ((∃ c ∈ s.curK.mq, c.bank = some z) →
      exec (.mstat q z x) s = .next s ∧ exec (.mrdv q z a d) s = .next s) ∧
    (s.curK.mq = [] → exec (.mwait q) s = .next (s.moved q none)) ∧
    (s.curK.mq ≠ [] → exec (.mwait q) s = .next s)

/-! ### Firing, landing, modes, signals, traps -/

/-- R215 to R218, R246, R258, R399, R455: a FEND with nothing outstanding, whose firing has freed, sent,
claimed and put what its phase declares, ends the firing: the firing counts advance, the phase cycles, and
the context is idle, or parked at FEND when it is asked to park. LAND with its waits over resets the landing
distance and goes on, or parks at its entry when the context is asked to; RESUME returns from a stub to
where its firing had parked, with the loop stack of that place. That a LAND that is to park does so at its own
issue, with tile moves outstanding or not, is the model's reading (log 36). -/
def Obligations.FiringsEndParkAndResume : Prop :=
  (∀ (s : State) (q : Issue), s.running = true → s.inStub = false → Tidy s →
     LandingClear s (fun _ => True) →
     (∀ w < 16, (s.windowMismatch w).1 = false) → (∀ z < 32, (s.queueMismatch z).1 = false) →
     let c := s.curCore
     let a := s.cur.actor
     ∃ t, exec (.fend q) s = .next t ∧ t.cur.run = .idle ∧ t.cur.loops = [] ∧
       t.cur.park = (if s.curK.preFlag || s.curK.stopFlag then some { kind := .fend } else none) ∧
       t.actorWord c a 1 = s.actorWord c a 1 + (if s.elastic c a then 0 else 1) ∧
       t.fcnt c a = (s.fcnt c a + 1) % 2 ^ 32 ∧
       t.phc c a = (s.phc c a + 1) % (bits (s.actorWord c a 0) 27 3 + 1) ∧ t.mem = s.mem) ∧
  (∀ (s : State) (q : Issue) (e : BitVec 8) (g : BitVec 4), s.running = true →
     (s.inStub = false → LandingClear s (fun n => g.getLsbD n = true) →
       e.toNat < s.landings s.curCore s.cur.actor →
       let u := (s.setCur { s.cur with ldist := 0 }).advance q 2 none
       exec (.land q e g) s =
         .next (if s.curK.preFlag || s.curK.stopFlag then u.parkAt .land e s.cur.pc else u)) ∧
     (s.inStub = true → LandingClear s (fun _ => True) →
       let r := s.cur.resumeAt
       let pc := if r.kind = .ldf then r.pc.toNat else r.pc.toNat + 2
       ∃ t, exec (.resume q) s = .next t ∧ t.cur.run = .firing ∧ t.cur.loops = s.cur.savedLoops ∧
         t.cur.ldist = 0 ∧ t.cur.pc = BitVec.ofNat 13 pc ∧ t.cur.wild = decide (8192 ≤ pc) ∧
         t.mem = s.mem ∧ t.cur.regs = s.cur.regs) ∧
     (s.inStub = true → exec (.land q e g) s = .next (s.takeFault (stubFault s.word))) ∧
     (s.inStub = true → exec (.fend q) s = .next (s.takeFault (stubFault s.word))) ∧
     (s.inStub = false → exec (.resume q) s = .next (s.takeFault (stubFault s.word))))

/-- R220, R221, R223, R261: MODE and SIG send their tokens; TRAP.N records USER_TRAP and goes on, TRAP.S
takes it, BRK records it and freezes a load committed with DEBUG that is not frozen yet, its launch reporting
USER_TRAP (R455), and does nothing elsewhere. That the drain of a MODE
starts in a later cycle is the model's reading (log 36). -/
def Obligations.ModesSignalsAndTrapsAct : Prop :=
  (∀ (s : State) (q : Issue) (m : BitVec 3) (n : BitVec 6) (h : Nat), s.issues → s.memHeld = false →
     s.inStub = false → s.curK.load = some h →
     (bitAt (s.actorWord s.curCore s.cur.actor 0) 58 = true → m.toNat ∈ (s.loadAt h).modes →
       CompletesWith (.mode q m) s q fun u => NothingWritten s u ∧ Scheduled s u (.drainStart h m)) ∧
     (n.toNat ∈ (s.loadAt h).signals →
       CompletesWith (.sig q n) s q fun u => NothingWritten s u ∧
         ∀ c ∈ (s.loadAt h).cores, bitAt (s.receiver c n.toNat) 0 = true →
           Scheduled s u (.corridorArrival c n.toNat))) ∧
  (∀ (s : State) (q : Issue) (c : BitVec 5), s.issues →
     let trap := fun (n : Nat) => ({ code := 15, detail := BitVec.ofNat 64 (2 ^ 31 + n) } : FaultInfo)
     exec (.trapN q c) s = .next (s.complete q 1 none fun u => u.trapRecord (trap c.toNat)) ∧
     exec (.trapS q c) s = .next (s.takeFault (trap (32 + c.toNat))) ∧
     (∀ h, s.curK.load = some h → (s.loadAt h).debug = true → exec (.brk q) s =
       .next (s.complete q 1 none fun u =>
         let v := u.haltRecord (trap (2 ^ 30 + 32))
         if (s.loadAt h).state = .frozen then v.stopLoad h 15 else v.beginFreeze h (some 15))) ∧
     ((∀ h, s.curK.load = some h → (s.loadAt h).debug = false) →
       exec (.brk q) s = .next (s.moved q none)))

/-! ### Streams, grammar, system forms -/

/-- R206, R208, R284: SSTART begins the walk of an idle or finished stream, held if an SBAR orders it behind
an access; SSTOP lets a stream complete its token in hand and makes it idle; SBAR orders each named stream,
a running one held, behind the named streams' tokens in hand; and SSTAT defers a stream's word. Acting at
issue is the model's reading (log 10), and that SSTART leaves a stopping or held stream as it is is its
choice (log 105). -/
def Obligations.StreamFormsAct : Prop :=
  ∀ (s : State) (q : Issue) (n : BitVec 5) (b : XReg) (hk : Nat), s.issues → s.memHeld = false →
    s.myStream n.toNat = some hk →
    let z := n.toNat
    let t := s.stream hk z
    (s.inStub = false →
      (t.mode = .idle ∨ t.mode = .finished → CompletesWith (.sstart q n) s q fun u => NothingWritten s u ∧
        (u.stream hk z).mode = (if t.bar = [] then .running else .held) ∧
        (u.stream hk z).bar = t.bar ∧ (u.stream hk z).pos = 0 ∧ (u.stream hk z).done = 0 ∧
        ∃ due, (due, Instr.streamToken hk z) ∈ u.agenda) ∧
      (t.mode ≠ .idle → t.mode ≠ .finished → CompletesWith (.sstart q n) s q fun u =>
        NothingWritten s u ∧ u.stream hk z = t) ∧
      (CompletesWith (.sstop q n) s q fun u => NothingWritten s u ∧ (u.stream hk z).mode =
        if t.mode = .idle then .idle
        else if t.mode = .stopping ∨ t.busy = true ∨ 0 < t.ahead then .stopping else .idle) ∧
      ((s.x b).po = false → (∀ m ∈ maskBits (s.x b).v, m < 32 ∧ (s.myStream m).isSome = true) →
        CompletesWith (.sbar q b) s q fun u => NothingWritten s u ∧
          ∀ m ∈ maskBits (s.x b).v, ∀ hm, s.myStream m = some hm →
            (∃ k ∈ maskBits (s.x b).v, ∃ hk', s.myStream k = some hk' ∧ (s.stream hk' k).busy = true) →
            (u.stream hm m).mode = (if (s.stream hm m).mode = .running then .held
              else (s.stream hm m).mode) ∧
            ∀ k ∈ maskBits (s.x b).v, ∀ hk', s.myStream k = some hk' → (s.stream hk' k).busy = true →
              setHas k (u.stream hm m).bar = true)) ∧
    (s.cur.rq.length < 8 → CompletesWith (.sstat q n) s q fun u => NothingWritten s u ∧ Deferred s u ∧
      setHas s.nextId u.cur.acq = true ∧
      Scheduled s u (.deferredResultArrival s.curCore s.curCtx s.nextId
        (BitVec.ofNat 64 (t.done.toNat * 2 ^ 32 + (if t.page then 8 else 0) +
          match t.mode with
          | .idle => 0
          | .running => 1
          | .stopping => 2
          | .held => 3
          | .finished => 4)) false))

/-- R224, R225: the grammar commands leave for the engine of their session, GQRY with an entry of the
return queue. -/
def Obligations.GrammarFormsSendCommands : Prop :=
  ∀ (s : State) (q : Issue) (a b : XReg), s.issues → s.memHeld = false → (s.x a).po = false →
    let xa := (s.x a).v
    let xb := (s.x b).v
    let slot := bits xa 10 3
    bits xa 13 51 = 0 →
    (s.inStub = false →
      ((s.x b).po = false → bits xb 32 32 = 0 →
        ((∃ h, s.curK.load = some h ∧ bitAt (s.slotWord (wingOfCore s.curCore) h slot) 63 = true) →
          CompletesWith (.gopen q a b) s q fun u => CommandSent s u 0 xa xb) ∧
        (slot = 0 → CompletesWith (.gstep q a b) s q fun u => CommandSent s u 1 xa xb)) ∧
      ((s.x b).po = false → slot = 0 → xb.toNat % 8 = 0 → (s.sharedKey xb 32768).isSome = true →
        CompletesWith (.gmask q a b) s q fun u => CommandSent s u 2 xa xb) ∧
      (slot = 0 → CompletesWith (.gclose q a) s q fun u => CommandSent s u 3 xa 0)) ∧
    ((s.x b).po = false → slot = 0 → bits xb 2 62 = 0 → s.cur.rq.length < 8 →
      CompletesWith (.gqry q a b) s q fun u => CommandSent s u 4 xa xb ∧ Deferred s u)

/-- R229, R235, R253: a CFGW to a word outside those that act at once is written in its fields, read
back into the transaction, disarms its core and configures its hall; a RTW writes a route entry. -/
def Obligations.ConfigurationWritesLand : Prop :=
  ∀ (s : State) (q : Issue) (a b : XReg) (unit space off hk rc : Nat), s.issues →
    isSystemCore s.curCore = true → (s.x a).po = false → (s.x b).po = false →
    let xa := (s.x a).v
    let v := (s.x b).v
    (cfgTarget xa = some (unit, space, off) → (s.targetFault unit space off xa).1 = false →
      exec (.cfgw q a b) s = .next (s.complete q 1 none fun u =>
        if actsAtOnce unit space off then
          (u.cfgStore unit space off v).systemWordWritten (hallOfUnit unit / 128) off v
        else u.writeConfig unit space off xa v) ∧
      (Tidy s → s.unitUsable unit = true → space = 0 ∨ space = 1 →
        CompletesWith (.cfgw q a b) s q fun u => u.load64 (storeKey unit space off) = v ∧
          (u.core unit).armed = false) ∧
      (Tidy s → s.unitUsable unit = true → 2 ≤ space → space ≤ 5 →
        let m := BitVec.ofNat 64 (s.cfgMask unit space off)
        let w := (s.cfgAt unit space off &&& ~~~m) ||| (v &&& m)
        let back := (s.cfgStore unit space off v).cfgRead unit space off
        (space = 3 ∨ space = 5 → back = w) ∧
        CompletesWith (.cfgw q a b) s q fun u => u.cfgAt unit space off = w ∧
          (u.core unit).armed = false ∧
          (isSystemHall (hallOfUnit unit) = false → bits (u.hallCfg (hallOfUnit unit) 4088) 47 3 = 1) ∧
          u.cur.txn = some { s.txn with
            words := s.txn.words ++ [{ addr := xa, data := back, rejected := back != v }] })) ∧
    (routeTarget xa = some (hk, rc) → s.routeHeld hk rc = false →
      CompletesWith (.rtw q a b) s q fun u => NothingWritten s u ∧
        u.routes = mapPutD 0 (hk * 256 + rc) (v &&& BitVec.ofNat 64 routeMask) s.routes ∧
        ∃ t, u.cur.txn = some t ∧ t.words = s.txn.words ∧
          ∃ e ∈ t.routes, e.1 = hk * 256 + rc)

/-- R226 to R230, R233, R234: the forms that read send their result to its area: CFGR the word, CFGCRC the
count and CRC of the transaction's words at a target, DMAP the record, SECH and SECV the block that they
took in, whose result their write performs. That CFGR, CFGCRC and DMAP take their value at issue is the
model's choice (log 10), and so is the area of a SECH with another op than 0 and 1 (log 124). -/
def Obligations.SystemReadsSendResults : Prop :=
  ∀ (s : State) (q : Issue) (a b : XReg), s.issues → isSystemCore s.curCore = true →
    (s.x a).po = false →
    let xa := (s.x a).v
    let lo := xa.toNat
    let area := (s.x b).v.toNat
    let sends := fun (i : Instr) (v : Word64) =>
      CompletesWith i s q fun u => ResultUnderWay s u i area 8 (natToBytes 8 v.toNat)
    (AreaFree s b 8 →
      (∀ u sp off, cfgTarget xa = some (u, sp, off) → sends (.cfgr q a b) (s.cfgRead u sp off)) ∧
      (∀ u, crcTarget xa = some u → sends (.cfgcrc q a b) (s.txn.check u)) ∧
      (∀ hk, dmapTarget xa = some hk → sends (.dmap q a b) (s.dmapAt hk))) ∧
    (lo % 8 = 0 →
      (AreaFree s b (s.sechArea a) → lo + 32 ≤ 2 ^ 17 → s.curK.rangeHeld lo 32 false = false →
        CompletesWith (.sech q a b) s q fun u => ResultUnderWay s u (.sech q a b) area (s.sechArea a)
          (memBytes s.mem (tileKey s.curCore lo) 32)) ∧
      (AreaFree s b 8 → lo + 208 ≤ 2 ^ 17 → s.curK.rangeHeld lo 208 false = false →
        CompletesWith (.secv q a b) s q fun u => ResultUnderWay s u (.secv q a b) area 8
          (memBytes s.mem (tileKey s.curCore lo) 208)))

/-- R229, R231, R232, R409, R411: the forms that change a load, with the result word that each table gives.
That they act at issue is the model's reading (log 10), and so are the end that a tear-down gives a launch
that has not completed (log 44) and what it clears beyond R232 (log 55). The status that CFGCOMMIT reports
where several hold is the model's choice (log 117), and so is ERET's (log 123). -/
def Obligations.LoadFormsAct : Prop :=
  ∀ (s : State) (q : Issue) (a b : XReg) (h : Nat), s.issues → isSystemCore s.curCore = true →
    AreaFree s b 8 →
    let xa := (s.x a).v
    let xb := (s.x b).v
    let l := s.loadAt h
    (NamesLoad s a (2 ^ 8) h → exec (.cfgcommit q a b) s = .next (s.complete q 1 none fun u =>
      match s.cur.txn with
      | none => u.sendResult 0 (.cfgcommit q a b) xa xb 1 false
      | some t =>
        if t.words.any (·.rejected) then u.sendResult 0 (.cfgcommit q a b) xa xb 2 false
        else if l.committed then u.sendResult 0 (.cfgcommit q a b) xa xb 3 false
        else if t.wings.any fun w => (s.freeChannel w).isNone then
          u.sendResult 0 (.cfgcommit q a b) xa xb 4 false
        else ((u.setCur { u.cur with txn := none }).commitLoad h
          (u.commitRecord t (xa.getLsbD 8))).sendResult 0 (.cfgcommit q a b) xa xb 0 false)) ∧
    (exec (.cfgabort q b) s = .next (s.complete q 1 none fun u =>
      match s.cur.txn with
      | none => u.sendResult 0 (.cfgabort q b) (s.x 0).v xb 1 false
      | some t => ((u.setCur { u.cur with txn := none }).rollback t).sendResult 0 (.cfgabort q b)
          (s.x 0).v xb 0 false)) ∧
    (NamesLoad s a (3 * 2 ^ 8) h → exec (.eret q a b) s = .next (s.complete q 1 none fun u =>
      let act := xa.toNat / 2 ^ 8 % 4
      if 1 < act then u.sendResult 2 (.eret q a b) xa xb 4 false
      else if l.state = .free then u.sendResult 2 (.eret q a b) xa xb 1 false
      else if act = 0 then
        (u.resumeLoad h).1.sendResult 2 (.eret q a b) xa xb (BitVec.ofNat 64 (u.resumeLoad h).2) false
      else ((u.dropLaunch h).teardown h).sendResult 2 (.eret q a b) xa xb 0 false)) ∧
    (NamesLoad s a 0 h →
      exec (.frz q a b) s = .next (s.complete q 1 none fun u =>
        if l.state = .free then u.sendResult 2 (.frz q a b) xa xb 1 false
        else if l.state = .frozen then u.sendResult 2 (.frz q a b) xa xb 2 false
        else (u.freezeLoad h).sendResult 2 (.frz q a b) xa xb 0 false) ∧
      exec (.preq q a b) s = .next (s.complete q 1 none fun u =>
        let waits := fun (u : State) => (u.startResult 2 (.preq q a b) xa xb 8 [] false).setLoad h
          { u.loadAt h with preqs := (u.loadAt h).preqs ++ [(s.curCore, s.curCtx, u.nextId)] }
        match l.state with
        | .free => u.sendResult 2 (.preq q a b) xa xb 1 false
        | .suspended => u.sendResult 2 (.preq q a b) xa xb 2 false
        | .stopping | .stopped | .frozen => u.sendResult 2 (.preq q a b) xa xb 3 false
        | .preempting => waits u
        | .running | .residentIdle => waits (u.beginPreempt h none)))

/-! ### Forms that complete into units, streams and results -/

/-- R61, R165, R185, R187, R192, R197 to R205, R206 to R211, R220, R221, R224 to R235: under the rules'
conditions on the state and the operands alone, each of the forms that hands its work to another unit
COMPLETES: exec answers a next state in which the instruction has issued. What that state holds beside
is said by the statement on the form's family. -/
def Obligations.FormsOfTheUnitsComplete : Prop :=
  ∀ (s : State) (q : Issue) (acq dw z : Bool) (o : Order) (sc : Scope) (a b d : XReg) (n : BitVec 5)
    (w : BitVec 4) (m : BitVec 3) (g : BitVec 6) (f : MFmt) (kc : BitVec 6) (home h : Nat), s.issues →
    let runs := fun (i : Instr) => ∃ t, Sys2Proof.Machine.exec i s = .next t ∧
      t.cur.ldist = s.cur.ldist + 1 ∧ t.cur.ready = s.cycle + 1 + q.g.toNat ∧ t.cur.run = s.cur.run ∧
      t.cur.halted = s.cur.halted ∧ t.curK.last = BitVec.ofNat 2 s.curCtx
    let clean := fun (r : XReg) => (s.x r).po = false
    let at' := fun (r : XReg) => (s.x r).v.toNat
    let xa := (s.x a).v
    let xb := (s.x b).v
    let c := s.curCore
    let t := s.cur
    let room := t.rq.length < 8
    let tag := ∃ g, g < 4 ∧ ∀ e ∈ t.tags, e.1 ≠ g
    let slot := (s.curK.score.filter (·.slot)).length < 8
    let free := fun (lo len : Nat) (write : Bool) => s.curK.rangeHeld lo len write = false
    (s.memHeld = false → clean a →
      (let k := if dw then 8 else 4
       (s.sharedKey xa k).isSome = true → xa.toNat % k = 0 →
        (room → runs (.ald q acq sc dw a)) ∧
        (s.inStub = false → clean b → runs (.ast q acq sc dw a b) ∧
          (room → clean (b + 1) → runs (.acas q o sc dw a b)))) ∧
      ((s.sharedKey xa 8).isSome = true → xa.toNat % 8 = 0 → room → s.inStub = false → clean b →
        runs (.atomAdd q o sc a b) ∧ runs (.atomSwap q o sc a b) ∧ runs (.atomAnd q o sc a b) ∧
        runs (.atomOr q o sc a b) ∧ runs (.atomXor q o sc a b) ∧ runs (.atomMin q o sc a b) ∧
        runs (.atomMax q o sc a b) ∧ runs (.atomMaxu q o sc a b)) ∧
      (s.inStub = false → clean d → xa.toNat % 8 = 0 →
        ((s.sharedKey xa 8).isSome = true → runs (.stf q d a)) ∧
        (1 ≤ at' d → at' d ≤ 131072 → (s.sharedKey xa (8 * at' d)).isSome = true →
          runs (.sete q d a))) ∧
      (clean b → clean d → tag → slot → at' a % 8 = 0 → at' b % 8 = 0 → at' d % 8 = 0 → 8 ≤ at' d →
        at' d ≤ 65536 → at' a + at' d ≤ 2 ^ 17 → (s.sharedKey xb (at' d)).isSome = true →
        (free (at' a) (at' d) true → runs (.tmovIn q d a b)) ∧
        (free (at' a) (at' d) false → s.inStub = false → s.firstPoison c (at' a) (at' d) = none →
          runs (.tmovOut q d a b)))) ∧
    (s.memHeld = false → runs (.fence q sc)) ∧
    (s.memHeld = false → (s.myStream n.toNat).isSome = true →
      (s.inStub = false → runs (.sstart q n) ∧ runs (.sstop q n) ∧
        (clean b → (∀ m ∈ maskBits xb, m < 32 ∧ (s.myStream m).isSome = true) → runs (.sbar q b))) ∧
      (room → runs (.sstat q n))) ∧
    (let hk := hallOfCore c
     let size := s.queueSize hk n.toNat
     let uses := s.usesQueues c t.actor t.phase.toNat = true
     s.memHeld = false → s.queueHome hk n.toNat = some home →
      (room → runs (.qstat q n)) ∧
      (s.inStub = false → s.queueIn c t.actor = some n.toNat → uses → t.claimMade = false → tag → slot →
        free (s.claimBuffer hk n.toNat) size true → runs (.qclaim q n)) ∧
      (s.inStub = false → s.queueOut c t.actor = some n.toNat → uses → t.putMade = false → clean b →
        at' b % 32 = 0 → at' b + size ≤ 2 ^ 17 → s.firstPoison c (at' b) size = none →
        free (at' b) size false → runs (.qput q n b))) ∧
    (s.memHeld = false → s.inStub = false → s.curK.load = some h →
      (bitAt (s.actorWord c t.actor 0) 58 = true → m.toNat ∈ (s.loadAt h).modes → runs (.mode q m)) ∧
      (g.toNat ∈ (s.loadAt h).signals → runs (.sig q g))) ∧
    (let noSlot := bits xa 10 3 = 0
     s.memHeld = false → clean a → bits xa 13 51 = 0 →
      (s.inStub = false →
        (clean b → bits xb 32 32 = 0 →
          ((∃ h, s.curK.load = some h ∧ bitAt (s.slotWord (wingOfCore c) h (bits xa 10 3)) 63 = true) →
            runs (.gopen q a b)) ∧
          (noSlot → runs (.gstep q a b))) ∧
        (clean b → noSlot → xb.toNat % 8 = 0 → (s.sharedKey xb 32768).isSome = true →
          runs (.gmask q a b)) ∧
        (noSlot → runs (.gclose q a))) ∧
      (clean b → noSlot → bits xb 2 62 = 0 → room → runs (.gqry q a b))) ∧
    (isSystemCore c = true → clean a →
      (∀ e, cfgTarget xa = some e → (s.targetFault e.1 e.2.1 e.2.2 xa).1 = false → clean b →
        runs (.cfgw q a b)) ∧
      (∀ e, routeTarget xa = some e → s.routeHeld e.1 e.2 = false → clean b → runs (.rtw q a b)) ∧
      (AreaFree s b 8 →
        ((cfgTarget xa).isSome = true → runs (.cfgr q a b)) ∧
        ((crcTarget xa).isSome = true → runs (.cfgcrc q a b)) ∧
        ((dmapTarget xa).isSome = true → runs (.dmap q a b)) ∧
        (at' a % 8 = 0 → at' a + 208 ≤ 2 ^ 17 → free (at' a) 208 false → runs (.secv q a b))) ∧
      (AreaFree s b (s.sechArea a) → at' a % 8 = 0 → at' a + 32 ≤ 2 ^ 17 → free (at' a) 32 false →
        runs (.sech q a b))) ∧
    (s.memHeld = false → clean b →
      (s.isConsumer c w.toNat = true → s.inStub = false →
        s.freedCount w.toNat + at' b ≤ s.declared w.toNat → runs (.wfree q w b)) ∧
      (let size := s.winSize c w.toNat
       s.isProducer c w.toNat = true → s.inStub = false → at' b % 32 = 0 → at' b + size ≤ 2 ^ 17 →
        s.firstPoison c (at' b) size = none → s.sentCount w.toNat < s.declared w.toNat →
        free (at' b) size false → runs (.wput q w b))) ∧
    (s.ownsMatrix c s.curCtx = true → s.curK.mq.length < 4 →
      let gr := (kc.toNat + 1 + 31) / 32
      let ab := fun (f : MFmt) => [(at' a, 128 * MFmt.bits f * gr), (at' b, 256 * MFmt.bits f * gr)]
      let scales := [(at' (a + 1), 32 * gr), (at' (b + 1), 64 * gr)]
      runs (.mzero q z) ∧
      (clean a → at' a % 8 = 0 → clean b → at' b % 8 = 0 →
        (MFmt.plain f = true → RangesFree s false (ab f) → runs (.mma q z a b f kc)) ∧
        (RangesFree s false (ab .i8) → runs (.mmai q z a b kc)) ∧
        (MFmt.scaled f = true → clean (a + 1) → clean (b + 1) →
          RangesFree s false (ab f ++ scales) → runs (.mmas q z a b f kc))) ∧
      (clean a → at' a % 256 = 0 → s.memHeld = false →
        (RangesFree s false [(at' a, 8192)] → runs (.mldz q z a)) ∧
        (RangesFree s true [(at' a, 8192)] → runs (.mstz q z a))))

/-! ### Events of the cores -/

/-- R66, R67, R69, R412: register writes that are due take effect, the last write to a register last;
a deferred result fills its entry of the return queue and no longer holds its context. -/
def Obligations.RegisterWritesArrive : Prop :=
  ∀ (s : State) (c x id : Nat) (v : Word64) (po : Bool),
    (∃ t, exec (.resultWriteback c x) s = .next t ∧ t.mem = s.mem ∧
      (t.ctx c x).pend = (s.ctx c x).pend.filter (fun w => decide (s.cycle < w.due)) ∧
      ∀ before after d key w, (s.ctx c x).pend = before ++ ⟨d, [(key, w)]⟩ :: after → d ≤ s.cycle →
        (∀ e ∈ after, s.cycle < e.due) → key < 1000 → keyConst key = none →
        (t.ctx c x).reg key = w) ∧
    (∃ t, exec (.deferredResultArrival c x id v po) s = .next t ∧ t.mem = s.mem ∧
      (t.ctx c x).regs = (s.ctx c x).regs ∧ (setHas id (t.ctx c x).acq = false) ∧
      ((∀ e ∈ (s.ctx c x).rq, e.id ≠ id) → (t.ctx c x).rq = (s.ctx c x).rq) ∧
      ∀ before e after, (s.ctx c x).rq = before ++ e :: after → e.id = id → (∀ p ∈ before, p.id ≠ id) →
        (t.ctx c x).rq = before ++ { e with arrived := true, val := ⟨v, po⟩ } :: after)

/-- R243, R245, R248, R257, R298: a ready entry starts its firing with the state of R245; a poisoned guard
and a closed window raise their faults; a claim request leaves for the queue's home. That a poisoned
predicate of a guard faults whatever the other terms of its entry say is the model's reading (log 35). -/
def Obligations.FiringUnitActs : Prop :=
  ∀ (s : State) (c e : Nat),
    let w := s.entry c e
    let x := entryCtx w
    let a := entryActor w
    let o := s.ctx c x
    (s.entryReady c e = true → ∃ t, exec (.firingStart c e) s = .next t ∧ t.mem = s.mem ∧
      let u := t.ctx c x
      u.run = .firing ∧ u.pc = BitVec.ofNat 13 (entryStart w) ∧ u.wild = false ∧
      u.ready = s.cycle + 1 ∧ u.actor = a ∧ u.phase = BitVec.ofNat 3 (entryPhase w) ∧ u.ldist = 0 ∧
      u.loops = [] ∧ u.rq = [] ∧ u.freed = [] ∧ u.reserved = [] ∧ u.sent = [] ∧
      u.claimMade = false ∧ u.putMade = false ∧ u.slast = s.slastOf c x ∧
      u.six0 = o.stair0 ∧ u.six1 = o.stair1 ∧ u.six2 = o.stair2 ∧ u.six3 = o.stair3 ∧
      (s.elastic c a = false → u.fix = s.actorWord c a 1) ∧
      (s.elastic c a = true → (s.needsClaim c e).isSome = true → ∀ b i, o.bound = some (b, i) →
        u.fix = i.setWidth 64 ∧ u.bound = none) ∧
      ∀ key v, key ∈ liveKeys (s.keepMap c a) → (key, v) ∈ o.regs →
        (∀ r ∈ o.regs, r.1 = key → r.2 = v) → keyConst key = none → u.reg key = v) ∧
    (s.entryReady c e = false → exec (.firingStart c e) s = .next s) ∧
    (s.evaluated c e = true → ∀ n, s.poisonedGuard c e = some n →
      exec (.guardPoison c e) s = .next (s.guardFault c e
        { code := 11, detail := BitVec.ofNat 64 (32 + n % 8) })) ∧
    (∀ f, s.closedFault c e = some f →
      exec (.windowClosed c e) s = .next (s.guardFault c e f) ∧ f.code = 10) ∧
    (s.claimDue c e = true → ∃ t, exec (.claimRequest c e) s = .next t ∧
      t.ctx c x = { o with asking := some e } ∧ Scheduled s t (.claimDecide c x))

/-- R297 to R299, R305: the home grants NEXT and marks its slot, or denies, requests of one cycle in ascending
order of core number; every candidate that may retire of a stage that is done does, and the first output
queue, of whichever load, whose puts have all committed closes with the stage's final count. -/
def Obligations.ClaimsAndStagesEnd : Prop :=
  (∀ (s : State) (c x e : Nat) (grant : Bool) (idx : Word32), (s.ctx c x).asking = some e →
     (s.claimBehind c = false → s.claimGrant c e = none →
       exec (.claimDecide c x) s = .next (s.later 1 (.claimAnswer c x false 0))) ∧
     (s.claimBehind c = true → exec (.claimDecide c x) s = .next (s.at s.cycle (.claimDecide c x))) ∧
     (∀ home j q, s.claimBehind c = false → s.claimGrant c e = some (home, j, q) →
       ∃ t, exec (.claimDecide c x) s = .next t ∧
         Scheduled s t (.claimAnswer c x true (BitVec.ofNat 32 (s.qNext home))) ∧
         (Tidy s → t.qNext home = (s.qNext home + 1) % 2 ^ 32 ∧ t.slotSt home j = 3 ∧
           t.slotIdx home j = s.qNext home)) ∧
     ∃ t, exec (.claimAnswer c x grant idx) s = .next t ∧
       t.ctx c x = { s.ctx c x with
         asking := none, bound := if grant then some (e, idx) else (s.ctx c x).bound }) ∧
  (∀ (s : State) (h q : Nat),
     (s.doneStages ≠ [] →
       let retire := fun (s : State) (e : Nat × Nat) =>
         let t := ((s.candidates e.1 e.2).filter fun a => s.mayRetire a.1 a.2).foldl
           (fun s a => s.retireCandidate a.1 a.2) s
         if t.candidates e.1 e.2 = [] then t.clearStageEntry e.1 e.2 else t
       let t := ((s.doneStages.foldl retire s).later 1 .outputQueueClose).later 1 .loadComplete
       exec .stageRetire s = .next (if t.doneStages = [] then t else t.retry .stageRetire)) ∧
     (s.doneStages = [] → exec .stageRetire s = .next s) ∧
     (∀ before load after home k n, s.loads = before ++ (h, load) :: after →
       (∀ e ∈ before, e.2.state ≠ .free → ∀ z ∈ s.queuesOf e.1, s.outputDone e.1 z = none) →
       load.state ≠ .free → q ∈ s.queuesOf h →
       (∀ z ∈ s.queuesOf h, z < q → s.outputDone h z = none) →
       s.outputDone h q = some n → s.homeOf h q = some (home, k) →
       exec .outputQueueClose s =
         .next (((s.closeQueue home n).later 1 .stageRetire).later 1 .outputQueueClose)) ∧
     ((∀ e ∈ s.loads, e.2.state ≠ .free → ∀ z ∈ s.queuesOf e.1, s.outputDone e.1 z = none) →
       exec .outputQueueClose s = .next s))

/-- R209, R210, R296, R297, R299: a put commits its slot once all that it covers is done, a claim's copy
lands and its index retires, credits reach the producer side, and a close message sets CLOSE. Those of a
core that a freeze has gated stop (R411). -/
def Obligations.QueueEventsMoveSlots : Prop :=
  ∀ (s : State) (id : Nat) (cp : Copy) (home h q : Nat) (n : Word32),
    let hk := hallOfCore cp.core
    let z := cp.queue
    let slots := s.queueSlots hk z
    let f := cp.index.toNat
    (mapFind id s.copies = some cp → s.coreGated cp.core = true →
      exec (.queueSlotCommit id) s = .next s ∧ exec (.claimCopyRetire id) s = .next s) ∧
    (mapFind id s.copies = some cp → s.coreGated cp.core = false → s.queueHome hk z = some home →
      cp.kind = .qput →
      (s.allPerformed cp.covers = true → s.allPerformed cp.after = true →
        (s.queuePne hk z = true → f = s.qPseq home) →
        ∃ t, exec (.queueSlotCommit id) s = .next t ∧ Scheduled s t (.commitAck cp.core cp.ctx id) ∧
          t.copies = mapDel id s.copies ∧
          (Tidy s → t.slotSt home (f % slots) = 2 ∧ t.slotIdx home (f % slots) = f ∧
            memBytes t.mem (tokenKey home slots cp.len (f % slots)) cp.data.length = cp.data)) ∧
      (s.allPerformed cp.covers = false → exec (.queueSlotCommit id) s =
        .next (s.retry (.queueSlotCommit id)))) ∧
    (mapFind id s.copies = some cp → s.coreGated cp.core = false → s.queueHome hk z = some home →
      cp.kind = .qclaim → s.copyBehind cp = false → s.allPerformed cp.after = true →
      exec (.claimCopyRetire id) s = .next (((s.storeMarked (tileKey cp.core cp.tile)
        (memBytes s.mem cp.key cp.len) (s.poisonOf cp.key cp.len)).endCopy cp).retireIndex cp.load z home
          slots f)) ∧
    (∃ t, exec (.queueCredit h q n) s = .next t ∧ ∀ e ∈ s.putters h q, s.elastic e.1 e.2 = false →
      let old := mapGet 0 q (s.core e.1).credited
      mapGet 0 q (t.core e.1).credited = if (n - old).toNat < 2 ^ 31 then n else old) ∧
    (∀ k, s.homeOf h q = some (home, k) → ∃ t, exec (.queueClose h q n) s = .next t ∧
      Scheduled s t .stageRetire ∧ Scheduled s t .outputQueueClose ∧
      (Tidy s → t.qClosed home = true ∧ t.qFinal home = n.toNat))

/-- R251, R253, R255, R256, R187, R205, R411, R412: packets go on through routers; a token's bytes land
before it counts, a credit sets CRED, a close packet sets CLOSED, and acknowledgements count down. What a
freeze reaches stops and does not commit; where a packet of its load waits and where it is purged is the
model's reading (log 68). -/
def Obligations.PacketsMoveAndLand : Prop :=
  ∀ (s : State) (id : Nat) (p : Packet) (c x w : Nat),
    (mapFind id s.packets = some p → (s.loadAt p.load).state ≠ .free →
      (p.atPort = none → p.dest = none →
        (s.frozenAt p = .purged → exec (.routerForward id) s =
          .next { s with packets := mapDel id s.packets }) ∧
        (s.frozenAt p = .waits → exec (.routerForward id) s = .next (s.retry (.routerForward id)))) ∧
      ((s.loadAt p.load).gated p.hall = true → ∀ i, i = Instr.tokenCommit id ∨ i = .creditArrival id ∨
          i = .closePacketArrival id → exec i s = .next { s with packets := mapDel id s.packets }) ∧
      (s.frozenAt p = .no → p.atPort = none → p.dest = none → s.routeBehind p = false → s.creditSettled p = true →
        (let e := s.route p.hall p.rc.toNat
         bitAt e 63 = true → bitAt e 12 = true → s.allPerformed p.covers = true ∧
           s.portHolds (4 * (p.hall / 128) + bits e 10 2) (bits e 60 3) = false) →
        exec (.routerForward id) s = if (s.admitFlits p).2.owed = 0 then
            .next ((s.admitFlits p).1.routePacket (s.admitFlits p).2)
          else .next ({ (s.admitFlits p).1 with
            packets := mapPut id (s.admitFlits p).2 (s.admitFlits p).1.packets }.retry
              (.routerForward id))) ∧
      ((s.loadAt p.load).gated p.hall = false → s.deliveryBehind p = false → p.engineDest = none →
        p.coreDest = some (c, w) →
        (s.allPerformed p.covers = true → s.isConsumer c w = true →
          ∃ t, exec (.tokenCommit id) s = .next t ∧ t.packets = mapDel id s.packets ∧
            (Tidy s → t.cmt c w = (s.cmt c w + 1) % 2 ^ 32 ∧ memBytes t.mem (tileKey c
              (s.winBase c w + p.seq.toNat % s.winCap c w * s.winSize c w)) p.data.length = p.data)) ∧
        (s.isProducer c w = true → ∃ t, exec (.creditArrival id) s = .next t ∧ t.mem = s.mem ∧
          t.packets = mapDel id s.packets ∧ (Tidy s → t.cred c w p.fan.toNat = p.seq.toNat)) ∧
        (s.isConsumer c w = true ∨ s.isProducer c w = true →
          ∃ t, exec (.closePacketArrival id) s = .next t ∧ t.mem = s.mem ∧
            t.packets = mapDel id s.packets ∧ (Tidy s → t.winClosed c w = true)) ∧
        (s.isConsumer c w = false → s.isProducer c w = false →
          exec (.closePacketArrival id) s = .next (s.badRoute p)))) ∧
    (∃ t, exec (.wputReadDone id) s = .next t ∧ t.mem = s.mem ∧
      ∀ d, (t.core d).score = (s.core d).score.filter fun e => e.id != id) ∧
    (∀ n, 0 < n → mapGet 0 id s.acks = n * 2 ^ 16 + 4 * c + x → 4 * c + x < 2 ^ 16 →
      exec (.commitAck c x id) s = .next { s with
        acks := if n = 1 then mapDel id s.acks
          else mapPut id ((n - 1) * 2 ^ 16 + 4 * c + x) s.acks })

/-- R192, R197, R198, R202, R273, R283: an access is performed at its bank behind those that come first, and
its old value travels back; a tile move's words move in ascending order, a free number of them at a time
(log 10), and with the last of them its tag and its range are free. The marks are not said here. An access
whole at one step, behind the sets that log 9 names, is the model's reading. What goes to a hall store, or
moves in a core, that a freeze has gated stops (R411). -/
def Obligations.AccessesPerform : Prop :=
  ∀ (s : State) (id : Nat) (a : Access) (c : Copy),
    let old := BitVec.ofNat 64 (s.load a.key a.bytes)
    let po := s.poisoned a.key a.bytes
    (mapFind id s.accs = some a → s.bankGated a.core a.key = true →
      exec (.accessReachesBank id) s = .next s) ∧
    (mapFind id s.copies = some c → s.coreGated c.core = true → exec (.tmovRetire id) s = .next s) ∧
    (mapFind id s.accs = some a → s.bankGated a.core a.key = false → s.allPerformed a.after = true →
      ∃ t, exec (.accessReachesBank id) s = .next t ∧ t.accs = mapDel id s.accs ∧
        (AccKind.deferred a.kind = true →
          Scheduled s t (.deferredResultArrival a.core a.ctx id old po)) ∧
        t.mem = (let writes := fun (n : Nat) (v : Word64) =>
            memSetBytes s.mem a.key (natToBytes n v.toNat)
          match a.kind with
          | .load | .setEmpty => s.mem
          | .store => writes a.bytes a.a
          | .storeFull => writes 8 a.a
          | .cas => if !po && old.toNat == a.a.toNat % 2 ^ (8 * a.bytes) then writes a.bytes a.b
            else s.mem
          | .add => writes 8 (old + a.a)
          | .swap => writes 8 a.a
          | .and => writes 8 (old &&& a.a)
          | .or => writes 8 (old ||| a.a)
          | .xor => writes 8 (old ^^^ a.a)
          | .min => writes 8 (if a.a.toInt < old.toInt then a.a else old)
          | .max => writes 8 (if old.toInt < a.a.toInt then a.a else old)
          | .maxu => writes 8 (if old.toNat < a.a.toNat then a.a else old))) ∧
    (mapFind id s.accs = some a → s.bankGated a.core a.key = false → s.allPerformed a.after = false →
      exec (.accessReachesBank id) s = .next (s.retry (.accessReachesBank id))) ∧
    (mapFind id s.copies = some c → c.id = id → s.coreGated c.core = false → s.copyBehind c = false →
      s.allPerformed c.after = true → c.moved < c.len → c.len % 8 = 0 → c.moved % 8 = 0 → c.kind = .tmovIn ∨ c.kind = .tmovOut →
      ∃ n t, 8 ≤ n ∧ n % 8 = 0 ∧ c.moved + n ≤ c.len ∧ exec (.tmovRetire id) s = .next t ∧
        t.mem = (if c.kind = .tmovIn then
            memSetBytes s.mem (tileKey c.core (c.tile + c.moved)) (memBytes s.mem (c.key + c.moved) n)
          else memSetBytes s.mem (c.key + c.moved) ((c.data.drop c.moved).take n)) ∧
        (c.moved + n < c.len → mapFind id t.copies = some { c with moved := c.moved + n } ∧
          Scheduled s t (.tmovRetire id)) ∧
        (c.moved + n = c.len → t.copies = mapDel id s.copies ∧
          (∀ e ∈ (t.core c.core).score, e.id ≠ id) ∧ ∀ e ∈ (t.ctx c.core c.ctx).tags, e.2 ≠ id))

/-- R167 to R169, R173, R175, R179: a command starts, its read ranges are free when it has streamed, and
the oldest takes effect and leaves when it retires: sums of products, zeros, words loaded or stored. -/
def Obligations.MatrixCommandsTakeEffect : Prop :=
  ∀ (s : State) (c : Nat),
    let k := s.core c
    (∃ t, exec (.matrixCommandStart c) s = .next t ∧ t.mem = s.mem ∧ (t.core c).z = k.z ∧
      (t.core c).mq = k.mq.map fun m => if m.start ≤ s.cycle then { m with started := true } else m) ∧
    (∃ t, exec (.matrixStreamEnd c) s = .next t ∧ t.mem = s.mem ∧ (t.core c).z = k.z ∧
      ∀ m ∈ k.mq, m.stop ≤ s.cycle → m.writesTile = false → ∀ e ∈ (t.core c).score, e.id ≠ m.id) ∧
    (∀ m rest, k.mq = m :: rest → s.cycle < m.retire → exec (.matrixCommandRetire c) s = .next s) ∧
    ∀ m rest, k.mq = m :: rest → m.retire ≤ s.cycle →
      ∃ t, exec (.matrixCommandRetire c) s = .next t ∧ (t.core c).mq = rest ∧
        (∀ e ∈ (t.core c).score, e.id ≠ m.id) ∧
        ∀ q z a b f kc i j, i < 32 → j < 64 →
          (m.instr = .mma q z a b f kc ∨ m.instr = .mmas q z a b f kc →
            (t.core c).zAt z i j = m.accumulate f (kc.toNat + 1) i j (k.zAt z i j) ∧
            (t.core c).zPoison z = k.zPoison z ||| k.zErr z ||| m.rowPoison ∧ (t.core c).zErr z = 0 ∧
            (t.core c).zTag z = 1 ∧ t.mem = s.mem) ∧
          (m.instr = .mmai q z a b kc →
            (t.core c).zAt z i j = m.accumulateInt (kc.toNat + 1) i j (k.zAt z i j) ∧
            (t.core c).zPoison z = k.zPoison z ||| k.zErr z ||| m.rowPoison ∧ (t.core c).zErr z = 0 ∧
            (t.core c).zTag z = 2 ∧ t.mem = s.mem) ∧
          (m.instr = .mzero q z → (t.core c).zAt z i j = 0 ∧ (t.core c).zPoison z = 0 ∧
            (t.core c).zTag z = 0 ∧ t.mem = s.mem) ∧
          (m.instr = .mldz q z a → (t.core c).zAt z i j =
              BitVec.ofNat 32 (bytesToNat ((m.aElems.drop (256 * i + 4 * j)).take 4)) ∧
            (t.core c).zPoison z = m.rowPoison ∧ (t.core c).zTag z = 0 ∧ t.mem = s.mem) ∧
          (m.instr = .mstz q z a → Tidy s →
            t.load32 (tileKey c (m.base + 256 * i + 4 * j)) = k.zAt z i j ∧ (t.core c).z = k.z ∧
            (t.core c).zPoison z = k.zPoison z ||| k.zErr z ∧ (t.core c).zErr z = 0)

/-- R226, R227, R234, R317: a system form is performed and its area written behind the context's earlier
forms of its group, FRZ when its load's halls have stopped; a grammar command acts on its session, and
GMASK writes its whole mask. What a record of an ill-formed slot names is the model's reading (log 114); what
a closed session answers (log 126), what a GOPEN that opens nothing leaves (log 127) and a shared BASE in a hall
store (log 128) are its choices. -/
def Obligations.ResultsAndCommandsPerform : Prop :=
  ∀ (s : State) (id : Nat) (r : Result) (c : GramCmd),
    (mapFind id s.results = some r → s.resultBehind r = false →
      ((∀ q a b, r.instr ≠ .sech q a b ∧ r.instr ≠ .secv q a b ∧ r.instr ≠ .frz q a b) →
        ∃ t, exec (.resultAreaWrite id) s = .next t ∧ t.results = mapDel id s.results ∧
          (∀ e ∈ (t.core r.core).score, e.id ≠ id) ∧ setHas id (t.ctx r.core r.ctx).areas = false ∧
          t.mem = memSetBytes s.mem (tileKey r.core r.area) r.block) ∧
      (∀ q a b, r.instr = .frz q a b → exec (.resultAreaWrite id) s =
        if s.freezeUnderWay (bits r.a 0 5) then .next (s.retry (.resultAreaWrite id))
        else .next (s.writeResult id r.block)) ∧
      (∀ q a b, r.instr = .sech q a b → exec (.resultAreaWrite id) s =
        .next ((s.sechResult r.block r.blockPoison).1.writeResult id
          (s.sechResult r.block r.blockPoison).2)) ∧
      (∀ q a b, r.instr = .secv q a b → exec (.resultAreaWrite id) s =
        .next (s.writeResult id (s.secvResult r.block r.blockPoison)))) ∧
    (mapFind id s.results = some r → s.resultBehind r = true →
      exec (.resultAreaWrite id) s = .next (s.retry (.resultAreaWrite id))) ∧
    (mapFind id s.gcmds = some c → (∀ i ∈ c.after, mapFind i s.gcmds = none) →
      let wing := bits c.a 8 2
      let n := bits c.a 0 8
      let o := s.session wing n
      ∃ t, exec (.grammarCommandPerform id) s = .next t ∧ t.gcmds = mapDel id s.gcmds ∧
        (o.state = .closed ∨ o.owner = c.load →
          (let slot := s.slotWord (wingOfCore c.core) c.load (bits c.a 10 3);
            c.fn = 0 →
            (t.session wing n).state = (if o.state = .closed then
              (s.openSession o c.load (bits c.a 10 3) slot c.b).1.state else o.state) ∧
            (o.state ≠ .closed ∨ s.slotAstray slot = false → t.mem = s.mem) ∧
            (o.state = .closed → s.slotAstray slot = true → t.sessions = s.sessions ∧
              ((s.loadAt c.load).state = .running → (t.loadAt c.load).state = .stopping ∧
                (t.loadAt c.load).code = some (BitVec.ofNat 8 codeRange)))) ∧
          (c.fn = 2 → (t.session wing n).state = (s.gmask o).1.state ∧
            (t.session wing n).masks = (s.gmask o).1.masks ∧
            (∀ key v, s.sharedKey c.b 32768 = some key → (s.gmask o).2.2 = some v →
              t.mem = memSetBytes s.mem key (natToBytes 32768 v)) ∧
            (∀ key, s.sharedKey c.b 32768 = some key → (s.gmask o).2.2 = none →
              ∃ d : List Byte, d.length = 32768 ∧ t.mem = memSetBytes s.mem key d)) ∧
          (c.fn = 1 → (t.session wing n).state = (s.gstep o (bits c.b 0 32)).1.state ∧
            (t.session wing n).stack = (s.gstep o (bits c.b 0 32)).1.stack ∧
            (t.session wing n).pda = (s.gstep o (bits c.b 0 32)).1.pda ∧ t.mem = s.mem) ∧
          (c.fn = 3 → (t.session wing n).state = .closed ∧ t.mem = s.mem) ∧
          (c.fn = 4 → t.mem = s.mem ∧ t.sessions = s.sessions ∧ Scheduled s t
            (.deferredResultArrival c.core c.ctx c.id (o.query (bits c.b 0 2)) false))) ∧
        (o.state ≠ .closed → o.owner ≠ c.load → t.sessions = s.sessions ∧ (c.fn ≠ 2 → t.mem = s.mem) ∧
          (c.fn = 2 → ∀ key, s.sharedKey c.b 32768 = some key →
            t.mem = memSetBytes s.mem key (natToBytes 32768 0)) ∧
          (c.fn = 4 → Scheduled s t (.deferredResultArrival c.core c.ctx c.id 0 false))))

/-! ### Events of loads, streams and translation -/

/-- R221, R262, R263, R466, R481: a signal sets its pending bit, and the context, idle or parked, makes its
predicates true; a drain starts, after its pause sets TGT of every actor, stream and stage-queue home, and at
the quiescent point changes the mode, sets every FCNT and every stair value to 0 and ends the load's epoch of
atomics. -/
def Obligations.SignalsAndModesTakeEffect : Prop :=
  (∀ (s : State) (c x n : Nat),
     let w := s.receiver c n
     let o := s.ctx c x
     (bitAt w 0 = true → ∃ t, exec (.corridorArrival c n) s = .next t ∧
       n ∈ (t.ctx c (bits w 1 2)).corridor ∧
       (s.cycle, Instr.corridorApply c (bits w 1 2)) ∈ t.agenda) ∧
     (o.corridor ≠ [] → o.run = .idle ∨ o.park.isSome = true →
       ∃ t, exec (.corridorApply c x) s = .next t ∧ (t.ctx c x).corridor = [] ∧ t.mem = s.mem ∧
         ∀ m ∈ o.corridor, bits (s.receiver c m) 3 3 ≠ 0 →
           (t.ctx c x).reg (610 + bits (s.receiver c m) 3 3) = ⟨1, false⟩) ∧
     (o.corridor ≠ [] → o.run ≠ .idle → o.park = none →
       exec (.corridorApply c x) s = .next (s.retry (.corridorApply c x)))) ∧
  (∀ (s : State) (h : Nat) (m : BitVec 3),
     let l := s.loadAt h
     (l.draining = true →
       exec (.drainStart h m) s = .next (s.setLoad h { l with target := m })) ∧
     (l.draining = false → m = l.mode → exec (.drainStart h m) s = .next s) ∧
     (l.draining = false → l.state ≠ .free → m ≠ l.mode → ∃ t, exec (.drainStart h m) s = .next t ∧
       t.loadAt h = { l with draining := true, target := m, targets := false, drainAge := 0 } ∧
       Scheduled s t .drainTargetSet) ∧
     (s.loadWhere s.drainPaused = some h → ∃ t, exec .drainTargetSet s = .next t ∧
       t.loadAt h = { l with targets := true } ∧ t.mem = s.mem ∧ Scheduled s t .quiescentPoint ∧
       (∀ e ∈ s.streamsOf h, (t.stream e.1 e.2).tgt = s.drainPeriods h * s.qStream h e.2) ∧
       (∀ j ∈ s.stageQueues h, mapGet 0 (32 * h + j) t.qtgt = s.drainPeriods h * s.qStage h j) ∧
       (Tidy s → ∀ e ∈ s.plainActors h,
         bits (t.actorWord e.1 e.2 2) 32 32 = s.drainPeriods h * s.qActor h e.1 e.2 % 2 ^ 32)) ∧
     ((s.loadWhere fun h l => l.drains && l.targets && s.quiescent h) = some h →
       ∃ t, exec .quiescentPoint s = .next t ∧ t.mem = s.mem ∧
         t.loadAt h = { (s.endEpoch h).loadAt h with
           mode := l.target, draining := false, targets := false, drainAge := 0 } ∧
         (∀ e ∈ s.streamsOf h, (t.stream e.1 e.2).fcnt = 0 ∧ (t.stream e.1 e.2).tgt = 0) ∧
         (∀ j < 32, mapGet 0 (32 * h + j) t.qfcnt = 0 ∧ mapGet 0 (32 * h + j) t.qtgt = 0) ∧
         (∀ k ∈ l.cores, ∀ x < 4, ∀ j < 4, (t.ctx k x).stair j = 0) ∧
         (Tidy s → ∀ e ∈ s.allActors h, bits (t.actorWord e.1 e.2 2) 0 32 = 0) ∧
         ∀ e ∈ t.atoms, e.2.load ≠ some h))

/-- R206, R272, R285 to R289, R431, R481: a stream that stops sends what it has read and is then idle; one
that runs sends the oldest token read ahead (its last one ends its walk), begins a token, or performs the
one in hand, in an ordered load behind its conflicts; what the access itself does is said for a shared
address outside a queue. The model's choices are that a stopping stream still sends what it has read ahead
(log 10), when one begins a token (log 61), and that a token's words move whole at one step (log 9). -/
def Obligations.StreamsAct : Prop :=
  ∀ (s : State) (hk n h : Nat) (i : Instr), s.streamOwner hk n = some h → s.streamsLive h hk = true →
    let t := s.stream hk n
    let again := Instr.streamToken hk n
    t.mode ≠ .idle → t.mode ≠ .finished →
    (t.busy = false → t.mode = .stopping → t.ahead = 0 → ∃ u, exec again s = .next u ∧
      u.stream hk n = { t with mode := .idle } ∧ Scheduled s u .loadComplete) ∧
    (t.busy = false → s.maySend h hk n = true → ∃ u, exec again s = .next u ∧
      Scheduled s u again ∧ (u.stream hk n).ahead = t.ahead - 1 ∧ (u.stream hk n).done = t.done + 1 ∧
      (t.mode = .stopping → (u.stream hk n).mode = if t.ahead = 1 then .idle else .stopping) ∧
      (t.mode = .running → (u.stream hk n).mode =
        if t.ahead = 1 ∧ s.walkTotal hk n ≤ t.pos then .finished else .running) ∧
      (s.isQueue hk n = false → ∃ p, mapFind s.nextId u.packets = some p ∧ p.kind = 0 ∧ p.hall = hk ∧
        p.data = memBytes s.mem (s.ringKey hk n (t.pos - t.ahead)) (s.streamSize hk n))) ∧
    (t.busy = false → (t.mode = .stopping → 0 < t.ahead) → s.maySend h hk n = false →
      s.sinkClosed h hk n = false → s.homeAstray h hk n = false →
      (s.mayBegin h hk n = true → ∃ u, exec again s = .next u ∧ u.stream hk n =
          { t with busy := true, cumulative := t.cumulative + 1, fcnt := t.fcnt + 1,
                   issued := s.cycle } ∧
        Scheduled s u (if (s.loadAt h).ordered then .orderedAccessPerform hk n else again)) ∧
      (s.mayBegin h hk n = false → exec again s = .next (s.retry again))) ∧
    (t.busy = true → s.waitsWalk hk n = false →
      i = again ∧ (s.loadAt h).ordered = false ∨
        i = .orderedAccessPerform hk n ∧ s.orderedBehind h hk n = false →
      s.tokenPoisoned h hk n = false → s.isShared hk n = true →
      ∀ key, s.sharedKey (BitVec.ofNat 64 (s.tokenVa hk n t.pos)) (s.streamSize hk n) = some key →
        s.mergedOn hk key (s.streamSize hk n) = false → s.isQueue hk n = false →
        ∃ u, exec i s = .next u ∧ Scheduled s u again ∧ (u.stream hk n).busy = false ∧
          (u.stream hk n).pos = t.pos + 1 ∧
          u.mem = if s.isSink hk n then memSetBytes s.mem key
              (memBytes s.mem (s.ringKey hk n (s.streamPtr hk n)) (s.streamSize hk n))
            else memSetBytes s.mem (s.ringKey hk n t.pos) (memBytes s.mem key (s.streamSize hk n))) ∧
    (t.busy = true → s.waitsWalk hk n = false → s.orderedBehind h hk n = true →
      exec (.orderedAccessPerform hk n) s = .next (s.retry (.orderedAccessPerform hk n)))

/-- R378 to R386: a miss token passes one stage of the walker graph at a time; a walk that ends at a leaf
fills the TLB of its port, and the access that waits for it goes on, or misses again where the leaf forbids
it; one that fails withholds the access, whose page is walked again every RETRY cycles from then on; a
poisoned entry stops the load; a wait of FLIM cycles pre-empts it. That the record of that stop names the
access withheld longest at the expiry is log 58, the cause that a merged access is given is log 96, and the
kind of an entry that meets several is log 132. -/
def Obligations.WalksEnd : Prop :=
  ∀ (s : State) (k id base cause : Nat) (large rd wr : Bool) (t : WalkToken) (w v : Withheld) (tag : Nat),
    let answers := fun (f : Walk) (u : State) => t.found = some f ∧ exec (.walkResult k) s = .next u
    let retry := s.walkRetry (w.hall / 128)
    let limit := s.walkLimit (w.hall / 128)
    let page := fun (e : Nat × WalkToken) =>
      e.2.asn == w.asn && e.2.va.toNat / 2 ^ 21 == w.va.toNat / 2 ^ 21
    let port := s.edgePort w.hall
    (mapFind k s.walks = some t → t.found = none →
      exec (.walkResult k) s =
        .next ({ s with walks := mapPut k (s.advanceWalk t) s.walks }.later 1 (.walkResult k))) ∧
    (mapFind k s.walks = some t → mapSorted s.withheld = true → (∀ e ∈ s.withheld, e.2.id = e.1) →
      id < s.nextId → (s.withheld.filter fun e => e.2.walk == some k) = [(id, w)] →
      (t.found = some (.leaf base large rd wr) → ∃ u, answers (.leaf base large rd wr) u ∧
        (∃ e ∈ u.tlb t.port, e.asn = t.asn ∧ e.large = large ∧ e.base = base ∧ e.rd = rd ∧ e.wr = wr ∧
          e.vpn = t.va.toNat / (if large then 2 ^ 33 else 2 ^ 21)) ∧
        ((s.tlb t.port).length ≤ 512 → (u.tlb t.port).length ≤ 512) ∧
        (leafPermits w.sink rd wr = true → s.streamsLive w.load w.hall = true →
          mapFind id u.withheld = none) ∧
        (leafPermits w.sink rd wr = false →
          ∃ x, mapFind id u.withheld = some x ∧ (x.walk.isSome = true ∨ x.wants = true))) ∧
      (t.found = some (.fail cause) → ∃ u, answers (.fail cause) u ∧ u.tlbs = s.tlbs ∧
        (u.stream w.hall w.stream).page = true ∧
        (∃ x, mapFind id u.withheld = some x ∧ x.failed = true ∧ x.cause = BitVec.ofNat 8 cause) ∧
        (s.cycle + retry - (if w.failed then (s.cycle - w.since) % retry else 0), .rewalk id) ∈ u.agenda ∧
        (w.failed = false → (s.cycle + limit, .flimExpiry id) ∈ u.agenda)) ∧
      (t.found = some .poisoned → ∃ u, answers .poisoned u ∧ u.tlbs = s.tlbs ∧
        mapFind id u.withheld = none ∧
        ((s.loadAt w.load).state = .running → (u.loadAt w.load).state = .stopping ∧
          (u.loadAt w.load).code = some (BitVec.ofNat 8 codePoison)))) ∧
    (mapFind id s.withheld = some w → w.id = id → w.failed = true →
      (w.walk = none → w.retryAt ≤ s.cycle → s.streamsLive w.load w.hall = true →
        (s.portWalks port).find? page = none → s.freeTag port = some tag →
        ∃ u, exec (.rewalk id) s = .next u ∧ Scheduled s u (.walkResult s.nextId) ∧
          mapFind s.nextId u.walks = some { port := port, tag := BitVec.ofNat 8 tag, va := w.va,
                                            asn := w.asn, sink := w.sink } ∧
          mapFind id u.withheld = some { w with walk := some s.nextId, wants := false }) ∧
      ((s.loadAt w.load).state = .running → s.cycle < w.since + limit →
        exec (.flimExpiry id) s = .next (s.at (w.since + limit) (.flimExpiry id))) ∧
      ((s.loadAt w.load).state = .running → w.since + limit ≤ s.cycle →
        s.longestWithheld w.load = some v → ∃ u, exec (.flimExpiry id) s = .next u ∧
          (u.loadAt w.load).state = .preempting ∧
          (u.loadAt w.load).late = some [12, v.hall, v.stream, v.token, v.va.toNat, v.cause.toNat] ∧
          Scheduled s u .pageStall ∧
          ∀ c ∈ (s.loadAt w.load).cores, ∃ due ≤ s.cycle + 200, (due, .preemptFlagSet c) ∈ u.agenda))

/-- R383, R384: an invalidation leaves no entry that it covers in the ports of its wing and every other
entry, and discards the walks in flight that it covers; it completes once their accesses have been walked
again: then ICNT counts it and the next one starts. -/
def Obligations.InvalidationsRemoveEntries : Prop :=
  ∀ (s : State) (wing port : Nat) (va : BitVec 35) (asn : BitVec 11) (e : TlbEntry)
    (i : Instr) (sel : Nat × Nat × Nat),
    (i = .invalidatePage wing va asn ∧ sel = (0, va.toNat, asn.toNat) ∨
      i = .invalidateRegion wing va asn ∧ sel = (1, va.toNat, asn.toNat) ∨
      i = .invalidateAsn wing asn ∧ sel.1 = 2 ∧ sel.2.2 = asn.toNat ∨
      i = .invalidateAll wing ∧ sel.1 = 3) →
    (mapGet [] wing s.invals).head? = some sel →
    (∃ t, exec i s = .next t ∧ t.mem = s.mem ∧ Scheduled s t .invalidationComplete ∧
      (∀ k w, (k, w) ∈ s.walks → w.port / 4 = wing → invalCovers sel w.asn.toNat w.va.toNat = true →
        k < s.nextId → ∀ x ∈ t.walks, x.1 ≠ k) ∧
      (e ∈ t.tlb port ↔ e ∈ s.tlb port ∧ (port / 4 = wing → e.coveredBy sel = false))) ∧
    ((steps 0 1 4).any s.invalStarted = true →
      (∀ w < 4, s.invalStarted w = true → s.rewalking w = true) →
      exec .invalidationComplete s = .next (s.retry .invalidationComplete)) ∧
    ((steps 0 1 4).find? (fun w => s.invalStarted w && !s.rewalking w) = some wing →
      ∃ t, exec .invalidationComplete s = .next t ∧
      (Tidy s → bits (t.sysCfg wing 2307) 32 32 = (bits (s.sysCfg wing 2307) 32 32 + 1) % 2 ^ 32) ∧
      (mapSorted s.invals = true → mapGet [] wing t.invals = (mapGet [] wing s.invals).tail) ∧
      (e ∈ t.tlb port ↔ e ∈ s.tlb port ∧ (port / 4 = wing → e.coveredBy sel = false)))

/-- R386, R398 to R400, R450, R455: a flag parks every idle context of a core at once; a load at rest is
suspended, or stopped where a fault or a late access asked for it, and one that is not is looked at
again. -/
def Obligations.LoadsComeToRest : Prop :=
  ∀ (s : State) (c x h : Nat),
    let o := s.ctx c x
    let parked := fun (u : Ctx) => u = if o.run = .idle ∧ o.park = none ∧ o.halted = false
      then { o with park := some { kind := .idle }, live := s.keepUnion c (min x 3) } else o
    (s.coreLoadState c = .preempting → ∃ t, exec (.preemptFlagSet c) s = .next t ∧
      (t.core c).preFlag = true ∧ t.mem = s.mem ∧ parked (t.ctx c x)) ∧
    (s.coreLoadState c = .stopping → ∃ t, exec (.stopFlagArrival c) s = .next t ∧
      (t.core c).stopFlag = true ∧ t.mem = s.mem ∧ parked (t.ctx c x)) ∧
    (let rest := fun (p : Option (List Nat) → Bool) =>
        s.loadWhere fun h l => l.state == .preempting && p l.late && s.atRest h
      let waits := fun (p : Option (List Nat) → Bool) =>
        s.loadWhere fun _ l => l.state == .preempting && p l.late
      let page := fun (l : Option (List Nat)) => (l.getD []).head? == some 12
      let arc := fun (l : Option (List Nat)) => (l.getD []).head? == some 13
      (rest (·.isNone) = some h → ∃ t, exec .preqComplete s = .next t ∧
        (t.loadAt h).state = .suspended ∧ (t.loadAt h).preqs = [] ∧ Scheduled s t .candidateStart) ∧
      (rest page = some h → ∃ t, exec .pageStall s = .next t ∧ (t.loadAt h).state = .stopped) ∧
      (rest arc = some h → ∃ t, exec .arcLate s = .next t ∧ (t.loadAt h).state = .stopped) ∧
      (rest (·.isNone) = none → waits (·.isNone) = some h →
        exec .preqComplete s = .next (s.retry .preqComplete)) ∧
      (rest page = none → waits page = some h → exec .pageStall s = .next (s.retry .pageStall)) ∧
      (rest arc = none → waits arc = some h → exec .arcLate s = .next (s.retry .arcLate))) ∧
    ((s.loadWhere fun h l => l.state == .stopping &&
        (l.cores.all fun c => (s.core c).stopFlag) && s.atRest h) = some h →
      ∃ t, exec .loadStopped s = .next t ∧ (t.loadAt h).state = .stopped ∧
        ∀ n r, (s.loadAt h).launch = some n → mapFind n s.launches = some r → r.status = none →
          ∃ u, mapFind n t.launches = some u ∧
            u.status = some (1, ((s.loadAt h).code.getD 0).toNat, 0) ∧ Scheduled s t .completionWord)

/-- R403 to R408, R411, R412, R463: a hall of a suspended load is written to the slot of its save area,
whose header says so, and freed; a freeze writes a hall's readout there, stops its cores and purges its
packets; a hang freezes its load and ends its launch with HANG, or with the fault that the load has stopped
for. A core whose move is under way has passed its boundary in what is written (R307). The model's choices
are the places of the matrix queue's words (log 42), the cells that a command under way mixes (log 104) and
the flits that a cut packet has landed (log 63). -/
def Obligations.HallsAreWrittenOut : Prop :=
  ∀ (s : State) (h i hk base n : Nat) (drain : Bool) (stalled : Option (Nat × Nat)) (r : Launch)
    (e : LoadHall),
    let l := s.loadAt h
    let bounded := Tidy s ∧ e.phys < 512 ∧ ∀ c ∈ l.cores, c < 2 ^ 14
    let area := fun (a : Nat) => mapFind (e.phys / 128) l.areas = some a
    (l.halls[i]? = some e → l.slotBase e = some base → l.state = .suspended → e.inPlace = true →
      let u := (steps 0 1 17).foldl (fun s p => s.settleMove (32 * e.phys + p)) s
      ∃ t, exec (.hallWriteOut h i) s = .next t ∧ Scheduled s t .candidateStart ∧
        (∃ u, (t.loadAt h).halls[i]? = some u ∧ u.inPlace = false ∧ u.writtenOut = true) ∧
        (bounded → SlotLaid u t h i e.phys base false ∧
          ∀ a, area a → AreaHeaded t h (e.phys / 128) a 1) ∧
        ∀ c, c / 32 = e.phys → isSystemHall e.phys = false ∨ c ∈ l.cores → t.core c = {}) ∧
    (l.state = .frozen → l.halls[i]? = some e →
      (l.halls.findIdx? fun e => e.phys == hk && e.inPlace && !e.writtenOut) = some i →
      let here := l.cores.filter fun c => c / 32 == hk
      let smeared := here.foldl (fun s c => (s.core c).mq.foldl (State.smearCommand c) s) s
      let u := (smeared.routerPackets h hk).foldl State.landCut smeared
      ∃ t, exec (.freezeArrival h hk) s = .next t ∧
        (∃ u, (t.loadAt h).halls[i]? = some u ∧ u.writtenOut = true) ∧
        (∀ c ∈ here, mapFind c t.cores = (mapFind c u.cores).map Core.gate) ∧
        (bounded → l.slotBase e = some base → SlotLaid u t h i hk base true ∧
          ∀ a, area a → AreaHeaded t h (hk / 128) a 2) ∧
        (Tidy s → isSystemHall hk = false → bits (t.hallCfg hk 4088) 47 3 = 5) ∧
        ∀ p ∈ t.packets, ¬ (p.2.load = h ∧ p.2.hall = hk)) ∧
    (l.state = .running ∨ l.state = .preempting → ∃ t, exec (.hang h drain stalled) s = .next t ∧
      (t.loadAt h).state = .frozen ∧
      (l.launch = some n → mapFind n s.launches = some r → r.status = none →
        (∃ u, mapFind n t.launches = some u ∧
          u.status = some (1, (l.code.getD (BitVec.ofNat 8 codeHang)).toNat, 0)) ∧
          Scheduled s t .completionWord))

/-- R304 to R309, R482: samples add FILL of the input less FILL of the output; an interval end counts, lowers
the pins, writes each stage's D and clears the sums, and the first pair of recipient and donor that fits moves
its lowest core, where u is the state after the wings before it; the entries that a moved core's configuration
gave it change at its boundary; a window lets flits enter. That a restart clears the sums too is the model's
choice (log 121). -/
def Obligations.BalanceActs : Prop :=
  ∀ (s : State) (wing n c h : Nat) (m : Move), wing < 4 →
    let given := fun (e : Nat) => (s.core c).load = some h ∧
      (mapGet 0 c (s.loadAt h).entries).getLsbD e = true
    (∃ t, exec .balanceSample s = .next t ∧ t.mem = s.mem ∧ t.cfg = s.cfg ∧
      (n ∈ s.stages wing → s.sampleDue wing = true →
        mapGet 0 (32 * wing + n) t.balAcc = mapGet 0 (32 * wing + n) s.balAcc +
          s.fillOf (s.stageLoad wing n) (s.stageIn wing n) -
          (if bitAt (s.stageWord wing n 2) 10 then
            (s.fillOf (s.stageLoad wing n) (bits (s.stageWord wing n 2) 5 5) : Int) else 0))) ∧
    (∃ t, exec .balanceIntervalEnd s = .next t ∧ t.mem = s.mem ∧
      (s.intervalEndDue wing = true →
        let u := ((steps 0 1 wing).filter s.intervalEndDue).foldl State.endInterval s
        let v := u.lowerPins wing
        let w := t.sysCfg wing 386
        (n < 32 → mapGet 0 (32 * wing + n) t.balAcc = 0) ∧
        (∀ j ∈ u.stages wing, ∀ e ∈ u.stageCores wing j, (v.core e.1).pin = (s.core e.1).pin - 1) ∧
        (Tidy s → bits w 0 32 = (bits (s.sysCfg wing 386) 0 32 + 1) % 2 ^ 32 ∧
          ∀ j ∈ s.stages wing,
            bits (t.stageWord wing j 2) 32 32 = (BitVec.ofInt 32 (s.demand wing j)).toNat) ∧
        ((∀ r d, ¬ PairFits v wing r d) → (Tidy s → bitAt w 63 = false) ∧
          ∀ k, wingOfCore k = wing → t.core k = v.core k) ∧
        ((∃ r d, PairFits v wing r d) → ∃ r d k a b, Chosen v wing r d k a b ∧
          (Tidy s → bitAt w 63 = true ∧ bits w 58 5 = d ∧ bits w 53 5 = r ∧
            bits w 43 10 = (v.visibleCore k).toNat % 2 ^ 10 ∧
            t.stageRepl wing d = v.stageRepl wing d - 1 ∧ t.stageRepl wing r = v.stageRepl wing r + 1) ∧
          t.core k = { v.core k with
            pin := 2, move := some { donor := a, recipient := b, passed := false } } ∧
          (∀ j, wingOfCore j = wing → j ≠ k → t.core j = v.core j) ∧
          (s.cycle + 1, .moveBoundary) ∈ t.agenda))) ∧
    (∃ t, exec (.benRestart wing) s = .next t ∧ mapGet 0 wing t.balBase = s.cycle ∧ t.mem = s.mem ∧
      (Tidy s → bits (t.sysCfg wing 386) 0 32 = 0) ∧
      (n < 32 → mapGet 0 (32 * wing + n) t.balAcc = 0)) ∧
    (∃ t, exec .moveBoundary s = .next t ∧ t.mem = s.mem ∧
      (Tidy s → s.movingCores = [c] → (s.core c).move = some m → m.passed = false →
        (∀ e ∈ windows, given e → entryActor (s.entry c e) = m.donor →
          entryValid (t.entry c e) = false) ∧
        (s.atBoundary c m.donor = true → (t.core c).move = some { m with passed := true } ∧
          ∃ due ≤ s.cycle + 64, s.cycle < due ∧ (due, .moveEntriesValid c) ∈ t.agenda) ∧
        (s.atBoundary c m.donor = false → Scheduled s t .moveBoundary))) ∧
    ((s.core c).move = some m → m.passed = true → ∃ t, exec (.moveEntriesValid c) s = .next t ∧
      (t.core c).move = none ∧ t.mem = s.mem ∧
      (Tidy s → ∀ e ∈ windows, given e → entryActor (s.entry c e) = m.recipient →
        entryValid (t.entry c e) = true)) ∧
    ∃ t, exec .admissionWindowStart s = .next t ∧ t.mem = s.mem ∧
      ∀ e, e ∈ t.admitted ↔ e ∈ s.admitted ∧ ¬ (e.1 / 128 < 4 ∧ s.windowStartDue (e.1 / 128) = true)

/-- R353, R354, R356 to R360, R362, R363, R365, R366, R426: a doorbell moves TAIL; a launch event acts on
the head of its queue: a cold launch places its load on free halls, claims those of victims, waits, or ends;
a resident graph runs again where it stands, or is released; candidates are taken up in R362's order; a
committed placement runs; a complete load ends or holds; an ended launch is reported. That the graph's later
loads are admitted before its first is placed (log 79), that a candidate leaves alone the halls that those
before it need (log 82), that these effects come at the launch unit's events (log 12), how a head record is
read where its ring leaves the gallery or its words are poisoned (logs 129, 130), and the FLOAD of a later
load's refusal (log 131) are the model's choices. -/
def Obligations.LaunchesProceed : Prop :=
  ∀ (s u : State) (q : BitVec 6) (v : Word64) (id h k : Nat) (t : Launch) (rest : List Nat),
    let o := s.queue q.toNat
    let e := t.status.getD (0, 0, 0)
    let before := fun (q : Nat) => s.hallsBefore (s.candidatesOf (q / 16)) id
    (s.power = true → s.dev = .running → s.queueValid q.toNat = true → o.tail ≠ v.setWidth 16 →
      ∃ t, exec (.doorbellWrite q v) s = .next t ∧
        t.queue q.toNat = { o with
          tail := v.setWidth 16,
          err := o.err || s.ringSize q.toNat < ((v.setWidth 16 : BitVec 16) - o.head).toNat } ∧
        ∃ due ≤ s.cycle + 64, s.cycle < due ∧ (due, .candidateStart) ∈ t.agenda) ∧
    (s.headLaunch q.toNat = some id → mapFind id s.launches = some t →
      s.tryStart id k (before q.toNat) = some u →
      (k = 0 → exec (.launchCold q) s = .next u) ∧
      (k = 1 → exec (.launchColdResident q) s = .next u) ∧
      (k = 2 → exec (.launchResidentRun q) s = .next u) ∧
      (k = 3 → exec (.launchRelease q) s = .next u) ∧
      t.kind = k ∧
      ((k = 2 ∨ k = 3) → mapFind t.gid s.residents = none → ∃ r, mapFind id u.launches = some r ∧
        r.status = some (4, 0, 0) ∧ Scheduled s u .completionWord)) ∧
    (mapFind id s.launches = some t → t.placing = true →
      let r := s.placingEnd id t v
      let k := loaderKey id (t.claimed.headD 0 / 128) true
      ∃ w, exec (.placingOutcome id v) s = .next w ∧
        (bits r.2 0 8 = 0 → w = if t.suspended then
          (r.1.storeFull k r.2).beginPreempt (t.current.getD 31) none else r.1.storeFull k r.2) ∧
        (bits v 0 8 = 0 → bits r.2 0 8 = 0 → t.suspended = false →
          let h := bits t.placeWord 24 5
          (w.loadAt h).state = .running ∧ (w.loadAt h).launch = some id ∧
          ∃ x, mapFind id w.launches = some x ∧ x.placing = false ∧ x.current = t.current) ∧
        (5 ≤ bits r.2 0 8 → bits r.2 0 8 ≠ 7 → Scheduled s w .completionWord ∧
          ∃ x, mapFind id w.launches = some x ∧ x.status = some (7, 0, 0)) ∧
        (bits r.2 0 8 = 1 ∨ bits r.2 0 8 = 2 ∨ bits r.2 0 8 = 3 ∨ bits r.2 0 8 = 7 →
          Scheduled s w .completionWord ∧
          ∃ x, mapFind id w.launches = some x ∧ x.status = some (3, 16, 0x80 + bits r.2 0 8)) ∧
        (bits r.2 0 8 = 4 → Scheduled s w .candidateStart ∧
          ∃ x, mapFind id w.launches = some x ∧ x.placing = false ∧ x.claimed = [])) ∧
    (s.headLaunch q.toNat = some id → mapFind id s.launches = some t → s.mayStart id t = true → t.kind = k →
      let p := s.bindPred id t
      let tp := mapGet t id p.launches
      let avoid := before q.toNat
      let known := mapFind t.gid s.residents
      (k ≤ 1 → (k = 1 → known = none ∨ t.claimed ≠ []) →
        (t.staged = true → exec (launchEvent k q.toNat) s = .next ((p.placeNext id tp avoid).getD s)) ∧
        (t.staged = false → p.imageBacked t.image t.imageLen = false →
          ∃ w, exec (launchEvent k q.toNat) s = .next w ∧ LaunchEnds s w id 3 16 0x87)) ∧
      (k = 1 → known.isSome = true → t.claimed = [] →
        ∃ w, exec (launchEvent k q.toNat) s = .next w ∧ LaunchEnds s w id 4 0 0) ∧
      (k = 2 → exec (launchEvent k q.toNat) s = .next ((p.tryResident id tp avoid).getD s)) ∧
      (k = 3 → ∀ r, known = some r →
        (r.running = true → exec (launchEvent k q.toNat) s = .next s) ∧
        (r.running = false → mapSorted s.loads = true → mapSorted s.residents = true →
          ∃ w, exec (launchEvent k q.toNat) s = .next w ∧ LaunchEnds s w id 6 0 0 ∧
            mapFind t.gid w.residents = none ∧ ∀ h ∈ r.loads, (w.loadAt h).state = .free))) ∧
    (mapFind id s.launches = some t → t.claimed = [] → ∀ avoid,
      let prio := if t.started then t.prio else s.queuePrio t.queue
      let pick := fun (r : Reach) =>
        s.places id t.next { launch := t, prio := prio, reach := r, avoid := avoid }
      let granted := fun (p : List Nat) => (s.grant id t.next p).isSome
      (s.placeable id t prio = false → ∃ w, s.placeNext id t avoid = some w ∧ LaunchEnds s w id 7 0 0) ∧
      (s.placeable id t prio = true →
        (∀ g, (pick .free).findSome? (s.grant id t.next) = some g →
          let b := ((s.startLaunch id).registerGraph id).stageInGallery id (g.site.place.headD 0 / 128) t.imageLen
          let tb := mapGet t id b.launches
          let d := (b.drawn id tb.next g.site).assignStages g.site.handle g.stages
          let refusal := (d.admissionCause (stageKey id) g.site.handle (b.stagedLoad id tb.next) g.site.place).orElse
            fun _ => b.laterRefusal id tb
          (b.chainReady tb g.site.place d = some false →
            ∃ w, s.placeNext id t avoid = some w ∧ LaunchEnds s w id 3 16 16) ∧
          (b.chainReady tb g.site.place d = some true →
            (∀ c, refusal = some c →
              ∃ w, s.placeNext id t avoid = some w ∧ LaunchEnds s w id 3 16 (bits c 0 8)) ∧
            (refusal = none → ∃ w, s.placeNext id t avoid = some w ∧ PlacingBegun s w id avoid g ∧
              (t.kind = 1 → (mapFind t.gid w.residents).isSome = true)))) ∧
        (pick .free ≠ [] → (pick .free).findSome? (s.grant id t.next) = none →
          s.placeNext id t avoid = none) ∧
        (pick .free = [] → ∀ place,
          ((s.victimReaches prio).findSome? fun r => (pick r).find? granted) = some place →
          (∀ h ∈ s.holders place, (s.loadAt h).late = none ∧ ((s.loadAt h).state = .running ∨
            (s.loadAt h).state = .suspended ∨ (s.loadAt h).state = .preempting)) →
          ∃ w, s.placeNext id t avoid = some w ∧ HallsClaimed s w id place))) ∧
    (mapFind id s.launches = some t → ∀ r avoid, mapFind t.gid s.residents = some r →
      let idle := r.loads.all fun h =>
        (s.loadAt h).state == .residentIdle || (s.loadAt h).state == .suspended
      (t.started = false → r.running = true ∨ idle = false → s.tryResident id t avoid = none) ∧
      (t.started = true ∨ r.running = false ∧ idle = true → r.loads[t.next]? = some h →
        (s.loadAt h).state = .residentIdle →
        let tl := { t with loads := r.loads.length }
        let p := (s.setLaunch id tl).startLaunch id
        let b := { p with residents := mapPut t.gid { r with running := true } p.residents }
        let tb := mapGet tl id b.launches
        let place := (b.loadAt h).halls.map (·.phys)
        b.chainReady tb place (b.unbindQueues h) = some true →
        (b.stagePlan ((b.unbindQueues h).restoreValids (b.loadAt h)) h place).isSome = true →
        ∃ w, s.tryResident id t avoid = some w ∧ ResidentRuns w id t.gid h r)) ∧
    (mapFind id s.launches = some t → ∀ avoid,
      (t.between = true → t.kind = 2 → s.tryCandidate id avoid = s.tryResident id t avoid) ∧
      (t.between = true → t.kind ≠ 2 → t.staged = true →
        s.tryCandidate id avoid = s.placeNext id t avoid) ∧
      (t.suspended = true → t.current = some h → (s.loadAt h).state = .suspended →
        s.hallClaimed (s.loadAt h) = false → s.holders t.claimed = [] →
        let r := (s.setLaunch id { t with claimed := [] }).resumeLoad h avoid
        r.2 = 0 → s.tryCandidate id avoid = some r.1 ∧ (r.1.loadAt h).state = .running) ∧
      (t.suspended = false → t.between = false → s.mayStart id t = true → t.kind < 4 →
        (s.tryStart id t.kind avoid).isSome = true → ∃ w, s.tryCandidate id avoid = some w ∧
          (s.cycle, launchEvent t.kind t.queue) ∈ w.agenda)) ∧
    (mapSorted s.launches = true → (∀ e ∈ s.launches, e.1 < 2 ^ 64 ∧ e.2.prio < 8) → ∀ wing,
      (∀ n, n ∈ s.candidatesOf wing ↔ ∃ x, mapFind n s.launches = some x ∧ x.queue / 16 = wing ∧
        (x.suspended = true ∨ x.between = true ∨ s.mayStart n x = true)) ∧
      (s.candidatesOf wing).Pairwise fun a b => ∀ x y, mapFind a s.launches = some x →
        mapFind b s.launches = some y → candidateBefore s wing x y) ∧
    ((s.launches.filter fun e => e.2.between).map (·.1) = id :: rest → mapFind id s.launches = some t →
      s.tryCandidate id (before t.queue) = some u → exec .nextLoadStart s = .next u) ∧
    (let w := (steps 0 1 4).foldl State.takeCandidate ((steps 0 1 64).foldl State.readHead s);
      exec .candidateStart s = .next (if ((steps 0 1 4).any fun n => w.candidatesOf n != []) &&
          !(w.agenda.any fun e => e.2 == .candidateStart) then w.retry .candidateStart else w)) ∧
    (s.doneLoads = h :: rest → (s.loadAt h).launch = some id → mapFind id s.launches = some t →
      ∃ w, exec .loadComplete s = .next w ∧
        (t.next + 1 < t.loads → Scheduled s w .nextLoadStart) ∧
        (t.kind = 0 → mapSorted s.loads = true → (w.loadAt h).state = .free) ∧
        (t.kind ≠ 0 → (w.loadAt h).state = .residentIdle) ∧
        (t.loads ≤ t.next + 1 → Scheduled s w .completionWord ∧
          ∃ x, mapFind id w.launches = some x ∧ x.status = some (0, 0, 0))) ∧
    ((s.launches.find? fun e => e.2.status.isSome) = some (id, t) → e.1 ≠ 1 → t.records = [] → Tidy s →
      ∀ key, s.sharedKey (BitVec.ofNat 64 t.caddr) 8 = some key → t.caddr % 8 = 0 →
        isGalleryKey key = true → ∃ w, exec .completionWord s = .next w ∧ w.load64 key = t.word e.1 e.2.1 e.2.2 ∧
          (mapSorted s.launches = true → mapFind id w.launches = none) ∧
          Scheduled s w .candidateStart ∧
          (bitAt s.ien t.queue = true → t.queue < 64 → bitAt w.ipend t.queue = true))

/-! ### The host, power and the links -/

/-- R436 to R440, R472: writes of BAR0 registers, doorbells and the MSI-X table; an unmasked vector sends
what is pending; a read of HEALTH clears its counts; BAR2 reads and writes the gallery. When MCMD acts is the
model's choice (log 57), with the order and the answers of logs 22 and 50. -/
def Obligations.HostAccessesAct : Prop :=
  ∀ (s : State) (v : Word64) (o : BitVec 14) (q : BitVec 6) (off : BitVec 28) (data : List Byte)
    (n i : Nat), s.power = true → s.answersAll = true →
    exec (.registerWrite 0x10 v) s = .next { s with ien := v } ∧
    exec (.registerWrite 0x18 v) s = .next { s with ipend := s.ipend &&& ~~~v } ∧
    exec (.registerWrite 0x108 v) s = .next { s with plim := v.setWidth 12 } ∧
    (v.setWidth 2 = 0#2 ∨ v.setWidth 2 = 3#2 →
      exec (.registerWrite 0x110 v) s = .next { s with mcmd := v.setWidth 2 }) ∧
    (v.setWidth 2 = 1#2 → ∃ t, exec (.registerWrite 0x110 v) s = .next t ∧ t.mcmd = 1 ∧ t.mem = s.mem ∧
      ∀ w < 4, ∀ k < 67, bitAt (s.dmapAt (128 * w + k)) 17 = true →
        (s.cycle + 1, .voltageReplan w k none) ∈ t.agenda) ∧
    (v.setWidth 2 = 2#2 → ∃ t, exec (.registerWrite 0x110 v) s = .next t ∧
      t.mcmd = 2 ∧ (s.cycle + 1, .enterSafeState) ∈ t.agenda) ∧
    exec (.registerWrite (BitVec.ofNat 14 (0x1000 + 8 * q.toNat)) v) s =
      .next (s.at (s.cycle + 1) (.doorbellWrite q v)) ∧
    (i < 130 → ∃ t, exec (.registerWrite (BitVec.ofNat 14 (0x2000 + 8 * i)) v) s = .next t ∧
      mapGet 0 i t.msixTable = (if i % 2 = 1 then v &&& 0x1FFFFFFFF else v) ∧
      (i % 2 = 1 → s.msixMasked (i / 2) = true → t.msixMasked (i / 2) = false →
        setHas (i / 2) s.msixPending = true → (s.cycle + 1, .msixUnmask (i / 2)) ∈ t.agenda)) ∧
    (o.toNat % 8 ≠ 0 → exec (.registerWrite o v) s = .next s) ∧
    (o = 0 ∨ o = 8 ∨ o = 0x100 ∨ o = 0x118 ∨ o = 0x3000 ∨ o = 0x3008 →
      exec (.registerWrite o v) s = .next s) ∧
    (s.msixMasked n = false → setHas n s.msixPending = true → ∃ t, exec (.msixUnmask n) s = .next t ∧
      setHas n t.msixPending = false ∧ t.hostOut = s.hostOut ++ [.msix n] ∧ t.mem = s.mem) ∧
    (s.msixMasked n = true ∨ setHas n s.msixPending = false →
      exec (.msixUnmask n) s = .next s) ∧
    (∃ t, exec .healthRead s = .next t ∧ t.cm = 0 ∧ t.ce = 0 ∧
      t.hostOut = s.hostOut ++ [.answer (BitVec.ofNat 64 (s.cm.toNat * 2 ^ 48 + s.ce.toNat * 2 ^ 32 +
        s.pwr.toNat * 2 ^ 16 + s.tj.toNat))]) ∧
    (let key := galleryKey (off.toNat / 2 ^ 26) (off.toNat % 2 ^ 26);
      (∃ t, exec (.bar2Write off data false) s = .next t ∧ t.full = s.full ∧
        t.mem = memSetBytes s.mem key data) ∧
      exec (.bar2Read off n) s = .next { s with
        hostOut := s.hostOut ++ [.data (memBytes s.mem key n) (s.poisoned key n)] })

/-- R9, R304, R469 to R476: power off and on, the end of the self-test, trips and the safe state, the
limiter's word (free while PWR exceeds the envelope, log 113), a voltage re-plan by a hall's monitors and
its steps, a hall that retires at +20, and a soft error. The model's readings and choices are the order of
FAILBLK's causes (log 115), a struck row (log 67), where a unit's error is found (log 85), that a word of an
open transaction which an error strikes is rejected (log 77), and those of logs 57, 111 and 112. -/
def Obligations.PowerAndHealthAct : Prop :=
  ∀ (s : State) (tj v : BitVec 8) (pwr : BitVec 16) (wing hall key core row h n : Nat) (afl : Word32)
    (r : SelfTest),
    let hk := wing * 128 + hall
    (∃ t, exec .powerOff s = .next t ∧ t.power = false ∧ t.mem = [] ∧ t.loads = [] ∧ t.cores = []) ∧
    (s.power = false → ∃ t, exec .powerOn s = .next t ∧ t.power = true ∧ t.dev = .selfTest ∧
      t.mem = [] ∧ t.loads = []) ∧
    (s.power = true → s.dev = .selfTest →
      let m := s.markFailed r.halls
      ∃ t, exec (.selfTestDone r) s = .next t ∧ t.dmap = m.dmap ∧
        (s.firmwareGood = false → t.dev = .vestibule ∧ t.failBlk = 3) ∧
        (s.firmwareGood = true →
          (r.baseDie = false → t.dev = .vestibule ∧ t.failBlk = 1) ∧
          (r.baseDie = true → r.security = false → t.dev = .vestibule ∧ t.failBlk = 2) ∧
          (r.baseDie = true → r.security = true →
            (n < 8 → n ∈ r.hbm → (∀ k < n, k ∉ r.hbm) →
              t.dev = .vestibule ∧ t.failBlk = BitVec.ofNat 16 (0x100 + n)) ∧
            ((∀ k < 8, k ∉ r.hbm) →
              (∀ w, m.shortWing = some w →
                t.dev = .vestibule ∧ t.failBlk = BitVec.ofNat 16 (0x200 + w)) ∧
              (m.shortWing = none → t.dev = .running ∧ t.cycle = 0 ∧ t.keys = m.loadKeys.keys))))) ∧
    (s.power = true → s.dev = .running →
      (s.unfrozen ≠ [] → h ∈ s.unfrozen → ∃ t, exec .enterSafeState s = .next t ∧
        (t.loadAt h).state = .frozen ∧ Scheduled s t .enterSafeState) ∧
      (s.unfrozen = [] → s.freezing = false → ∃ t, exec .enterSafeState s = .next t ∧
        t.dev = .safe ∧ t.mem = s.mem ∧ ∀ e ∈ t.agenda, isInput e.2 = true)) ∧
    (∃ t, exec (.thermalTrip tj) s = .next t ∧ t.tj = tj ∧
      (105 ≤ tj.toNat → (s.cycle, .enterSafeState) ∈ t.agenda) ∧
      (tj.toNat < 105 → t.agenda = s.agenda)) ∧
    (∃ t, exec (.powerTrip pwr) s = .next t ∧ t.pwr = pwr ∧
      (2640 < pwr.toNat → (s.cycle, .enterSafeState) ∈ t.agenda) ∧
      (pwr.toNat ≤ 2640 → t.agenda = s.agenda)) ∧
    (∃ t, exec (.powerEnvelopeControl wing afl) s = .next t ∧ t.mem = s.mem ∧
      (Tidy s → bits (t.sysCfg wing 385) 0 32 = (s.nextAfl wing afl).toNat ∧
        (s.pwr.toNat ≤ min s.plim.toNat 2400 → s.nextAfl wing afl = afl))) ∧
    (-16 ≤ v.toInt → v.toInt ≤ 20 → s.unusedNumbers wing = [] →
      let now := BitVec.ofNat 8 (bits (s.dmapAt hk) 32 8)
      let next := if now.toInt < v.toInt then now + 1 else if v.toInt < now.toInt then now - 1 else now
      ∃ t, exec (.voltageReplan wing hall (some v)) s = .next t ∧
        bits (t.dmapAt hk) 32 8 = next.toNat ∧
        (next ≠ v → (s.cycle + 1050, .voltageReplan wing hall (some v)) ∈ t.agenda)) ∧
    (s.unusedNumbers wing = [] → s.plannedVoff hk = some v →
      (s.agenda.all fun e => match e.2 with
        | .voltageReplan w k (some _) => !(w == wing && k == hall)
        | _ => true) = true →
      exec (.voltageReplan wing hall none) s = exec (.voltageReplan wing hall (some v)) s) ∧
    (bitAt (s.dmapAt hk) 17 = true → s.unusedNumbers wing = [] → s.ownerOf hk = none →
      s.plannedVoff hk = none → bits (s.dmapAt hk) 32 8 = 20 →
      (s.launches.any fun t => t.2.claimed.contains hk) = false →
      ∃ t, exec (.voltageReplan wing hall none) s = .next t ∧ t.retn = s.retn + 1 ∧
        bitAt (t.dmapAt hk) 17 = false ∧ bits (t.dmapAt hk) 24 8 = 255) ∧
    (∀ target, exec (.sramError target true) s = .next { s with
      ce := if s.ce = BitVec.allOnes 16 then s.ce else s.ce + 1 }) ∧
    (∃ t, exec (.sramError (.word key) false) s = .next t ∧ setHas (key / 8) t.poison = true ∧
      (∀ k, k / 8 ≠ key / 8 → memByte t.mem k = memByte s.mem k) ∧
      ∀ (c : Nat) (k : Core) (x : Nat) (y : Txn), mapFind c s.cores = some k → x < 4 →
        (k.ctx x).txn = some y →
        ∃ z : Txn, ((t.core c).ctx x).txn = some z ∧ z.routes = y.routes ∧
          ∀ (i : Nat) (w : CfgWrite) unit space off, y.words[i]? = some w → cfgTarget w.addr = some (unit, space, off) →
            isStore space = true → storeKey unit space off / 8 = key / 8 →
            ∃ u : CfgWrite, z.words[i]? = some u ∧ u.addr = w.addr ∧ u.rejected = true) ∧
    (Tidy s → ∃ t, exec (.sramError (.unit key) false) s = .next t ∧
      let lo := key / 32 * 32
      (∀ k, k / 32 ≠ key / 32 → memByte t.mem k = memByte s.mem k) ∧
      (checkValue (memBytes t.mem lo 32) ≠ checkValue (memBytes s.mem lo 32) →
        t.cm = (if s.cm = BitVec.allOnes 16 then s.cm else s.cm + 1) ∧
        ∀ j < 4, setHas (lo / 8 + j) t.poison = true)) ∧
    (row < 32 → ∃ t, exec (.sramError (.row core 0 row) false) s = .next t ∧
      bitAt ((t.core core).zErr0.setWidth 64) row = true ∧ t.mem = s.mem ∧
      ∀ i j, i < 32 → j < 64 → i ≠ row → (t.core core).zAt false i j = (s.core core).zAt false i j)

/-- R444, R446, R448, R468: a flit whose two check values hold is accepted in order; any other asks once
for a retry; retries resend and retrain; an error of a CXL port stops the loads whose requests it leaves
without a completion. -/
def Obligations.PortsAct : Prop :=
  ∀ (s : State) (port : Nat) (f : LinkFlit) (seq : BitVec 12) (up : Bool) (e : Nat × Nat × Nat),
    let o := s.port port
    (o.up = true → o.training = false →
      (LinkFlit.good f = false ∨ f.seq ≠ o.expect →
        ∃ t, exec (.linkFlitReceive port f) s = .next t ∧ t.packets = s.packets ∧
          (t.port port).seeking = true ∧ (t.port port).expect = o.expect ∧
          (o.underWay f = true → t.hostOut = s.hostOut) ∧
          (o.underWay f = false → t.hostOut = s.hostOut ++ [.retryRequest port o.expect])) ∧
      (LinkFlit.good f = true → f.seq = o.expect → ∃ t, exec (.linkFlitReceive port f) s = .next t ∧
        (t.port port).expect = o.expect + 1 ∧ (t.port port).seeking = false ∧ t.mem = s.mem ∧
        (∀ hd rest, mapGet [] f.vc.toNat o.inbox ++ [f] = hd :: rest →
          rest.length = dataFlitCount (BitVec.ofNat 64 (byteField hd.data 0 8)) →
          Scheduled s t (.routerForward s.nextId) ∧ ∃ p, mapFind s.nextId t.packets = some p ∧
            p.atPort = some port ∧ p.rc = BitVec.ofNat 8 (bits (BitVec.ofNat 64 (byteField hd.data 0 8)) 48 8))) ∧
      (o.asked ≠ some seq ∨ o.fails < 15 → ∃ t, exec (.linkRetry port seq) s = .next t ∧
        (t.port port).asked = some seq ∧ (t.port port).up = true ∧
        t.hostOut = s.hostOut ++ (resendFrom seq o.retry).map (HostOut.flit port)) ∧
      (o.asked = some seq → 15 ≤ o.fails → ∃ t, exec (.linkRetry port seq) s = .next t ∧
        (t.port port).training = true ∧ (t.port port).since = s.cycle ∧ t.hostOut = s.hostOut)) ∧
    (o.training = true → ∃ t, exec (.linkRetrainDone port up) s = .next t ∧
      (t.port port).up = up ∧ (t.port port).training = false) ∧
    (let stops := fun (t : State) =>
        ((s.loadAt e.1).state = .running → (t.loadAt e.1).state = .stopping ∧
          (t.loadAt e.1).code = some (BitVec.ofNat 8 codeRange) ∧ Scheduled s t .loadStopped) ∧
        ∀ x ∈ s.portStreams port, x.1 = e.1 →
          (t.stream x.2.1 x.2.2).busy = false ∧ (t.stream x.2.1 x.2.2).cut = true;
      ((s.overdue port).head? = some e → ∃ t, exec (.cxlTimeout port) s = .next t ∧ stops t) ∧
      ((s.portStreams port).head? = some e → (∀ x ∈ s.portStreams port, x.1 = e.1) →
        ∃ t, exec (.cxlLinkDown port) s = .next t ∧ stops t ∧ setHas port t.cxlDown = true)) ∧
    (s.portStreams port = [] → exec (.cxlTimeout port) s = .next s ∧
      exec (.cxlLinkDown port) s = .next { s with cxlDown := setAdd port s.cxlDown })

/-- R450 to R453, R465, R467: each event completes. An arc that reaches its tolerance is noted once and enters
its late-arc event in the record, and at ALIM pre-empts its running load; a round of a collective whose
contributions have committed is written and counts, or stops its running load where its result has no place
(R486), and what has no whole round changes no memory; a late rank enters its events, and at ALIM pre-empts its
running load, which then stops for the first round of it that is late (a load that stops or parks already keeps
its state: DEDUCED, log 58). -/
def Obligations.ArcsAndRoundsAct : Prop :=
  ∀ (s : State) (h c w d n key : Nat),
    (let x := BitVec.ofNat 8 (bits (s.actorWord c (s.winActor c w) 0) 55 2)
      let core := (s.visibleCore c).setWidth 16
      let first := BitVec.ofNat 32 (s.cmt c w)
      let l := s.loadAt h
      ∃ t, exec .arcTolerance s = .next t ∧ t.mem = s.mem ∧
        (h ∈ s.timedLoads → (c, w) ∈ s.arcsTolerated h →
          mapFind (toleratedMark + timerKey c w) (t.loadAt h).timers = some 1 ∧
          (16 ≤ (t.loadAt h).det.length ∨ ∃ e ∈ (t.loadAt h).det,
            e.code = 4 ∧ e.ctx = x ∧ e.core = core ∧ e.pc = 0)) ∧
        (s.timedLoads = [h] → s.arcsTolerated h = [(c, w)] →
          let l' := t.loadAt h
          (∀ d, detAdd 4 x core 0 first l.det = some d → l'.det = d ∧ l'.overflow = l.overflow) ∧
          (detAdd 4 x core 0 first l.det = none → l.det.length < 16 →
            l'.det = l.det ++ [⟨4, x, core, 0, 1, first⟩] ∧ l'.overflow = l.overflow) ∧
          (detAdd 4 x core 0 first l.det = none → 16 ≤ l.det.length →
            l'.det = l.det ∧ l'.overflow = l.overflow + 1))) ∧
    (∃ t, exec .alimExpiry s = .next t ∧ t.mem = s.mem ∧
      (h ∈ s.runningLoads → s.arcExpired h = some (c, w) →
        (t.loadAt h).state = .preempting ∧ (t.loadAt h).late = some [13, 0, c, w] ∧
          Scheduled s t .arcLate)) ∧
    ((engines.find? fun e => s.roundReady e.1 e.2) = some (w, d) →
      s.resultSlot w d (s.round w d).next = some key → Tidy s →
      ∃ t, exec .collectiveRound s = .next t ∧ (t.round w d).next = ((s.round w d).next + 1) % 2 ^ 32 ∧
        Scheduled s t .collectiveRound ∧
        (bits (s.engineWord w d 0) 48 2 = 2 → bits (s.engineWord w d 0) 50 2 = 0 →
          ∀ i, 4 * i < s.engineSize w d → bytesToNat (memBytes t.mem (key + 4 * i) 4) =
            ((steps 0 1 (s.ranks w d)).map fun r => byteField
              (mapGet [] (64 * (s.round w d).next + r) (s.round w d).contrib) (4 * i) 4).sum % 2 ^ 32)) ∧
    ((engines.find? fun e => s.roundReady e.1 e.2) = none →
      (engines.find? fun e => s.roundAstray e.1 e.2) = some (w, d) →
      ∃ t, exec .collectiveRound s = .next t ∧ t.rounds = s.rounds ∧ Scheduled s t .collectiveRound ∧
        ((s.loadAt (s.engineLoad w d)).state = .running →
          (t.loadAt (s.engineLoad w d)).state = .stopping ∧
          (t.loadAt (s.engineLoad w d)).code = some (BitVec.ofNat 8 codeRange))) ∧
    ((engines.find? fun e => s.roundReady e.1 e.2) = none →
      (engines.find? fun e => s.roundAstray e.1 e.2) = none →
      ∃ t, exec .collectiveRound s = .next t ∧ t.mem = s.mem ∧ t.rounds = s.rounds ∧ t.loads = s.loads) ∧
    (exec .collectiveTolerance s = .next (s.ranksTolerated.foldl (fun s e =>
      s.detEvent (s.engineLoad e.1 e.2.1) 4 0 (BitVec.ofNat 16 (16 * 66)) (BitVec.ofNat 16 e.2.1)
        (BitVec.ofNat 32 e.2.2)) s)) ∧
    ∃ t, exec .collectiveLimit s = .next t ∧ t.mem = s.mem ∧
      ((w, d, n) ∈ s.roundsExpired → (s.loadAt (s.engineLoad w d)).state = .running →
        (t.loadAt (s.engineLoad w d)).state = .preempting ∧ Scheduled s t .arcLate ∧
        ((s.roundsExpired.find? fun e => s.engineLoad e.1 e.2.1 == s.engineLoad w d) = some (w, d, n) →
          (t.loadAt (s.engineLoad w d)).late = some [13, 1, w, d, n, (s.missing w d n).headD 0]))

/-! ### Decoding and the step -/

/-- R15, R77 to R93: words written out from the encodings of the rules decode to the instructions that
they stand for. -/
def Obligations.WordsDecodeAsEncoded : Prop :=
  let word := fun (w w2 : Nat) (i : Instr) =>
    let ws := [BitVec.ofNat 32 w, BitVec.ofNat 32 w2]
    (∃ rest, decode (bytesOfWords ws) = .ok (i, rest) : Prop);
  word 0x700531C0 0x00000000 (.add ⟨3, true⟩ 5 6 7) ∧
  word 0x00431045 0x00000000 (.cmp ⟨0, false⟩ .geu 3 2 1) ∧
  word 0xE40BFFFC 0x00000000 (.brn ⟨7, false⟩ 2 (-4)) ∧
  word 0x067E4680 0x00000000 (.vadd ⟨0, false⟩ .i32 15 2 3 1) ∧
  word 0x07224683 0x00000000 (.vcvt ⟨0, false⟩ 1 2 .rd 1 false .f32 .i32) ∧
  word 0x0A1214BF 0x00000000 (.mma ⟨0, false⟩ true 4 5 .e4m3 63) ∧
  word 0x0B0117FF 0x00000000 (.ld ⟨0, false⟩ .d 1 2 (-1)) ∧
  word 0x0BC01A33 0x00000000 (.acas ⟨0, false⟩ .ar .h true 3 8) ∧
  word 0x0C6110C8 0x00000000 (.ldf ⟨0, false⟩ 1 2 200) ∧
  word 0x0CC03A01 0x00000000 (.qput ⟨0, false⟩ 7 8) ∧
  word 0x0D800029 0x00000000 (.trapS ⟨0, false⟩ 9) ∧
  word 0x1E6052C0 0x00000000 (.eret ⟨0, true⟩ 10 11) ∧
  word 0x0F070001 0x12345678 (.lih ⟨0, false⟩ 7 0x12345678) ∧
  word 0x4F200000 0x000005A3 (.land ⟨2, false⟩ 0xA3 5)

/-- R77 to R93: decoding the words of a well-formed instruction gives the instruction back, with every
operand at every value that its encoding admits. -/
def Obligations.DecodeInvertsEncode : Prop :=
  ∀ (i : Instr) (rest : List Byte), i.encoded = true → i.wf = true →
    decode (bytesOfWords (encode i) ++ rest) = .ok (i, rest)

/-- R77 to R97: whatever decodes is a well-formed instruction of the opcode map, and its words are those
of that instruction: no other word means it, and no reserved field is passed over. -/
def Obligations.DecodeIsExact : Prop :=
  ∀ (bytes rest : List Byte) (i : Instr), decode bytes = .ok (i, rest) →
    i.encoded = true ∧ i.wf = true ∧ bytes = bytesOfWords (encode i) ++ rest

/-- R60 to R62, R94 to R97: a step runs the instruction at the PC of the context that issues, or what is
due before it: register writes, then events, then the next slot of the cycle, then the next cycle. The
order within a cycle (log 1), and the inputs that stand in `outside` (log 97), are the model's choices. -/
def Obligations.StepRunsWhatIsNext : Prop :=
  ∀ (s : State) (c x d : Nat) (i : Instr) (events : List (Nat × Instr)) (rest : List Slot)
    (more : List Byte),
    (s.dueWriteback = some (c, x) → step s = exec (.resultWriteback c x) s) ∧
    (s.dueWriteback = none → s.agenda = (d, i) :: events → d ≤ s.cycle → i.encoded = false →
      i.wf = true → s.dev = .running ∨ isHostSide i = true →
      step s = exec i { s with agenda := events }) ∧
    (s.dueWriteback = none → (∀ e ∈ s.agenda.head?, s.cycle < e.1) →
      (s.todo = .issue c :: rest →
        let u := (steps 0 1 4).foldl (fun s y => s.fixYield c y) { s with todo := rest }
        let f := u.focus c x
        u.selected c = some x → f.cur.wild = false → f.inExtent f.cur.pc.toNat = true →
        f.word ≠ 0xFFFFFFFF#32 →
        (wordLong f.word = true → f.inExtent (f.cur.pc.toNat + 1) = true) →
        decode (memBytes u.mem (codeKey c (4 * f.cur.pc.toNat)) 8) = .ok (i, more) →
        step s = exec i f) ∧
      (s.todo = [] → ∃ t, step s = .next t ∧ t.cycle = s.cycle + 1 ∧
        t.outside = s.outside.filter (fun e => decide (s.cycle + 1 < e.1)) ∧
        ((∀ e ∈ s.outside, s.cycle + 1 < e.1) → t.mem = s.mem) ∧
        ∀ a data po, s.outside = [(d, .cxlWrite a data po)] → d ≤ s.cycle + 1 → s.power = true →
          (cxlPortOf a).isSome = true → t.mem = memSetBytes s.mem (physKey a) data))

/-- The machine right after reset: the values that R9, R94, R127, R162, R201, R304, R383, R437, R438,
R448, R459 and R472 give. The model's choices are the moment (log 4), what no store lists (log 3), and that
LMAX, LDIST (log 5) and the banks (log 106) hold at once what a commit gives them. -/
def Obligations.ResetLeavesTheSpecValues : Prop :=
  let r := State.reset
  Tidy r ∧ r.dev = .running ∧ r.cycle = 0 ∧ r.ien = 0 ∧ r.ipend = 0 ∧ r.cm = 0 ∧ r.ce = 0 ∧
  r.plim = 2400 ∧ r.mcmd = 0 ∧ r.full = [] ∧
  (∀ c n, c < 16384 → n < 8192 → r.load32 (codeKey c (4 * n)) = 0xFFFFFFFF#32) ∧
  (∀ h n, h < 512 → n < 2 ^ 20 → memByte r.mem (hallKey h n) = 0) ∧
  (∀ w n, w < 4 → n < 2 ^ 26 → memByte r.mem (galleryKey w n) = 0) ∧
  (∀ w, w < 4 → r.sysCfg w 384 = 0x2040 ∧ r.sysCfg w 2305 = 0x10000000CD14 ∧
    r.sysCfg w 2322 = 20 ∧ r.sysCfg w 3840 = 1048576 ∧ r.sysCfg w 2304 = 0 ∧ r.sysCfg w 2320 = 0) ∧
  (∀ h, (r.loadAt h).state = .free) ∧
  ∀ c x, (r.core c).armed = false ∧ (r.ctx c x).run = .idle ∧ (r.ctx c x).lmax = 8192 ∧
    (r.ctx c x).ldist = 0 ∧ (r.ctx c x).rq = [] ∧ (r.ctx c x).loops = [] ∧
    ∀ b i j, (r.core c).zAt b i j = 0

/-- Every step keeps the canonical form of memory and of the configuration words. -/
def Obligations.StepsKeepTheCanonicalForm : Prop :=
  ∀ (s t : State), Tidy s → step s = .next t → Tidy t

/-- A step refuses nothing, and answers a next state wherever no event has been put into the agenda that
is none (an ill-formed event, or an instruction in place of one). -/
def Obligations.StepsAnswerANextState : Prop :=
  ∀ (s : State), (∀ r, step s ≠ .refused r) ∧ (AgendaOk s → ∃ t, step s = .next t)

/-! ### What instructions leave alone, and when they do not complete -/

/-- The frame of the instructions that only write registers: with a next state in which the context has
neither faulted nor ended, nothing differs but the registers of `writtenKeys` and what an issue itself
moves (R60, R62 to R64, R73, R74, R76). -/
def Obligations.RegisterFormsKeepTheRest : Prop :=
  ∀ (s t : State) (i : Instr) (keys : List Nat), writtenKeys i = some keys → exec i s = .next t →
    t.cur.run = s.cur.run → t.cur.halted = s.cur.halted → RegistersOnly keys s t

/-- The frame of the tile-store stores (R151, R182): every byte of memory outside the stored bytes, every
register and every other core stay as they were. -/
def Obligations.StoresKeepTheRest : Prop :=
  ∀ (s t : State) (q : Issue) (wd : Width) (d a : XReg) (o : BitVec 9) (vd vb : VReg) (x y : SReg)
    (k : KReg) (i : Instr) (stored : Nat → Prop),
    let lane := fun (addr : Nat → Word64) (key : Nat) => ∃ l ∈ s.activeLanes k,
      tileKey s.curCore (addr l).toNat ≤ key ∧ key < tileKey s.curCore (addr l).toNat + 4
    let scalar := fun (key : Nat) => tileKey s.curCore (s.ldAddr wd a o).toNat ≤ key ∧
      key < tileKey s.curCore (s.ldAddr wd a o).toNat + Width.size wd
    (i = .st q wd d a o ∧ stored = scalar ∨
      i = .vst q vd x y k ∧ stored = lane (s.rowAddr x y) ∨
      i = .vsts q vd x y k ∧ stored = lane (s.strideAddr x y) ∨
      i = .vscat q vd x vb k ∧ stored = lane (s.gatherAddr x vb)) →
    exec i s = .next t → t.cur.run = s.cur.run → t.cur.halted = s.cur.halted →
    (∀ key, ¬ stored key → memByte t.mem key = memByte s.mem key) ∧
    t.cur = s.cur.movedTo t.cur ∧ CoreKept s t ∧ (∀ c, c ≠ s.curCore → t.core c = s.core c) ∧
    t.cfg = s.cfg ∧ t.loads = s.loads ∧ t.agenda = s.agenda

/-- R57, R66: the register writes of an instruction take effect at the start of cycle t + L, after every write
issued before it that is due by then (R67), with their marks, and not before; they change no other
register. x0, k0 and p0 read as their constants in every state, and an instruction that names one of them
as its destination issues, and faults, as it otherwise would. -/
def Obligations.WritesTakeEffectAtTheirLatency : Prop :=
  ∀ (s : State) (q : Issue) (d a b : XReg) (k : KReg) (wd : Width) (o : BitVec 9) (u : Ctx)
    (len lat now c x key : Nat) (v : Word64) (ws : List (Nat × PVal)),
    let t := s.wrote q len lat ws
    ((∀ e ∈ ws, e.1 < 1000) → ws.Pairwise (fun e f => e.1 ≠ f.1) →
      (now < s.cycle + lat → (t.cur.writeback now).reg key = (s.cur.writeback now).reg key) ∧
      (∀ e ∈ ws, keyConst e.1 = none → (t.cur.writeback (s.cycle + lat)).reg e.1 = e.2) ∧
      ((∀ e ∈ ws, e.1 ≠ key) → (t.cur.writeback now).reg key = (s.cur.writeback now).reg key)) ∧
    (s.dueWriteback = some (c, x) →
      step s = .next (s.setCtx c x ((s.ctx c x).writeback s.cycle))) ∧
    (keyConst key = some v → u.reg key = ⟨v, false⟩) ∧
    keyConst (xKey 0) = some 0 ∧ keyConst (kKey 0) = some 0xFFFFFFFF ∧ keyConst (pKey 0) = some 1 ∧
    s.x 0 = ⟨0, false⟩ ∧ s.k 0 = ⟨0xFFFFFFFF, false⟩ ∧ s.p 0 = ⟨1, false⟩ ∧
    (s.issues →
      exec (.add q 0 a b) s =
        .next (s.wrote q 1 1 [(xKey 0, ⟨(s.x a).v + (s.x b).v, (s.x a).po || (s.x b).po⟩)]) ∧
      exec (.mul q 0 a b) s =
        .next (s.wrote q 1 3 [(xKey 0, ⟨(s.x a).v * (s.x b).v, (s.x a).po || (s.x b).po⟩)]) ∧
      exec (.pset q 0 false) s = .next (s.wrote q 1 1 [(pKey 0, ⟨0, false⟩)]) ∧
      exec (.vknot q 0 k) s =
        .next (s.wrote q 1 2 [(kKey 0, ⟨~~~(s.k k).v &&& 0xFFFFFFFF, (s.k k).po⟩)]) ∧
      (s.memHeld = false → (s.x a).po = true →
        ((s.ldAddr wd a o).toNat + Width.size wd ≤ 2 ^ 17 →
          s.curK.rangeHeld (s.ldAddr wd a o).toNat (Width.size wd) false = false) →
        exec (.ld q wd 0 a o) s = .next (s.takeFault (poisonX a))))

/-- R61, R97, R228, R393, R394, R455, R461: nine memory-class forms that an acquire or a fence holds change
nothing; a system form outside a system hall raises PRIV, with the detail 0 of log 64; over the landing
distance the forms of `writtenKeys`, which only write registers, do not complete, and ADD raises
LANDING_OVERRUN; a fault stops its context (one of a system hall is idle at once, log 16) and the running
load of its core, and an open fault log takes a record that names its code, load, PC, FIX, detail and cycle.
-/
def Obligations.FaultsAndHoldsStopInstructions : Prop :=
  ∀ (s t : State) (q : Issue) (d a b : XReg) (wd : Width) (o : BitVec 9) (x y : SReg) (vd : VReg)
    (k : KReg) (w : BitVec 4) (n : BitVec 5) (i : Instr) (keys : List Nat) (f : FaultInfo),
    s.running = true →
    (s.memHeld = true →
      (i = .ld q wd d a o ∨ i = .st q wd d a o ∨ i = .vld q vd x y k ∨ i = .vst q vd x y k ∨
        i = .wget q d w b ∨ i = .wavail q d w ∨ i = .wspace q d w ∨ i = .sstat q n ∨ i = .qstat q n) →
      exec i s = .next s) ∧
    (s.memHeld = false → s.curK.score = [] → isSystemCore s.curCore = false →
      (i = .cfgw q a b ∨ i = .cfgr q a b ∨ i = .cfgcrc q a b ∨ i = .cfgcommit q a b ∨
        i = .cfgabort q b ∨ i = .rtw q a b ∨ i = .sech q a b ∨ i = .secv q a b ∨ i = .eret q a b ∨
        i = .preq q a b ∨ i = .frz q a b ∨ i = .dmap q a b) →
      exec i s = .next (s.takeFault privFault)) ∧
    (s.overrun = true → writtenKeys i = some keys → exec i s = .next t →
      t = s ∨ ∃ f, t = s.takeFault f) ∧
    (let detail : Word64 := BitVec.ofNat 64 (s.cur.ldist.toNat + 2 ^ 16 * s.cur.lmax.toNat +
        (if s.inStub then 2 ^ 32 else 0));
      s.overrun = true →
        exec (.add q d a b) s = .next (s.takeFault { code := codeOverrun, detail := detail })) ∧
    (isSystemCore s.curCore = false → (s.takeFault f).cur.halted = true ∧
      (s.takeFault f).cur.pc = s.cur.pc ∧ (∀ key, (s.takeFault f).cur.reg key = s.cur.reg key) ∧
      (∀ c, c ≠ s.curCore → (∀ h, s.curK.load = some h → (s.loadAt h).preqs = []) →
        (s.takeFault f).core c = s.core c) ∧
      ∀ h, s.curK.load = some h → (s.loadAt h).state = .running →
        ((s.takeFault f).loadAt h).state = .stopping ∧
        ((s.takeFault f).loadAt h).code = some (BitVec.ofNat 8 f.code)) ∧
    (isSystemCore s.curCore = true → (s.takeFault f).cur.run = .idle) ∧
    (Tidy s → (∀ e ∈ s.results, tileKey e.2.core e.2.area + 8 ≤ galleryKey 0 0) →
      s.logOpen (wingOfCore s.curCore) = true →
      let wing := wingOfCore s.curCore
      let key := galleryKey wing ((bits (s.sysCfg wing 2320) 0 26 + 64 * (s.logIndex wing % 64)) % 2 ^ 26)
      memBytes (s.takeFault f).mem key 1 = natToBytes 1 f.code ∧
      (f.named = none → memBytes (s.takeFault f).mem (key + 3) 1 = natToBytes 1
        (if isSystemCore s.curCore then 0xFF else s.curK.load.getD 0xFF)) ∧
      memBytes (s.takeFault f).mem (key + 8) 2 = natToBytes 2 s.cur.pc.toNat ∧
      memBytes (s.takeFault f).mem (key + 16) 8 = natToBytes 8 s.cur.fix.toNat ∧
      memBytes (s.takeFault f).mem (key + 32) 8 = natToBytes 8 f.detail.toNat ∧
      memBytes (s.takeFault f).mem (key + 40) 8 = natToBytes 8 s.cycle)
end

