-- ==== Sys2Proof/Laws/Maps.lean ====
section
/-!
SUPPORT. Finite maps and sets: what is read after a write, what a write leaves, and that writing keeps
the keys strictly rising.
-/

namespace Sys2Proof.Machine

variable {α : Type}

@[simp] theorem mapFind_nil (k : Nat) : mapFind k ([] : List (Nat × α)) = none := rfl

theorem mapFind_cons (k j : Nat) (v : α) (m : List (Nat × α)) :
    mapFind k ((j, v) :: m) = if j = k then some v else mapFind k m := rfl

@[simp] theorem mapFind_put (k : Nat) (v : α) (m : List (Nat × α)) :
    mapFind k (mapPut k v m) = some v := by
  induction m with
  | nil => simp [mapPut, mapFind_cons]
  | cons e m ih =>
    obtain ⟨j, w⟩ := e
    by_cases h : k < j
    · simp [mapPut, h, mapFind_cons]
    · by_cases h' : k = j
      · simp [mapPut, h', mapFind_cons]
      · simp [mapPut, h, h', mapFind_cons, ih, Ne.symm h']

theorem mapFind_put_ne {k j : Nat} (h : j ≠ k) (v : α) (m : List (Nat × α)) :
    mapFind j (mapPut k v m) = mapFind j m := by
  induction m with
  | nil => simp [mapPut, mapFind_cons, Ne.symm h]
  | cons e m ih =>
    obtain ⟨i, w⟩ := e
    by_cases h1 : k < i
    · simp [mapPut, h1, mapFind_cons, Ne.symm h]
    · by_cases h2 : k = i
      · subst h2; simp [mapPut, mapFind_cons, Ne.symm h]
      · simp [mapPut, h1, h2, mapFind_cons, ih]

@[simp] theorem mapGet_put (d : α) (k : Nat) (v : α) (m : List (Nat × α)) :
    mapGet d k (mapPut k v m) = v := by simp [mapGet]

theorem mapGet_put_ne (d : α) {k j : Nat} (h : j ≠ k) (v : α) (m : List (Nat × α)) :
    mapGet d j (mapPut k v m) = mapGet d j m := by simp [mapGet, mapFind_put_ne h]

@[simp] theorem mapGet_nil (d : α) (k : Nat) : mapGet d k [] = d := rfl

/-- A write with a default is a deletion or a write. -/
theorem mapPutD_eq [DecidableEq α] (d : α) (k : Nat) (v : α) (m : List (Nat × α)) :
    mapPutD d k v m = if v = d then mapDel k m else mapPut k v m := by
  induction m with
  | nil => by_cases h : v = d <;> simp [mapPutD, mapDel, mapPut, h]
  | cons e m ih =>
    obtain ⟨j, w⟩ := e
    by_cases h : v = d <;> by_cases h1 : k < j
    · simp [mapPutD, mapDel, h, h1, Nat.ne_of_lt h1]
    · by_cases h2 : k = j <;> simp_all [mapPutD, mapDel]
    · simp [mapPutD, mapPut, h, h1]
    · by_cases h2 : k = j <;> simp_all [mapPutD, mapPut]

/-- Keys rise strictly from some bound. -/
def risesFrom (b : Nat) : List (Nat × α) → Prop
  | [] => True
  | (j, _) :: m => b ≤ j ∧ risesFrom (j + 1) m

theorem risesFrom.weaken {b c : Nat} (h : c ≤ b) {m : List (Nat × α)} (r : risesFrom b m) :
    risesFrom c m := by
  cases m with
  | nil => trivial
  | cons e m => exact ⟨Nat.le_trans h r.1, r.2⟩

theorem mapSorted_cons (j : Nat) (w : α) (m : List (Nat × α)) :
    mapSorted ((j, w) :: m) = true ↔ risesFrom (j + 1) m := by
  induction m generalizing j w with
  | nil => simp [mapSorted, risesFrom]
  | cons e m ih =>
    obtain ⟨i, x⟩ := e
    simp [mapSorted, risesFrom, ih, Nat.succ_le_iff]

theorem mapSorted_iff (m : List (Nat × α)) : mapSorted m = true ↔ risesFrom 0 m := by
  cases m with
  | nil => simp [mapSorted, risesFrom]
  | cons e m =>
    obtain ⟨j, w⟩ := e
    simp [mapSorted_cons, risesFrom]

theorem mapFind_below {b k : Nat} {m : List (Nat × α)} (r : risesFrom b m) (h : k < b) :
    mapFind k m = none := by
  induction m generalizing b with
  | nil => rfl
  | cons e m ih =>
    obtain ⟨j, w⟩ := e
    have hj : j ≠ k := Nat.ne_of_gt (Nat.lt_of_lt_of_le h r.1)
    simp [mapFind_cons, hj, ih r.2 (Nat.lt_succ_of_lt (Nat.lt_of_lt_of_le h r.1))]

theorem risesFrom_put {b k : Nat} (v : α) {m : List (Nat × α)} (r : risesFrom b m) (h : b ≤ k) :
    risesFrom b (mapPut k v m) := by
  induction m generalizing b with
  | nil => exact ⟨h, trivial⟩
  | cons e m ih =>
    obtain ⟨j, w⟩ := e
    simp only [mapPut]
    split
    · next hk => exact ⟨h, Nat.succ_le_of_lt hk, r.2⟩
    · split
      · next hk => subst hk; exact r
      · next h1 h2 => exact ⟨r.1, ih r.2 (by omega)⟩

theorem risesFrom_del {b : Nat} (k : Nat) {m : List (Nat × α)} (r : risesFrom b m) :
    risesFrom b (mapDel k m) := by
  induction m generalizing b with
  | nil => trivial
  | cons e m ih =>
    obtain ⟨j, w⟩ := e
    simp only [mapDel]
    split
    · exact r.2.weaken (by have := r.1; omega)
    · split
      · exact r
      · exact ⟨r.1, ih r.2⟩

/-- A write keeps the keys rising. -/
theorem mapSorted_put (k : Nat) (v : α) {m : List (Nat × α)} (h : mapSorted m = true) :
    mapSorted (mapPut k v m) = true :=
  (mapSorted_iff _).2 (risesFrom_put v ((mapSorted_iff _).1 h) (Nat.zero_le k))

/-- A deletion keeps the keys rising. -/
theorem mapSorted_del (k : Nat) {m : List (Nat × α)} (h : mapSorted m = true) :
    mapSorted (mapDel k m) = true :=
  (mapSorted_iff _).2 (risesFrom_del k ((mapSorted_iff _).1 h))

/-- A write with a default keeps the keys rising. -/
theorem mapSorted_putD [DecidableEq α] (d : α) (k : Nat) (v : α) {m : List (Nat × α)}
    (h : mapSorted m = true) : mapSorted (mapPutD d k v m) = true := by
  rw [mapPutD_eq]; split
  · exact mapSorted_del k h
  · exact mapSorted_put k v h

theorem mapFind_del_ne {k j : Nat} (h : j ≠ k) (m : List (Nat × α)) :
    mapFind j (mapDel k m) = mapFind j m := by
  induction m with
  | nil => rfl
  | cons e m ih =>
    obtain ⟨i, w⟩ := e
    simp only [mapDel]
    split
    · next hk => subst hk; simp [mapFind_cons, Ne.symm h]
    · split
      · rfl
      · simp [mapFind_cons, ih]

theorem mapFind_del_rises {b k : Nat} {m : List (Nat × α)} (r : risesFrom b m) :
    mapFind k (mapDel k m) = none := by
  induction m generalizing b with
  | nil => rfl
  | cons e m ih =>
    obtain ⟨i, w⟩ := e
    simp only [mapDel]
    split
    · next hk => subst hk; exact mapFind_below r.2 (Nat.lt_succ_self _)
    · split
      · next hk h2 => exact mapFind_below (b := i) ⟨Nat.le_refl i, r.2⟩ h2
      · next hk h2 => simp [mapFind_cons, Ne.symm hk, ih r.2]

/-- What a write with a default leaves to read at its own key. -/
theorem mapGet_putD [DecidableEq α] (d : α) (k : Nat) (v : α) {m : List (Nat × α)}
    (h : mapSorted m = true) : mapGet d k (mapPutD d k v m) = v := by
  rw [mapPutD_eq]; split
  · next hv => simp [mapGet, mapFind_del_rises ((mapSorted_iff m).1 h), hv]
  · exact mapGet_put d k v m

/-- Every other key reads as before a write with a default. -/
theorem mapGet_putD_ne [DecidableEq α] (d e : α) {k j : Nat} (h : j ≠ k) (v : α)
    (m : List (Nat × α)) : mapGet e j (mapPutD d k v m) = mapGet e j m := by
  rw [mapPutD_eq]; split
  · simp [mapGet, mapFind_del_ne h]
  · exact mapGet_put_ne e h v m

theorem mem_mapPut {k : Nat} {v : α} {m : List (Nat × α)} {e : Nat × α}
    (h : e ∈ mapPut k v m) : e = (k, v) ∨ e ∈ m := by
  induction m with
  | nil => simpa [mapPut] using h
  | cons a m ih =>
    obtain ⟨i, w⟩ := a
    simp only [mapPut] at h
    split at h
    · simpa using h
    · split at h
      · simp only [List.mem_cons] at h ⊢; tauto
      · simp only [List.mem_cons] at h ⊢
        rcases h with h | h
        · exact .inr (.inl h)
        · have := ih h; tauto

theorem mem_mapDel {k : Nat} {m : List (Nat × α)} {e : Nat × α}
    (h : e ∈ mapDel k m) : e ∈ m := by
  induction m with
  | nil => simpa [mapDel] using h
  | cons a m ih =>
    obtain ⟨i, w⟩ := a
    simp only [mapDel] at h
    split at h
    · exact .tail _ h
    · split at h
      · exact h
      · rcases List.mem_cons.1 h with h | h
        · exact h ▸ .head _
        · exact .tail _ (ih h)

/-- Whether a set holds a key after one was added. -/
theorem setHas_add (k j : Nat) (s : List Nat) :
    setHas j (setAdd k s) = true ↔ j = k ∨ setHas j s = true := by
  simp only [setHas, List.contains_iff_mem]
  induction s with
  | nil => simp [setAdd]
  | cons i s ih =>
    simp only [setAdd]
    split
    · simp
    · split
      · next hk => subst hk; simp
      · simp only [List.mem_cons, ih]; tauto

/-- Whether a set holds a key after one was taken out. -/
theorem setHas_del (k j : Nat) (s : List Nat) :
    setHas j (setDel k s) = true ↔ j ≠ k ∧ setHas j s = true := by
  simp only [setHas, setDel, List.contains_iff_mem, List.mem_filter, bne_iff_ne]
  exact and_comm

end Sys2Proof.Machine
end

