-- ==== Sys2Proof/Laws/State.lean ====
section
/-!
SUPPORT. What each update of State leaves of each field: one lemma per field per update, so that no
proof unfolds a record update.
-/

namespace Sys2Proof.Machine

/-! ### setCore -/

@[simp] theorem State.setCore_cycle (s : State) (c : Nat) (k : Core) :
    (s.setCore c k).cycle = s.cycle := rfl
@[simp] theorem State.setCore_power (s : State) (c : Nat) (k : Core) :
    (s.setCore c k).power = s.power := rfl
@[simp] theorem State.setCore_dev (s : State) (c : Nat) (k : Core) :
    (s.setCore c k).dev = s.dev := rfl
@[simp] theorem State.setCore_failBlk (s : State) (c : Nat) (k : Core) :
    (s.setCore c k).failBlk = s.failBlk := rfl
@[simp] theorem State.setCore_agenda (s : State) (c : Nat) (k : Core) :
    (s.setCore c k).agenda = s.agenda := rfl
@[simp] theorem State.setCore_todo (s : State) (c : Nat) (k : Core) :
    (s.setCore c k).todo = s.todo := rfl
@[simp] theorem State.setCore_curCore (s : State) (c : Nat) (k : Core) :
    (s.setCore c k).curCore = s.curCore := rfl
@[simp] theorem State.setCore_curCtx (s : State) (c : Nat) (k : Core) :
    (s.setCore c k).curCtx = s.curCtx := rfl
@[simp] theorem State.setCore_fresh (s : State) (c : Nat) (k : Core) :
    (s.setCore c k).fresh = s.fresh := rfl
@[simp] theorem State.setCore_nextId (s : State) (c : Nat) (k : Core) :
    (s.setCore c k).nextId = s.nextId := rfl
@[simp] theorem State.setCore_mem (s : State) (c : Nat) (k : Core) :
    (s.setCore c k).mem = s.mem := rfl
@[simp] theorem State.setCore_poison (s : State) (c : Nat) (k : Core) :
    (s.setCore c k).poison = s.poison := rfl
@[simp] theorem State.setCore_full (s : State) (c : Nat) (k : Core) :
    (s.setCore c k).full = s.full := rfl
@[simp] theorem State.setCore_dirty (s : State) (c : Nat) (k : Core) :
    (s.setCore c k).dirty = s.dirty := rfl
@[simp] theorem State.setCore_saved (s : State) (c : Nat) (k : Core) :
    (s.setCore c k).saved = s.saved := rfl
@[simp] theorem State.setCore_atoms (s : State) (c : Nat) (k : Core) :
    (s.setCore c k).atoms = s.atoms := rfl
@[simp] theorem State.setCore_cfg (s : State) (c : Nat) (k : Core) :
    (s.setCore c k).cfg = s.cfg := rfl
@[simp] theorem State.setCore_routes (s : State) (c : Nat) (k : Core) :
    (s.setCore c k).routes = s.routes := rfl
@[simp] theorem State.setCore_cores (s : State) (c : Nat) (k : Core) :
    (s.setCore c k).cores = mapPut c k s.cores := rfl
@[simp] theorem State.setCore_loads (s : State) (c : Nat) (k : Core) :
    (s.setCore c k).loads = s.loads := rfl
@[simp] theorem State.setCore_packets (s : State) (c : Nat) (k : Core) :
    (s.setCore c k).packets = s.packets := rfl
@[simp] theorem State.setCore_accs (s : State) (c : Nat) (k : Core) :
    (s.setCore c k).accs = s.accs := rfl
@[simp] theorem State.setCore_copies (s : State) (c : Nat) (k : Core) :
    (s.setCore c k).copies = s.copies := rfl
@[simp] theorem State.setCore_acks (s : State) (c : Nat) (k : Core) :
    (s.setCore c k).acks = s.acks := rfl
@[simp] theorem State.setCore_results (s : State) (c : Nat) (k : Core) :
    (s.setCore c k).results = s.results := rfl
@[simp] theorem State.setCore_gcmds (s : State) (c : Nat) (k : Core) :
    (s.setCore c k).gcmds = s.gcmds := rfl
@[simp] theorem State.setCore_sigs (s : State) (c : Nat) (k : Core) :
    (s.setCore c k).sigs = s.sigs := rfl
@[simp] theorem State.setCore_streams (s : State) (c : Nat) (k : Core) :
    (s.setCore c k).streams = s.streams := rfl
@[simp] theorem State.setCore_withheld (s : State) (c : Nat) (k : Core) :
    (s.setCore c k).withheld = s.withheld := rfl
@[simp] theorem State.setCore_walks (s : State) (c : Nat) (k : Core) :
    (s.setCore c k).walks = s.walks := rfl
@[simp] theorem State.setCore_saccs (s : State) (c : Nat) (k : Core) :
    (s.setCore c k).saccs = s.saccs := rfl
@[simp] theorem State.setCore_tlbs (s : State) (c : Nat) (k : Core) :
    (s.setCore c k).tlbs = s.tlbs := rfl
@[simp] theorem State.setCore_invals (s : State) (c : Nat) (k : Core) :
    (s.setCore c k).invals = s.invals := rfl
@[simp] theorem State.setCore_qfcnt (s : State) (c : Nat) (k : Core) :
    (s.setCore c k).qfcnt = s.qfcnt := rfl
@[simp] theorem State.setCore_qtgt (s : State) (c : Nat) (k : Core) :
    (s.setCore c k).qtgt = s.qtgt := rfl
@[simp] theorem State.setCore_qbind (s : State) (c : Nat) (k : Core) :
    (s.setCore c k).qbind = s.qbind := rfl
@[simp] theorem State.setCore_sessions (s : State) (c : Nat) (k : Core) :
    (s.setCore c k).sessions = s.sessions := rfl
@[simp] theorem State.setCore_balAcc (s : State) (c : Nat) (k : Core) :
    (s.setCore c k).balAcc = s.balAcc := rfl
@[simp] theorem State.setCore_balBase (s : State) (c : Nat) (k : Core) :
    (s.setCore c k).balBase = s.balBase := rfl
@[simp] theorem State.setCore_admitted (s : State) (c : Nat) (k : Core) :
    (s.setCore c k).admitted = s.admitted := rfl
@[simp] theorem State.setCore_queues (s : State) (c : Nat) (k : Core) :
    (s.setCore c k).queues = s.queues := rfl
@[simp] theorem State.setCore_launches (s : State) (c : Nat) (k : Core) :
    (s.setCore c k).launches = s.launches := rfl
@[simp] theorem State.setCore_lseq (s : State) (c : Nat) (k : Core) :
    (s.setCore c k).lseq = s.lseq := rfl
@[simp] theorem State.setCore_rotation (s : State) (c : Nat) (k : Core) :
    (s.setCore c k).rotation = s.rotation := rfl
@[simp] theorem State.setCore_reports (s : State) (c : Nat) (k : Core) :
    (s.setCore c k).reports = s.reports := rfl
@[simp] theorem State.setCore_residents (s : State) (c : Nat) (k : Core) :
    (s.setCore c k).residents = s.residents := rfl
@[simp] theorem State.setCore_ports (s : State) (c : Nat) (k : Core) :
    (s.setCore c k).ports = s.ports := rfl
@[simp] theorem State.setCore_cxlDown (s : State) (c : Nat) (k : Core) :
    (s.setCore c k).cxlDown = s.cxlDown := rfl
@[simp] theorem State.setCore_cxlSilent (s : State) (c : Nat) (k : Core) :
    (s.setCore c k).cxlSilent = s.cxlSilent := rfl
@[simp] theorem State.setCore_outside (s : State) (c : Nat) (k : Core) :
    (s.setCore c k).outside = s.outside := rfl
@[simp] theorem State.setCore_rounds (s : State) (c : Nat) (k : Core) :
    (s.setCore c k).rounds = s.rounds := rfl
@[simp] theorem State.setCore_dmap (s : State) (c : Nat) (k : Core) :
    (s.setCore c k).dmap = s.dmap := rfl
@[simp] theorem State.setCore_ien (s : State) (c : Nat) (k : Core) :
    (s.setCore c k).ien = s.ien := rfl
@[simp] theorem State.setCore_ipend (s : State) (c : Nat) (k : Core) :
    (s.setCore c k).ipend = s.ipend := rfl
@[simp] theorem State.setCore_msixTable (s : State) (c : Nat) (k : Core) :
    (s.setCore c k).msixTable = s.msixTable := rfl
@[simp] theorem State.setCore_msixPending (s : State) (c : Nat) (k : Core) :
    (s.setCore c k).msixPending = s.msixPending := rfl
@[simp] theorem State.setCore_msixFunctionMask (s : State) (c : Nat) (k : Core) :
    (s.setCore c k).msixFunctionMask = s.msixFunctionMask := rfl
@[simp] theorem State.setCore_cm (s : State) (c : Nat) (k : Core) : (s.setCore c k).cm = s.cm := rfl
@[simp] theorem State.setCore_ce (s : State) (c : Nat) (k : Core) : (s.setCore c k).ce = s.ce := rfl
@[simp] theorem State.setCore_pwr (s : State) (c : Nat) (k : Core) :
    (s.setCore c k).pwr = s.pwr := rfl
@[simp] theorem State.setCore_tj (s : State) (c : Nat) (k : Core) : (s.setCore c k).tj = s.tj := rfl
@[simp] theorem State.setCore_plim (s : State) (c : Nat) (k : Core) :
    (s.setCore c k).plim = s.plim := rfl
@[simp] theorem State.setCore_mcmd (s : State) (c : Nat) (k : Core) :
    (s.setCore c k).mcmd = s.mcmd := rfl
@[simp] theorem State.setCore_retn (s : State) (c : Nat) (k : Core) :
    (s.setCore c k).retn = s.retn := rfl
@[simp] theorem State.setCore_keys (s : State) (c : Nat) (k : Core) :
    (s.setCore c k).keys = s.keys := rfl
@[simp] theorem State.setCore_firmware (s : State) (c : Nat) (k : Core) :
    (s.setCore c k).firmware = s.firmware := rfl
@[simp] theorem State.setCore_monitors (s : State) (c : Nat) (k : Core) :
    (s.setCore c k).monitors = s.monitors := rfl
@[simp] theorem State.setCore_hostOut (s : State) (c : Nat) (k : Core) :
    (s.setCore c k).hostOut = s.hostOut := rfl

/-! ### setCtx -/

@[simp] theorem State.setCtx_cycle (s : State) (c x : Nat) (t : Ctx) :
    (s.setCtx c x t).cycle = s.cycle := rfl
@[simp] theorem State.setCtx_power (s : State) (c x : Nat) (t : Ctx) :
    (s.setCtx c x t).power = s.power := rfl
@[simp] theorem State.setCtx_dev (s : State) (c x : Nat) (t : Ctx) :
    (s.setCtx c x t).dev = s.dev := rfl
@[simp] theorem State.setCtx_failBlk (s : State) (c x : Nat) (t : Ctx) :
    (s.setCtx c x t).failBlk = s.failBlk := rfl
@[simp] theorem State.setCtx_agenda (s : State) (c x : Nat) (t : Ctx) :
    (s.setCtx c x t).agenda = s.agenda := rfl
@[simp] theorem State.setCtx_todo (s : State) (c x : Nat) (t : Ctx) :
    (s.setCtx c x t).todo = s.todo := rfl
@[simp] theorem State.setCtx_curCore (s : State) (c x : Nat) (t : Ctx) :
    (s.setCtx c x t).curCore = s.curCore := rfl
@[simp] theorem State.setCtx_curCtx (s : State) (c x : Nat) (t : Ctx) :
    (s.setCtx c x t).curCtx = s.curCtx := rfl
@[simp] theorem State.setCtx_fresh (s : State) (c x : Nat) (t : Ctx) :
    (s.setCtx c x t).fresh = s.fresh := rfl
@[simp] theorem State.setCtx_nextId (s : State) (c x : Nat) (t : Ctx) :
    (s.setCtx c x t).nextId = s.nextId := rfl
@[simp] theorem State.setCtx_mem (s : State) (c x : Nat) (t : Ctx) :
    (s.setCtx c x t).mem = s.mem := rfl
@[simp] theorem State.setCtx_poison (s : State) (c x : Nat) (t : Ctx) :
    (s.setCtx c x t).poison = s.poison := rfl
@[simp] theorem State.setCtx_full (s : State) (c x : Nat) (t : Ctx) :
    (s.setCtx c x t).full = s.full := rfl
@[simp] theorem State.setCtx_dirty (s : State) (c x : Nat) (t : Ctx) :
    (s.setCtx c x t).dirty = s.dirty := rfl
@[simp] theorem State.setCtx_saved (s : State) (c x : Nat) (t : Ctx) :
    (s.setCtx c x t).saved = s.saved := rfl
@[simp] theorem State.setCtx_atoms (s : State) (c x : Nat) (t : Ctx) :
    (s.setCtx c x t).atoms = s.atoms := rfl
@[simp] theorem State.setCtx_cfg (s : State) (c x : Nat) (t : Ctx) :
    (s.setCtx c x t).cfg = s.cfg := rfl
@[simp] theorem State.setCtx_routes (s : State) (c x : Nat) (t : Ctx) :
    (s.setCtx c x t).routes = s.routes := rfl
@[simp] theorem State.setCtx_cores (s : State) (c x : Nat) (t : Ctx) :
    (s.setCtx c x t).cores = mapPut c ((s.core c).setCtx x t) s.cores := rfl
@[simp] theorem State.setCtx_loads (s : State) (c x : Nat) (t : Ctx) :
    (s.setCtx c x t).loads = s.loads := rfl
@[simp] theorem State.setCtx_packets (s : State) (c x : Nat) (t : Ctx) :
    (s.setCtx c x t).packets = s.packets := rfl
@[simp] theorem State.setCtx_accs (s : State) (c x : Nat) (t : Ctx) :
    (s.setCtx c x t).accs = s.accs := rfl
@[simp] theorem State.setCtx_copies (s : State) (c x : Nat) (t : Ctx) :
    (s.setCtx c x t).copies = s.copies := rfl
@[simp] theorem State.setCtx_acks (s : State) (c x : Nat) (t : Ctx) :
    (s.setCtx c x t).acks = s.acks := rfl
@[simp] theorem State.setCtx_results (s : State) (c x : Nat) (t : Ctx) :
    (s.setCtx c x t).results = s.results := rfl
@[simp] theorem State.setCtx_gcmds (s : State) (c x : Nat) (t : Ctx) :
    (s.setCtx c x t).gcmds = s.gcmds := rfl
@[simp] theorem State.setCtx_sigs (s : State) (c x : Nat) (t : Ctx) :
    (s.setCtx c x t).sigs = s.sigs := rfl
@[simp] theorem State.setCtx_streams (s : State) (c x : Nat) (t : Ctx) :
    (s.setCtx c x t).streams = s.streams := rfl
@[simp] theorem State.setCtx_withheld (s : State) (c x : Nat) (t : Ctx) :
    (s.setCtx c x t).withheld = s.withheld := rfl
@[simp] theorem State.setCtx_walks (s : State) (c x : Nat) (t : Ctx) :
    (s.setCtx c x t).walks = s.walks := rfl
@[simp] theorem State.setCtx_saccs (s : State) (c x : Nat) (t : Ctx) :
    (s.setCtx c x t).saccs = s.saccs := rfl
@[simp] theorem State.setCtx_tlbs (s : State) (c x : Nat) (t : Ctx) :
    (s.setCtx c x t).tlbs = s.tlbs := rfl
@[simp] theorem State.setCtx_invals (s : State) (c x : Nat) (t : Ctx) :
    (s.setCtx c x t).invals = s.invals := rfl
@[simp] theorem State.setCtx_qfcnt (s : State) (c x : Nat) (t : Ctx) :
    (s.setCtx c x t).qfcnt = s.qfcnt := rfl
@[simp] theorem State.setCtx_qtgt (s : State) (c x : Nat) (t : Ctx) :
    (s.setCtx c x t).qtgt = s.qtgt := rfl
@[simp] theorem State.setCtx_qbind (s : State) (c x : Nat) (t : Ctx) :
    (s.setCtx c x t).qbind = s.qbind := rfl
@[simp] theorem State.setCtx_sessions (s : State) (c x : Nat) (t : Ctx) :
    (s.setCtx c x t).sessions = s.sessions := rfl
@[simp] theorem State.setCtx_balAcc (s : State) (c x : Nat) (t : Ctx) :
    (s.setCtx c x t).balAcc = s.balAcc := rfl
@[simp] theorem State.setCtx_balBase (s : State) (c x : Nat) (t : Ctx) :
    (s.setCtx c x t).balBase = s.balBase := rfl
@[simp] theorem State.setCtx_admitted (s : State) (c x : Nat) (t : Ctx) :
    (s.setCtx c x t).admitted = s.admitted := rfl
@[simp] theorem State.setCtx_queues (s : State) (c x : Nat) (t : Ctx) :
    (s.setCtx c x t).queues = s.queues := rfl
@[simp] theorem State.setCtx_launches (s : State) (c x : Nat) (t : Ctx) :
    (s.setCtx c x t).launches = s.launches := rfl
@[simp] theorem State.setCtx_lseq (s : State) (c x : Nat) (t : Ctx) :
    (s.setCtx c x t).lseq = s.lseq := rfl
@[simp] theorem State.setCtx_rotation (s : State) (c x : Nat) (t : Ctx) :
    (s.setCtx c x t).rotation = s.rotation := rfl
@[simp] theorem State.setCtx_reports (s : State) (c x : Nat) (t : Ctx) :
    (s.setCtx c x t).reports = s.reports := rfl
@[simp] theorem State.setCtx_residents (s : State) (c x : Nat) (t : Ctx) :
    (s.setCtx c x t).residents = s.residents := rfl
@[simp] theorem State.setCtx_ports (s : State) (c x : Nat) (t : Ctx) :
    (s.setCtx c x t).ports = s.ports := rfl
@[simp] theorem State.setCtx_cxlDown (s : State) (c x : Nat) (t : Ctx) :
    (s.setCtx c x t).cxlDown = s.cxlDown := rfl
@[simp] theorem State.setCtx_cxlSilent (s : State) (c x : Nat) (t : Ctx) :
    (s.setCtx c x t).cxlSilent = s.cxlSilent := rfl
@[simp] theorem State.setCtx_outside (s : State) (c x : Nat) (t : Ctx) :
    (s.setCtx c x t).outside = s.outside := rfl
@[simp] theorem State.setCtx_rounds (s : State) (c x : Nat) (t : Ctx) :
    (s.setCtx c x t).rounds = s.rounds := rfl
@[simp] theorem State.setCtx_dmap (s : State) (c x : Nat) (t : Ctx) :
    (s.setCtx c x t).dmap = s.dmap := rfl
@[simp] theorem State.setCtx_ien (s : State) (c x : Nat) (t : Ctx) :
    (s.setCtx c x t).ien = s.ien := rfl
@[simp] theorem State.setCtx_ipend (s : State) (c x : Nat) (t : Ctx) :
    (s.setCtx c x t).ipend = s.ipend := rfl
@[simp] theorem State.setCtx_msixTable (s : State) (c x : Nat) (t : Ctx) :
    (s.setCtx c x t).msixTable = s.msixTable := rfl
@[simp] theorem State.setCtx_msixPending (s : State) (c x : Nat) (t : Ctx) :
    (s.setCtx c x t).msixPending = s.msixPending := rfl
@[simp] theorem State.setCtx_msixFunctionMask (s : State) (c x : Nat) (t : Ctx) :
    (s.setCtx c x t).msixFunctionMask = s.msixFunctionMask := rfl
@[simp] theorem State.setCtx_cm (s : State) (c x : Nat) (t : Ctx) :
    (s.setCtx c x t).cm = s.cm := rfl
@[simp] theorem State.setCtx_ce (s : State) (c x : Nat) (t : Ctx) :
    (s.setCtx c x t).ce = s.ce := rfl
@[simp] theorem State.setCtx_pwr (s : State) (c x : Nat) (t : Ctx) :
    (s.setCtx c x t).pwr = s.pwr := rfl
@[simp] theorem State.setCtx_tj (s : State) (c x : Nat) (t : Ctx) :
    (s.setCtx c x t).tj = s.tj := rfl
@[simp] theorem State.setCtx_plim (s : State) (c x : Nat) (t : Ctx) :
    (s.setCtx c x t).plim = s.plim := rfl
@[simp] theorem State.setCtx_mcmd (s : State) (c x : Nat) (t : Ctx) :
    (s.setCtx c x t).mcmd = s.mcmd := rfl
@[simp] theorem State.setCtx_retn (s : State) (c x : Nat) (t : Ctx) :
    (s.setCtx c x t).retn = s.retn := rfl
@[simp] theorem State.setCtx_keys (s : State) (c x : Nat) (t : Ctx) :
    (s.setCtx c x t).keys = s.keys := rfl
@[simp] theorem State.setCtx_firmware (s : State) (c x : Nat) (t : Ctx) :
    (s.setCtx c x t).firmware = s.firmware := rfl
@[simp] theorem State.setCtx_monitors (s : State) (c x : Nat) (t : Ctx) :
    (s.setCtx c x t).monitors = s.monitors := rfl
@[simp] theorem State.setCtx_hostOut (s : State) (c x : Nat) (t : Ctx) :
    (s.setCtx c x t).hostOut = s.hostOut := rfl

/-! ### setCurK -/

@[simp] theorem State.setCurK_cycle (s : State) (k : Core) : (s.setCurK k).cycle = s.cycle := rfl
@[simp] theorem State.setCurK_power (s : State) (k : Core) : (s.setCurK k).power = s.power := rfl
@[simp] theorem State.setCurK_dev (s : State) (k : Core) : (s.setCurK k).dev = s.dev := rfl
@[simp] theorem State.setCurK_failBlk (s : State) (k : Core) :
    (s.setCurK k).failBlk = s.failBlk := rfl
@[simp] theorem State.setCurK_agenda (s : State) (k : Core) : (s.setCurK k).agenda = s.agenda := rfl
@[simp] theorem State.setCurK_todo (s : State) (k : Core) : (s.setCurK k).todo = s.todo := rfl
@[simp] theorem State.setCurK_curCore (s : State) (k : Core) :
    (s.setCurK k).curCore = s.curCore := rfl
@[simp] theorem State.setCurK_curCtx (s : State) (k : Core) : (s.setCurK k).curCtx = s.curCtx := rfl
@[simp] theorem State.setCurK_fresh (s : State) (k : Core) : (s.setCurK k).fresh = s.fresh := rfl
@[simp] theorem State.setCurK_nextId (s : State) (k : Core) : (s.setCurK k).nextId = s.nextId := rfl
@[simp] theorem State.setCurK_mem (s : State) (k : Core) : (s.setCurK k).mem = s.mem := rfl
@[simp] theorem State.setCurK_poison (s : State) (k : Core) : (s.setCurK k).poison = s.poison := rfl
@[simp] theorem State.setCurK_full (s : State) (k : Core) : (s.setCurK k).full = s.full := rfl
@[simp] theorem State.setCurK_dirty (s : State) (k : Core) : (s.setCurK k).dirty = s.dirty := rfl
@[simp] theorem State.setCurK_saved (s : State) (k : Core) : (s.setCurK k).saved = s.saved := rfl
@[simp] theorem State.setCurK_atoms (s : State) (k : Core) : (s.setCurK k).atoms = s.atoms := rfl
@[simp] theorem State.setCurK_cfg (s : State) (k : Core) : (s.setCurK k).cfg = s.cfg := rfl
@[simp] theorem State.setCurK_routes (s : State) (k : Core) : (s.setCurK k).routes = s.routes := rfl
@[simp] theorem State.setCurK_cores (s : State) (k : Core) :
    (s.setCurK k).cores = mapPut s.curCore k s.cores := rfl
@[simp] theorem State.setCurK_loads (s : State) (k : Core) : (s.setCurK k).loads = s.loads := rfl
@[simp] theorem State.setCurK_packets (s : State) (k : Core) :
    (s.setCurK k).packets = s.packets := rfl
@[simp] theorem State.setCurK_accs (s : State) (k : Core) : (s.setCurK k).accs = s.accs := rfl
@[simp] theorem State.setCurK_copies (s : State) (k : Core) : (s.setCurK k).copies = s.copies := rfl
@[simp] theorem State.setCurK_acks (s : State) (k : Core) : (s.setCurK k).acks = s.acks := rfl
@[simp] theorem State.setCurK_results (s : State) (k : Core) :
    (s.setCurK k).results = s.results := rfl
@[simp] theorem State.setCurK_gcmds (s : State) (k : Core) : (s.setCurK k).gcmds = s.gcmds := rfl
@[simp] theorem State.setCurK_sigs (s : State) (k : Core) : (s.setCurK k).sigs = s.sigs := rfl
@[simp] theorem State.setCurK_streams (s : State) (k : Core) :
    (s.setCurK k).streams = s.streams := rfl
@[simp] theorem State.setCurK_withheld (s : State) (k : Core) :
    (s.setCurK k).withheld = s.withheld := rfl
@[simp] theorem State.setCurK_walks (s : State) (k : Core) : (s.setCurK k).walks = s.walks := rfl
@[simp] theorem State.setCurK_saccs (s : State) (k : Core) : (s.setCurK k).saccs = s.saccs := rfl
@[simp] theorem State.setCurK_tlbs (s : State) (k : Core) : (s.setCurK k).tlbs = s.tlbs := rfl
@[simp] theorem State.setCurK_invals (s : State) (k : Core) : (s.setCurK k).invals = s.invals := rfl
@[simp] theorem State.setCurK_qfcnt (s : State) (k : Core) : (s.setCurK k).qfcnt = s.qfcnt := rfl
@[simp] theorem State.setCurK_qtgt (s : State) (k : Core) : (s.setCurK k).qtgt = s.qtgt := rfl
@[simp] theorem State.setCurK_qbind (s : State) (k : Core) : (s.setCurK k).qbind = s.qbind := rfl
@[simp] theorem State.setCurK_sessions (s : State) (k : Core) :
    (s.setCurK k).sessions = s.sessions := rfl
@[simp] theorem State.setCurK_balAcc (s : State) (k : Core) : (s.setCurK k).balAcc = s.balAcc := rfl
@[simp] theorem State.setCurK_balBase (s : State) (k : Core) :
    (s.setCurK k).balBase = s.balBase := rfl
@[simp] theorem State.setCurK_admitted (s : State) (k : Core) :
    (s.setCurK k).admitted = s.admitted := rfl
@[simp] theorem State.setCurK_queues (s : State) (k : Core) : (s.setCurK k).queues = s.queues := rfl
@[simp] theorem State.setCurK_launches (s : State) (k : Core) :
    (s.setCurK k).launches = s.launches := rfl
@[simp] theorem State.setCurK_lseq (s : State) (k : Core) : (s.setCurK k).lseq = s.lseq := rfl
@[simp] theorem State.setCurK_rotation (s : State) (k : Core) :
    (s.setCurK k).rotation = s.rotation := rfl
@[simp] theorem State.setCurK_reports (s : State) (k : Core) :
    (s.setCurK k).reports = s.reports := rfl
@[simp] theorem State.setCurK_residents (s : State) (k : Core) :
    (s.setCurK k).residents = s.residents := rfl
@[simp] theorem State.setCurK_ports (s : State) (k : Core) : (s.setCurK k).ports = s.ports := rfl
@[simp] theorem State.setCurK_cxlDown (s : State) (k : Core) :
    (s.setCurK k).cxlDown = s.cxlDown := rfl
@[simp] theorem State.setCurK_cxlSilent (s : State) (k : Core) :
    (s.setCurK k).cxlSilent = s.cxlSilent := rfl
@[simp] theorem State.setCurK_outside (s : State) (k : Core) :
    (s.setCurK k).outside = s.outside := rfl
@[simp] theorem State.setCurK_rounds (s : State) (k : Core) : (s.setCurK k).rounds = s.rounds := rfl
@[simp] theorem State.setCurK_dmap (s : State) (k : Core) : (s.setCurK k).dmap = s.dmap := rfl
@[simp] theorem State.setCurK_ien (s : State) (k : Core) : (s.setCurK k).ien = s.ien := rfl
@[simp] theorem State.setCurK_ipend (s : State) (k : Core) : (s.setCurK k).ipend = s.ipend := rfl
@[simp] theorem State.setCurK_msixTable (s : State) (k : Core) :
    (s.setCurK k).msixTable = s.msixTable := rfl
@[simp] theorem State.setCurK_msixPending (s : State) (k : Core) :
    (s.setCurK k).msixPending = s.msixPending := rfl
@[simp] theorem State.setCurK_msixFunctionMask (s : State) (k : Core) :
    (s.setCurK k).msixFunctionMask = s.msixFunctionMask := rfl
@[simp] theorem State.setCurK_cm (s : State) (k : Core) : (s.setCurK k).cm = s.cm := rfl
@[simp] theorem State.setCurK_ce (s : State) (k : Core) : (s.setCurK k).ce = s.ce := rfl
@[simp] theorem State.setCurK_pwr (s : State) (k : Core) : (s.setCurK k).pwr = s.pwr := rfl
@[simp] theorem State.setCurK_tj (s : State) (k : Core) : (s.setCurK k).tj = s.tj := rfl
@[simp] theorem State.setCurK_plim (s : State) (k : Core) : (s.setCurK k).plim = s.plim := rfl
@[simp] theorem State.setCurK_mcmd (s : State) (k : Core) : (s.setCurK k).mcmd = s.mcmd := rfl
@[simp] theorem State.setCurK_retn (s : State) (k : Core) : (s.setCurK k).retn = s.retn := rfl
@[simp] theorem State.setCurK_keys (s : State) (k : Core) : (s.setCurK k).keys = s.keys := rfl
@[simp] theorem State.setCurK_firmware (s : State) (k : Core) :
    (s.setCurK k).firmware = s.firmware := rfl
@[simp] theorem State.setCurK_monitors (s : State) (k : Core) :
    (s.setCurK k).monitors = s.monitors := rfl
@[simp] theorem State.setCurK_hostOut (s : State) (k : Core) :
    (s.setCurK k).hostOut = s.hostOut := rfl

/-! ### setCur -/

@[simp] theorem State.setCur_cycle (s : State) (t : Ctx) : (s.setCur t).cycle = s.cycle := rfl
@[simp] theorem State.setCur_power (s : State) (t : Ctx) : (s.setCur t).power = s.power := rfl
@[simp] theorem State.setCur_dev (s : State) (t : Ctx) : (s.setCur t).dev = s.dev := rfl
@[simp] theorem State.setCur_failBlk (s : State) (t : Ctx) : (s.setCur t).failBlk = s.failBlk := rfl
@[simp] theorem State.setCur_agenda (s : State) (t : Ctx) : (s.setCur t).agenda = s.agenda := rfl
@[simp] theorem State.setCur_todo (s : State) (t : Ctx) : (s.setCur t).todo = s.todo := rfl
@[simp] theorem State.setCur_curCore (s : State) (t : Ctx) : (s.setCur t).curCore = s.curCore := rfl
@[simp] theorem State.setCur_curCtx (s : State) (t : Ctx) : (s.setCur t).curCtx = s.curCtx := rfl
@[simp] theorem State.setCur_fresh (s : State) (t : Ctx) : (s.setCur t).fresh = s.fresh := rfl
@[simp] theorem State.setCur_nextId (s : State) (t : Ctx) : (s.setCur t).nextId = s.nextId := rfl
@[simp] theorem State.setCur_mem (s : State) (t : Ctx) : (s.setCur t).mem = s.mem := rfl
@[simp] theorem State.setCur_poison (s : State) (t : Ctx) : (s.setCur t).poison = s.poison := rfl
@[simp] theorem State.setCur_full (s : State) (t : Ctx) : (s.setCur t).full = s.full := rfl
@[simp] theorem State.setCur_dirty (s : State) (t : Ctx) : (s.setCur t).dirty = s.dirty := rfl
@[simp] theorem State.setCur_saved (s : State) (t : Ctx) : (s.setCur t).saved = s.saved := rfl
@[simp] theorem State.setCur_atoms (s : State) (t : Ctx) : (s.setCur t).atoms = s.atoms := rfl
@[simp] theorem State.setCur_cfg (s : State) (t : Ctx) : (s.setCur t).cfg = s.cfg := rfl
@[simp] theorem State.setCur_routes (s : State) (t : Ctx) : (s.setCur t).routes = s.routes := rfl
@[simp] theorem State.setCur_cores (s : State) (t : Ctx) :
    (s.setCur t).cores = mapPut s.curCore (s.curK.setCtx s.curCtx t) s.cores := rfl
@[simp] theorem State.setCur_loads (s : State) (t : Ctx) : (s.setCur t).loads = s.loads := rfl
@[simp] theorem State.setCur_packets (s : State) (t : Ctx) : (s.setCur t).packets = s.packets := rfl
@[simp] theorem State.setCur_accs (s : State) (t : Ctx) : (s.setCur t).accs = s.accs := rfl
@[simp] theorem State.setCur_copies (s : State) (t : Ctx) : (s.setCur t).copies = s.copies := rfl
@[simp] theorem State.setCur_acks (s : State) (t : Ctx) : (s.setCur t).acks = s.acks := rfl
@[simp] theorem State.setCur_results (s : State) (t : Ctx) : (s.setCur t).results = s.results := rfl
@[simp] theorem State.setCur_gcmds (s : State) (t : Ctx) : (s.setCur t).gcmds = s.gcmds := rfl
@[simp] theorem State.setCur_sigs (s : State) (t : Ctx) : (s.setCur t).sigs = s.sigs := rfl
@[simp] theorem State.setCur_streams (s : State) (t : Ctx) : (s.setCur t).streams = s.streams := rfl
@[simp] theorem State.setCur_withheld (s : State) (t : Ctx) :
    (s.setCur t).withheld = s.withheld := rfl
@[simp] theorem State.setCur_walks (s : State) (t : Ctx) : (s.setCur t).walks = s.walks := rfl
@[simp] theorem State.setCur_saccs (s : State) (t : Ctx) : (s.setCur t).saccs = s.saccs := rfl
@[simp] theorem State.setCur_tlbs (s : State) (t : Ctx) : (s.setCur t).tlbs = s.tlbs := rfl
@[simp] theorem State.setCur_invals (s : State) (t : Ctx) : (s.setCur t).invals = s.invals := rfl
@[simp] theorem State.setCur_qfcnt (s : State) (t : Ctx) : (s.setCur t).qfcnt = s.qfcnt := rfl
@[simp] theorem State.setCur_qtgt (s : State) (t : Ctx) : (s.setCur t).qtgt = s.qtgt := rfl
@[simp] theorem State.setCur_qbind (s : State) (t : Ctx) : (s.setCur t).qbind = s.qbind := rfl
@[simp] theorem State.setCur_sessions (s : State) (t : Ctx) :
    (s.setCur t).sessions = s.sessions := rfl
@[simp] theorem State.setCur_balAcc (s : State) (t : Ctx) : (s.setCur t).balAcc = s.balAcc := rfl
@[simp] theorem State.setCur_balBase (s : State) (t : Ctx) : (s.setCur t).balBase = s.balBase := rfl
@[simp] theorem State.setCur_admitted (s : State) (t : Ctx) :
    (s.setCur t).admitted = s.admitted := rfl
@[simp] theorem State.setCur_queues (s : State) (t : Ctx) : (s.setCur t).queues = s.queues := rfl
@[simp] theorem State.setCur_launches (s : State) (t : Ctx) :
    (s.setCur t).launches = s.launches := rfl
@[simp] theorem State.setCur_lseq (s : State) (t : Ctx) : (s.setCur t).lseq = s.lseq := rfl
@[simp] theorem State.setCur_rotation (s : State) (t : Ctx) :
    (s.setCur t).rotation = s.rotation := rfl
@[simp] theorem State.setCur_reports (s : State) (t : Ctx) : (s.setCur t).reports = s.reports := rfl
@[simp] theorem State.setCur_residents (s : State) (t : Ctx) :
    (s.setCur t).residents = s.residents := rfl
@[simp] theorem State.setCur_ports (s : State) (t : Ctx) : (s.setCur t).ports = s.ports := rfl
@[simp] theorem State.setCur_cxlDown (s : State) (t : Ctx) : (s.setCur t).cxlDown = s.cxlDown := rfl
@[simp] theorem State.setCur_cxlSilent (s : State) (t : Ctx) :
    (s.setCur t).cxlSilent = s.cxlSilent := rfl
@[simp] theorem State.setCur_outside (s : State) (t : Ctx) : (s.setCur t).outside = s.outside := rfl
@[simp] theorem State.setCur_rounds (s : State) (t : Ctx) : (s.setCur t).rounds = s.rounds := rfl
@[simp] theorem State.setCur_dmap (s : State) (t : Ctx) : (s.setCur t).dmap = s.dmap := rfl
@[simp] theorem State.setCur_ien (s : State) (t : Ctx) : (s.setCur t).ien = s.ien := rfl
@[simp] theorem State.setCur_ipend (s : State) (t : Ctx) : (s.setCur t).ipend = s.ipend := rfl
@[simp] theorem State.setCur_msixTable (s : State) (t : Ctx) :
    (s.setCur t).msixTable = s.msixTable := rfl
@[simp] theorem State.setCur_msixPending (s : State) (t : Ctx) :
    (s.setCur t).msixPending = s.msixPending := rfl
@[simp] theorem State.setCur_msixFunctionMask (s : State) (t : Ctx) :
    (s.setCur t).msixFunctionMask = s.msixFunctionMask := rfl
@[simp] theorem State.setCur_cm (s : State) (t : Ctx) : (s.setCur t).cm = s.cm := rfl
@[simp] theorem State.setCur_ce (s : State) (t : Ctx) : (s.setCur t).ce = s.ce := rfl
@[simp] theorem State.setCur_pwr (s : State) (t : Ctx) : (s.setCur t).pwr = s.pwr := rfl
@[simp] theorem State.setCur_tj (s : State) (t : Ctx) : (s.setCur t).tj = s.tj := rfl
@[simp] theorem State.setCur_plim (s : State) (t : Ctx) : (s.setCur t).plim = s.plim := rfl
@[simp] theorem State.setCur_mcmd (s : State) (t : Ctx) : (s.setCur t).mcmd = s.mcmd := rfl
@[simp] theorem State.setCur_retn (s : State) (t : Ctx) : (s.setCur t).retn = s.retn := rfl
@[simp] theorem State.setCur_keys (s : State) (t : Ctx) : (s.setCur t).keys = s.keys := rfl
@[simp] theorem State.setCur_firmware (s : State) (t : Ctx) :
    (s.setCur t).firmware = s.firmware := rfl
@[simp] theorem State.setCur_monitors (s : State) (t : Ctx) :
    (s.setCur t).monitors = s.monitors := rfl
@[simp] theorem State.setCur_hostOut (s : State) (t : Ctx) : (s.setCur t).hostOut = s.hostOut := rfl

/-! ### setLoad -/

@[simp] theorem State.setLoad_cycle (s : State) (h : Nat) (l : Load) :
    (s.setLoad h l).cycle = s.cycle := rfl
@[simp] theorem State.setLoad_power (s : State) (h : Nat) (l : Load) :
    (s.setLoad h l).power = s.power := rfl
@[simp] theorem State.setLoad_dev (s : State) (h : Nat) (l : Load) :
    (s.setLoad h l).dev = s.dev := rfl
@[simp] theorem State.setLoad_failBlk (s : State) (h : Nat) (l : Load) :
    (s.setLoad h l).failBlk = s.failBlk := rfl
@[simp] theorem State.setLoad_agenda (s : State) (h : Nat) (l : Load) :
    (s.setLoad h l).agenda = s.agenda := rfl
@[simp] theorem State.setLoad_todo (s : State) (h : Nat) (l : Load) :
    (s.setLoad h l).todo = s.todo := rfl
@[simp] theorem State.setLoad_curCore (s : State) (h : Nat) (l : Load) :
    (s.setLoad h l).curCore = s.curCore := rfl
@[simp] theorem State.setLoad_curCtx (s : State) (h : Nat) (l : Load) :
    (s.setLoad h l).curCtx = s.curCtx := rfl
@[simp] theorem State.setLoad_fresh (s : State) (h : Nat) (l : Load) :
    (s.setLoad h l).fresh = s.fresh := rfl
@[simp] theorem State.setLoad_nextId (s : State) (h : Nat) (l : Load) :
    (s.setLoad h l).nextId = s.nextId := rfl
@[simp] theorem State.setLoad_mem (s : State) (h : Nat) (l : Load) :
    (s.setLoad h l).mem = s.mem := rfl
@[simp] theorem State.setLoad_poison (s : State) (h : Nat) (l : Load) :
    (s.setLoad h l).poison = s.poison := rfl
@[simp] theorem State.setLoad_full (s : State) (h : Nat) (l : Load) :
    (s.setLoad h l).full = s.full := rfl
@[simp] theorem State.setLoad_dirty (s : State) (h : Nat) (l : Load) :
    (s.setLoad h l).dirty = s.dirty := rfl
@[simp] theorem State.setLoad_saved (s : State) (h : Nat) (l : Load) :
    (s.setLoad h l).saved = s.saved := rfl
@[simp] theorem State.setLoad_atoms (s : State) (h : Nat) (l : Load) :
    (s.setLoad h l).atoms = s.atoms := rfl
@[simp] theorem State.setLoad_cfg (s : State) (h : Nat) (l : Load) :
    (s.setLoad h l).cfg = s.cfg := rfl
@[simp] theorem State.setLoad_routes (s : State) (h : Nat) (l : Load) :
    (s.setLoad h l).routes = s.routes := rfl
@[simp] theorem State.setLoad_cores (s : State) (h : Nat) (l : Load) :
    (s.setLoad h l).cores = s.cores := rfl
@[simp] theorem State.setLoad_loads (s : State) (h : Nat) (l : Load) :
    (s.setLoad h l).loads = mapPut h l s.loads := rfl
@[simp] theorem State.setLoad_packets (s : State) (h : Nat) (l : Load) :
    (s.setLoad h l).packets = s.packets := rfl
@[simp] theorem State.setLoad_accs (s : State) (h : Nat) (l : Load) :
    (s.setLoad h l).accs = s.accs := rfl
@[simp] theorem State.setLoad_copies (s : State) (h : Nat) (l : Load) :
    (s.setLoad h l).copies = s.copies := rfl
@[simp] theorem State.setLoad_acks (s : State) (h : Nat) (l : Load) :
    (s.setLoad h l).acks = s.acks := rfl
@[simp] theorem State.setLoad_results (s : State) (h : Nat) (l : Load) :
    (s.setLoad h l).results = s.results := rfl
@[simp] theorem State.setLoad_gcmds (s : State) (h : Nat) (l : Load) :
    (s.setLoad h l).gcmds = s.gcmds := rfl
@[simp] theorem State.setLoad_sigs (s : State) (h : Nat) (l : Load) :
    (s.setLoad h l).sigs = s.sigs := rfl
@[simp] theorem State.setLoad_streams (s : State) (h : Nat) (l : Load) :
    (s.setLoad h l).streams = s.streams := rfl
@[simp] theorem State.setLoad_withheld (s : State) (h : Nat) (l : Load) :
    (s.setLoad h l).withheld = s.withheld := rfl
@[simp] theorem State.setLoad_walks (s : State) (h : Nat) (l : Load) :
    (s.setLoad h l).walks = s.walks := rfl
@[simp] theorem State.setLoad_saccs (s : State) (h : Nat) (l : Load) :
    (s.setLoad h l).saccs = s.saccs := rfl
@[simp] theorem State.setLoad_tlbs (s : State) (h : Nat) (l : Load) :
    (s.setLoad h l).tlbs = s.tlbs := rfl
@[simp] theorem State.setLoad_invals (s : State) (h : Nat) (l : Load) :
    (s.setLoad h l).invals = s.invals := rfl
@[simp] theorem State.setLoad_qfcnt (s : State) (h : Nat) (l : Load) :
    (s.setLoad h l).qfcnt = s.qfcnt := rfl
@[simp] theorem State.setLoad_qtgt (s : State) (h : Nat) (l : Load) :
    (s.setLoad h l).qtgt = s.qtgt := rfl
@[simp] theorem State.setLoad_qbind (s : State) (h : Nat) (l : Load) :
    (s.setLoad h l).qbind = s.qbind := rfl
@[simp] theorem State.setLoad_sessions (s : State) (h : Nat) (l : Load) :
    (s.setLoad h l).sessions = s.sessions := rfl
@[simp] theorem State.setLoad_balAcc (s : State) (h : Nat) (l : Load) :
    (s.setLoad h l).balAcc = s.balAcc := rfl
@[simp] theorem State.setLoad_balBase (s : State) (h : Nat) (l : Load) :
    (s.setLoad h l).balBase = s.balBase := rfl
@[simp] theorem State.setLoad_admitted (s : State) (h : Nat) (l : Load) :
    (s.setLoad h l).admitted = s.admitted := rfl
@[simp] theorem State.setLoad_queues (s : State) (h : Nat) (l : Load) :
    (s.setLoad h l).queues = s.queues := rfl
@[simp] theorem State.setLoad_launches (s : State) (h : Nat) (l : Load) :
    (s.setLoad h l).launches = s.launches := rfl
@[simp] theorem State.setLoad_lseq (s : State) (h : Nat) (l : Load) :
    (s.setLoad h l).lseq = s.lseq := rfl
@[simp] theorem State.setLoad_rotation (s : State) (h : Nat) (l : Load) :
    (s.setLoad h l).rotation = s.rotation := rfl
@[simp] theorem State.setLoad_reports (s : State) (h : Nat) (l : Load) :
    (s.setLoad h l).reports = s.reports := rfl
@[simp] theorem State.setLoad_residents (s : State) (h : Nat) (l : Load) :
    (s.setLoad h l).residents = s.residents := rfl
@[simp] theorem State.setLoad_ports (s : State) (h : Nat) (l : Load) :
    (s.setLoad h l).ports = s.ports := rfl
@[simp] theorem State.setLoad_cxlDown (s : State) (h : Nat) (l : Load) :
    (s.setLoad h l).cxlDown = s.cxlDown := rfl
@[simp] theorem State.setLoad_cxlSilent (s : State) (h : Nat) (l : Load) :
    (s.setLoad h l).cxlSilent = s.cxlSilent := rfl
@[simp] theorem State.setLoad_outside (s : State) (h : Nat) (l : Load) :
    (s.setLoad h l).outside = s.outside := rfl
@[simp] theorem State.setLoad_rounds (s : State) (h : Nat) (l : Load) :
    (s.setLoad h l).rounds = s.rounds := rfl
@[simp] theorem State.setLoad_dmap (s : State) (h : Nat) (l : Load) :
    (s.setLoad h l).dmap = s.dmap := rfl
@[simp] theorem State.setLoad_ien (s : State) (h : Nat) (l : Load) :
    (s.setLoad h l).ien = s.ien := rfl
@[simp] theorem State.setLoad_ipend (s : State) (h : Nat) (l : Load) :
    (s.setLoad h l).ipend = s.ipend := rfl
@[simp] theorem State.setLoad_msixTable (s : State) (h : Nat) (l : Load) :
    (s.setLoad h l).msixTable = s.msixTable := rfl
@[simp] theorem State.setLoad_msixPending (s : State) (h : Nat) (l : Load) :
    (s.setLoad h l).msixPending = s.msixPending := rfl
@[simp] theorem State.setLoad_msixFunctionMask (s : State) (h : Nat) (l : Load) :
    (s.setLoad h l).msixFunctionMask = s.msixFunctionMask := rfl
@[simp] theorem State.setLoad_cm (s : State) (h : Nat) (l : Load) : (s.setLoad h l).cm = s.cm := rfl
@[simp] theorem State.setLoad_ce (s : State) (h : Nat) (l : Load) : (s.setLoad h l).ce = s.ce := rfl
@[simp] theorem State.setLoad_pwr (s : State) (h : Nat) (l : Load) :
    (s.setLoad h l).pwr = s.pwr := rfl
@[simp] theorem State.setLoad_tj (s : State) (h : Nat) (l : Load) : (s.setLoad h l).tj = s.tj := rfl
@[simp] theorem State.setLoad_plim (s : State) (h : Nat) (l : Load) :
    (s.setLoad h l).plim = s.plim := rfl
@[simp] theorem State.setLoad_mcmd (s : State) (h : Nat) (l : Load) :
    (s.setLoad h l).mcmd = s.mcmd := rfl
@[simp] theorem State.setLoad_retn (s : State) (h : Nat) (l : Load) :
    (s.setLoad h l).retn = s.retn := rfl
@[simp] theorem State.setLoad_keys (s : State) (h : Nat) (l : Load) :
    (s.setLoad h l).keys = s.keys := rfl
@[simp] theorem State.setLoad_firmware (s : State) (h : Nat) (l : Load) :
    (s.setLoad h l).firmware = s.firmware := rfl
@[simp] theorem State.setLoad_monitors (s : State) (h : Nat) (l : Load) :
    (s.setLoad h l).monitors = s.monitors := rfl
@[simp] theorem State.setLoad_hostOut (s : State) (h : Nat) (l : Load) :
    (s.setLoad h l).hostOut = s.hostOut := rfl

/-! ### at -/

@[simp] theorem State.at_cycle (s : State) (n : Nat) (i : Instr) : (s.at n i).cycle = s.cycle := rfl
@[simp] theorem State.at_power (s : State) (n : Nat) (i : Instr) : (s.at n i).power = s.power := rfl
@[simp] theorem State.at_dev (s : State) (n : Nat) (i : Instr) : (s.at n i).dev = s.dev := rfl
@[simp] theorem State.at_failBlk (s : State) (n : Nat) (i : Instr) :
    (s.at n i).failBlk = s.failBlk := rfl
@[simp] theorem State.at_agenda (s : State) (n : Nat) (i : Instr) :
    (s.at n i).agenda = agendaInsert n i s.agenda := rfl
@[simp] theorem State.at_todo (s : State) (n : Nat) (i : Instr) : (s.at n i).todo = s.todo := rfl
@[simp] theorem State.at_curCore (s : State) (n : Nat) (i : Instr) :
    (s.at n i).curCore = s.curCore := rfl
@[simp] theorem State.at_curCtx (s : State) (n : Nat) (i : Instr) :
    (s.at n i).curCtx = s.curCtx := rfl
@[simp] theorem State.at_fresh (s : State) (n : Nat) (i : Instr) : (s.at n i).fresh = s.fresh := rfl
@[simp] theorem State.at_nextId (s : State) (n : Nat) (i : Instr) :
    (s.at n i).nextId = s.nextId := rfl
@[simp] theorem State.at_mem (s : State) (n : Nat) (i : Instr) : (s.at n i).mem = s.mem := rfl
@[simp] theorem State.at_poison (s : State) (n : Nat) (i : Instr) :
    (s.at n i).poison = s.poison := rfl
@[simp] theorem State.at_full (s : State) (n : Nat) (i : Instr) : (s.at n i).full = s.full := rfl
@[simp] theorem State.at_dirty (s : State) (n : Nat) (i : Instr) : (s.at n i).dirty = s.dirty := rfl
@[simp] theorem State.at_saved (s : State) (n : Nat) (i : Instr) : (s.at n i).saved = s.saved := rfl
@[simp] theorem State.at_atoms (s : State) (n : Nat) (i : Instr) : (s.at n i).atoms = s.atoms := rfl
@[simp] theorem State.at_cfg (s : State) (n : Nat) (i : Instr) : (s.at n i).cfg = s.cfg := rfl
@[simp] theorem State.at_routes (s : State) (n : Nat) (i : Instr) :
    (s.at n i).routes = s.routes := rfl
@[simp] theorem State.at_cores (s : State) (n : Nat) (i : Instr) : (s.at n i).cores = s.cores := rfl
@[simp] theorem State.at_loads (s : State) (n : Nat) (i : Instr) : (s.at n i).loads = s.loads := rfl
@[simp] theorem State.at_packets (s : State) (n : Nat) (i : Instr) :
    (s.at n i).packets = s.packets := rfl
@[simp] theorem State.at_accs (s : State) (n : Nat) (i : Instr) : (s.at n i).accs = s.accs := rfl
@[simp] theorem State.at_copies (s : State) (n : Nat) (i : Instr) :
    (s.at n i).copies = s.copies := rfl
@[simp] theorem State.at_acks (s : State) (n : Nat) (i : Instr) : (s.at n i).acks = s.acks := rfl
@[simp] theorem State.at_results (s : State) (n : Nat) (i : Instr) :
    (s.at n i).results = s.results := rfl
@[simp] theorem State.at_gcmds (s : State) (n : Nat) (i : Instr) : (s.at n i).gcmds = s.gcmds := rfl
@[simp] theorem State.at_sigs (s : State) (n : Nat) (i : Instr) : (s.at n i).sigs = s.sigs := rfl
@[simp] theorem State.at_streams (s : State) (n : Nat) (i : Instr) :
    (s.at n i).streams = s.streams := rfl
@[simp] theorem State.at_withheld (s : State) (n : Nat) (i : Instr) :
    (s.at n i).withheld = s.withheld := rfl
@[simp] theorem State.at_walks (s : State) (n : Nat) (i : Instr) : (s.at n i).walks = s.walks := rfl
@[simp] theorem State.at_saccs (s : State) (n : Nat) (i : Instr) : (s.at n i).saccs = s.saccs := rfl
@[simp] theorem State.at_tlbs (s : State) (n : Nat) (i : Instr) : (s.at n i).tlbs = s.tlbs := rfl
@[simp] theorem State.at_invals (s : State) (n : Nat) (i : Instr) :
    (s.at n i).invals = s.invals := rfl
@[simp] theorem State.at_qfcnt (s : State) (n : Nat) (i : Instr) : (s.at n i).qfcnt = s.qfcnt := rfl
@[simp] theorem State.at_qtgt (s : State) (n : Nat) (i : Instr) : (s.at n i).qtgt = s.qtgt := rfl
@[simp] theorem State.at_qbind (s : State) (n : Nat) (i : Instr) : (s.at n i).qbind = s.qbind := rfl
@[simp] theorem State.at_sessions (s : State) (n : Nat) (i : Instr) :
    (s.at n i).sessions = s.sessions := rfl
@[simp] theorem State.at_balAcc (s : State) (n : Nat) (i : Instr) :
    (s.at n i).balAcc = s.balAcc := rfl
@[simp] theorem State.at_balBase (s : State) (n : Nat) (i : Instr) :
    (s.at n i).balBase = s.balBase := rfl
@[simp] theorem State.at_admitted (s : State) (n : Nat) (i : Instr) :
    (s.at n i).admitted = s.admitted := rfl
@[simp] theorem State.at_queues (s : State) (n : Nat) (i : Instr) :
    (s.at n i).queues = s.queues := rfl
@[simp] theorem State.at_launches (s : State) (n : Nat) (i : Instr) :
    (s.at n i).launches = s.launches := rfl
@[simp] theorem State.at_lseq (s : State) (n : Nat) (i : Instr) : (s.at n i).lseq = s.lseq := rfl
@[simp] theorem State.at_rotation (s : State) (n : Nat) (i : Instr) :
    (s.at n i).rotation = s.rotation := rfl
@[simp] theorem State.at_reports (s : State) (n : Nat) (i : Instr) :
    (s.at n i).reports = s.reports := rfl
@[simp] theorem State.at_residents (s : State) (n : Nat) (i : Instr) :
    (s.at n i).residents = s.residents := rfl
@[simp] theorem State.at_ports (s : State) (n : Nat) (i : Instr) : (s.at n i).ports = s.ports := rfl
@[simp] theorem State.at_cxlDown (s : State) (n : Nat) (i : Instr) :
    (s.at n i).cxlDown = s.cxlDown := rfl
@[simp] theorem State.at_cxlSilent (s : State) (n : Nat) (i : Instr) :
    (s.at n i).cxlSilent = s.cxlSilent := rfl
@[simp] theorem State.at_outside (s : State) (n : Nat) (i : Instr) :
    (s.at n i).outside = s.outside := rfl
@[simp] theorem State.at_rounds (s : State) (n : Nat) (i : Instr) :
    (s.at n i).rounds = s.rounds := rfl
@[simp] theorem State.at_dmap (s : State) (n : Nat) (i : Instr) : (s.at n i).dmap = s.dmap := rfl
@[simp] theorem State.at_ien (s : State) (n : Nat) (i : Instr) : (s.at n i).ien = s.ien := rfl
@[simp] theorem State.at_ipend (s : State) (n : Nat) (i : Instr) : (s.at n i).ipend = s.ipend := rfl
@[simp] theorem State.at_msixTable (s : State) (n : Nat) (i : Instr) :
    (s.at n i).msixTable = s.msixTable := rfl
@[simp] theorem State.at_msixPending (s : State) (n : Nat) (i : Instr) :
    (s.at n i).msixPending = s.msixPending := rfl
@[simp] theorem State.at_msixFunctionMask (s : State) (n : Nat) (i : Instr) :
    (s.at n i).msixFunctionMask = s.msixFunctionMask := rfl
@[simp] theorem State.at_cm (s : State) (n : Nat) (i : Instr) : (s.at n i).cm = s.cm := rfl
@[simp] theorem State.at_ce (s : State) (n : Nat) (i : Instr) : (s.at n i).ce = s.ce := rfl
@[simp] theorem State.at_pwr (s : State) (n : Nat) (i : Instr) : (s.at n i).pwr = s.pwr := rfl
@[simp] theorem State.at_tj (s : State) (n : Nat) (i : Instr) : (s.at n i).tj = s.tj := rfl
@[simp] theorem State.at_plim (s : State) (n : Nat) (i : Instr) : (s.at n i).plim = s.plim := rfl
@[simp] theorem State.at_mcmd (s : State) (n : Nat) (i : Instr) : (s.at n i).mcmd = s.mcmd := rfl
@[simp] theorem State.at_retn (s : State) (n : Nat) (i : Instr) : (s.at n i).retn = s.retn := rfl
@[simp] theorem State.at_keys (s : State) (n : Nat) (i : Instr) : (s.at n i).keys = s.keys := rfl
@[simp] theorem State.at_firmware (s : State) (n : Nat) (i : Instr) :
    (s.at n i).firmware = s.firmware := rfl
@[simp] theorem State.at_monitors (s : State) (n : Nat) (i : Instr) :
    (s.at n i).monitors = s.monitors := rfl
@[simp] theorem State.at_hostOut (s : State) (n : Nat) (i : Instr) :
    (s.at n i).hostOut = s.hostOut := rfl

/-! ### later -/

@[simp] theorem State.later_cycle (s : State) (n : Nat) (i : Instr) :
    (s.later n i).cycle = s.cycle := rfl
@[simp] theorem State.later_power (s : State) (n : Nat) (i : Instr) :
    (s.later n i).power = s.power := rfl
@[simp] theorem State.later_dev (s : State) (n : Nat) (i : Instr) : (s.later n i).dev = s.dev := rfl
@[simp] theorem State.later_failBlk (s : State) (n : Nat) (i : Instr) :
    (s.later n i).failBlk = s.failBlk := rfl
@[simp] theorem State.later_agenda (s : State) (n : Nat) (i : Instr) :
    (s.later n i).agenda = agendaInsert (s.cycle + n + Config.delay s.fresh) i s.agenda := rfl
@[simp] theorem State.later_todo (s : State) (n : Nat) (i : Instr) :
    (s.later n i).todo = s.todo := rfl
@[simp] theorem State.later_curCore (s : State) (n : Nat) (i : Instr) :
    (s.later n i).curCore = s.curCore := rfl
@[simp] theorem State.later_curCtx (s : State) (n : Nat) (i : Instr) :
    (s.later n i).curCtx = s.curCtx := rfl
@[simp] theorem State.later_fresh (s : State) (n : Nat) (i : Instr) :
    (s.later n i).fresh = s.fresh + 1 := rfl
@[simp] theorem State.later_nextId (s : State) (n : Nat) (i : Instr) :
    (s.later n i).nextId = s.nextId := rfl
@[simp] theorem State.later_mem (s : State) (n : Nat) (i : Instr) : (s.later n i).mem = s.mem := rfl
@[simp] theorem State.later_poison (s : State) (n : Nat) (i : Instr) :
    (s.later n i).poison = s.poison := rfl
@[simp] theorem State.later_full (s : State) (n : Nat) (i : Instr) :
    (s.later n i).full = s.full := rfl
@[simp] theorem State.later_dirty (s : State) (n : Nat) (i : Instr) :
    (s.later n i).dirty = s.dirty := rfl
@[simp] theorem State.later_saved (s : State) (n : Nat) (i : Instr) :
    (s.later n i).saved = s.saved := rfl
@[simp] theorem State.later_atoms (s : State) (n : Nat) (i : Instr) :
    (s.later n i).atoms = s.atoms := rfl
@[simp] theorem State.later_cfg (s : State) (n : Nat) (i : Instr) : (s.later n i).cfg = s.cfg := rfl
@[simp] theorem State.later_routes (s : State) (n : Nat) (i : Instr) :
    (s.later n i).routes = s.routes := rfl
@[simp] theorem State.later_cores (s : State) (n : Nat) (i : Instr) :
    (s.later n i).cores = s.cores := rfl
@[simp] theorem State.later_loads (s : State) (n : Nat) (i : Instr) :
    (s.later n i).loads = s.loads := rfl
@[simp] theorem State.later_packets (s : State) (n : Nat) (i : Instr) :
    (s.later n i).packets = s.packets := rfl
@[simp] theorem State.later_accs (s : State) (n : Nat) (i : Instr) :
    (s.later n i).accs = s.accs := rfl
@[simp] theorem State.later_copies (s : State) (n : Nat) (i : Instr) :
    (s.later n i).copies = s.copies := rfl
@[simp] theorem State.later_acks (s : State) (n : Nat) (i : Instr) :
    (s.later n i).acks = s.acks := rfl
@[simp] theorem State.later_results (s : State) (n : Nat) (i : Instr) :
    (s.later n i).results = s.results := rfl
@[simp] theorem State.later_gcmds (s : State) (n : Nat) (i : Instr) :
    (s.later n i).gcmds = s.gcmds := rfl
@[simp] theorem State.later_sigs (s : State) (n : Nat) (i : Instr) :
    (s.later n i).sigs = s.sigs := rfl
@[simp] theorem State.later_streams (s : State) (n : Nat) (i : Instr) :
    (s.later n i).streams = s.streams := rfl
@[simp] theorem State.later_withheld (s : State) (n : Nat) (i : Instr) :
    (s.later n i).withheld = s.withheld := rfl
@[simp] theorem State.later_walks (s : State) (n : Nat) (i : Instr) :
    (s.later n i).walks = s.walks := rfl
@[simp] theorem State.later_saccs (s : State) (n : Nat) (i : Instr) :
    (s.later n i).saccs = s.saccs := rfl
@[simp] theorem State.later_tlbs (s : State) (n : Nat) (i : Instr) :
    (s.later n i).tlbs = s.tlbs := rfl
@[simp] theorem State.later_invals (s : State) (n : Nat) (i : Instr) :
    (s.later n i).invals = s.invals := rfl
@[simp] theorem State.later_qfcnt (s : State) (n : Nat) (i : Instr) :
    (s.later n i).qfcnt = s.qfcnt := rfl
@[simp] theorem State.later_qtgt (s : State) (n : Nat) (i : Instr) :
    (s.later n i).qtgt = s.qtgt := rfl
@[simp] theorem State.later_qbind (s : State) (n : Nat) (i : Instr) :
    (s.later n i).qbind = s.qbind := rfl
@[simp] theorem State.later_sessions (s : State) (n : Nat) (i : Instr) :
    (s.later n i).sessions = s.sessions := rfl
@[simp] theorem State.later_balAcc (s : State) (n : Nat) (i : Instr) :
    (s.later n i).balAcc = s.balAcc := rfl
@[simp] theorem State.later_balBase (s : State) (n : Nat) (i : Instr) :
    (s.later n i).balBase = s.balBase := rfl
@[simp] theorem State.later_admitted (s : State) (n : Nat) (i : Instr) :
    (s.later n i).admitted = s.admitted := rfl
@[simp] theorem State.later_queues (s : State) (n : Nat) (i : Instr) :
    (s.later n i).queues = s.queues := rfl
@[simp] theorem State.later_launches (s : State) (n : Nat) (i : Instr) :
    (s.later n i).launches = s.launches := rfl
@[simp] theorem State.later_lseq (s : State) (n : Nat) (i : Instr) :
    (s.later n i).lseq = s.lseq := rfl
@[simp] theorem State.later_rotation (s : State) (n : Nat) (i : Instr) :
    (s.later n i).rotation = s.rotation := rfl
@[simp] theorem State.later_reports (s : State) (n : Nat) (i : Instr) :
    (s.later n i).reports = s.reports := rfl
@[simp] theorem State.later_residents (s : State) (n : Nat) (i : Instr) :
    (s.later n i).residents = s.residents := rfl
@[simp] theorem State.later_ports (s : State) (n : Nat) (i : Instr) :
    (s.later n i).ports = s.ports := rfl
@[simp] theorem State.later_cxlDown (s : State) (n : Nat) (i : Instr) :
    (s.later n i).cxlDown = s.cxlDown := rfl
@[simp] theorem State.later_cxlSilent (s : State) (n : Nat) (i : Instr) :
    (s.later n i).cxlSilent = s.cxlSilent := rfl
@[simp] theorem State.later_outside (s : State) (n : Nat) (i : Instr) :
    (s.later n i).outside = s.outside := rfl
@[simp] theorem State.later_rounds (s : State) (n : Nat) (i : Instr) :
    (s.later n i).rounds = s.rounds := rfl
@[simp] theorem State.later_dmap (s : State) (n : Nat) (i : Instr) :
    (s.later n i).dmap = s.dmap := rfl
@[simp] theorem State.later_ien (s : State) (n : Nat) (i : Instr) : (s.later n i).ien = s.ien := rfl
@[simp] theorem State.later_ipend (s : State) (n : Nat) (i : Instr) :
    (s.later n i).ipend = s.ipend := rfl
@[simp] theorem State.later_msixTable (s : State) (n : Nat) (i : Instr) :
    (s.later n i).msixTable = s.msixTable := rfl
@[simp] theorem State.later_msixPending (s : State) (n : Nat) (i : Instr) :
    (s.later n i).msixPending = s.msixPending := rfl
@[simp] theorem State.later_msixFunctionMask (s : State) (n : Nat) (i : Instr) :
    (s.later n i).msixFunctionMask = s.msixFunctionMask := rfl
@[simp] theorem State.later_cm (s : State) (n : Nat) (i : Instr) : (s.later n i).cm = s.cm := rfl
@[simp] theorem State.later_ce (s : State) (n : Nat) (i : Instr) : (s.later n i).ce = s.ce := rfl
@[simp] theorem State.later_pwr (s : State) (n : Nat) (i : Instr) : (s.later n i).pwr = s.pwr := rfl
@[simp] theorem State.later_tj (s : State) (n : Nat) (i : Instr) : (s.later n i).tj = s.tj := rfl
@[simp] theorem State.later_plim (s : State) (n : Nat) (i : Instr) :
    (s.later n i).plim = s.plim := rfl
@[simp] theorem State.later_mcmd (s : State) (n : Nat) (i : Instr) :
    (s.later n i).mcmd = s.mcmd := rfl
@[simp] theorem State.later_retn (s : State) (n : Nat) (i : Instr) :
    (s.later n i).retn = s.retn := rfl
@[simp] theorem State.later_keys (s : State) (n : Nat) (i : Instr) :
    (s.later n i).keys = s.keys := rfl
@[simp] theorem State.later_firmware (s : State) (n : Nat) (i : Instr) :
    (s.later n i).firmware = s.firmware := rfl
@[simp] theorem State.later_monitors (s : State) (n : Nat) (i : Instr) :
    (s.later n i).monitors = s.monitors := rfl
@[simp] theorem State.later_hostOut (s : State) (n : Nat) (i : Instr) :
    (s.later n i).hostOut = s.hostOut := rfl

/-! ### within -/

@[simp] theorem State.within_cycle (s : State) (n m : Nat) (i : Instr) :
    (s.within n m i).cycle = s.cycle := rfl
@[simp] theorem State.within_power (s : State) (n m : Nat) (i : Instr) :
    (s.within n m i).power = s.power := rfl
@[simp] theorem State.within_dev (s : State) (n m : Nat) (i : Instr) :
    (s.within n m i).dev = s.dev := rfl
@[simp] theorem State.within_failBlk (s : State) (n m : Nat) (i : Instr) :
    (s.within n m i).failBlk = s.failBlk := rfl
@[simp] theorem State.within_agenda (s : State) (n m : Nat) (i : Instr) :
    (s.within n m i).agenda = agendaInsert (s.cycle + min (n + Config.delay s.fresh) m) i s.agenda := rfl
@[simp] theorem State.within_todo (s : State) (n m : Nat) (i : Instr) :
    (s.within n m i).todo = s.todo := rfl
@[simp] theorem State.within_curCore (s : State) (n m : Nat) (i : Instr) :
    (s.within n m i).curCore = s.curCore := rfl
@[simp] theorem State.within_curCtx (s : State) (n m : Nat) (i : Instr) :
    (s.within n m i).curCtx = s.curCtx := rfl
@[simp] theorem State.within_fresh (s : State) (n m : Nat) (i : Instr) :
    (s.within n m i).fresh = s.fresh + 1 := rfl
@[simp] theorem State.within_nextId (s : State) (n m : Nat) (i : Instr) :
    (s.within n m i).nextId = s.nextId := rfl
@[simp] theorem State.within_mem (s : State) (n m : Nat) (i : Instr) :
    (s.within n m i).mem = s.mem := rfl
@[simp] theorem State.within_poison (s : State) (n m : Nat) (i : Instr) :
    (s.within n m i).poison = s.poison := rfl
@[simp] theorem State.within_full (s : State) (n m : Nat) (i : Instr) :
    (s.within n m i).full = s.full := rfl
@[simp] theorem State.within_dirty (s : State) (n m : Nat) (i : Instr) :
    (s.within n m i).dirty = s.dirty := rfl
@[simp] theorem State.within_saved (s : State) (n m : Nat) (i : Instr) :
    (s.within n m i).saved = s.saved := rfl
@[simp] theorem State.within_atoms (s : State) (n m : Nat) (i : Instr) :
    (s.within n m i).atoms = s.atoms := rfl
@[simp] theorem State.within_cfg (s : State) (n m : Nat) (i : Instr) :
    (s.within n m i).cfg = s.cfg := rfl
@[simp] theorem State.within_routes (s : State) (n m : Nat) (i : Instr) :
    (s.within n m i).routes = s.routes := rfl
@[simp] theorem State.within_cores (s : State) (n m : Nat) (i : Instr) :
    (s.within n m i).cores = s.cores := rfl
@[simp] theorem State.within_loads (s : State) (n m : Nat) (i : Instr) :
    (s.within n m i).loads = s.loads := rfl
@[simp] theorem State.within_packets (s : State) (n m : Nat) (i : Instr) :
    (s.within n m i).packets = s.packets := rfl
@[simp] theorem State.within_accs (s : State) (n m : Nat) (i : Instr) :
    (s.within n m i).accs = s.accs := rfl
@[simp] theorem State.within_copies (s : State) (n m : Nat) (i : Instr) :
    (s.within n m i).copies = s.copies := rfl
@[simp] theorem State.within_acks (s : State) (n m : Nat) (i : Instr) :
    (s.within n m i).acks = s.acks := rfl
@[simp] theorem State.within_results (s : State) (n m : Nat) (i : Instr) :
    (s.within n m i).results = s.results := rfl
@[simp] theorem State.within_gcmds (s : State) (n m : Nat) (i : Instr) :
    (s.within n m i).gcmds = s.gcmds := rfl
@[simp] theorem State.within_sigs (s : State) (n m : Nat) (i : Instr) :
    (s.within n m i).sigs = s.sigs := rfl
@[simp] theorem State.within_streams (s : State) (n m : Nat) (i : Instr) :
    (s.within n m i).streams = s.streams := rfl
@[simp] theorem State.within_withheld (s : State) (n m : Nat) (i : Instr) :
    (s.within n m i).withheld = s.withheld := rfl
@[simp] theorem State.within_walks (s : State) (n m : Nat) (i : Instr) :
    (s.within n m i).walks = s.walks := rfl
@[simp] theorem State.within_saccs (s : State) (n m : Nat) (i : Instr) :
    (s.within n m i).saccs = s.saccs := rfl
@[simp] theorem State.within_tlbs (s : State) (n m : Nat) (i : Instr) :
    (s.within n m i).tlbs = s.tlbs := rfl
@[simp] theorem State.within_invals (s : State) (n m : Nat) (i : Instr) :
    (s.within n m i).invals = s.invals := rfl
@[simp] theorem State.within_qfcnt (s : State) (n m : Nat) (i : Instr) :
    (s.within n m i).qfcnt = s.qfcnt := rfl
@[simp] theorem State.within_qtgt (s : State) (n m : Nat) (i : Instr) :
    (s.within n m i).qtgt = s.qtgt := rfl
@[simp] theorem State.within_qbind (s : State) (n m : Nat) (i : Instr) :
    (s.within n m i).qbind = s.qbind := rfl
@[simp] theorem State.within_sessions (s : State) (n m : Nat) (i : Instr) :
    (s.within n m i).sessions = s.sessions := rfl
@[simp] theorem State.within_balAcc (s : State) (n m : Nat) (i : Instr) :
    (s.within n m i).balAcc = s.balAcc := rfl
@[simp] theorem State.within_balBase (s : State) (n m : Nat) (i : Instr) :
    (s.within n m i).balBase = s.balBase := rfl
@[simp] theorem State.within_admitted (s : State) (n m : Nat) (i : Instr) :
    (s.within n m i).admitted = s.admitted := rfl
@[simp] theorem State.within_queues (s : State) (n m : Nat) (i : Instr) :
    (s.within n m i).queues = s.queues := rfl
@[simp] theorem State.within_launches (s : State) (n m : Nat) (i : Instr) :
    (s.within n m i).launches = s.launches := rfl
@[simp] theorem State.within_lseq (s : State) (n m : Nat) (i : Instr) :
    (s.within n m i).lseq = s.lseq := rfl
@[simp] theorem State.within_rotation (s : State) (n m : Nat) (i : Instr) :
    (s.within n m i).rotation = s.rotation := rfl
@[simp] theorem State.within_reports (s : State) (n m : Nat) (i : Instr) :
    (s.within n m i).reports = s.reports := rfl
@[simp] theorem State.within_residents (s : State) (n m : Nat) (i : Instr) :
    (s.within n m i).residents = s.residents := rfl
@[simp] theorem State.within_ports (s : State) (n m : Nat) (i : Instr) :
    (s.within n m i).ports = s.ports := rfl
@[simp] theorem State.within_cxlDown (s : State) (n m : Nat) (i : Instr) :
    (s.within n m i).cxlDown = s.cxlDown := rfl
@[simp] theorem State.within_cxlSilent (s : State) (n m : Nat) (i : Instr) :
    (s.within n m i).cxlSilent = s.cxlSilent := rfl
@[simp] theorem State.within_outside (s : State) (n m : Nat) (i : Instr) :
    (s.within n m i).outside = s.outside := rfl
@[simp] theorem State.within_rounds (s : State) (n m : Nat) (i : Instr) :
    (s.within n m i).rounds = s.rounds := rfl
@[simp] theorem State.within_dmap (s : State) (n m : Nat) (i : Instr) :
    (s.within n m i).dmap = s.dmap := rfl
@[simp] theorem State.within_ien (s : State) (n m : Nat) (i : Instr) :
    (s.within n m i).ien = s.ien := rfl
@[simp] theorem State.within_ipend (s : State) (n m : Nat) (i : Instr) :
    (s.within n m i).ipend = s.ipend := rfl
@[simp] theorem State.within_msixTable (s : State) (n m : Nat) (i : Instr) :
    (s.within n m i).msixTable = s.msixTable := rfl
@[simp] theorem State.within_msixPending (s : State) (n m : Nat) (i : Instr) :
    (s.within n m i).msixPending = s.msixPending := rfl
@[simp] theorem State.within_msixFunctionMask (s : State) (n m : Nat) (i : Instr) :
    (s.within n m i).msixFunctionMask = s.msixFunctionMask := rfl
@[simp] theorem State.within_cm (s : State) (n m : Nat) (i : Instr) :
    (s.within n m i).cm = s.cm := rfl
@[simp] theorem State.within_ce (s : State) (n m : Nat) (i : Instr) :
    (s.within n m i).ce = s.ce := rfl
@[simp] theorem State.within_pwr (s : State) (n m : Nat) (i : Instr) :
    (s.within n m i).pwr = s.pwr := rfl
@[simp] theorem State.within_tj (s : State) (n m : Nat) (i : Instr) :
    (s.within n m i).tj = s.tj := rfl
@[simp] theorem State.within_plim (s : State) (n m : Nat) (i : Instr) :
    (s.within n m i).plim = s.plim := rfl
@[simp] theorem State.within_mcmd (s : State) (n m : Nat) (i : Instr) :
    (s.within n m i).mcmd = s.mcmd := rfl
@[simp] theorem State.within_retn (s : State) (n m : Nat) (i : Instr) :
    (s.within n m i).retn = s.retn := rfl
@[simp] theorem State.within_keys (s : State) (n m : Nat) (i : Instr) :
    (s.within n m i).keys = s.keys := rfl
@[simp] theorem State.within_firmware (s : State) (n m : Nat) (i : Instr) :
    (s.within n m i).firmware = s.firmware := rfl
@[simp] theorem State.within_monitors (s : State) (n m : Nat) (i : Instr) :
    (s.within n m i).monitors = s.monitors := rfl
@[simp] theorem State.within_hostOut (s : State) (n m : Nat) (i : Instr) :
    (s.within n m i).hostOut = s.hostOut := rfl

/-! ### retry -/

@[simp] theorem State.retry_cycle (s : State) (i : Instr) : (s.retry i).cycle = s.cycle := rfl
@[simp] theorem State.retry_power (s : State) (i : Instr) : (s.retry i).power = s.power := rfl
@[simp] theorem State.retry_dev (s : State) (i : Instr) : (s.retry i).dev = s.dev := rfl
@[simp] theorem State.retry_failBlk (s : State) (i : Instr) : (s.retry i).failBlk = s.failBlk := rfl
@[simp] theorem State.retry_agenda (s : State) (i : Instr) :
    (s.retry i).agenda = agendaInsert (s.cycle + 1) i s.agenda := rfl
@[simp] theorem State.retry_todo (s : State) (i : Instr) : (s.retry i).todo = s.todo := rfl
@[simp] theorem State.retry_curCore (s : State) (i : Instr) : (s.retry i).curCore = s.curCore := rfl
@[simp] theorem State.retry_curCtx (s : State) (i : Instr) : (s.retry i).curCtx = s.curCtx := rfl
@[simp] theorem State.retry_fresh (s : State) (i : Instr) : (s.retry i).fresh = s.fresh := rfl
@[simp] theorem State.retry_nextId (s : State) (i : Instr) : (s.retry i).nextId = s.nextId := rfl
@[simp] theorem State.retry_mem (s : State) (i : Instr) : (s.retry i).mem = s.mem := rfl
@[simp] theorem State.retry_poison (s : State) (i : Instr) : (s.retry i).poison = s.poison := rfl
@[simp] theorem State.retry_full (s : State) (i : Instr) : (s.retry i).full = s.full := rfl
@[simp] theorem State.retry_dirty (s : State) (i : Instr) : (s.retry i).dirty = s.dirty := rfl
@[simp] theorem State.retry_saved (s : State) (i : Instr) : (s.retry i).saved = s.saved := rfl
@[simp] theorem State.retry_atoms (s : State) (i : Instr) : (s.retry i).atoms = s.atoms := rfl
@[simp] theorem State.retry_cfg (s : State) (i : Instr) : (s.retry i).cfg = s.cfg := rfl
@[simp] theorem State.retry_routes (s : State) (i : Instr) : (s.retry i).routes = s.routes := rfl
@[simp] theorem State.retry_cores (s : State) (i : Instr) : (s.retry i).cores = s.cores := rfl
@[simp] theorem State.retry_loads (s : State) (i : Instr) : (s.retry i).loads = s.loads := rfl
@[simp] theorem State.retry_packets (s : State) (i : Instr) : (s.retry i).packets = s.packets := rfl
@[simp] theorem State.retry_accs (s : State) (i : Instr) : (s.retry i).accs = s.accs := rfl
@[simp] theorem State.retry_copies (s : State) (i : Instr) : (s.retry i).copies = s.copies := rfl
@[simp] theorem State.retry_acks (s : State) (i : Instr) : (s.retry i).acks = s.acks := rfl
@[simp] theorem State.retry_results (s : State) (i : Instr) : (s.retry i).results = s.results := rfl
@[simp] theorem State.retry_gcmds (s : State) (i : Instr) : (s.retry i).gcmds = s.gcmds := rfl
@[simp] theorem State.retry_sigs (s : State) (i : Instr) : (s.retry i).sigs = s.sigs := rfl
@[simp] theorem State.retry_streams (s : State) (i : Instr) : (s.retry i).streams = s.streams := rfl
@[simp] theorem State.retry_withheld (s : State) (i : Instr) :
    (s.retry i).withheld = s.withheld := rfl
@[simp] theorem State.retry_walks (s : State) (i : Instr) : (s.retry i).walks = s.walks := rfl
@[simp] theorem State.retry_saccs (s : State) (i : Instr) : (s.retry i).saccs = s.saccs := rfl
@[simp] theorem State.retry_tlbs (s : State) (i : Instr) : (s.retry i).tlbs = s.tlbs := rfl
@[simp] theorem State.retry_invals (s : State) (i : Instr) : (s.retry i).invals = s.invals := rfl
@[simp] theorem State.retry_qfcnt (s : State) (i : Instr) : (s.retry i).qfcnt = s.qfcnt := rfl
@[simp] theorem State.retry_qtgt (s : State) (i : Instr) : (s.retry i).qtgt = s.qtgt := rfl
@[simp] theorem State.retry_qbind (s : State) (i : Instr) : (s.retry i).qbind = s.qbind := rfl
@[simp] theorem State.retry_sessions (s : State) (i : Instr) :
    (s.retry i).sessions = s.sessions := rfl
@[simp] theorem State.retry_balAcc (s : State) (i : Instr) : (s.retry i).balAcc = s.balAcc := rfl
@[simp] theorem State.retry_balBase (s : State) (i : Instr) : (s.retry i).balBase = s.balBase := rfl
@[simp] theorem State.retry_admitted (s : State) (i : Instr) :
    (s.retry i).admitted = s.admitted := rfl
@[simp] theorem State.retry_queues (s : State) (i : Instr) : (s.retry i).queues = s.queues := rfl
@[simp] theorem State.retry_launches (s : State) (i : Instr) :
    (s.retry i).launches = s.launches := rfl
@[simp] theorem State.retry_lseq (s : State) (i : Instr) : (s.retry i).lseq = s.lseq := rfl
@[simp] theorem State.retry_rotation (s : State) (i : Instr) :
    (s.retry i).rotation = s.rotation := rfl
@[simp] theorem State.retry_reports (s : State) (i : Instr) : (s.retry i).reports = s.reports := rfl
@[simp] theorem State.retry_residents (s : State) (i : Instr) :
    (s.retry i).residents = s.residents := rfl
@[simp] theorem State.retry_ports (s : State) (i : Instr) : (s.retry i).ports = s.ports := rfl
@[simp] theorem State.retry_cxlDown (s : State) (i : Instr) : (s.retry i).cxlDown = s.cxlDown := rfl
@[simp] theorem State.retry_cxlSilent (s : State) (i : Instr) :
    (s.retry i).cxlSilent = s.cxlSilent := rfl
@[simp] theorem State.retry_outside (s : State) (i : Instr) : (s.retry i).outside = s.outside := rfl
@[simp] theorem State.retry_rounds (s : State) (i : Instr) : (s.retry i).rounds = s.rounds := rfl
@[simp] theorem State.retry_dmap (s : State) (i : Instr) : (s.retry i).dmap = s.dmap := rfl
@[simp] theorem State.retry_ien (s : State) (i : Instr) : (s.retry i).ien = s.ien := rfl
@[simp] theorem State.retry_ipend (s : State) (i : Instr) : (s.retry i).ipend = s.ipend := rfl
@[simp] theorem State.retry_msixTable (s : State) (i : Instr) :
    (s.retry i).msixTable = s.msixTable := rfl
@[simp] theorem State.retry_msixPending (s : State) (i : Instr) :
    (s.retry i).msixPending = s.msixPending := rfl
@[simp] theorem State.retry_msixFunctionMask (s : State) (i : Instr) :
    (s.retry i).msixFunctionMask = s.msixFunctionMask := rfl
@[simp] theorem State.retry_cm (s : State) (i : Instr) : (s.retry i).cm = s.cm := rfl
@[simp] theorem State.retry_ce (s : State) (i : Instr) : (s.retry i).ce = s.ce := rfl
@[simp] theorem State.retry_pwr (s : State) (i : Instr) : (s.retry i).pwr = s.pwr := rfl
@[simp] theorem State.retry_tj (s : State) (i : Instr) : (s.retry i).tj = s.tj := rfl
@[simp] theorem State.retry_plim (s : State) (i : Instr) : (s.retry i).plim = s.plim := rfl
@[simp] theorem State.retry_mcmd (s : State) (i : Instr) : (s.retry i).mcmd = s.mcmd := rfl
@[simp] theorem State.retry_retn (s : State) (i : Instr) : (s.retry i).retn = s.retn := rfl
@[simp] theorem State.retry_keys (s : State) (i : Instr) : (s.retry i).keys = s.keys := rfl
@[simp] theorem State.retry_firmware (s : State) (i : Instr) :
    (s.retry i).firmware = s.firmware := rfl
@[simp] theorem State.retry_monitors (s : State) (i : Instr) :
    (s.retry i).monitors = s.monitors := rfl
@[simp] theorem State.retry_hostOut (s : State) (i : Instr) : (s.retry i).hostOut = s.hostOut := rfl

/-! ### newId -/

@[simp] theorem State.newId_cycle (s : State) : s.newId.cycle = s.cycle := rfl
@[simp] theorem State.newId_power (s : State) : s.newId.power = s.power := rfl
@[simp] theorem State.newId_dev (s : State) : s.newId.dev = s.dev := rfl
@[simp] theorem State.newId_failBlk (s : State) : s.newId.failBlk = s.failBlk := rfl
@[simp] theorem State.newId_agenda (s : State) : s.newId.agenda = s.agenda := rfl
@[simp] theorem State.newId_todo (s : State) : s.newId.todo = s.todo := rfl
@[simp] theorem State.newId_curCore (s : State) : s.newId.curCore = s.curCore := rfl
@[simp] theorem State.newId_curCtx (s : State) : s.newId.curCtx = s.curCtx := rfl
@[simp] theorem State.newId_fresh (s : State) : s.newId.fresh = s.fresh := rfl
@[simp] theorem State.newId_nextId (s : State) : s.newId.nextId = s.nextId + 1 := rfl
@[simp] theorem State.newId_mem (s : State) : s.newId.mem = s.mem := rfl
@[simp] theorem State.newId_poison (s : State) : s.newId.poison = s.poison := rfl
@[simp] theorem State.newId_full (s : State) : s.newId.full = s.full := rfl
@[simp] theorem State.newId_dirty (s : State) : s.newId.dirty = s.dirty := rfl
@[simp] theorem State.newId_saved (s : State) : s.newId.saved = s.saved := rfl
@[simp] theorem State.newId_atoms (s : State) : s.newId.atoms = s.atoms := rfl
@[simp] theorem State.newId_cfg (s : State) : s.newId.cfg = s.cfg := rfl
@[simp] theorem State.newId_routes (s : State) : s.newId.routes = s.routes := rfl
@[simp] theorem State.newId_cores (s : State) : s.newId.cores = s.cores := rfl
@[simp] theorem State.newId_loads (s : State) : s.newId.loads = s.loads := rfl
@[simp] theorem State.newId_packets (s : State) : s.newId.packets = s.packets := rfl
@[simp] theorem State.newId_accs (s : State) : s.newId.accs = s.accs := rfl
@[simp] theorem State.newId_copies (s : State) : s.newId.copies = s.copies := rfl
@[simp] theorem State.newId_acks (s : State) : s.newId.acks = s.acks := rfl
@[simp] theorem State.newId_results (s : State) : s.newId.results = s.results := rfl
@[simp] theorem State.newId_gcmds (s : State) : s.newId.gcmds = s.gcmds := rfl
@[simp] theorem State.newId_sigs (s : State) : s.newId.sigs = s.sigs := rfl
@[simp] theorem State.newId_streams (s : State) : s.newId.streams = s.streams := rfl
@[simp] theorem State.newId_withheld (s : State) : s.newId.withheld = s.withheld := rfl
@[simp] theorem State.newId_walks (s : State) : s.newId.walks = s.walks := rfl
@[simp] theorem State.newId_saccs (s : State) : s.newId.saccs = s.saccs := rfl
@[simp] theorem State.newId_tlbs (s : State) : s.newId.tlbs = s.tlbs := rfl
@[simp] theorem State.newId_invals (s : State) : s.newId.invals = s.invals := rfl
@[simp] theorem State.newId_qfcnt (s : State) : s.newId.qfcnt = s.qfcnt := rfl
@[simp] theorem State.newId_qtgt (s : State) : s.newId.qtgt = s.qtgt := rfl
@[simp] theorem State.newId_qbind (s : State) : s.newId.qbind = s.qbind := rfl
@[simp] theorem State.newId_sessions (s : State) : s.newId.sessions = s.sessions := rfl
@[simp] theorem State.newId_balAcc (s : State) : s.newId.balAcc = s.balAcc := rfl
@[simp] theorem State.newId_balBase (s : State) : s.newId.balBase = s.balBase := rfl
@[simp] theorem State.newId_admitted (s : State) : s.newId.admitted = s.admitted := rfl
@[simp] theorem State.newId_queues (s : State) : s.newId.queues = s.queues := rfl
@[simp] theorem State.newId_launches (s : State) : s.newId.launches = s.launches := rfl
@[simp] theorem State.newId_lseq (s : State) : s.newId.lseq = s.lseq := rfl
@[simp] theorem State.newId_rotation (s : State) : s.newId.rotation = s.rotation := rfl
@[simp] theorem State.newId_reports (s : State) : s.newId.reports = s.reports := rfl
@[simp] theorem State.newId_residents (s : State) : s.newId.residents = s.residents := rfl
@[simp] theorem State.newId_ports (s : State) : s.newId.ports = s.ports := rfl
@[simp] theorem State.newId_cxlDown (s : State) : s.newId.cxlDown = s.cxlDown := rfl
@[simp] theorem State.newId_cxlSilent (s : State) : s.newId.cxlSilent = s.cxlSilent := rfl
@[simp] theorem State.newId_outside (s : State) : s.newId.outside = s.outside := rfl
@[simp] theorem State.newId_rounds (s : State) : s.newId.rounds = s.rounds := rfl
@[simp] theorem State.newId_dmap (s : State) : s.newId.dmap = s.dmap := rfl
@[simp] theorem State.newId_ien (s : State) : s.newId.ien = s.ien := rfl
@[simp] theorem State.newId_ipend (s : State) : s.newId.ipend = s.ipend := rfl
@[simp] theorem State.newId_msixTable (s : State) : s.newId.msixTable = s.msixTable := rfl
@[simp] theorem State.newId_msixPending (s : State) : s.newId.msixPending = s.msixPending := rfl
@[simp] theorem State.newId_msixFunctionMask (s : State) :
    s.newId.msixFunctionMask = s.msixFunctionMask := rfl
@[simp] theorem State.newId_cm (s : State) : s.newId.cm = s.cm := rfl
@[simp] theorem State.newId_ce (s : State) : s.newId.ce = s.ce := rfl
@[simp] theorem State.newId_pwr (s : State) : s.newId.pwr = s.pwr := rfl
@[simp] theorem State.newId_tj (s : State) : s.newId.tj = s.tj := rfl
@[simp] theorem State.newId_plim (s : State) : s.newId.plim = s.plim := rfl
@[simp] theorem State.newId_mcmd (s : State) : s.newId.mcmd = s.mcmd := rfl
@[simp] theorem State.newId_retn (s : State) : s.newId.retn = s.retn := rfl
@[simp] theorem State.newId_keys (s : State) : s.newId.keys = s.keys := rfl
@[simp] theorem State.newId_firmware (s : State) : s.newId.firmware = s.firmware := rfl
@[simp] theorem State.newId_monitors (s : State) : s.newId.monitors = s.monitors := rfl
@[simp] theorem State.newId_hostOut (s : State) : s.newId.hostOut = s.hostOut := rfl

/-! ### focus -/

@[simp] theorem State.focus_cycle (s : State) (c x : Nat) : (s.focus c x).cycle = s.cycle := rfl
@[simp] theorem State.focus_power (s : State) (c x : Nat) : (s.focus c x).power = s.power := rfl
@[simp] theorem State.focus_dev (s : State) (c x : Nat) : (s.focus c x).dev = s.dev := rfl
@[simp] theorem State.focus_failBlk (s : State) (c x : Nat) :
    (s.focus c x).failBlk = s.failBlk := rfl
@[simp] theorem State.focus_agenda (s : State) (c x : Nat) : (s.focus c x).agenda = s.agenda := rfl
@[simp] theorem State.focus_todo (s : State) (c x : Nat) : (s.focus c x).todo = s.todo := rfl
@[simp] theorem State.focus_curCore (s : State) (c x : Nat) : (s.focus c x).curCore = c := rfl
@[simp] theorem State.focus_curCtx (s : State) (c x : Nat) : (s.focus c x).curCtx = x := rfl
@[simp] theorem State.focus_fresh (s : State) (c x : Nat) : (s.focus c x).fresh = s.fresh := rfl
@[simp] theorem State.focus_nextId (s : State) (c x : Nat) : (s.focus c x).nextId = s.nextId := rfl
@[simp] theorem State.focus_mem (s : State) (c x : Nat) : (s.focus c x).mem = s.mem := rfl
@[simp] theorem State.focus_poison (s : State) (c x : Nat) : (s.focus c x).poison = s.poison := rfl
@[simp] theorem State.focus_full (s : State) (c x : Nat) : (s.focus c x).full = s.full := rfl
@[simp] theorem State.focus_dirty (s : State) (c x : Nat) : (s.focus c x).dirty = s.dirty := rfl
@[simp] theorem State.focus_saved (s : State) (c x : Nat) : (s.focus c x).saved = s.saved := rfl
@[simp] theorem State.focus_atoms (s : State) (c x : Nat) : (s.focus c x).atoms = s.atoms := rfl
@[simp] theorem State.focus_cfg (s : State) (c x : Nat) : (s.focus c x).cfg = s.cfg := rfl
@[simp] theorem State.focus_routes (s : State) (c x : Nat) : (s.focus c x).routes = s.routes := rfl
@[simp] theorem State.focus_cores (s : State) (c x : Nat) : (s.focus c x).cores = s.cores := rfl
@[simp] theorem State.focus_loads (s : State) (c x : Nat) : (s.focus c x).loads = s.loads := rfl
@[simp] theorem State.focus_packets (s : State) (c x : Nat) :
    (s.focus c x).packets = s.packets := rfl
@[simp] theorem State.focus_accs (s : State) (c x : Nat) : (s.focus c x).accs = s.accs := rfl
@[simp] theorem State.focus_copies (s : State) (c x : Nat) : (s.focus c x).copies = s.copies := rfl
@[simp] theorem State.focus_acks (s : State) (c x : Nat) : (s.focus c x).acks = s.acks := rfl
@[simp] theorem State.focus_results (s : State) (c x : Nat) :
    (s.focus c x).results = s.results := rfl
@[simp] theorem State.focus_gcmds (s : State) (c x : Nat) : (s.focus c x).gcmds = s.gcmds := rfl
@[simp] theorem State.focus_sigs (s : State) (c x : Nat) : (s.focus c x).sigs = s.sigs := rfl
@[simp] theorem State.focus_streams (s : State) (c x : Nat) :
    (s.focus c x).streams = s.streams := rfl
@[simp] theorem State.focus_withheld (s : State) (c x : Nat) :
    (s.focus c x).withheld = s.withheld := rfl
@[simp] theorem State.focus_walks (s : State) (c x : Nat) : (s.focus c x).walks = s.walks := rfl
@[simp] theorem State.focus_saccs (s : State) (c x : Nat) : (s.focus c x).saccs = s.saccs := rfl
@[simp] theorem State.focus_tlbs (s : State) (c x : Nat) : (s.focus c x).tlbs = s.tlbs := rfl
@[simp] theorem State.focus_invals (s : State) (c x : Nat) : (s.focus c x).invals = s.invals := rfl
@[simp] theorem State.focus_qfcnt (s : State) (c x : Nat) : (s.focus c x).qfcnt = s.qfcnt := rfl
@[simp] theorem State.focus_qtgt (s : State) (c x : Nat) : (s.focus c x).qtgt = s.qtgt := rfl
@[simp] theorem State.focus_qbind (s : State) (c x : Nat) : (s.focus c x).qbind = s.qbind := rfl
@[simp] theorem State.focus_sessions (s : State) (c x : Nat) :
    (s.focus c x).sessions = s.sessions := rfl
@[simp] theorem State.focus_balAcc (s : State) (c x : Nat) : (s.focus c x).balAcc = s.balAcc := rfl
@[simp] theorem State.focus_balBase (s : State) (c x : Nat) :
    (s.focus c x).balBase = s.balBase := rfl
@[simp] theorem State.focus_admitted (s : State) (c x : Nat) :
    (s.focus c x).admitted = s.admitted := rfl
@[simp] theorem State.focus_queues (s : State) (c x : Nat) : (s.focus c x).queues = s.queues := rfl
@[simp] theorem State.focus_launches (s : State) (c x : Nat) :
    (s.focus c x).launches = s.launches := rfl
@[simp] theorem State.focus_lseq (s : State) (c x : Nat) : (s.focus c x).lseq = s.lseq := rfl
@[simp] theorem State.focus_rotation (s : State) (c x : Nat) :
    (s.focus c x).rotation = s.rotation := rfl
@[simp] theorem State.focus_reports (s : State) (c x : Nat) :
    (s.focus c x).reports = s.reports := rfl
@[simp] theorem State.focus_residents (s : State) (c x : Nat) :
    (s.focus c x).residents = s.residents := rfl
@[simp] theorem State.focus_ports (s : State) (c x : Nat) : (s.focus c x).ports = s.ports := rfl
@[simp] theorem State.focus_cxlDown (s : State) (c x : Nat) :
    (s.focus c x).cxlDown = s.cxlDown := rfl
@[simp] theorem State.focus_cxlSilent (s : State) (c x : Nat) :
    (s.focus c x).cxlSilent = s.cxlSilent := rfl
@[simp] theorem State.focus_outside (s : State) (c x : Nat) :
    (s.focus c x).outside = s.outside := rfl
@[simp] theorem State.focus_rounds (s : State) (c x : Nat) : (s.focus c x).rounds = s.rounds := rfl
@[simp] theorem State.focus_dmap (s : State) (c x : Nat) : (s.focus c x).dmap = s.dmap := rfl
@[simp] theorem State.focus_ien (s : State) (c x : Nat) : (s.focus c x).ien = s.ien := rfl
@[simp] theorem State.focus_ipend (s : State) (c x : Nat) : (s.focus c x).ipend = s.ipend := rfl
@[simp] theorem State.focus_msixTable (s : State) (c x : Nat) :
    (s.focus c x).msixTable = s.msixTable := rfl
@[simp] theorem State.focus_msixPending (s : State) (c x : Nat) :
    (s.focus c x).msixPending = s.msixPending := rfl
@[simp] theorem State.focus_msixFunctionMask (s : State) (c x : Nat) :
    (s.focus c x).msixFunctionMask = s.msixFunctionMask := rfl
@[simp] theorem State.focus_cm (s : State) (c x : Nat) : (s.focus c x).cm = s.cm := rfl
@[simp] theorem State.focus_ce (s : State) (c x : Nat) : (s.focus c x).ce = s.ce := rfl
@[simp] theorem State.focus_pwr (s : State) (c x : Nat) : (s.focus c x).pwr = s.pwr := rfl
@[simp] theorem State.focus_tj (s : State) (c x : Nat) : (s.focus c x).tj = s.tj := rfl
@[simp] theorem State.focus_plim (s : State) (c x : Nat) : (s.focus c x).plim = s.plim := rfl
@[simp] theorem State.focus_mcmd (s : State) (c x : Nat) : (s.focus c x).mcmd = s.mcmd := rfl
@[simp] theorem State.focus_retn (s : State) (c x : Nat) : (s.focus c x).retn = s.retn := rfl
@[simp] theorem State.focus_keys (s : State) (c x : Nat) : (s.focus c x).keys = s.keys := rfl
@[simp] theorem State.focus_firmware (s : State) (c x : Nat) :
    (s.focus c x).firmware = s.firmware := rfl
@[simp] theorem State.focus_monitors (s : State) (c x : Nat) :
    (s.focus c x).monitors = s.monitors := rfl
@[simp] theorem State.focus_hostOut (s : State) (c x : Nat) :
    (s.focus c x).hostOut = s.hostOut := rfl

/-! ### writeRegs -/

@[simp] theorem State.writeRegs_cycle (s : State) (n : Nat) (ws : List (Nat × PVal)) :
    (s.writeRegs n ws).cycle = s.cycle := rfl
@[simp] theorem State.writeRegs_power (s : State) (n : Nat) (ws : List (Nat × PVal)) :
    (s.writeRegs n ws).power = s.power := rfl
@[simp] theorem State.writeRegs_dev (s : State) (n : Nat) (ws : List (Nat × PVal)) :
    (s.writeRegs n ws).dev = s.dev := rfl
@[simp] theorem State.writeRegs_failBlk (s : State) (n : Nat) (ws : List (Nat × PVal)) :
    (s.writeRegs n ws).failBlk = s.failBlk := rfl
@[simp] theorem State.writeRegs_agenda (s : State) (n : Nat) (ws : List (Nat × PVal)) :
    (s.writeRegs n ws).agenda = s.agenda := rfl
@[simp] theorem State.writeRegs_todo (s : State) (n : Nat) (ws : List (Nat × PVal)) :
    (s.writeRegs n ws).todo = s.todo := rfl
@[simp] theorem State.writeRegs_curCore (s : State) (n : Nat) (ws : List (Nat × PVal)) :
    (s.writeRegs n ws).curCore = s.curCore := rfl
@[simp] theorem State.writeRegs_curCtx (s : State) (n : Nat) (ws : List (Nat × PVal)) :
    (s.writeRegs n ws).curCtx = s.curCtx := rfl
@[simp] theorem State.writeRegs_fresh (s : State) (n : Nat) (ws : List (Nat × PVal)) :
    (s.writeRegs n ws).fresh = s.fresh := rfl
@[simp] theorem State.writeRegs_nextId (s : State) (n : Nat) (ws : List (Nat × PVal)) :
    (s.writeRegs n ws).nextId = s.nextId := rfl
@[simp] theorem State.writeRegs_mem (s : State) (n : Nat) (ws : List (Nat × PVal)) :
    (s.writeRegs n ws).mem = s.mem := rfl
@[simp] theorem State.writeRegs_poison (s : State) (n : Nat) (ws : List (Nat × PVal)) :
    (s.writeRegs n ws).poison = s.poison := rfl
@[simp] theorem State.writeRegs_full (s : State) (n : Nat) (ws : List (Nat × PVal)) :
    (s.writeRegs n ws).full = s.full := rfl
@[simp] theorem State.writeRegs_dirty (s : State) (n : Nat) (ws : List (Nat × PVal)) :
    (s.writeRegs n ws).dirty = s.dirty := rfl
@[simp] theorem State.writeRegs_saved (s : State) (n : Nat) (ws : List (Nat × PVal)) :
    (s.writeRegs n ws).saved = s.saved := rfl
@[simp] theorem State.writeRegs_atoms (s : State) (n : Nat) (ws : List (Nat × PVal)) :
    (s.writeRegs n ws).atoms = s.atoms := rfl
@[simp] theorem State.writeRegs_cfg (s : State) (n : Nat) (ws : List (Nat × PVal)) :
    (s.writeRegs n ws).cfg = s.cfg := rfl
@[simp] theorem State.writeRegs_routes (s : State) (n : Nat) (ws : List (Nat × PVal)) :
    (s.writeRegs n ws).routes = s.routes := rfl
@[simp] theorem State.writeRegs_loads (s : State) (n : Nat) (ws : List (Nat × PVal)) :
    (s.writeRegs n ws).loads = s.loads := rfl
@[simp] theorem State.writeRegs_packets (s : State) (n : Nat) (ws : List (Nat × PVal)) :
    (s.writeRegs n ws).packets = s.packets := rfl
@[simp] theorem State.writeRegs_accs (s : State) (n : Nat) (ws : List (Nat × PVal)) :
    (s.writeRegs n ws).accs = s.accs := rfl
@[simp] theorem State.writeRegs_copies (s : State) (n : Nat) (ws : List (Nat × PVal)) :
    (s.writeRegs n ws).copies = s.copies := rfl
@[simp] theorem State.writeRegs_acks (s : State) (n : Nat) (ws : List (Nat × PVal)) :
    (s.writeRegs n ws).acks = s.acks := rfl
@[simp] theorem State.writeRegs_results (s : State) (n : Nat) (ws : List (Nat × PVal)) :
    (s.writeRegs n ws).results = s.results := rfl
@[simp] theorem State.writeRegs_gcmds (s : State) (n : Nat) (ws : List (Nat × PVal)) :
    (s.writeRegs n ws).gcmds = s.gcmds := rfl
@[simp] theorem State.writeRegs_sigs (s : State) (n : Nat) (ws : List (Nat × PVal)) :
    (s.writeRegs n ws).sigs = s.sigs := rfl
@[simp] theorem State.writeRegs_streams (s : State) (n : Nat) (ws : List (Nat × PVal)) :
    (s.writeRegs n ws).streams = s.streams := rfl
@[simp] theorem State.writeRegs_withheld (s : State) (n : Nat) (ws : List (Nat × PVal)) :
    (s.writeRegs n ws).withheld = s.withheld := rfl
@[simp] theorem State.writeRegs_walks (s : State) (n : Nat) (ws : List (Nat × PVal)) :
    (s.writeRegs n ws).walks = s.walks := rfl
@[simp] theorem State.writeRegs_saccs (s : State) (n : Nat) (ws : List (Nat × PVal)) :
    (s.writeRegs n ws).saccs = s.saccs := rfl
@[simp] theorem State.writeRegs_tlbs (s : State) (n : Nat) (ws : List (Nat × PVal)) :
    (s.writeRegs n ws).tlbs = s.tlbs := rfl
@[simp] theorem State.writeRegs_invals (s : State) (n : Nat) (ws : List (Nat × PVal)) :
    (s.writeRegs n ws).invals = s.invals := rfl
@[simp] theorem State.writeRegs_qfcnt (s : State) (n : Nat) (ws : List (Nat × PVal)) :
    (s.writeRegs n ws).qfcnt = s.qfcnt := rfl
@[simp] theorem State.writeRegs_qtgt (s : State) (n : Nat) (ws : List (Nat × PVal)) :
    (s.writeRegs n ws).qtgt = s.qtgt := rfl
@[simp] theorem State.writeRegs_qbind (s : State) (n : Nat) (ws : List (Nat × PVal)) :
    (s.writeRegs n ws).qbind = s.qbind := rfl
@[simp] theorem State.writeRegs_sessions (s : State) (n : Nat) (ws : List (Nat × PVal)) :
    (s.writeRegs n ws).sessions = s.sessions := rfl
@[simp] theorem State.writeRegs_balAcc (s : State) (n : Nat) (ws : List (Nat × PVal)) :
    (s.writeRegs n ws).balAcc = s.balAcc := rfl
@[simp] theorem State.writeRegs_balBase (s : State) (n : Nat) (ws : List (Nat × PVal)) :
    (s.writeRegs n ws).balBase = s.balBase := rfl
@[simp] theorem State.writeRegs_admitted (s : State) (n : Nat) (ws : List (Nat × PVal)) :
    (s.writeRegs n ws).admitted = s.admitted := rfl
@[simp] theorem State.writeRegs_queues (s : State) (n : Nat) (ws : List (Nat × PVal)) :
    (s.writeRegs n ws).queues = s.queues := rfl
@[simp] theorem State.writeRegs_launches (s : State) (n : Nat) (ws : List (Nat × PVal)) :
    (s.writeRegs n ws).launches = s.launches := rfl
@[simp] theorem State.writeRegs_lseq (s : State) (n : Nat) (ws : List (Nat × PVal)) :
    (s.writeRegs n ws).lseq = s.lseq := rfl
@[simp] theorem State.writeRegs_rotation (s : State) (n : Nat) (ws : List (Nat × PVal)) :
    (s.writeRegs n ws).rotation = s.rotation := rfl
@[simp] theorem State.writeRegs_reports (s : State) (n : Nat) (ws : List (Nat × PVal)) :
    (s.writeRegs n ws).reports = s.reports := rfl
@[simp] theorem State.writeRegs_residents (s : State) (n : Nat) (ws : List (Nat × PVal)) :
    (s.writeRegs n ws).residents = s.residents := rfl
@[simp] theorem State.writeRegs_ports (s : State) (n : Nat) (ws : List (Nat × PVal)) :
    (s.writeRegs n ws).ports = s.ports := rfl
@[simp] theorem State.writeRegs_cxlDown (s : State) (n : Nat) (ws : List (Nat × PVal)) :
    (s.writeRegs n ws).cxlDown = s.cxlDown := rfl
@[simp] theorem State.writeRegs_cxlSilent (s : State) (n : Nat) (ws : List (Nat × PVal)) :
    (s.writeRegs n ws).cxlSilent = s.cxlSilent := rfl
@[simp] theorem State.writeRegs_outside (s : State) (n : Nat) (ws : List (Nat × PVal)) :
    (s.writeRegs n ws).outside = s.outside := rfl
@[simp] theorem State.writeRegs_rounds (s : State) (n : Nat) (ws : List (Nat × PVal)) :
    (s.writeRegs n ws).rounds = s.rounds := rfl
@[simp] theorem State.writeRegs_dmap (s : State) (n : Nat) (ws : List (Nat × PVal)) :
    (s.writeRegs n ws).dmap = s.dmap := rfl
@[simp] theorem State.writeRegs_ien (s : State) (n : Nat) (ws : List (Nat × PVal)) :
    (s.writeRegs n ws).ien = s.ien := rfl
@[simp] theorem State.writeRegs_ipend (s : State) (n : Nat) (ws : List (Nat × PVal)) :
    (s.writeRegs n ws).ipend = s.ipend := rfl
@[simp] theorem State.writeRegs_msixTable (s : State) (n : Nat) (ws : List (Nat × PVal)) :
    (s.writeRegs n ws).msixTable = s.msixTable := rfl
@[simp] theorem State.writeRegs_msixPending (s : State) (n : Nat) (ws : List (Nat × PVal)) :
    (s.writeRegs n ws).msixPending = s.msixPending := rfl
@[simp] theorem State.writeRegs_msixFunctionMask (s : State) (n : Nat) (ws : List (Nat × PVal)) :
    (s.writeRegs n ws).msixFunctionMask = s.msixFunctionMask := rfl
@[simp] theorem State.writeRegs_cm (s : State) (n : Nat) (ws : List (Nat × PVal)) :
    (s.writeRegs n ws).cm = s.cm := rfl
@[simp] theorem State.writeRegs_ce (s : State) (n : Nat) (ws : List (Nat × PVal)) :
    (s.writeRegs n ws).ce = s.ce := rfl
@[simp] theorem State.writeRegs_pwr (s : State) (n : Nat) (ws : List (Nat × PVal)) :
    (s.writeRegs n ws).pwr = s.pwr := rfl
@[simp] theorem State.writeRegs_tj (s : State) (n : Nat) (ws : List (Nat × PVal)) :
    (s.writeRegs n ws).tj = s.tj := rfl
@[simp] theorem State.writeRegs_plim (s : State) (n : Nat) (ws : List (Nat × PVal)) :
    (s.writeRegs n ws).plim = s.plim := rfl
@[simp] theorem State.writeRegs_mcmd (s : State) (n : Nat) (ws : List (Nat × PVal)) :
    (s.writeRegs n ws).mcmd = s.mcmd := rfl
@[simp] theorem State.writeRegs_retn (s : State) (n : Nat) (ws : List (Nat × PVal)) :
    (s.writeRegs n ws).retn = s.retn := rfl
@[simp] theorem State.writeRegs_keys (s : State) (n : Nat) (ws : List (Nat × PVal)) :
    (s.writeRegs n ws).keys = s.keys := rfl
@[simp] theorem State.writeRegs_firmware (s : State) (n : Nat) (ws : List (Nat × PVal)) :
    (s.writeRegs n ws).firmware = s.firmware := rfl
@[simp] theorem State.writeRegs_monitors (s : State) (n : Nat) (ws : List (Nat × PVal)) :
    (s.writeRegs n ws).monitors = s.monitors := rfl
@[simp] theorem State.writeRegs_hostOut (s : State) (n : Nat) (ws : List (Nat × PVal)) :
    (s.writeRegs n ws).hostOut = s.hostOut := rfl

/-! ### countIssue -/

@[simp] theorem State.countIssue_cycle (s : State) : s.countIssue.cycle = s.cycle := rfl
@[simp] theorem State.countIssue_power (s : State) : s.countIssue.power = s.power := rfl
@[simp] theorem State.countIssue_dev (s : State) : s.countIssue.dev = s.dev := rfl
@[simp] theorem State.countIssue_failBlk (s : State) : s.countIssue.failBlk = s.failBlk := rfl
@[simp] theorem State.countIssue_agenda (s : State) : s.countIssue.agenda = s.agenda := rfl
@[simp] theorem State.countIssue_todo (s : State) : s.countIssue.todo = s.todo := rfl
@[simp] theorem State.countIssue_curCore (s : State) : s.countIssue.curCore = s.curCore := rfl
@[simp] theorem State.countIssue_curCtx (s : State) : s.countIssue.curCtx = s.curCtx := rfl
@[simp] theorem State.countIssue_fresh (s : State) : s.countIssue.fresh = s.fresh := rfl
@[simp] theorem State.countIssue_nextId (s : State) : s.countIssue.nextId = s.nextId := rfl
@[simp] theorem State.countIssue_mem (s : State) : s.countIssue.mem = s.mem := rfl
@[simp] theorem State.countIssue_poison (s : State) : s.countIssue.poison = s.poison := rfl
@[simp] theorem State.countIssue_full (s : State) : s.countIssue.full = s.full := rfl
@[simp] theorem State.countIssue_dirty (s : State) : s.countIssue.dirty = s.dirty := rfl
@[simp] theorem State.countIssue_saved (s : State) : s.countIssue.saved = s.saved := rfl
@[simp] theorem State.countIssue_atoms (s : State) : s.countIssue.atoms = s.atoms := rfl
@[simp] theorem State.countIssue_cfg (s : State) : s.countIssue.cfg = s.cfg := rfl
@[simp] theorem State.countIssue_routes (s : State) : s.countIssue.routes = s.routes := rfl
@[simp] theorem State.countIssue_loads (s : State) : s.countIssue.loads = s.loads := rfl
@[simp] theorem State.countIssue_packets (s : State) : s.countIssue.packets = s.packets := rfl
@[simp] theorem State.countIssue_accs (s : State) : s.countIssue.accs = s.accs := rfl
@[simp] theorem State.countIssue_copies (s : State) : s.countIssue.copies = s.copies := rfl
@[simp] theorem State.countIssue_acks (s : State) : s.countIssue.acks = s.acks := rfl
@[simp] theorem State.countIssue_results (s : State) : s.countIssue.results = s.results := rfl
@[simp] theorem State.countIssue_gcmds (s : State) : s.countIssue.gcmds = s.gcmds := rfl
@[simp] theorem State.countIssue_sigs (s : State) : s.countIssue.sigs = s.sigs := rfl
@[simp] theorem State.countIssue_streams (s : State) : s.countIssue.streams = s.streams := rfl
@[simp] theorem State.countIssue_withheld (s : State) : s.countIssue.withheld = s.withheld := rfl
@[simp] theorem State.countIssue_walks (s : State) : s.countIssue.walks = s.walks := rfl
@[simp] theorem State.countIssue_saccs (s : State) : s.countIssue.saccs = s.saccs := rfl
@[simp] theorem State.countIssue_tlbs (s : State) : s.countIssue.tlbs = s.tlbs := rfl
@[simp] theorem State.countIssue_invals (s : State) : s.countIssue.invals = s.invals := rfl
@[simp] theorem State.countIssue_qfcnt (s : State) : s.countIssue.qfcnt = s.qfcnt := rfl
@[simp] theorem State.countIssue_qtgt (s : State) : s.countIssue.qtgt = s.qtgt := rfl
@[simp] theorem State.countIssue_qbind (s : State) : s.countIssue.qbind = s.qbind := rfl
@[simp] theorem State.countIssue_sessions (s : State) : s.countIssue.sessions = s.sessions := rfl
@[simp] theorem State.countIssue_balAcc (s : State) : s.countIssue.balAcc = s.balAcc := rfl
@[simp] theorem State.countIssue_balBase (s : State) : s.countIssue.balBase = s.balBase := rfl
@[simp] theorem State.countIssue_admitted (s : State) : s.countIssue.admitted = s.admitted := rfl
@[simp] theorem State.countIssue_queues (s : State) : s.countIssue.queues = s.queues := rfl
@[simp] theorem State.countIssue_launches (s : State) : s.countIssue.launches = s.launches := rfl
@[simp] theorem State.countIssue_lseq (s : State) : s.countIssue.lseq = s.lseq := rfl
@[simp] theorem State.countIssue_rotation (s : State) : s.countIssue.rotation = s.rotation := rfl
@[simp] theorem State.countIssue_reports (s : State) : s.countIssue.reports = s.reports := rfl
@[simp] theorem State.countIssue_residents (s : State) : s.countIssue.residents = s.residents := rfl
@[simp] theorem State.countIssue_ports (s : State) : s.countIssue.ports = s.ports := rfl
@[simp] theorem State.countIssue_cxlDown (s : State) : s.countIssue.cxlDown = s.cxlDown := rfl
@[simp] theorem State.countIssue_cxlSilent (s : State) : s.countIssue.cxlSilent = s.cxlSilent := rfl
@[simp] theorem State.countIssue_outside (s : State) : s.countIssue.outside = s.outside := rfl
@[simp] theorem State.countIssue_rounds (s : State) : s.countIssue.rounds = s.rounds := rfl
@[simp] theorem State.countIssue_dmap (s : State) : s.countIssue.dmap = s.dmap := rfl
@[simp] theorem State.countIssue_ien (s : State) : s.countIssue.ien = s.ien := rfl
@[simp] theorem State.countIssue_ipend (s : State) : s.countIssue.ipend = s.ipend := rfl
@[simp] theorem State.countIssue_msixTable (s : State) : s.countIssue.msixTable = s.msixTable := rfl
@[simp] theorem State.countIssue_msixPending (s : State) :
    s.countIssue.msixPending = s.msixPending := rfl
@[simp] theorem State.countIssue_msixFunctionMask (s : State) :
    s.countIssue.msixFunctionMask = s.msixFunctionMask := rfl
@[simp] theorem State.countIssue_cm (s : State) : s.countIssue.cm = s.cm := rfl
@[simp] theorem State.countIssue_ce (s : State) : s.countIssue.ce = s.ce := rfl
@[simp] theorem State.countIssue_pwr (s : State) : s.countIssue.pwr = s.pwr := rfl
@[simp] theorem State.countIssue_tj (s : State) : s.countIssue.tj = s.tj := rfl
@[simp] theorem State.countIssue_plim (s : State) : s.countIssue.plim = s.plim := rfl
@[simp] theorem State.countIssue_mcmd (s : State) : s.countIssue.mcmd = s.mcmd := rfl
@[simp] theorem State.countIssue_retn (s : State) : s.countIssue.retn = s.retn := rfl
@[simp] theorem State.countIssue_keys (s : State) : s.countIssue.keys = s.keys := rfl
@[simp] theorem State.countIssue_firmware (s : State) : s.countIssue.firmware = s.firmware := rfl
@[simp] theorem State.countIssue_monitors (s : State) : s.countIssue.monitors = s.monitors := rfl
@[simp] theorem State.countIssue_hostOut (s : State) : s.countIssue.hostOut = s.hostOut := rfl

/-! ### advance -/

@[simp] theorem State.advance_cycle (s : State) (q : Issue) (n : Nat) (g : Option Int) :
    (s.advance q n g).cycle = s.cycle := rfl
@[simp] theorem State.advance_power (s : State) (q : Issue) (n : Nat) (g : Option Int) :
    (s.advance q n g).power = s.power := rfl
@[simp] theorem State.advance_dev (s : State) (q : Issue) (n : Nat) (g : Option Int) :
    (s.advance q n g).dev = s.dev := rfl
@[simp] theorem State.advance_failBlk (s : State) (q : Issue) (n : Nat) (g : Option Int) :
    (s.advance q n g).failBlk = s.failBlk := rfl
@[simp] theorem State.advance_agenda (s : State) (q : Issue) (n : Nat) (g : Option Int) :
    (s.advance q n g).agenda = s.agenda := rfl
@[simp] theorem State.advance_todo (s : State) (q : Issue) (n : Nat) (g : Option Int) :
    (s.advance q n g).todo = s.todo := rfl
@[simp] theorem State.advance_curCore (s : State) (q : Issue) (n : Nat) (g : Option Int) :
    (s.advance q n g).curCore = s.curCore := rfl
@[simp] theorem State.advance_curCtx (s : State) (q : Issue) (n : Nat) (g : Option Int) :
    (s.advance q n g).curCtx = s.curCtx := rfl
@[simp] theorem State.advance_fresh (s : State) (q : Issue) (n : Nat) (g : Option Int) :
    (s.advance q n g).fresh = s.fresh := rfl
@[simp] theorem State.advance_nextId (s : State) (q : Issue) (n : Nat) (g : Option Int) :
    (s.advance q n g).nextId = s.nextId := rfl
@[simp] theorem State.advance_mem (s : State) (q : Issue) (n : Nat) (g : Option Int) :
    (s.advance q n g).mem = s.mem := rfl
@[simp] theorem State.advance_poison (s : State) (q : Issue) (n : Nat) (g : Option Int) :
    (s.advance q n g).poison = s.poison := rfl
@[simp] theorem State.advance_full (s : State) (q : Issue) (n : Nat) (g : Option Int) :
    (s.advance q n g).full = s.full := rfl
@[simp] theorem State.advance_dirty (s : State) (q : Issue) (n : Nat) (g : Option Int) :
    (s.advance q n g).dirty = s.dirty := rfl
@[simp] theorem State.advance_saved (s : State) (q : Issue) (n : Nat) (g : Option Int) :
    (s.advance q n g).saved = s.saved := rfl
@[simp] theorem State.advance_atoms (s : State) (q : Issue) (n : Nat) (g : Option Int) :
    (s.advance q n g).atoms = s.atoms := rfl
@[simp] theorem State.advance_cfg (s : State) (q : Issue) (n : Nat) (g : Option Int) :
    (s.advance q n g).cfg = s.cfg := rfl
@[simp] theorem State.advance_routes (s : State) (q : Issue) (n : Nat) (g : Option Int) :
    (s.advance q n g).routes = s.routes := rfl
@[simp] theorem State.advance_loads (s : State) (q : Issue) (n : Nat) (g : Option Int) :
    (s.advance q n g).loads = s.loads := rfl
@[simp] theorem State.advance_packets (s : State) (q : Issue) (n : Nat) (g : Option Int) :
    (s.advance q n g).packets = s.packets := rfl
@[simp] theorem State.advance_accs (s : State) (q : Issue) (n : Nat) (g : Option Int) :
    (s.advance q n g).accs = s.accs := rfl
@[simp] theorem State.advance_copies (s : State) (q : Issue) (n : Nat) (g : Option Int) :
    (s.advance q n g).copies = s.copies := rfl
@[simp] theorem State.advance_acks (s : State) (q : Issue) (n : Nat) (g : Option Int) :
    (s.advance q n g).acks = s.acks := rfl
@[simp] theorem State.advance_results (s : State) (q : Issue) (n : Nat) (g : Option Int) :
    (s.advance q n g).results = s.results := rfl
@[simp] theorem State.advance_gcmds (s : State) (q : Issue) (n : Nat) (g : Option Int) :
    (s.advance q n g).gcmds = s.gcmds := rfl
@[simp] theorem State.advance_sigs (s : State) (q : Issue) (n : Nat) (g : Option Int) :
    (s.advance q n g).sigs = s.sigs := rfl
@[simp] theorem State.advance_streams (s : State) (q : Issue) (n : Nat) (g : Option Int) :
    (s.advance q n g).streams = s.streams := rfl
@[simp] theorem State.advance_withheld (s : State) (q : Issue) (n : Nat) (g : Option Int) :
    (s.advance q n g).withheld = s.withheld := rfl
@[simp] theorem State.advance_walks (s : State) (q : Issue) (n : Nat) (g : Option Int) :
    (s.advance q n g).walks = s.walks := rfl
@[simp] theorem State.advance_saccs (s : State) (q : Issue) (n : Nat) (g : Option Int) :
    (s.advance q n g).saccs = s.saccs := rfl
@[simp] theorem State.advance_tlbs (s : State) (q : Issue) (n : Nat) (g : Option Int) :
    (s.advance q n g).tlbs = s.tlbs := rfl
@[simp] theorem State.advance_invals (s : State) (q : Issue) (n : Nat) (g : Option Int) :
    (s.advance q n g).invals = s.invals := rfl
@[simp] theorem State.advance_qfcnt (s : State) (q : Issue) (n : Nat) (g : Option Int) :
    (s.advance q n g).qfcnt = s.qfcnt := rfl
@[simp] theorem State.advance_qtgt (s : State) (q : Issue) (n : Nat) (g : Option Int) :
    (s.advance q n g).qtgt = s.qtgt := rfl
@[simp] theorem State.advance_qbind (s : State) (q : Issue) (n : Nat) (g : Option Int) :
    (s.advance q n g).qbind = s.qbind := rfl
@[simp] theorem State.advance_sessions (s : State) (q : Issue) (n : Nat) (g : Option Int) :
    (s.advance q n g).sessions = s.sessions := rfl
@[simp] theorem State.advance_balAcc (s : State) (q : Issue) (n : Nat) (g : Option Int) :
    (s.advance q n g).balAcc = s.balAcc := rfl
@[simp] theorem State.advance_balBase (s : State) (q : Issue) (n : Nat) (g : Option Int) :
    (s.advance q n g).balBase = s.balBase := rfl
@[simp] theorem State.advance_admitted (s : State) (q : Issue) (n : Nat) (g : Option Int) :
    (s.advance q n g).admitted = s.admitted := rfl
@[simp] theorem State.advance_queues (s : State) (q : Issue) (n : Nat) (g : Option Int) :
    (s.advance q n g).queues = s.queues := rfl
@[simp] theorem State.advance_launches (s : State) (q : Issue) (n : Nat) (g : Option Int) :
    (s.advance q n g).launches = s.launches := rfl
@[simp] theorem State.advance_lseq (s : State) (q : Issue) (n : Nat) (g : Option Int) :
    (s.advance q n g).lseq = s.lseq := rfl
@[simp] theorem State.advance_rotation (s : State) (q : Issue) (n : Nat) (g : Option Int) :
    (s.advance q n g).rotation = s.rotation := rfl
@[simp] theorem State.advance_reports (s : State) (q : Issue) (n : Nat) (g : Option Int) :
    (s.advance q n g).reports = s.reports := rfl
@[simp] theorem State.advance_residents (s : State) (q : Issue) (n : Nat) (g : Option Int) :
    (s.advance q n g).residents = s.residents := rfl
@[simp] theorem State.advance_ports (s : State) (q : Issue) (n : Nat) (g : Option Int) :
    (s.advance q n g).ports = s.ports := rfl
@[simp] theorem State.advance_cxlDown (s : State) (q : Issue) (n : Nat) (g : Option Int) :
    (s.advance q n g).cxlDown = s.cxlDown := rfl
@[simp] theorem State.advance_cxlSilent (s : State) (q : Issue) (n : Nat) (g : Option Int) :
    (s.advance q n g).cxlSilent = s.cxlSilent := rfl
@[simp] theorem State.advance_outside (s : State) (q : Issue) (n : Nat) (g : Option Int) :
    (s.advance q n g).outside = s.outside := rfl
@[simp] theorem State.advance_rounds (s : State) (q : Issue) (n : Nat) (g : Option Int) :
    (s.advance q n g).rounds = s.rounds := rfl
@[simp] theorem State.advance_dmap (s : State) (q : Issue) (n : Nat) (g : Option Int) :
    (s.advance q n g).dmap = s.dmap := rfl
@[simp] theorem State.advance_ien (s : State) (q : Issue) (n : Nat) (g : Option Int) :
    (s.advance q n g).ien = s.ien := rfl
@[simp] theorem State.advance_ipend (s : State) (q : Issue) (n : Nat) (g : Option Int) :
    (s.advance q n g).ipend = s.ipend := rfl
@[simp] theorem State.advance_msixTable (s : State) (q : Issue) (n : Nat) (g : Option Int) :
    (s.advance q n g).msixTable = s.msixTable := rfl
@[simp] theorem State.advance_msixPending (s : State) (q : Issue) (n : Nat) (g : Option Int) :
    (s.advance q n g).msixPending = s.msixPending := rfl
@[simp] theorem State.advance_msixFunctionMask (s : State) (q : Issue) (n : Nat) (g : Option Int) :
    (s.advance q n g).msixFunctionMask = s.msixFunctionMask := rfl
@[simp] theorem State.advance_cm (s : State) (q : Issue) (n : Nat) (g : Option Int) :
    (s.advance q n g).cm = s.cm := rfl
@[simp] theorem State.advance_ce (s : State) (q : Issue) (n : Nat) (g : Option Int) :
    (s.advance q n g).ce = s.ce := rfl
@[simp] theorem State.advance_pwr (s : State) (q : Issue) (n : Nat) (g : Option Int) :
    (s.advance q n g).pwr = s.pwr := rfl
@[simp] theorem State.advance_tj (s : State) (q : Issue) (n : Nat) (g : Option Int) :
    (s.advance q n g).tj = s.tj := rfl
@[simp] theorem State.advance_plim (s : State) (q : Issue) (n : Nat) (g : Option Int) :
    (s.advance q n g).plim = s.plim := rfl
@[simp] theorem State.advance_mcmd (s : State) (q : Issue) (n : Nat) (g : Option Int) :
    (s.advance q n g).mcmd = s.mcmd := rfl
@[simp] theorem State.advance_retn (s : State) (q : Issue) (n : Nat) (g : Option Int) :
    (s.advance q n g).retn = s.retn := rfl
@[simp] theorem State.advance_keys (s : State) (q : Issue) (n : Nat) (g : Option Int) :
    (s.advance q n g).keys = s.keys := rfl
@[simp] theorem State.advance_firmware (s : State) (q : Issue) (n : Nat) (g : Option Int) :
    (s.advance q n g).firmware = s.firmware := rfl
@[simp] theorem State.advance_monitors (s : State) (q : Issue) (n : Nat) (g : Option Int) :
    (s.advance q n g).monitors = s.monitors := rfl
@[simp] theorem State.advance_hostOut (s : State) (q : Issue) (n : Nat) (g : Option Int) :
    (s.advance q n g).hostOut = s.hostOut := rfl

/-! ### setCfg -/

@[simp] theorem State.setCfg_cycle (s : State) (u sp o : Nat) (v : Word64) :
    (s.setCfg u sp o v).cycle = s.cycle := rfl
@[simp] theorem State.setCfg_power (s : State) (u sp o : Nat) (v : Word64) :
    (s.setCfg u sp o v).power = s.power := rfl
@[simp] theorem State.setCfg_dev (s : State) (u sp o : Nat) (v : Word64) :
    (s.setCfg u sp o v).dev = s.dev := rfl
@[simp] theorem State.setCfg_failBlk (s : State) (u sp o : Nat) (v : Word64) :
    (s.setCfg u sp o v).failBlk = s.failBlk := rfl
@[simp] theorem State.setCfg_agenda (s : State) (u sp o : Nat) (v : Word64) :
    (s.setCfg u sp o v).agenda = s.agenda := rfl
@[simp] theorem State.setCfg_todo (s : State) (u sp o : Nat) (v : Word64) :
    (s.setCfg u sp o v).todo = s.todo := rfl
@[simp] theorem State.setCfg_curCore (s : State) (u sp o : Nat) (v : Word64) :
    (s.setCfg u sp o v).curCore = s.curCore := rfl
@[simp] theorem State.setCfg_curCtx (s : State) (u sp o : Nat) (v : Word64) :
    (s.setCfg u sp o v).curCtx = s.curCtx := rfl
@[simp] theorem State.setCfg_fresh (s : State) (u sp o : Nat) (v : Word64) :
    (s.setCfg u sp o v).fresh = s.fresh := rfl
@[simp] theorem State.setCfg_nextId (s : State) (u sp o : Nat) (v : Word64) :
    (s.setCfg u sp o v).nextId = s.nextId := rfl
@[simp] theorem State.setCfg_mem (s : State) (u sp o : Nat) (v : Word64) :
    (s.setCfg u sp o v).mem = s.mem := rfl
@[simp] theorem State.setCfg_poison (s : State) (u sp o : Nat) (v : Word64) :
    (s.setCfg u sp o v).poison = s.poison := rfl
@[simp] theorem State.setCfg_full (s : State) (u sp o : Nat) (v : Word64) :
    (s.setCfg u sp o v).full = s.full := rfl
@[simp] theorem State.setCfg_dirty (s : State) (u sp o : Nat) (v : Word64) :
    (s.setCfg u sp o v).dirty = s.dirty := rfl
@[simp] theorem State.setCfg_saved (s : State) (u sp o : Nat) (v : Word64) :
    (s.setCfg u sp o v).saved = s.saved := rfl
@[simp] theorem State.setCfg_atoms (s : State) (u sp o : Nat) (v : Word64) :
    (s.setCfg u sp o v).atoms = s.atoms := rfl
@[simp] theorem State.setCfg_routes (s : State) (u sp o : Nat) (v : Word64) :
    (s.setCfg u sp o v).routes = s.routes := rfl
@[simp] theorem State.setCfg_cores (s : State) (u sp o : Nat) (v : Word64) :
    (s.setCfg u sp o v).cores = s.cores := rfl
@[simp] theorem State.setCfg_loads (s : State) (u sp o : Nat) (v : Word64) :
    (s.setCfg u sp o v).loads = s.loads := rfl
@[simp] theorem State.setCfg_packets (s : State) (u sp o : Nat) (v : Word64) :
    (s.setCfg u sp o v).packets = s.packets := rfl
@[simp] theorem State.setCfg_accs (s : State) (u sp o : Nat) (v : Word64) :
    (s.setCfg u sp o v).accs = s.accs := rfl
@[simp] theorem State.setCfg_copies (s : State) (u sp o : Nat) (v : Word64) :
    (s.setCfg u sp o v).copies = s.copies := rfl
@[simp] theorem State.setCfg_acks (s : State) (u sp o : Nat) (v : Word64) :
    (s.setCfg u sp o v).acks = s.acks := rfl
@[simp] theorem State.setCfg_results (s : State) (u sp o : Nat) (v : Word64) :
    (s.setCfg u sp o v).results = s.results := rfl
@[simp] theorem State.setCfg_gcmds (s : State) (u sp o : Nat) (v : Word64) :
    (s.setCfg u sp o v).gcmds = s.gcmds := rfl
@[simp] theorem State.setCfg_sigs (s : State) (u sp o : Nat) (v : Word64) :
    (s.setCfg u sp o v).sigs = s.sigs := rfl
@[simp] theorem State.setCfg_streams (s : State) (u sp o : Nat) (v : Word64) :
    (s.setCfg u sp o v).streams = s.streams := rfl
@[simp] theorem State.setCfg_withheld (s : State) (u sp o : Nat) (v : Word64) :
    (s.setCfg u sp o v).withheld = s.withheld := rfl
@[simp] theorem State.setCfg_walks (s : State) (u sp o : Nat) (v : Word64) :
    (s.setCfg u sp o v).walks = s.walks := rfl
@[simp] theorem State.setCfg_saccs (s : State) (u sp o : Nat) (v : Word64) :
    (s.setCfg u sp o v).saccs = s.saccs := rfl
@[simp] theorem State.setCfg_tlbs (s : State) (u sp o : Nat) (v : Word64) :
    (s.setCfg u sp o v).tlbs = s.tlbs := rfl
@[simp] theorem State.setCfg_invals (s : State) (u sp o : Nat) (v : Word64) :
    (s.setCfg u sp o v).invals = s.invals := rfl
@[simp] theorem State.setCfg_qfcnt (s : State) (u sp o : Nat) (v : Word64) :
    (s.setCfg u sp o v).qfcnt = s.qfcnt := rfl
@[simp] theorem State.setCfg_qtgt (s : State) (u sp o : Nat) (v : Word64) :
    (s.setCfg u sp o v).qtgt = s.qtgt := rfl
@[simp] theorem State.setCfg_qbind (s : State) (u sp o : Nat) (v : Word64) :
    (s.setCfg u sp o v).qbind = s.qbind := rfl
@[simp] theorem State.setCfg_sessions (s : State) (u sp o : Nat) (v : Word64) :
    (s.setCfg u sp o v).sessions = s.sessions := rfl
@[simp] theorem State.setCfg_balAcc (s : State) (u sp o : Nat) (v : Word64) :
    (s.setCfg u sp o v).balAcc = s.balAcc := rfl
@[simp] theorem State.setCfg_balBase (s : State) (u sp o : Nat) (v : Word64) :
    (s.setCfg u sp o v).balBase = s.balBase := rfl
@[simp] theorem State.setCfg_admitted (s : State) (u sp o : Nat) (v : Word64) :
    (s.setCfg u sp o v).admitted = s.admitted := rfl
@[simp] theorem State.setCfg_queues (s : State) (u sp o : Nat) (v : Word64) :
    (s.setCfg u sp o v).queues = s.queues := rfl
@[simp] theorem State.setCfg_launches (s : State) (u sp o : Nat) (v : Word64) :
    (s.setCfg u sp o v).launches = s.launches := rfl
@[simp] theorem State.setCfg_lseq (s : State) (u sp o : Nat) (v : Word64) :
    (s.setCfg u sp o v).lseq = s.lseq := rfl
@[simp] theorem State.setCfg_rotation (s : State) (u sp o : Nat) (v : Word64) :
    (s.setCfg u sp o v).rotation = s.rotation := rfl
@[simp] theorem State.setCfg_reports (s : State) (u sp o : Nat) (v : Word64) :
    (s.setCfg u sp o v).reports = s.reports := rfl
@[simp] theorem State.setCfg_residents (s : State) (u sp o : Nat) (v : Word64) :
    (s.setCfg u sp o v).residents = s.residents := rfl
@[simp] theorem State.setCfg_ports (s : State) (u sp o : Nat) (v : Word64) :
    (s.setCfg u sp o v).ports = s.ports := rfl
@[simp] theorem State.setCfg_cxlDown (s : State) (u sp o : Nat) (v : Word64) :
    (s.setCfg u sp o v).cxlDown = s.cxlDown := rfl
@[simp] theorem State.setCfg_cxlSilent (s : State) (u sp o : Nat) (v : Word64) :
    (s.setCfg u sp o v).cxlSilent = s.cxlSilent := rfl
@[simp] theorem State.setCfg_outside (s : State) (u sp o : Nat) (v : Word64) :
    (s.setCfg u sp o v).outside = s.outside := rfl
@[simp] theorem State.setCfg_rounds (s : State) (u sp o : Nat) (v : Word64) :
    (s.setCfg u sp o v).rounds = s.rounds := rfl
@[simp] theorem State.setCfg_dmap (s : State) (u sp o : Nat) (v : Word64) :
    (s.setCfg u sp o v).dmap = s.dmap := rfl
@[simp] theorem State.setCfg_ien (s : State) (u sp o : Nat) (v : Word64) :
    (s.setCfg u sp o v).ien = s.ien := rfl
@[simp] theorem State.setCfg_ipend (s : State) (u sp o : Nat) (v : Word64) :
    (s.setCfg u sp o v).ipend = s.ipend := rfl
@[simp] theorem State.setCfg_msixTable (s : State) (u sp o : Nat) (v : Word64) :
    (s.setCfg u sp o v).msixTable = s.msixTable := rfl
@[simp] theorem State.setCfg_msixPending (s : State) (u sp o : Nat) (v : Word64) :
    (s.setCfg u sp o v).msixPending = s.msixPending := rfl
@[simp] theorem State.setCfg_msixFunctionMask (s : State) (u sp o : Nat) (v : Word64) :
    (s.setCfg u sp o v).msixFunctionMask = s.msixFunctionMask := rfl
@[simp] theorem State.setCfg_cm (s : State) (u sp o : Nat) (v : Word64) :
    (s.setCfg u sp o v).cm = s.cm := rfl
@[simp] theorem State.setCfg_ce (s : State) (u sp o : Nat) (v : Word64) :
    (s.setCfg u sp o v).ce = s.ce := rfl
@[simp] theorem State.setCfg_pwr (s : State) (u sp o : Nat) (v : Word64) :
    (s.setCfg u sp o v).pwr = s.pwr := rfl
@[simp] theorem State.setCfg_tj (s : State) (u sp o : Nat) (v : Word64) :
    (s.setCfg u sp o v).tj = s.tj := rfl
@[simp] theorem State.setCfg_plim (s : State) (u sp o : Nat) (v : Word64) :
    (s.setCfg u sp o v).plim = s.plim := rfl
@[simp] theorem State.setCfg_mcmd (s : State) (u sp o : Nat) (v : Word64) :
    (s.setCfg u sp o v).mcmd = s.mcmd := rfl
@[simp] theorem State.setCfg_retn (s : State) (u sp o : Nat) (v : Word64) :
    (s.setCfg u sp o v).retn = s.retn := rfl
@[simp] theorem State.setCfg_keys (s : State) (u sp o : Nat) (v : Word64) :
    (s.setCfg u sp o v).keys = s.keys := rfl
@[simp] theorem State.setCfg_firmware (s : State) (u sp o : Nat) (v : Word64) :
    (s.setCfg u sp o v).firmware = s.firmware := rfl
@[simp] theorem State.setCfg_monitors (s : State) (u sp o : Nat) (v : Word64) :
    (s.setCfg u sp o v).monitors = s.monitors := rfl
@[simp] theorem State.setCfg_hostOut (s : State) (u sp o : Nat) (v : Word64) :
    (s.setCfg u sp o v).hostOut = s.hostOut := rfl

/-! ### setActorWord -/

@[simp] theorem State.setActorWord_cycle (s : State) (c a i : Nat) (v : Word64) :
    (s.setActorWord c a i v).cycle = s.cycle := rfl
@[simp] theorem State.setActorWord_power (s : State) (c a i : Nat) (v : Word64) :
    (s.setActorWord c a i v).power = s.power := rfl
@[simp] theorem State.setActorWord_dev (s : State) (c a i : Nat) (v : Word64) :
    (s.setActorWord c a i v).dev = s.dev := rfl
@[simp] theorem State.setActorWord_failBlk (s : State) (c a i : Nat) (v : Word64) :
    (s.setActorWord c a i v).failBlk = s.failBlk := rfl
@[simp] theorem State.setActorWord_agenda (s : State) (c a i : Nat) (v : Word64) :
    (s.setActorWord c a i v).agenda = s.agenda := rfl
@[simp] theorem State.setActorWord_todo (s : State) (c a i : Nat) (v : Word64) :
    (s.setActorWord c a i v).todo = s.todo := rfl
@[simp] theorem State.setActorWord_curCore (s : State) (c a i : Nat) (v : Word64) :
    (s.setActorWord c a i v).curCore = s.curCore := rfl
@[simp] theorem State.setActorWord_curCtx (s : State) (c a i : Nat) (v : Word64) :
    (s.setActorWord c a i v).curCtx = s.curCtx := rfl
@[simp] theorem State.setActorWord_fresh (s : State) (c a i : Nat) (v : Word64) :
    (s.setActorWord c a i v).fresh = s.fresh := rfl
@[simp] theorem State.setActorWord_nextId (s : State) (c a i : Nat) (v : Word64) :
    (s.setActorWord c a i v).nextId = s.nextId := rfl
@[simp] theorem State.setActorWord_mem (s : State) (c a i : Nat) (v : Word64) :
    (s.setActorWord c a i v).mem = s.mem := rfl
@[simp] theorem State.setActorWord_poison (s : State) (c a i : Nat) (v : Word64) :
    (s.setActorWord c a i v).poison = s.poison := rfl
@[simp] theorem State.setActorWord_full (s : State) (c a i : Nat) (v : Word64) :
    (s.setActorWord c a i v).full = s.full := rfl
@[simp] theorem State.setActorWord_dirty (s : State) (c a i : Nat) (v : Word64) :
    (s.setActorWord c a i v).dirty = s.dirty := rfl
@[simp] theorem State.setActorWord_saved (s : State) (c a i : Nat) (v : Word64) :
    (s.setActorWord c a i v).saved = s.saved := rfl
@[simp] theorem State.setActorWord_atoms (s : State) (c a i : Nat) (v : Word64) :
    (s.setActorWord c a i v).atoms = s.atoms := rfl
@[simp] theorem State.setActorWord_routes (s : State) (c a i : Nat) (v : Word64) :
    (s.setActorWord c a i v).routes = s.routes := rfl
@[simp] theorem State.setActorWord_cores (s : State) (c a i : Nat) (v : Word64) :
    (s.setActorWord c a i v).cores = s.cores := rfl
@[simp] theorem State.setActorWord_loads (s : State) (c a i : Nat) (v : Word64) :
    (s.setActorWord c a i v).loads = s.loads := rfl
@[simp] theorem State.setActorWord_packets (s : State) (c a i : Nat) (v : Word64) :
    (s.setActorWord c a i v).packets = s.packets := rfl
@[simp] theorem State.setActorWord_accs (s : State) (c a i : Nat) (v : Word64) :
    (s.setActorWord c a i v).accs = s.accs := rfl
@[simp] theorem State.setActorWord_copies (s : State) (c a i : Nat) (v : Word64) :
    (s.setActorWord c a i v).copies = s.copies := rfl
@[simp] theorem State.setActorWord_acks (s : State) (c a i : Nat) (v : Word64) :
    (s.setActorWord c a i v).acks = s.acks := rfl
@[simp] theorem State.setActorWord_results (s : State) (c a i : Nat) (v : Word64) :
    (s.setActorWord c a i v).results = s.results := rfl
@[simp] theorem State.setActorWord_gcmds (s : State) (c a i : Nat) (v : Word64) :
    (s.setActorWord c a i v).gcmds = s.gcmds := rfl
@[simp] theorem State.setActorWord_sigs (s : State) (c a i : Nat) (v : Word64) :
    (s.setActorWord c a i v).sigs = s.sigs := rfl
@[simp] theorem State.setActorWord_streams (s : State) (c a i : Nat) (v : Word64) :
    (s.setActorWord c a i v).streams = s.streams := rfl
@[simp] theorem State.setActorWord_withheld (s : State) (c a i : Nat) (v : Word64) :
    (s.setActorWord c a i v).withheld = s.withheld := rfl
@[simp] theorem State.setActorWord_walks (s : State) (c a i : Nat) (v : Word64) :
    (s.setActorWord c a i v).walks = s.walks := rfl
@[simp] theorem State.setActorWord_saccs (s : State) (c a i : Nat) (v : Word64) :
    (s.setActorWord c a i v).saccs = s.saccs := rfl
@[simp] theorem State.setActorWord_tlbs (s : State) (c a i : Nat) (v : Word64) :
    (s.setActorWord c a i v).tlbs = s.tlbs := rfl
@[simp] theorem State.setActorWord_invals (s : State) (c a i : Nat) (v : Word64) :
    (s.setActorWord c a i v).invals = s.invals := rfl
@[simp] theorem State.setActorWord_qfcnt (s : State) (c a i : Nat) (v : Word64) :
    (s.setActorWord c a i v).qfcnt = s.qfcnt := rfl
@[simp] theorem State.setActorWord_qtgt (s : State) (c a i : Nat) (v : Word64) :
    (s.setActorWord c a i v).qtgt = s.qtgt := rfl
@[simp] theorem State.setActorWord_qbind (s : State) (c a i : Nat) (v : Word64) :
    (s.setActorWord c a i v).qbind = s.qbind := rfl
@[simp] theorem State.setActorWord_sessions (s : State) (c a i : Nat) (v : Word64) :
    (s.setActorWord c a i v).sessions = s.sessions := rfl
@[simp] theorem State.setActorWord_balAcc (s : State) (c a i : Nat) (v : Word64) :
    (s.setActorWord c a i v).balAcc = s.balAcc := rfl
@[simp] theorem State.setActorWord_balBase (s : State) (c a i : Nat) (v : Word64) :
    (s.setActorWord c a i v).balBase = s.balBase := rfl
@[simp] theorem State.setActorWord_admitted (s : State) (c a i : Nat) (v : Word64) :
    (s.setActorWord c a i v).admitted = s.admitted := rfl
@[simp] theorem State.setActorWord_queues (s : State) (c a i : Nat) (v : Word64) :
    (s.setActorWord c a i v).queues = s.queues := rfl
@[simp] theorem State.setActorWord_launches (s : State) (c a i : Nat) (v : Word64) :
    (s.setActorWord c a i v).launches = s.launches := rfl
@[simp] theorem State.setActorWord_lseq (s : State) (c a i : Nat) (v : Word64) :
    (s.setActorWord c a i v).lseq = s.lseq := rfl
@[simp] theorem State.setActorWord_rotation (s : State) (c a i : Nat) (v : Word64) :
    (s.setActorWord c a i v).rotation = s.rotation := rfl
@[simp] theorem State.setActorWord_reports (s : State) (c a i : Nat) (v : Word64) :
    (s.setActorWord c a i v).reports = s.reports := rfl
@[simp] theorem State.setActorWord_residents (s : State) (c a i : Nat) (v : Word64) :
    (s.setActorWord c a i v).residents = s.residents := rfl
@[simp] theorem State.setActorWord_ports (s : State) (c a i : Nat) (v : Word64) :
    (s.setActorWord c a i v).ports = s.ports := rfl
@[simp] theorem State.setActorWord_cxlDown (s : State) (c a i : Nat) (v : Word64) :
    (s.setActorWord c a i v).cxlDown = s.cxlDown := rfl
@[simp] theorem State.setActorWord_cxlSilent (s : State) (c a i : Nat) (v : Word64) :
    (s.setActorWord c a i v).cxlSilent = s.cxlSilent := rfl
@[simp] theorem State.setActorWord_outside (s : State) (c a i : Nat) (v : Word64) :
    (s.setActorWord c a i v).outside = s.outside := rfl
@[simp] theorem State.setActorWord_rounds (s : State) (c a i : Nat) (v : Word64) :
    (s.setActorWord c a i v).rounds = s.rounds := rfl
@[simp] theorem State.setActorWord_dmap (s : State) (c a i : Nat) (v : Word64) :
    (s.setActorWord c a i v).dmap = s.dmap := rfl
@[simp] theorem State.setActorWord_ien (s : State) (c a i : Nat) (v : Word64) :
    (s.setActorWord c a i v).ien = s.ien := rfl
@[simp] theorem State.setActorWord_ipend (s : State) (c a i : Nat) (v : Word64) :
    (s.setActorWord c a i v).ipend = s.ipend := rfl
@[simp] theorem State.setActorWord_msixTable (s : State) (c a i : Nat) (v : Word64) :
    (s.setActorWord c a i v).msixTable = s.msixTable := rfl
@[simp] theorem State.setActorWord_msixPending (s : State) (c a i : Nat) (v : Word64) :
    (s.setActorWord c a i v).msixPending = s.msixPending := rfl
@[simp] theorem State.setActorWord_msixFunctionMask (s : State) (c a i : Nat) (v : Word64) :
    (s.setActorWord c a i v).msixFunctionMask = s.msixFunctionMask := rfl
@[simp] theorem State.setActorWord_cm (s : State) (c a i : Nat) (v : Word64) :
    (s.setActorWord c a i v).cm = s.cm := rfl
@[simp] theorem State.setActorWord_ce (s : State) (c a i : Nat) (v : Word64) :
    (s.setActorWord c a i v).ce = s.ce := rfl
@[simp] theorem State.setActorWord_pwr (s : State) (c a i : Nat) (v : Word64) :
    (s.setActorWord c a i v).pwr = s.pwr := rfl
@[simp] theorem State.setActorWord_tj (s : State) (c a i : Nat) (v : Word64) :
    (s.setActorWord c a i v).tj = s.tj := rfl
@[simp] theorem State.setActorWord_plim (s : State) (c a i : Nat) (v : Word64) :
    (s.setActorWord c a i v).plim = s.plim := rfl
@[simp] theorem State.setActorWord_mcmd (s : State) (c a i : Nat) (v : Word64) :
    (s.setActorWord c a i v).mcmd = s.mcmd := rfl
@[simp] theorem State.setActorWord_retn (s : State) (c a i : Nat) (v : Word64) :
    (s.setActorWord c a i v).retn = s.retn := rfl
@[simp] theorem State.setActorWord_keys (s : State) (c a i : Nat) (v : Word64) :
    (s.setActorWord c a i v).keys = s.keys := rfl
@[simp] theorem State.setActorWord_firmware (s : State) (c a i : Nat) (v : Word64) :
    (s.setActorWord c a i v).firmware = s.firmware := rfl
@[simp] theorem State.setActorWord_monitors (s : State) (c a i : Nat) (v : Word64) :
    (s.setActorWord c a i v).monitors = s.monitors := rfl
@[simp] theorem State.setActorWord_hostOut (s : State) (c a i : Nat) (v : Word64) :
    (s.setActorWord c a i v).hostOut = s.hostOut := rfl

end Sys2Proof.Machine
end

