-- ==== Sys2Proof/Laws/Memory.lean ====
section
/-!
SUPPORT. Memory: what is read after a write, what a write leaves alone, and that every operation that
writes memory keeps its canonical form.
-/

namespace Sys2Proof.Machine

/-! ### One byte -/

theorem memWf_iff (m : List Host.Cell) :
    memWf m = true ↔ mapSorted m = true ∧ ∀ c ∈ m, c.2 ≠ unlisted c.1 := by
  simp [memWf]

@[simp] theorem memWf_nil : memWf [] = true := rfl

/-- A byte written reads back. -/
theorem memByte_setByte {m : List Host.Cell} (h : memWf m = true) (key : Nat) (b : Byte) :
    memByte (memSetByte m key b) key = b :=
  mapGet_putD _ _ _ ((memWf_iff m).1 h).1

/-- Every other byte reads as before. -/
theorem memByte_setByte_ne {key j : Nat} (h : j ≠ key) (b : Byte) (m : List Host.Cell) :
    memByte (memSetByte m key b) j = memByte m j :=
  mapGet_putD_ne _ _ h _ _

/-- Writing a byte keeps the canonical form. -/
theorem memWf_setByte {m : List Host.Cell} (h : memWf m = true) (key : Nat) (b : Byte) :
    memWf (memSetByte m key b) = true := by
  rw [memWf_iff] at h ⊢
  refine ⟨mapSorted_putD _ _ _ h.1, ?_⟩
  simp only [memSetByte, mapPutD_eq]
  split
  · exact fun c hc => h.2 c (mem_mapDel hc)
  · next hb =>
    intro c hc
    rcases mem_mapPut hc with rfl | hc
    · exact hb
    · exact h.2 c hc

/-! ### Many bytes -/

/-- Writing bytes keeps the canonical form. -/
theorem memWf_setBytes {m : List Host.Cell} (h : memWf m = true) (key : Nat) (d : List Byte) :
    memWf (memSetBytes m key d) = true := by
  induction d generalizing m key with
  | nil => exact h
  | cons b bs ih => exact ih (memWf_setByte h key b) (key + 1)

/-- Bytes outside those written read as before. -/
theorem memByte_setBytes_outside (m : List Host.Cell) (key : Nat) (d : List Byte) {j : Nat}
    (h : j < key ∨ key + d.length ≤ j) : memByte (memSetBytes m key d) j = memByte m j := by
  induction d generalizing m key with
  | nil => rfl
  | cons b bs ih =>
    simp only [List.length_cons] at h
    rw [memSetBytes, ih _ _ (by omega), memByte_setByte_ne (by omega)]

/-- Bytes written read back. -/
theorem memByte_setBytes {m : List Host.Cell} (h : memWf m = true) (key : Nat) (d : List Byte)
    (i : Nat) (hi : i < d.length) : memByte (memSetBytes m key d) (key + i) = d[i] := by
  induction d generalizing m key i with
  | nil => simp at hi
  | cons b bs ih =>
    cases i with
    | zero =>
      rw [memSetBytes, memByte_setBytes_outside _ _ _ (by omega)]
      exact memByte_setByte h key b
    | succ i =>
      have := ih (memWf_setByte h key b) (key + 1) i (by simpa using hi)
      rw [memSetBytes]
      simpa [Nat.add_comm, Nat.add_left_comm] using this

/-- Bytes written read back, as a list. -/
theorem memBytes_setBytes {m : List Host.Cell} (h : memWf m = true) (key : Nat) (d : List Byte) :
    memBytes (memSetBytes m key d) key d.length = d := by
  induction d generalizing m key with
  | nil => rfl
  | cons b bs ih =>
    simp only [memSetBytes, List.length_cons, memBytes]
    rw [ih (memWf_setByte h key b), memByte_setBytes_outside _ _ _ (by omega), memByte_setByte h]

/-- Ranges of a memory deleted (the pages that a launch unit releases) keep the canonical form. -/
theorem mapSorted_filter {α : Type} (p : Nat × α → Bool) {m : List (Nat × α)}
    (h : mapSorted m = true) : mapSorted (m.filter p) = true := by
  rw [mapSorted_iff] at h ⊢
  suffices hs : ∀ b, risesFrom b m → risesFrom b (m.filter p) from hs 0 h
  intro b hb
  clear h
  induction m generalizing b with
  | nil => trivial
  | cons e m ih =>
    obtain ⟨j, w⟩ := e
    simp only [List.filter_cons]
    split
    · exact ⟨hb.1, ih _ hb.2⟩
    · exact (ih _ hb.2).weaken (by have := hb.1; omega)

theorem memWf_delRange {m : List Host.Cell} (h : memWf m = true) (key n : Nat) :
    memWf (mapDelRange key n m) = true := by
  rw [memWf_iff] at h ⊢
  exact ⟨mapSorted_filter _ h.1, fun c hc => h.2 c (List.mem_filter.1 hc).1⟩

/-- Writes one after another keep the canonical form. -/
theorem memWf_foldl {α : Type} {f : List Host.Cell → α → List Host.Cell}
    (hf : ∀ m a, memWf m = true → memWf (f m a) = true) (l : List α) {m : List Host.Cell}
    (h : memWf m = true) : memWf (l.foldl f m) = true := by
  induction l generalizing m with
  | nil => exact h
  | cons a l ih => exact ih (hf m a h)

theorem memWf_mixWords {a b : List Host.Cell} (ha : memWf a = true) (f key n : Nat) :
    memWf (mixWords a b f key n) = true :=
  memWf_foldl (fun m i h => by split <;> [exact memWf_setBytes h _ _; exact h]) _ ha

/-! ### The operations of State -/

@[simp] theorem foldl_lines_mem (l : List Nat) (s : State) :
    (l.foldl (fun s l => { s with dirty := setAdd l s.dirty, saved := setDel l s.saved }) s).mem
      = s.mem := by
  induction l generalizing s with
  | nil => rfl
  | cons a l ih => simp only [List.foldl_cons, ih]

@[simp] theorem touchLines_mem (s : State) (key n : Nat) : (touchLines s key n).mem = s.mem := by
  simp only [touchLines]; split <;> simp

@[simp] theorem State.store_mem (s : State) (key : Nat) (d : List Byte) :
    (s.store key d).mem = memSetBytes s.mem key d := by simp [State.store]

@[simp] theorem markStore_mem (s : State) (key n : Nat) (po : Bool) :
    (markStore s key n po).mem = s.mem := rfl

@[simp] theorem State.setFull_mem (s : State) (key n : Nat) : (s.setFull key n).mem = s.mem := rfl

@[simp] theorem State.setEmpty_mem (s : State) (key n : Nat) : (s.setEmpty key n).mem = s.mem := rfl

@[simp] theorem State.storeVal_mem (s : State) (key n : Nat) (v : Word64) (po : Bool) :
    (s.storeVal key n v po).mem = memSetBytes s.mem key (natToBytes n v.toNat) := by
  simp [State.storeVal]

@[simp] theorem State.storeMarked_mem (s : State) (key : Nat) (d : List Byte) (po : List Nat) :
    (s.storeMarked key d po).mem = memSetBytes s.mem key d := by simp [State.storeMarked]

@[simp] theorem State.storeFull_mem (s : State) (key : Nat) (v : Word64) :
    (s.storeFull key v).mem = memSetBytes s.mem key (natToBytes 8 v.toNat) := by
  simp [State.storeFull]

@[simp] theorem natToBytes_length (n v : Nat) : (natToBytes n v).length = n := by
  induction n generalizing v with
  | zero => rfl
  | succ n ih => simp [natToBytes, ih]

/-- The value of the bytes of a value (R15). -/
theorem bytesToNat_natToBytes (n v : Nat) : bytesToNat (natToBytes n v) = v % 256 ^ n := by
  induction n generalizing v with
  | zero => simp [natToBytes, bytesToNat, Nat.mod_one]
  | succ n ih =>
    simp only [natToBytes, bytesToNat, ih, BitVec.toNat_ofNat]
    rw [show (2 : Nat) ^ 8 = 256 from rfl, pow_succ, Nat.mul_comm (256 ^ n), Nat.mod_mul]

/-- A value stored reads back, taken to its width (R15). -/
theorem State.load_storeVal {s : State} (h : memWf s.mem = true) (key n : Nat) (v : Word64)
    (po : Bool) : (s.storeVal key n v po).load key n = v.toNat % 256 ^ n := by
  have := memBytes_setBytes h key (natToBytes n v.toNat)
  rw [natToBytes_length] at this
  rw [State.load, State.storeVal_mem, this, bytesToNat_natToBytes]

@[simp] theorem State.setSysCfg_mem (s : State) (w off : Nat) (v : Word64) :
    (s.setSysCfg w off v).mem = s.mem := by
  rw [State.setSysCfg, State.setHallCfg, State.setCfg_mem]

/-- Where the next record of a wing's fault log goes (R460). -/
theorem State.logRecord_mem (s : State) (wing : Nat) (r : List Byte) (h : s.logOpen wing = true) :
    (s.logRecord wing r).mem =
      memSetBytes s.mem (galleryKey wing ((bits (s.sysCfg wing 2320) 0 26
        + 64 * (bits (s.sysCfg wing 2321) 32 16 % 64)) % 2 ^ 26)) r := by
  unfold State.logRecord
  rw [if_pos h, State.setSysCfg_mem, State.setFull_mem, State.storeMarked_mem]

/-- A record that its wing's log does not take is only counted (R460). -/
theorem State.logRecord_mem_lost (s : State) (wing : Nat) (r : List Byte)
    (h : s.logOpen wing = false) : (s.logRecord wing r).mem = s.mem := by
  unfold State.logRecord
  rw [if_neg (by rw [h]; exact Bool.false_ne_true), State.setSysCfg_mem]

/-- A record of the fault log keeps the canonical form. -/
theorem State.logRecord_wf {s : State} (h : memWf s.mem = true) (wing : Nat) (r : List Byte) :
    memWf (s.logRecord wing r).mem = true := by
  cases ho : s.logOpen wing with
  | true => rw [State.logRecord_mem _ _ _ ho]; exact memWf_setBytes h _ _
  | false => rw [State.logRecord_mem_lost _ _ _ ho]; exact h

/-- A result area written: the area's bytes, or nothing where the operation is gone. -/
theorem State.writeResult_mem (s : State) (id : Nat) (d : List Byte) (po : List Nat) :
    (s.writeResult id d po).mem = match mapFind id s.results with
      | none => s.mem
      | some r => memSetBytes s.mem (tileKey r.core r.area) d := by
  unfold State.writeResult
  cases h : mapFind id s.results <;> simp [State.dropRanges]

end Sys2Proof.Machine
end

