-- ==== Sys2Proof/Laws/Issue.lean ====
section
/-!
SUPPORT. Cores and contexts replaced, registers after a write-back, and the issue of an instruction:
what it can end in, and what it leaves.
-/

namespace Sys2Proof.Machine

/-! ### Cores and contexts -/

@[simp] theorem Core.ctx_setCtx (k : Core) (x : Nat) (t : Ctx) : (k.setCtx x t).ctx x = t := by
  simp only [Core.ctx, Core.setCtx]; split <;> [rfl; split <;> [rfl; split <;> rfl]]

theorem Core.ctx_setCtx_ne (k : Core) {x y : Nat} (t : Ctx) (h : min x 3 ≠ min y 3) :
    (k.setCtx x t).ctx y = k.ctx y := by
  simp only [Core.ctx, Core.setCtx]
  repeat' split
  all_goals first | rfl | omega

@[simp] theorem State.core_setCore (s : State) (c : Nat) (k : Core) : (s.setCore c k).core c = k := by
  simp [State.core]

theorem State.core_setCore_ne (s : State) {c d : Nat} (k : Core) (h : d ≠ c) :
    (s.setCore c k).core d = s.core d := by simp [State.core, mapGet_put_ne _ h]

@[simp] theorem State.ctx_setCtx (s : State) (c x : Nat) (t : Ctx) : (s.setCtx c x t).ctx c x = t := by
  simp [State.ctx, State.setCtx]

@[simp] theorem State.cur_setCur (s : State) (t : Ctx) : (s.setCur t).cur = t := by
  simp [State.cur, State.setCur]

@[simp] theorem State.curK_setCurK (s : State) (k : Core) : (s.setCurK k).curK = k := by
  simp [State.curK, State.setCurK]

theorem State.cur_eq (s : State) : s.cur = s.curK.ctx s.curCtx := rfl

@[simp] theorem State.curK_setCur (s : State) (t : Ctx) :
    (s.setCur t).curK = s.curK.setCtx s.curCtx t := by
  simp [State.curK, State.setCur, State.setCtx]

/-! ### Registers -/

@[simp] theorem State.countIssue_cur (s : State) :
    s.countIssue.cur = { s.cur with ldist := s.cur.ldist + 1 } := by simp [State.countIssue]

/-- Counting an issue leaves every register as it stands. -/
@[simp] theorem State.countIssue_reg (s : State) (k : Nat) : s.countIssue.cur.reg k = s.cur.reg k := by
  rw [State.countIssue_cur]; rfl

@[simp] theorem State.countIssue_x (s : State) (r : XReg) : s.countIssue.x r = s.x r :=
  s.countIssue_reg _

@[simp] theorem State.countIssue_p (s : State) (r : PReg) : s.countIssue.p r = s.p r :=
  s.countIssue_reg _

@[simp] theorem State.countIssue_k (s : State) (r : KReg) : s.countIssue.k r = s.k r :=
  s.countIssue_reg _

@[simp] theorem State.countIssue_pv (s : State) (r : PReg) : s.countIssue.pv r = s.pv r := by
  simp [State.pv]

/-- A register that is no constant holds what is put into it (R57). -/
theorem Ctx.reg_putReg (t : Ctx) {k : Nat} (h : keyConst k = none) (v : PVal) :
    (t.putReg k v).reg k = v := by simp [Ctx.putReg, Ctx.reg, h]

/-- Every other register stays as it is. -/
theorem Ctx.reg_putReg_ne (t : Ctx) {k j : Nat} (h : j ≠ k) (v : PVal) :
    (t.putReg k v).reg j = t.reg j := by
  simp only [Ctx.putReg]
  cases keyConst k with
  | some c => rfl
  | none => simp [Ctx.reg, mapFind_put_ne h]

/-- The key whose value or mark a write key changes. -/
def writeTarget (k : Nat) : Nat :=
  if k < 1000 then k else if k < 2000 then k - 1000 else 600 + (k - 2000) / 32

theorem Ctx.reg_setReg_ne (t : Ctx) {k j : Nat} (h : j ≠ writeTarget k) (v : PVal) :
    (t.setReg k v).reg j = t.reg j := by
  simp only [writeTarget] at h
  simp only [Ctx.setReg]
  split
  · next h1 => rw [if_pos h1] at h; exact t.reg_putReg_ne h v
  · next h1 =>
    rw [if_neg h1] at h
    split
    · next h2 => rw [if_pos h2] at h; exact t.reg_putReg_ne h _
    · next h2 => rw [if_neg h2] at h; exact t.reg_putReg_ne h _

/-- A register no write of a list names stays as it is. -/
theorem Ctx.reg_setRegs_ne (t : Ctx) (ws : List (Nat × PVal)) (j : Nat)
    (h : ∀ w ∈ ws, j ≠ writeTarget w.1) : (t.setRegs ws).reg j = t.reg j := by
  simp only [Ctx.setRegs]
  induction ws generalizing t with
  | nil => rfl
  | cons w ws ih =>
    rw [List.foldl_cons, ih _ (fun v hv => h v (.tail _ hv))]
    exact t.reg_setReg_ne (h w (.head _)) w.2

/-! ### The issue of one instruction -/

/-- What an issue can end in: nothing, a fault taken, or the instruction's effect. -/
theorem issue_cases {q : Issue} {len : Nat} {hold : Bool} {flt : Option FaultInfo}
    {target : Option Int} {eff : State → State} {s t : State}
    (h : issue q len hold flt target eff s = .next t) :
    (t = s ∧ (s.running = false ∨ hold = true)) ∨
    (s.running = true ∧ hold = false ∧
      ((∃ f, flt = some f ∧ t = s.takeFault f) ∨
       (flt = none ∧ s.overrun = true ∧ t = s.takeFault s.overrunFault) ∨
       (flt = none ∧ s.overrun = false ∧ t = s.complete q len target eff))) := by
  simp only [issue] at h
  by_cases hh : (!s.running || hold) = true
  · rw [if_pos hh] at h
    left
    refine ⟨by simpa using h.symm, by simpa using hh⟩
  rw [if_neg hh] at h
  simp only [Bool.or_eq_true, Bool.not_eq_true', not_or, Bool.not_eq_false] at hh
  right
  refine ⟨hh.1, by simpa using hh.2, ?_⟩
  cases flt with
  | some f => left; exact ⟨f, rfl, by simpa using h.symm⟩
  | none =>
    right
    cases ho : s.overrun <;> simp [ho] at h <;> simp [h]

/-- Nothing holds the instruction and nothing faults: it completes. -/
theorem issue_completes {q : Issue} {len : Nat} {target : Option Int} {eff : State → State}
    {s : State} (h : s.issues) :
    issue q len false none target eff s = .next (s.complete q len target eff) := by
  simp [issue, h.1, h.2]

theorem issueLanding_completes {q : Issue} {len : Nat} {target : Option Int}
    {eff post : State → State} {s : State} (h : s.running = true) :
    issueLanding q len false none target eff post s = .next (post ((eff s).advance q len target)) := by
  simp [issueLanding, h]

/-- A held instruction changes nothing (R61). -/
theorem issue_held {q : Issue} {len : Nat} {flt : Option FaultInfo} {target : Option Int}
    {eff : State → State} {s : State} : issue q len true flt target eff s = .next s := by
  simp [issue]

/-- The first fault is taken (R97). -/
theorem issue_faults {q : Issue} {len : Nat} {f : FaultInfo} {target : Option Int}
    {eff : State → State} {s : State} (h : s.running = true) :
    issue q len false (some f) target eff s = .next (s.takeFault f) := by
  simp [issue, h]

/-- An instruction over the landing distance is not executed (R394). -/
theorem issue_overruns {q : Issue} {len : Nat} {target : Option Int}
    {eff : State → State} {s : State} (h : s.running = true) (ho : s.overrun = true) :
    issue q len false none target eff s = .next (s.takeFault s.overrunFault) := by
  simp [issue, h, ho]

/-- An issue of any kind answers a next state. -/
theorem issue_next (q : Issue) (len : Nat) (hold : Bool) (flt : Option FaultInfo)
    (target : Option Int) (eff : State → State) (s : State) :
    ∃ t, issue q len hold flt target eff s = .next t := by
  simp only [issue]
  repeat' split
  all_goals exact ⟨_, rfl⟩

theorem issueLanding_next (q : Issue) (len : Nat) (hold : Bool) (flt : Option FaultInfo)
    (target : Option Int) (eff post : State → State) (s : State) :
    ∃ t, issueLanding q len hold flt target eff post s = .next t := by
  simp only [issueLanding]
  repeat' split
  all_goals exact ⟨_, rfl⟩

/-- The issue itself touches nothing but the executing core. -/
theorem State.advance_rest (s : State) (q : Issue) (len : Nat) (target : Option Int) :
    s.advance q len target = { s with cores := (s.advance q len target).cores } := rfl

/-- The executing context after the issue itself (R60, R62 to R64). -/
theorem State.advance_cur (s : State) (q : Issue) (len : Nat) (target : Option Int) :
    (s.advance q len target).cur =
      { s.cur.stepPc q len target s.cycle with
        stall := 0, yielding := q.y || s.cur.yielding, yieldNew := q.y } := by
  simp only [State.advance, State.cur_eq, State.curK_setCurK]
  generalize ({ (s.curK.ctx s.curCtx).stepPc q len target s.cycle with
    stall := 0, yielding := q.y || (s.curK.ctx s.curCtx).yielding, yieldNew := q.y } : Ctx) = t
  show Core.ctx _ s.curCtx = _
  generalize s.curCtx = x
  generalize s.curK = k
  simp only [Core.ctx, Core.setCtx]
  by_cases h0 : x = 0
  · simp only [h0, if_true]
  by_cases h1 : x = 1
  · simp only [h1, Nat.one_ne_zero, if_true, if_false]
  by_cases h2 : x = 2
  · simp only [h2, OfNat.ofNat_ne_zero, OfNat.ofNat_ne_one, if_true, if_false]
  have h3 : ¬ x < 3 := by omega
  rw [if_neg h0, if_neg h1, if_neg h2]
  simp only [h0, h1, h2, h3, if_false]

/-- The issue moves nothing of its context but these fields. -/
theorem Ctx.stepPc_moved (t : Ctx) (q : Issue) (len : Nat) (target : Option Int) (now : Nat) :
    ∃ pc wild prev ready loops, t.stepPc q len target now =
      { t with pc := pc, wild := wild, prevPc := prev, ready := ready, loops := loops } := by
  cases target with
  | some n => exact ⟨_, _, _, _, _, rfl⟩
  | none =>
    simp only [Ctx.stepPc]
    cases h : t.loops with
    | nil => exact ⟨_, _, _, _, _, rfl⟩
    | cons e es =>
      simp only
      split
      · split
        · exact ⟨_, _, _, _, _, rfl⟩
        · exact ⟨_, _, _, _, _, rfl⟩
      · exact ⟨_, _, _, _, _, rfl⟩

end Sys2Proof.Machine
end

