-- ==== Sys2Proof/Laws/Frame.lean ====
section
/-!
SUPPORT. Frames: an effect that only writes registers, followed by the issue itself, leaves everything
else as it was.
-/

namespace Sys2Proof.Machine

/-- The later of two writes at one key stays. -/
theorem mapPut_put {α : Type} (k : Nat) (v w : α) (m : List (Nat × α)) :
    mapPut k v (mapPut k w m) = mapPut k v m := by
  induction m with
  | nil => simp [mapPut]
  | cons e m ih =>
    obtain ⟨j, x⟩ := e
    simp only [mapPut]
    split
    · simp [mapPut]
    · split
      · simp [mapPut]
      · next h1 h2 => simp [mapPut, h1, h2, ih]

/-- The later of two replacements of a context stays. -/
theorem Core.setCtx_setCtx (k : Core) (x : Nat) (t u : Ctx) : (k.setCtx x t).setCtx x u = k.setCtx x u := by
  simp only [Core.setCtx]; split <;> [rfl; split <;> [rfl; split <;> rfl]]

/-- The later of two replacements of the executing context stays. -/
theorem State.setCur_setCur (s : State) (t u : Ctx) : (s.setCur t).setCur u = s.setCur u := by
  simp only [State.setCur, State.setCtx, State.core_setCore, State.setCore, mapPut_put, Core.setCtx_setCtx]
  simp only [State.core, mapGet_put, Core.setCtx_setCtx]

/-- A state whose executing context has counted the issue, may have another loop stack, and has register
writes to the keys of a list under way. -/
structure WritesOnly (keys : List Nat) (s u : State) : Prop where
  eff : ∃ v new l, u = s.setCur v ∧ v = { s.cur with
      ldist := s.cur.ldist + 1, pend := s.cur.pend ++ new, loops := l } ∧
    ∀ w ∈ new, ∀ e ∈ w.writes, writeTarget e.1 ∈ keys

/-- A register's value rests on what is written and on the free values of the firing (R10). -/
theorem Ctx.reg_of_regs {t u : Ctx} (h : t.regs = u.regs) (hb : t.base = u.base) (key : Nat) : t.reg key = u.reg key := by
  simp only [Ctx.reg, h, hb]

/-- Register writes act alike on contexts with equal registers. -/
theorem foldl_setRegs_congr (ws : List PendWrite) : ∀ (t u : Ctx), t.regs = u.regs → t.base = u.base →
    (ws.foldl (fun t w => t.setRegs w.writes) t).regs = (ws.foldl (fun t w => t.setRegs w.writes) u).regs ∧ (ws.foldl (fun t w => t.setRegs w.writes) t).base = (ws.foldl (fun t w => t.setRegs w.writes) u).base := by
  have one : ∀ (t u : Ctx) (k : Nat) (v : PVal), t.regs = u.regs → t.base = u.base → (t.putReg k v).regs = (u.putReg k v).regs ∧ (t.putReg k v).base = (u.putReg k v).base := by
    intro t u k v h hb; simp only [Ctx.putReg]; split <;> simp [h, hb]
  have two : ∀ (t u : Ctx) (k : Nat) (v : PVal), t.regs = u.regs → t.base = u.base → (t.setReg k v).regs = (u.setReg k v).regs ∧ (t.setReg k v).base = (u.setReg k v).base := by
    intro t u k v h hb
    simp only [Ctx.setReg, Ctx.reg_of_regs h hb]
    repeat' split
    all_goals exact one _ _ _ _ h hb
  have three : ∀ (l : List (Nat × PVal)) (t u : Ctx), t.regs = u.regs → t.base = u.base → (t.setRegs l).regs = (u.setRegs l).regs ∧ (t.setRegs l).base = (u.setRegs l).base := by
    intro l
    simp only [Ctx.setRegs]
    induction l with
    | nil => intro t u h hb; exact ⟨h, hb⟩
    | cons e l ih => intro t u h hb; exact ih _ _ (two t u e.1 e.2 h hb).1 (two t u e.1 e.2 h hb).2
  induction ws with
  | nil => intro t u h hb; exact ⟨h, hb⟩
  | cons w ws ih => intro t u h hb; exact ih _ _ (three _ t u h hb).1 (three _ t u h hb).2

/-- Register writes leave every register that none of them names. -/
theorem foldl_setRegs_ne (ws : List PendWrite) (key : Nat) : ∀ (t : Ctx),
    (∀ w ∈ ws, ∀ e ∈ w.writes, key ≠ writeTarget e.1) → (ws.foldl (fun t w => t.setRegs w.writes) t).reg key = t.reg key := by
  induction ws with
  | nil => intro t _; rfl
  | cons w ws ih =>
    intro t h
    rw [List.foldl_cons, ih _ (fun v hv => h v (.tail _ hv)), Ctx.reg_setRegs_ne _ _ _ (h w (.head _))]

/-- The issue leaves every other core. -/
theorem State.advance_core_ne (s : State) (q : Issue) (len : Nat) (target : Option Int) {c : Nat} (h : c ≠ s.curCore) :
    (s.advance q len target).core c = s.core c := by
  simp only [State.advance, State.setCurK]
  exact State.core_setCore_ne _ _ h

/-- What R64 changes of a context that waits. -/
theorem Ctx.served_eq (t : Ctx) (x : Nat) : t.served x = { t with yielding := (t.served x).yielding, yieldFor := (t.served x).yieldFor } := by
  simp only [Ctx.served]
  repeat' split
  all_goals rfl


/-- The issue after an effect that only writes registers: nothing but them and what an issue itself
moves differs (R60, R62 to R64, R66). -/
theorem advance_registersOnly {keys : List Nat} {s u : State} (q : Issue) (len : Nat) (target : Option Int) (h : WritesOnly keys s u) :
    RegistersOnly keys s (u.advance q len target) := by
  obtain ⟨v, new, l, rfl, hv, hw⟩ := h
  have e : (s.setCur v).curCtx = s.curCtx := rfl
  have e2 : (s.setCur v).curCore = s.curCore := rfl
  obtain ⟨a, b, c, d, f, h⟩ := Ctx.stepPc_moved v q len target s.cycle
  have hc : ((s.setCur v).advance q len target).cur = { v with pc := a, wild := b, prevPc := c, ready := d, loops := f, stall := 0, yielding := q.y || v.yielding, yieldNew := q.y } := by
    rw [State.advance_cur, State.cur_setCur]
    have : (s.setCur v).cycle = s.cycle := rfl
    rw [this, h]
  constructor
  · constructor
    · rw [State.advance_rest]; rfl
    · intro c hc
      exact (State.advance_core_ne _ _ _ _ (by rw [e2]; exact hc)).trans (State.core_setCore_ne _ _ hc)
    · intro key; rfl
  · constructor
    · simp only [State.advance, State.curK_setCurK, State.curK_setCur, e]
      generalize s.curK = k
      generalize s.curCtx = y
      generalize ({ (s.setCur v).cur.stepPc q len target (s.setCur v).cycle with stall := 0, yielding := q.y || (s.setCur v).cur.yielding, yieldNew := q.y } : Ctx) = t1
      simp only [Core.setCtx]
      by_cases h0 : y = 0
      · simp [h0]
      · by_cases h1 : y = 1
        · simp [h1]
        · by_cases h2 : y = 2
          · simp [h2]
          · simp [h0, h1, h2]; done
    · intro x hx hn
      simp only [State.advance, State.ctx, State.setCurK, State.core_setCore, State.curK_setCur, e, e2]
      have e3 : s.core s.curCore = s.curK := rfl
      rw [e3]
      generalize s.curK = k at *
      generalize s.curCtx = y at *
      simp only [Core.setCtx, Core.ctx]
      rcases (by omega : x = 0 ∨ x = 1 ∨ x = 2 ∨ x = 3) with rfl | rfl | rfl | rfl <;>
      · by_cases h0 : y = 0
        · subst h0; first | (exfalso; revert hn; simp; done) | (simp; exact Ctx.served_eq _ _)
        · by_cases h1 : y = 1
          · subst h1; first | (exfalso; revert hn; simp; done) | (simp; exact Ctx.served_eq _ _)
          · by_cases h2 : y = 2
            · subst h2; first | (exfalso; revert hn; simp; done) | (simp; exact Ctx.served_eq _ _)
            · first | (exfalso; omega) | (simp [h0, h1, h2]; exact Ctx.served_eq _ _)
  · rw [hc, hv]; simp only [Ctx.movedTo]
  · intro now key hk
    rw [hc]
    simp only [Ctx.writeback]
    have hp : v.pend = s.cur.pend ++ new := by rw [hv]
    rw [hp, List.filter_append, List.foldl_append]
    refine (Ctx.reg_of_regs rfl rfl key).trans ?_
    refine (foldl_setRegs_ne (new.filter fun w => w.due ≤ now) key _ fun w hw' e he => ?_).trans ?_
    · intro hh; exact hk (hh ▸ hw w (List.mem_filter.1 hw').1 e he)
    · have key' := fun (L : List PendWrite) (t0 : Ctx) (hr : t0.regs = s.cur.regs) (hb : t0.base = s.cur.base) =>
        Ctx.reg_of_regs (foldl_setRegs_congr L t0 s.cur hr hb).1 (foldl_setRegs_congr L t0 s.cur hr hb).2 key
      exact (key' _ _ (by rw [hv]) (by rw [hv])).trans (Ctx.reg_of_regs rfl rfl key)

/-- The issue's own count writes nothing. -/
theorem writesOnly_id (keys : List Nat) (s : State) : WritesOnly keys s s.countIssue :=
  ⟨_, [], s.cur.loops, rfl, by simp, by simp⟩

/-- Register writes of an effect. -/
theorem writesOnly_regs {keys : List Nat} (s : State) (lat : Nat) (ws : List (Nat × PVal)) (h : ∀ e ∈ ws, writeTarget e.1 ∈ keys) :
    WritesOnly keys s (s.countIssue.writeRegs lat ws) := by
  refine ⟨_, [⟨s.cycle + lat, ws⟩], s.cur.loops, ?_, rfl, by simpa using h⟩
  simp only [State.writeRegs, State.countIssue, State.cur_setCur, State.setCur_setCur]
  rfl

/-- A write of x d. -/
theorem writesOnly_x {keys : List Nat} (s : State) (lat : Nat) (d : XReg) (v : Word64) (po : Bool) (h : xKey d ∈ keys) :
    WritesOnly keys s (s.countIssue.writeX lat d v po) := by
  unfold State.writeX
  refine writesOnly_regs s lat _ ?_
  have : d.toNat < 32 := d.isLt
  simp only [List.mem_singleton, forall_eq, writeTarget]
  have e : xKey d = d.toNat := rfl
  rw [if_pos (by omega)]; exact h

/-- A write of p d. -/
theorem writesOnly_p {keys : List Nat} (s : State) (lat : Nat) (d : PReg) (v po : Bool) (h : pKey d ∈ keys) :
    WritesOnly keys s (s.countIssue.writeP lat d v po) := by
  unfold State.writeP
  refine writesOnly_regs s lat _ ?_
  have : d.toNat < 8 := d.isLt
  simp only [List.mem_singleton, forall_eq, writeTarget]
  have e : pKey d = 610 + d.toNat := rfl
  rw [if_pos (by omega)]; exact h

end Sys2Proof.Machine
end

