-- ==== Sys2Proof/Laws/Freeze.lean ====
section
/-!
SUPPORT. What a freeze stops (R411, R412), and nothing else; and what an event that enters a load's
determinism record leaves alone (R465, R467).
-/

namespace Sys2Proof.Machine

/-- Only a freeze gates a hall of a load. -/
theorem Load.gated_eq_false {l : Load} (h : l.state ≠ .frozen) (hk : Nat) : l.gated hk = false := by
  simp [Load.gated, h]

/-- Only a freeze stops a packet of a load. -/
theorem State.frozenAt_eq_no {s : State} {p : Packet} (h : (s.loadAt p.load).state ≠ .frozen) :
    s.frozenAt p = .no := by
  simp [State.frozenAt, h]

/-- Only a freeze gates a core. -/
theorem State.coreGated_eq_false {s : State} {c h : Nat} (hc : (s.core c).load = some h)
    (hs : (s.loadAt h).state ≠ .frozen) : s.coreGated c = false := by
  simp [State.coreGated, hc, Load.gated_eq_false hs]

/-- No freeze stops a gallery's accesses, nor those beyond the package. -/
theorem State.bankGated_eq_false {s : State} {key : Nat} (h : isHallKey key = false) (c : Nat) :
    s.bankGated c key = false := by
  unfold State.bankGated; split <;> simp [h]

/-- A packet at its destination commits unless its load is gone or a freeze has reached its hall. -/
theorem State.packetGone_iff (s : State) (p : Packet) : s.packetGone p = true ↔
    (s.loadAt p.load).state = .free ∨ (s.loadAt p.load).gated p.hall = true := by
  simp [State.packetGone, Load.committed]

/-- An event of the record is a change of its load alone. -/
theorem State.detEvent_eq (s : State) (h : Nat) (code ctx : BitVec 8) (core pc : BitVec 16)
    (first : BitVec 32) : ∃ d n, s.detEvent h code ctx core pc first =
      s.setLoad h { s.loadAt h with det := d, overflow := n } := by
  unfold State.detEvent
  dsimp only
  split
  · exact ⟨_, _, rfl⟩
  · split <;> exact ⟨_, _, rfl⟩

/-- A late arc that is noted changes its load's record and timers alone, and sets its mark. -/
theorem State.loadAt_noteLate (h : Nat) (s : State) (e : Nat × Nat) : ∃ d n,
    (s.noteLate h e).loadAt h = { s.loadAt h with
      det := d, overflow := n,
      timers := mapPut (toleratedMark + timerKey e.1 e.2) 1 (s.loadAt h).timers } := by
  obtain ⟨d, n, hd⟩ := s.detEvent_eq h 4
    (BitVec.ofNat 8 (bits (s.actorWord e.1 (s.winActor e.1 e.2) 0) 55 2))
    ((s.visibleCore e.1).setWidth 16) 0 (BitVec.ofNat 32 (s.cmt e.1 e.2))
  refine ⟨d, n, ?_⟩
  unfold State.noteLate
  dsimp only
  rw [hd]
  simp [State.setLoad, State.loadAt]

end Sys2Proof.Machine
end

