-- ==== Sys2Proof/Laws/PerInstr.lean ====
section
/-!
SUPPORT. For every instruction, how many words the encoder gives it (R78).
-/

namespace Sys2Proof.Laws.Length

set_option linter.unusedVariables false

/-- R78: two words for the forms of format L, one for every other encoded instruction, none for an
event. -/
def words : Instr → Nat
  | .moviLong .. | .lih .. | .land .. => 2
  | i => if i.encoded then 1 else 0

/-- The encoder gives an instruction as many words as its format has. -/
def Statement (i : Instr) : Prop := (encode i).length = words i

theorem add (q : Issue) (d a b : XReg) : Statement (.add q d a b) := rfl
theorem sub (q : Issue) (d a b : XReg) : Statement (.sub q d a b) := rfl
theorem mul (q : Issue) (d a b : XReg) : Statement (.mul q d a b) := rfl
theorem mulh (q : Issue) (d a b : XReg) : Statement (.mulh q d a b) := rfl
theorem mulhu (q : Issue) (d a b : XReg) : Statement (.mulhu q d a b) := rfl
theorem div (q : Issue) (a b : XReg) : Statement (.div q a b) := rfl
theorem divu (q : Issue) (a b : XReg) : Statement (.divu q a b) := rfl
theorem rem (q : Issue) (a b : XReg) : Statement (.rem q a b) := rfl
theorem remu (q : Issue) (a b : XReg) : Statement (.remu q a b) := rfl
theorem and (q : Issue) (d a b : XReg) : Statement (.and q d a b) := rfl
theorem or (q : Issue) (d a b : XReg) : Statement (.or q d a b) := rfl
theorem xor (q : Issue) (d a b : XReg) : Statement (.xor q d a b) := rfl
theorem andn (q : Issue) (d a b : XReg) : Statement (.andn q d a b) := rfl
theorem shl (q : Issue) (d a b : XReg) : Statement (.shl q d a b) := rfl
theorem shr (q : Issue) (d a b : XReg) : Statement (.shr q d a b) := rfl
theorem sra (q : Issue) (d a b : XReg) : Statement (.sra q d a b) := rfl
theorem rol (q : Issue) (d a b : XReg) : Statement (.rol q d a b) := rfl
theorem clz (q : Issue) (d a : XReg) : Statement (.clz q d a) := rfl
theorem ctz (q : Issue) (d a : XReg) : Statement (.ctz q d a) := rfl
theorem popc (q : Issue) (d a : XReg) : Statement (.popc q d a) := rfl
theorem min (q : Issue) (d a b : XReg) : Statement (.min q d a b) := rfl
theorem max (q : Issue) (d a b : XReg) : Statement (.max q d a b) := rfl
theorem minu (q : Issue) (d a b : XReg) : Statement (.minu q d a b) := rfl
theorem maxu (q : Issue) (d a b : XReg) : Statement (.maxu q d a b) := rfl
theorem sel (q : Issue) (d a b : XReg) (p : PReg) : Statement (.sel q d a b p) := rfl
theorem cmp (q : Issue) (c : Cond) (p : PReg) (a b : XReg) : Statement (.cmp q c p a b) := rfl
theorem addi (q : Issue) (d a : XReg) (i : BitVec 11) : Statement (.addi q d a i) := rfl
theorem andi (q : Issue) (d a : XReg) (i : BitVec 11) : Statement (.andi q d a i) := rfl
theorem ori (q : Issue) (d a : XReg) (i : BitVec 11) : Statement (.ori q d a i) := rfl
theorem xori (q : Issue) (d a : XReg) (i : BitVec 11) : Statement (.xori q d a i) := rfl
theorem shli (q : Issue) (d a : XReg) (n : BitVec 6) : Statement (.shli q d a n) := rfl
theorem shri (q : Issue) (d a : XReg) (n : BitVec 6) : Statement (.shri q d a n) := rfl
theorem srai (q : Issue) (d a : XReg) (n : BitVec 6) : Statement (.srai q d a n) := rfl
theorem movi (q : Issue) (d : XReg) (i : BitVec 11) : Statement (.movi q d i) := rfl
theorem moviLong (q : Issue) (d : XReg) (i : Word32) : Statement (.moviLong q d i) := rfl
theorem lih (q : Issue) (d : XReg) (i : Word32) : Statement (.lih q d i) := rfl
theorem lea (q : Issue) (d a : XReg) (i : BitVec 11) : Statement (.lea q d a i) := rfl
theorem cmpiEq (q : Issue) (p : PReg) (a : XReg) (i : BitVec 11) :
    Statement (.cmpiEq q p a i) := rfl
theorem cmpiNe (q : Issue) (p : PReg) (a : XReg) (i : BitVec 11) :
    Statement (.cmpiNe q p a i) := rfl
theorem cmpiLt (q : Issue) (p : PReg) (a : XReg) (i : BitVec 11) :
    Statement (.cmpiLt q p a i) := rfl
theorem cmpiLtu (q : Issue) (p : PReg) (a : XReg) (i : BitVec 11) :
    Statement (.cmpiLtu q p a i) := rfl
theorem cmpiGe (q : Issue) (p : PReg) (a : XReg) (i : BitVec 11) :
    Statement (.cmpiGe q p a i) := rfl
theorem cmpiGeu (q : Issue) (p : PReg) (a : XReg) (i : BitVec 11) :
    Statement (.cmpiGeu q p a i) := rfl
theorem br (q : Issue) (p : PReg) (off : BitVec 17) : Statement (.br q p off) := rfl
theorem brn (q : Issue) (p : PReg) (off : BitVec 17) : Statement (.brn q p off) := rfl
theorem jmp (q : Issue) (off : BitVec 17) : Statement (.jmp q off) := rfl
theorem jal (q : Issue) (off : BitVec 17) : Statement (.jal q off) := rfl
theorem jr (q : Issue) (a : XReg) : Statement (.jr q a) := rfl
theorem loop (q : Issue) (a : XReg) (i : BitVec 11) : Statement (.loop q a i) := rfl
theorem pand (q : Issue) (d a b : PReg) : Statement (.pand q d a b) := rfl
theorem por (q : Issue) (d a b : PReg) : Statement (.por q d a b) := rfl
theorem pxor (q : Issue) (d a b : PReg) : Statement (.pxor q d a b) := rfl
theorem pnot (q : Issue) (d a : PReg) : Statement (.pnot q d a) := rfl
theorem pset (q : Issue) (d : PReg) (v : Bool) : Statement (.pset q d v) := rfl
theorem srd (q : Issue) (d : XReg) (r : SpecReg) : Statement (.srd q d r) := rfl
theorem swr (q : Issue) (r : SpecReg) (b : XReg) : Statement (.swr q r b) := rfl
theorem dpop (q : Issue) (d : XReg) : Statement (.dpop q d) := rfl
theorem vadd (q : Issue) (t : VType) (d a b : VReg) (k : KReg) :
    Statement (.vadd q t d a b k) := rfl
theorem vsub (q : Issue) (t : VType) (d a b : VReg) (k : KReg) :
    Statement (.vsub q t d a b k) := rfl
theorem vmul (q : Issue) (t : VType) (d a b : VReg) (k : KReg) :
    Statement (.vmul q t d a b k) := rfl
theorem vfma (q : Issue) (t : VType) (d a b : VReg) (k : KReg) :
    Statement (.vfma q t d a b k) := rfl
theorem vfms (q : Issue) (t : VType) (d a b : VReg) (k : KReg) :
    Statement (.vfms q t d a b k) := rfl
theorem vmin (q : Issue) (t : VType) (d a b : VReg) (k : KReg) :
    Statement (.vmin q t d a b k) := rfl
theorem vmax (q : Issue) (t : VType) (d a b : VReg) (k : KReg) :
    Statement (.vmax q t d a b k) := rfl
theorem vabs (q : Issue) (t : VType) (d a : VReg) (k : KReg) : Statement (.vabs q t d a k) := rfl
theorem vneg (q : Issue) (t : VType) (d a : VReg) (k : KReg) : Statement (.vneg q t d a k) := rfl
theorem vaddSat (q : Issue) (t : VType) (d a b : VReg) (k : KReg) :
    Statement (.vaddSat q t d a b k) := rfl
theorem vsubSat (q : Issue) (t : VType) (d a b : VReg) (k : KReg) :
    Statement (.vsubSat q t d a b k) := rfl
theorem vrcp (q : Issue) (d a : VReg) (k : KReg) : Statement (.vrcp q d a k) := rfl
theorem vrsq (q : Issue) (d a : VReg) (k : KReg) : Statement (.vrsq q d a k) := rfl
theorem vsqrt (q : Issue) (d a : VReg) (k : KReg) : Statement (.vsqrt q d a k) := rfl
theorem vexp2 (q : Issue) (d a : VReg) (k : KReg) : Statement (.vexp2 q d a k) := rfl
theorem vlog2 (q : Issue) (d a : VReg) (k : KReg) : Statement (.vlog2 q d a k) := rfl
theorem vshl (q : Issue) (t : VType) (d a b : VReg) (k : KReg) :
    Statement (.vshl q t d a b k) := rfl
theorem vshr (q : Issue) (t : VType) (d a b : VReg) (k : KReg) :
    Statement (.vshr q t d a b k) := rfl
theorem vsra (q : Issue) (t : VType) (d a b : VReg) (k : KReg) :
    Statement (.vsra q t d a b k) := rfl
theorem vcmp (q : Issue) (t : VType) (c : VCond) (m : KReg) (a b : VReg) (k : KReg) :
    Statement (.vcmp q t c m a b k) := rfl
theorem vredsum (q : Issue) (t : VType) (d a : VReg) (k : KReg) :
    Statement (.vredsum q t d a k) := rfl
theorem vredmax (q : Issue) (t : VType) (d a : VReg) (k : KReg) :
    Statement (.vredmax q t d a k) := rfl
theorem vredmin (q : Issue) (t : VType) (d a : VReg) (k : KReg) :
    Statement (.vredmin q t d a k) := rfl
theorem vredarg (q : Issue) (t : VType) (d a : VReg) (k : KReg) :
    Statement (.vredarg q t d a k) := rfl
theorem vand (q : Issue) (d a b : VReg) (k : KReg) : Statement (.vand q d a b k) := rfl
theorem vor (q : Issue) (d a b : VReg) (k : KReg) : Statement (.vor q d a b k) := rfl
theorem vxor (q : Issue) (d a b : VReg) (k : KReg) : Statement (.vxor q d a b k) := rfl
theorem vsel (q : Issue) (d a b : VReg) (k : KReg) : Statement (.vsel q d a b k) := rfl
theorem vkand (q : Issue) (d a b : KReg) : Statement (.vkand q d a b) := rfl
theorem vkor (q : Issue) (d a b : KReg) : Statement (.vkor q d a b) := rfl
theorem vknot (q : Issue) (d a : KReg) : Statement (.vknot q d a) := rfl
theorem vkpop (q : Issue) (d : SReg) (a : KReg) : Statement (.vkpop q d a) := rfl
theorem vmov (q : Issue) (d a : VReg) (k : KReg) : Statement (.vmov q d a k) := rfl
theorem vbcast (q : Issue) (d : VReg) (a : SReg) (k : KReg) : Statement (.vbcast q d a k) := rfl
theorem vext (q : Issue) (d : SReg) (a : VReg) (b : SReg) : Statement (.vext q d a b) := rfl
theorem vins (q : Issue) (d : VReg) (a b : SReg) : Statement (.vins q d a b) := rfl
theorem vperm (q : Issue) (d a b : VReg) (k : KReg) : Statement (.vperm q d a b k) := rfl
theorem vshuf (q : Issue) (d a b : VReg) (k : KReg) : Statement (.vshuf q d a b k) := rfl
theorem vrot (q : Issue) (d a : VReg) (b : SReg) (k : KReg) : Statement (.vrot q d a b k) := rfl
theorem vcvt (q : Issue) (d a : VReg) (m : RMode) (k : KReg) (sat : Bool) (src dst : VType) :
    Statement (.vcvt q d a m k sat src dst) := rfl
theorem vpack (q : Issue) (d a b : VReg) (part : BitVec 2) (m : RMode) (c : PackCode) :
    Statement (.vpack q d a b part m c) := rfl
theorem vunpk (q : Issue) (d a : VReg) (part : BitVec 4) (k : KReg) (c : PackCode) :
    Statement (.vunpk q d a part k c) := rfl
theorem vscale (q : Issue) (d a : VReg) (b : SReg) (k : KReg) (e : ElemFmt) :
    Statement (.vscale q d a b k e) := rfl
theorem vscaleApply (q : Issue) (d a : VReg) (b : SReg) (k : KReg) (e : ElemFmt) :
    Statement (.vscaleApply q d a b k e) := rfl
theorem vld (q : Issue) (d : VReg) (a b : SReg) (k : KReg) : Statement (.vld q d a b k) := rfl
theorem vst (q : Issue) (d : VReg) (a b : SReg) (k : KReg) : Statement (.vst q d a b k) := rfl
theorem vlds (q : Issue) (d : VReg) (a b : SReg) (k : KReg) : Statement (.vlds q d a b k) := rfl
theorem vsts (q : Issue) (d : VReg) (a b : SReg) (k : KReg) : Statement (.vsts q d a b k) := rfl
theorem vgath (q : Issue) (d : VReg) (a : SReg) (b : VReg) (k : KReg) :
    Statement (.vgath q d a b k) := rfl
theorem vscat (q : Issue) (d : VReg) (a : SReg) (b : VReg) (k : KReg) :
    Statement (.vscat q d a b k) := rfl
theorem vrng (q : Issue) (d a : VReg) (k : KReg) : Statement (.vrng q d a k) := rfl
theorem vsamp (q : Issue) (d a : VReg) (b : SReg) (k : KReg) (p : PReg) :
    Statement (.vsamp q d a b k p) := rfl
theorem vsampGreedy (q : Issue) (d a : VReg) (b : SReg) (k : KReg) (p : PReg) :
    Statement (.vsampGreedy q d a b k p) := rfl
theorem vmaskld (q : Issue) (m : KReg) (a b : SReg) : Statement (.vmaskld q m a b) := rfl
theorem mma (q : Issue) (z : Bool) (a b : XReg) (f : MFmt) (kc : BitVec 6) :
    Statement (.mma q z a b f kc) := rfl
theorem mmas (q : Issue) (z : Bool) (a b : XReg) (f : MFmt) (kc : BitVec 6) :
    Statement (.mmas q z a b f kc) := rfl
theorem mmai (q : Issue) (z : Bool) (a b : XReg) (kc : BitVec 6) :
    Statement (.mmai q z a b kc) := rfl
theorem mzero (q : Issue) (z : Bool) : Statement (.mzero q z) := rfl
theorem mldz (q : Issue) (z : Bool) (a : XReg) : Statement (.mldz q z a) := rfl
theorem mstz (q : Issue) (z : Bool) (a : XReg) : Statement (.mstz q z a) := rfl
theorem mrdv (q : Issue) (z : Bool) (a : XReg) (d : VReg) : Statement (.mrdv q z a d) := rfl
theorem mwait (q : Issue) : Statement (.mwait q) := rfl
theorem mstat (q : Issue) (z : Bool) (d : XReg) : Statement (.mstat q z d) := rfl
theorem ld (q : Issue) (w : Width) (d a : XReg) (o : BitVec 9) : Statement (.ld q w d a o) := rfl
theorem st (q : Issue) (w : Width) (d a : XReg) (o : BitVec 9) : Statement (.st q w d a o) := rfl
theorem wget (q : Issue) (d : XReg) (w : BitVec 4) (b : XReg) : Statement (.wget q d w b) := rfl
theorem wfree (q : Issue) (w : BitVec 4) (b : XReg) : Statement (.wfree q w b) := rfl
theorem wres (q : Issue) (w : BitVec 4) (b : XReg) : Statement (.wres q w b) := rfl
theorem wput (q : Issue) (w : BitVec 4) (b : XReg) : Statement (.wput q w b) := rfl
theorem wavail (q : Issue) (d : XReg) (w : BitVec 4) : Statement (.wavail q d w) := rfl
theorem wspace (q : Issue) (d : XReg) (w : BitVec 4) : Statement (.wspace q d w) := rfl
theorem tmovIn (q : Issue) (d a b : XReg) : Statement (.tmovIn q d a b) := rfl
theorem tmovOut (q : Issue) (d a b : XReg) : Statement (.tmovOut q d a b) := rfl
theorem twait (q : Issue) (n : BitVec 2) : Statement (.twait q n) := rfl
theorem ald (q : Issue) (acq : Bool) (s : Scope) (dw : Bool) (a : XReg) :
    Statement (.ald q acq s dw a) := rfl
theorem ast (q : Issue) (rel : Bool) (s : Scope) (dw : Bool) (a b : XReg) :
    Statement (.ast q rel s dw a b) := rfl
theorem acas (q : Issue) (o : Order) (s : Scope) (dw : Bool) (a b : XReg) :
    Statement (.acas q o s dw a b) := rfl
theorem atomAdd (q : Issue) (o : Order) (s : Scope) (a b : XReg) :
    Statement (.atomAdd q o s a b) := rfl
theorem atomSwap (q : Issue) (o : Order) (s : Scope) (a b : XReg) :
    Statement (.atomSwap q o s a b) := rfl
theorem atomAnd (q : Issue) (o : Order) (s : Scope) (a b : XReg) :
    Statement (.atomAnd q o s a b) := rfl
theorem atomOr (q : Issue) (o : Order) (s : Scope) (a b : XReg) :
    Statement (.atomOr q o s a b) := rfl
theorem atomXor (q : Issue) (o : Order) (s : Scope) (a b : XReg) :
    Statement (.atomXor q o s a b) := rfl
theorem atomMin (q : Issue) (o : Order) (s : Scope) (a b : XReg) :
    Statement (.atomMin q o s a b) := rfl
theorem atomMax (q : Issue) (o : Order) (s : Scope) (a b : XReg) :
    Statement (.atomMax q o s a b) := rfl
theorem atomMaxu (q : Issue) (o : Order) (s : Scope) (a b : XReg) :
    Statement (.atomMaxu q o s a b) := rfl
theorem ldf (q : Issue) (d a : XReg) (e : BitVec 8) : Statement (.ldf q d a e) := rfl
theorem stf (q : Issue) (d a : XReg) : Statement (.stf q d a) := rfl
theorem sete (q : Issue) (d a : XReg) : Statement (.sete q d a) := rfl
theorem fence (q : Issue) (s : Scope) : Statement (.fence q s) := rfl
theorem sstart (q : Issue) (n : BitVec 5) : Statement (.sstart q n) := rfl
theorem sstop (q : Issue) (n : BitVec 5) : Statement (.sstop q n) := rfl
theorem sbar (q : Issue) (b : XReg) : Statement (.sbar q b) := rfl
theorem sstat (q : Issue) (n : BitVec 5) : Statement (.sstat q n) := rfl
theorem qclaim (q : Issue) (n : BitVec 5) : Statement (.qclaim q n) := rfl
theorem qput (q : Issue) (n : BitVec 5) (b : XReg) : Statement (.qput q n b) := rfl
theorem qstat (q : Issue) (n : BitVec 5) : Statement (.qstat q n) := rfl
theorem fend (q : Issue) : Statement (.fend q) := rfl
theorem resume (q : Issue) : Statement (.resume q) := rfl
theorem land (q : Issue) (e : BitVec 8) (t : BitVec 4) : Statement (.land q e t) := rfl
theorem mode (q : Issue) (m : BitVec 3) : Statement (.mode q m) := rfl
theorem sig (q : Issue) (n : BitVec 6) : Statement (.sig q n) := rfl
theorem trapN (q : Issue) (c : BitVec 5) : Statement (.trapN q c) := rfl
theorem trapS (q : Issue) (c : BitVec 5) : Statement (.trapS q c) := rfl
theorem brk (q : Issue) : Statement (.brk q) := rfl
theorem gopen (q : Issue) (a b : XReg) : Statement (.gopen q a b) := rfl
theorem gstep (q : Issue) (a b : XReg) : Statement (.gstep q a b) := rfl
theorem gmask (q : Issue) (a b : XReg) : Statement (.gmask q a b) := rfl
theorem gclose (q : Issue) (a : XReg) : Statement (.gclose q a) := rfl
theorem gqry (q : Issue) (a b : XReg) : Statement (.gqry q a b) := rfl
theorem cfgw (q : Issue) (a b : XReg) : Statement (.cfgw q a b) := rfl
theorem cfgr (q : Issue) (a b : XReg) : Statement (.cfgr q a b) := rfl
theorem cfgcrc (q : Issue) (a b : XReg) : Statement (.cfgcrc q a b) := rfl
theorem cfgcommit (q : Issue) (a b : XReg) : Statement (.cfgcommit q a b) := rfl
theorem cfgabort (q : Issue) (b : XReg) : Statement (.cfgabort q b) := rfl
theorem rtw (q : Issue) (a b : XReg) : Statement (.rtw q a b) := rfl
theorem sech (q : Issue) (a b : XReg) : Statement (.sech q a b) := rfl
theorem secv (q : Issue) (a b : XReg) : Statement (.secv q a b) := rfl
theorem eret (q : Issue) (a b : XReg) : Statement (.eret q a b) := rfl
theorem preq (q : Issue) (a b : XReg) : Statement (.preq q a b) := rfl
theorem frz (q : Issue) (a b : XReg) : Statement (.frz q a b) := rfl
theorem dmap (q : Issue) (a b : XReg) : Statement (.dmap q a b) := rfl
theorem resultWriteback (core ctx : Nat) : Statement (.resultWriteback core ctx) := rfl
theorem deferredResultArrival (core ctx id : Nat) (v : Word64) (po : Bool) :
    Statement (.deferredResultArrival core ctx id v po) := rfl
theorem firingStart (core entry : Nat) : Statement (.firingStart core entry) := rfl
theorem guardPoison (core entry : Nat) : Statement (.guardPoison core entry) := rfl
theorem windowClosed (core entry : Nat) : Statement (.windowClosed core entry) := rfl
theorem claimRequest (core entry : Nat) : Statement (.claimRequest core entry) := rfl
theorem claimDecide (core ctx : Nat) : Statement (.claimDecide core ctx) := rfl
theorem claimAnswer (core ctx : Nat) (grant : Bool) (idx : Word32) :
    Statement (.claimAnswer core ctx grant idx) := rfl
theorem queueSlotCommit (id : Nat) : Statement (.queueSlotCommit id) := rfl
theorem claimCopyRetire (id : Nat) : Statement (.claimCopyRetire id) := rfl
theorem queueCredit (load queue : Nat) (freed : Word32) :
    Statement (.queueCredit load queue freed) := rfl
theorem queueClose (load queue : Nat) (final : Word32) :
    Statement (.queueClose load queue final) := rfl
theorem routerForward (id : Nat) : Statement (.routerForward id) := rfl
theorem tokenCommit (id : Nat) : Statement (.tokenCommit id) := rfl
theorem wputReadDone (id : Nat) : Statement (.wputReadDone id) := rfl
theorem creditArrival (id : Nat) : Statement (.creditArrival id) := rfl
theorem closePacketArrival (id : Nat) : Statement (.closePacketArrival id) := rfl
theorem commitAck (core ctx id : Nat) : Statement (.commitAck core ctx id) := rfl
theorem tmovRetire (id : Nat) : Statement (.tmovRetire id) := rfl
theorem matrixCommandStart (core : Nat) : Statement (.matrixCommandStart core) := rfl
theorem matrixStreamEnd (core : Nat) : Statement (.matrixStreamEnd core) := rfl
theorem matrixCommandRetire (core : Nat) : Statement (.matrixCommandRetire core) := rfl
theorem resultAreaWrite (id : Nat) : Statement (.resultAreaWrite id) := rfl
theorem corridorArrival (core sig : Nat) : Statement (.corridorArrival core sig) := rfl
theorem corridorApply (core ctx : Nat) : Statement (.corridorApply core ctx) := rfl
theorem drainStart (load : Nat) (m : BitVec 3) : Statement (.drainStart load m) := rfl
theorem streamToken (hall stream : Nat) : Statement (.streamToken hall stream) := rfl
theorem orderedAccessPerform (hall stream : Nat) :
    Statement (.orderedAccessPerform hall stream) := rfl
theorem walkResult (id : Nat) : Statement (.walkResult id) := rfl
theorem rewalk (id : Nat) : Statement (.rewalk id) := rfl
theorem flimExpiry (id : Nat) : Statement (.flimExpiry id) := rfl
theorem invalidatePage (wing : Nat) (va : BitVec 35) (asn : BitVec 11) :
    Statement (.invalidatePage wing va asn) := rfl
theorem invalidateRegion (wing : Nat) (va : BitVec 35) (asn : BitVec 11) :
    Statement (.invalidateRegion wing va asn) := rfl
theorem invalidateAsn (wing : Nat) (asn : BitVec 11) : Statement (.invalidateAsn wing asn) := rfl
theorem invalidateAll (wing : Nat) : Statement (.invalidateAll wing) := rfl
theorem preemptFlagSet (core : Nat) : Statement (.preemptFlagSet core) := rfl
theorem hallWriteOut (load slot : Nat) : Statement (.hallWriteOut load slot) := rfl
theorem freezeArrival (load hall : Nat) : Statement (.freezeArrival load hall) := rfl
theorem stopFlagArrival (core : Nat) : Statement (.stopFlagArrival core) := rfl
theorem hang (load : Nat) (drain : Bool) (stalled : Option (Nat × Nat)) :
    Statement (.hang load drain stalled) := rfl
theorem moveEntriesValid (core : Nat) : Statement (.moveEntriesValid core) := rfl
theorem benRestart (wing : Nat) : Statement (.benRestart wing) := rfl
theorem grammarCommandPerform (id : Nat) : Statement (.grammarCommandPerform id) := rfl
theorem doorbellWrite (queue : BitVec 6) (v : Word64) : Statement (.doorbellWrite queue v) := rfl
theorem launchCold (queue : BitVec 6) : Statement (.launchCold queue) := rfl
theorem launchColdResident (queue : BitVec 6) : Statement (.launchColdResident queue) := rfl
theorem launchResidentRun (queue : BitVec 6) : Statement (.launchResidentRun queue) := rfl
theorem launchRelease (queue : BitVec 6) : Statement (.launchRelease queue) := rfl
theorem msixUnmask (vector : Nat) : Statement (.msixUnmask vector) := rfl
theorem placingOutcome (launch : Nat) (word : Word64) :
    Statement (.placingOutcome launch word) := rfl
theorem bar2Write (off : BitVec 28) (data : List Byte) (ep : Bool) :
    Statement (.bar2Write off data ep) := rfl
theorem bar2Read (off : BitVec 28) (n : Nat) : Statement (.bar2Read off n) := rfl
theorem registerWrite (off : BitVec 14) (v : Word64) : Statement (.registerWrite off v) := rfl
theorem voltageReplan (wing hall : Nat) (voff : Option (BitVec 8)) :
    Statement (.voltageReplan wing hall voff) := rfl
theorem thermalTrip (tj : BitVec 8) : Statement (.thermalTrip tj) := rfl
theorem powerTrip (pwr : BitVec 16) : Statement (.powerTrip pwr) := rfl
theorem selfTestDone (r : SelfTest) : Statement (.selfTestDone r) := rfl
theorem cxlTimeout (port : Nat) : Statement (.cxlTimeout port) := rfl
theorem cxlLinkDown (port : Nat) : Statement (.cxlLinkDown port) := rfl
theorem linkFlitReceive (port : Nat) (f : LinkFlit) : Statement (.linkFlitReceive port f) := rfl
theorem linkRetry (port : Nat) (seq : BitVec 12) : Statement (.linkRetry port seq) := rfl
theorem linkRetrainDone (port : Nat) (up : Bool) : Statement (.linkRetrainDone port up) := rfl
theorem accessReachesBank (id : Nat) : Statement (.accessReachesBank id) := rfl
theorem sramError (t : SramTarget) (correctable : Bool) :
    Statement (.sramError t correctable) := rfl
theorem powerEnvelopeControl (wing : Nat) (afl : Word32) :
    Statement (.powerEnvelopeControl wing afl) := rfl
theorem balanceSample : Statement .balanceSample := rfl
theorem balanceIntervalEnd : Statement .balanceIntervalEnd := rfl
theorem admissionWindowStart : Statement .admissionWindowStart := rfl
theorem loadStopped : Statement .loadStopped := rfl
theorem preqComplete : Statement .preqComplete := rfl
theorem pageStall : Statement .pageStall := rfl
theorem arcLate : Statement .arcLate := rfl
theorem loadComplete : Statement .loadComplete := rfl
theorem drainTargetSet : Statement .drainTargetSet := rfl
theorem quiescentPoint : Statement .quiescentPoint := rfl
theorem candidateStart : Statement .candidateStart := rfl
theorem nextLoadStart : Statement .nextLoadStart := rfl
theorem completionWord : Statement .completionWord := rfl
theorem invalidationComplete : Statement .invalidationComplete := rfl
theorem stageRetire : Statement .stageRetire := rfl
theorem outputQueueClose : Statement .outputQueueClose := rfl
theorem moveBoundary : Statement .moveBoundary := rfl
theorem collectiveRound : Statement .collectiveRound := rfl
theorem arcTolerance : Statement .arcTolerance := rfl
theorem alimExpiry : Statement .alimExpiry := rfl
theorem collectiveTolerance : Statement .collectiveTolerance := rfl
theorem collectiveLimit : Statement .collectiveLimit := rfl
theorem healthRead : Statement .healthRead := rfl
theorem enterSafeState : Statement .enterSafeState := rfl
theorem powerOn : Statement .powerOn := rfl
theorem powerOff : Statement .powerOff := rfl

end Sys2Proof.Laws.Length
end

