-- ==== Sys2Proof/Laws/Save.lean ====
section
/-!
SUPPORT. Physical memory: what stands at a physical address after bytes are put there or set to 0, and after
bytes elsewhere are.
-/

namespace Sys2Proof.Machine

@[simp] theorem State.putPhys_mem (s : State) (pa : Nat) (b : List Byte) :
    (s.putPhys pa b).mem = memSetBytes s.mem (physKey pa) b := by simp [State.putPhys]

@[simp] theorem State.zeroPhys_mem (s : State) (pa n : Nat) :
    (s.zeroPhys pa n).mem = mapDelRange (physKey pa) n s.mem := rfl

/-- Two memories that agree byte by byte on a range agree on it as a list. -/
theorem memBytes_congr {a b : List Host.Cell} (key n : Nat)
    (h : ∀ j, key ≤ j → j < key + n → memByte a j = memByte b j) : memBytes a key n = memBytes b key n := by
  induction n generalizing key with
  | zero => rfl
  | succ n ih =>
    simp only [memBytes, h key (le_refl _) (by omega)]
    rw [ih (key + 1) fun j lo hi => h j (by omega) (by omega)]

/-- Bytes put at a physical address stand there. -/
theorem State.physBytes_putPhys {s : State} (h : memWf s.mem = true) (pa : Nat) (b : List Byte) :
    (s.putPhys pa b).physBytes pa b.length = b := by
  simp [State.physBytes, memBytes_setBytes h]

/-- Bytes put elsewhere leave a range as it was. -/
theorem State.physBytes_putPhys_apart (s : State) {pa at' n : Nat} {b : List Byte}
    (h : at' + n ≤ pa ∨ pa + b.length ≤ at') : (s.putPhys pa b).physBytes at' n = s.physBytes at' n := by
  refine memBytes_congr _ _ fun j lo hi => ?_
  rw [State.putPhys_mem, memByte_setBytes_outside]
  simp only [physKey] at *
  omega

/-- What a deletion of a range leaves outside it. -/
theorem memByte_delRange {m : List Host.Cell} {key n j : Nat} (h : j < key ∨ key + n ≤ j) :
    memByte (mapDelRange key n m) j = memByte m j := by
  unfold memByte mapGet
  congr 1
  induction m with
  | nil => rfl
  | cons e m ih =>
    obtain ⟨k, v⟩ := e
    simp only [mapDelRange, List.filter_cons] at ih ⊢
    split <;> rename_i c
    · simp only [mapFind_cons]; split
      · rfl
      · exact ih
    · rw [mapFind_cons, if_neg (by rintro rfl; simp at c; omega)]; exact ih

/-- A range set to 0 elsewhere leaves bytes as they were. -/
theorem State.physBytes_zeroPhys_apart (s : State) {pa at' len n : Nat}
    (h : at' + n ≤ pa ∨ pa + len ≤ at') : (s.zeroPhys pa len).physBytes at' n = s.physBytes at' n := by
  refine memBytes_congr _ _ fun j lo hi => ?_
  rw [State.zeroPhys_mem, memByte_delRange]
  simp only [physKey] at *
  omega

end Sys2Proof.Machine
end

