-- ==== Sys2Proof/Tests/Slice0.lean ====
section
/-!
SUPPORT. Tests: a smoke test of well-formedness, words written out from the encodings of the rules,
small steps whose results were worked out by hand from the rules, and for each statement states and
operands that meet its hypotheses.
-/

namespace Sys2Proof.Tests

open Sys2Proof Sys2Proof.Machine

set_option linter.unusedVariables false
set_option Elab.async false

/-! ### Small states -/

/-- No gap and no yield. -/
abbrev q0 : Issue := ⟨0, false⟩

/-- The state that an answer gives, reset for any other answer. -/
def nextOf : Answer → State
  | .next s => s
  | .fault _ => State.reset
  | .refused _ => State.reset

/-- Whether an answer is a next state. -/
def isNext : Answer → Bool
  | .next _ => true
  | .fault _ => false
  | .refused _ => false

/-- A register of the executing context, by its key. -/
def withReg (key v : Nat) (s : State) (po : Bool := false) : State :=
  s.setCur { s.cur with regs := mapPut key ⟨BitVec.ofNat 64 v, po⟩ s.cur.regs }

/-- A configuration word. -/
def withCfg (c space off v : Nat) (s : State) : State := s.setCfg c space off (BitVec.ofNat 64 v)

/-- Context 0 of core 0 of the system hall of wing 0 runs. -/
def sysState : State := (State.reset.readyToRun 0).focus placedCore 0

/-- The value of a register once every write has arrived. -/
def result (key : Nat) (a : Answer) : Nat :=
  (((nextOf a).cur.writeback 1000).reg key).v.toNat

/-- Load 0 with hall 0 and core 0, whose context 0 runs a firing of actor record 0: it owns the matrix,
may change modes, claims from queue 2 and puts into queue 3; window 0 is a consumer end and window 1 a
producer end, one token a firing each; streams 0 and 1 are a source and a sink in shared space. -/
def userState : State :=
  let s := State.reset.setLoad 0
    { state := .running, halls := [{ logical := 0, phys := 0, user := 0 }], cores := [0], vcs := [(0, 1)],
      wings := [(0, 0)], modes := [0, 1], signals := [3] }
  let s := s.setCore 0 { load := some 0, armed := true, c0 := { run := .firing } }
  let s := withCfg 0 3 16 (2 ^ 54 + 2 ^ 58 + 2 ^ 60 + 2 * 2 ^ 45 + 8192 * 2 ^ 13) s
  let s := withCfg 0 3 19 (2 + 2 ^ 5 + 3 * 2 ^ 6 + 2 ^ 11 + 2 ^ 12) s
  let s := withCfg 0 3 48 0x1001 s
  let s := withCfg 0 2 0 (2 ^ 37 + 4 * 2 ^ 17 + 0x100) s
  let s := withCfg 0 2 1 (2 ^ 32) s
  let s := withCfg 0 2 4 (2 * 2 ^ 37 + 4 * 2 ^ 17 + 7 * 2 ^ 42) s
  let s := withCfg 31 6 392 (2 ^ 63 + 3 * 2 ^ 51 + 2 ^ 37 + 0x1000) s
  let s := withCfg 31 6 393 (2 ^ 63 + 0x8000) s
  let s := withCfg 31 6 396 (2 ^ 63 + 3 * 2 ^ 51 + 2 ^ 37 + 0x2000) s
  let s := withCfg 31 6 397 (2 ^ 63 + 0x9000) s
  let s := withCfg 31 6 0 (2 ^ 63 + 2 ^ 61 + 4 * 2 ^ 27 + 5 * 2 ^ 47) s
  let s := withCfg 31 6 1 (4 * 2 ^ 28 + 6 * 2 ^ 20 + 0x4000) s
  let s := withCfg 31 6 2 (2 ^ 37 + 0x10000) s
  let s := withCfg 31 6 3 (10 * 2 ^ 40 + 32) s
  let s := withCfg 31 6 8 (2 ^ 63 + 2 ^ 62 + 2 ^ 61 + 4 * 2 ^ 27 + 8 * 2 ^ 47) s
  let s := withCfg 31 6 9 (4 * 2 ^ 28 + 9 * 2 ^ 20 + 0x5000) s
  let s := withCfg 31 6 10 (2 ^ 37 + 0x20000) s
  let s := withCfg 31 6 11 (10 * 2 ^ 40 + 32) s
  s.focus 0 0

/-- The user state in a rebuild stub. -/
def stubState : State := userState.setCur { userState.cur with run := .stub }

/-- A return-queue entry. -/
def entryOf (id : Nat) (arrived : Bool) : RqEntry := ⟨id, arrived, {}, true⟩

/-! ### Hypotheses of the statements on scalar and vector instructions -/

/-- RegisterFormsWriteResults, ConstantFormsWriteResults, PredicateFormsWriteResults and the statements
on vector instructions: an issuing state. -/
theorem witness_issues : sysState.issues ∧ userState.issues ∧ stubState.issues := by
  unfold State.issues; decide +kernel

/-- DivisionsDeferAndPop: room, no room, a head that has arrived or not, and an empty queue. -/
theorem witness_divisions :
    let full := sysState.setCur { sysState.cur with rq := List.replicate 8 (entryOf 1 true) }
    let late := sysState.setCur { sysState.cur with rq := [entryOf 1 false] }
    full.issues ∧ late.issues ∧ sysState.cur.rq.length < 8 ∧ sysState.cur.rq = [] ∧
    8 ≤ full.cur.rq.length ∧ full.cur.rq = entryOf 1 true :: List.replicate 7 (entryOf 1 true) ∧
    late.cur.rq = entryOf 1 false :: [] := by
  unfold State.issues; decide +kernel

/-- TransfersMoveThePc: a clean and a poisoned predicate, targets inside and outside the code store, and
loop counts at the bounds. -/
theorem witness_transfers :
    let s := withReg 3 8191 (withReg 4 8192 (withReg 5 (2 ^ 32 - 1) (withReg 6 (2 ^ 32) sysState)))
    let bad := withReg 612 1 (withReg 3 1 sysState true) true
    s.issues ∧ bad.issues ∧ (s.p 1).po = false ∧ (bad.p 2).po = true ∧ (bad.x 3).po = true ∧
    (s.x 3).po = false ∧ (s.x 3).v.toNat < 2 ^ 13 ∧ (s.x 4).po = false ∧ ¬ (s.x 4).v.toNat < 2 ^ 13 ∧
    (s.x 5).po = false ∧ ¬ 2 ^ 32 ≤ (s.x 5).v.toNat ∧ (s.x 6).po = false ∧
    2 ^ 32 ≤ (s.x 6).v.toNat ∧ (s.x 7).v.toNat = 0 := by
  unfold State.issues; decide +kernel

/-- SpecialRegistersReadAndWrite: each condition on SWR, LMAX at its bound. -/
theorem witness_special_registers :
    let s := withReg 3 256 (withReg 4 255 sysState)
    let bad := withReg 3 1 sysState true
    s.issues ∧ isSystemCore s.curCore = true ∧ (s.x 3).po = false ∧ 256 ≤ (s.x 3).v.toNat % 2 ^ 16 ∧
    (s.x 4).po = false ∧ (s.x 4).v.toNat % 2 ^ 16 < 256 ∧ bad.issues ∧ (bad.x 3).po = true ∧
    isSystemCore bad.curCore = true ∧ userState.issues ∧ isSystemCore userState.curCore = false := by
  unfold State.issues; decide +kernel

/-- LaneMovesWriteLanes: lane numbers inside and outside. -/
theorem witness_lane_moves :
    let s := withReg 3 31 (withReg 4 32 sysState)
    s.issues ∧ (s.x (0#1 ++ 3#4)).v.toNat < 32 ∧ 32 ≤ (s.x (0#1 ++ 4#4)).v.toNat := by
  unfold State.issues; decide +kernel

/-- ConversionsWriteLanes: legal and illegal packs. -/
theorem witness_conversions : sysState.issues ∧ packLegal .f32bf16 0 .rn = true ∧
    packLegal .i32i16 0 .rz = false := by
  unfold State.issues; decide +kernel

/-- VectorMemoryAccessesTileStore: no lane's address is held, poisoned, misaligned or out of range, up
to the last word of the store. -/
theorem witness_vector_memory :
    let s := withReg 3 0x1FF80 sysState
    s.issues ∧ s.memHeld = false ∧
    (∀ l ∈ s.activeLanes 0, ((s.x 3).po || (s.x 4).po) = false ∧ ((s.x 3).po || (s.lane 1 l).po) = false ∧
      ((s.x 3).v + (s.x 4).v + BitVec.ofNat 64 (4 * l)).toNat % 4 = 0 ∧
      ((s.x 3).v + (s.x 4).v + BitVec.ofNat 64 (4 * l)).toNat ≤ 0x1FFFC ∧
      ((s.x 3).v + BitVec.ofNat 64 l * (s.x 4).v).toNat % 4 = 0 ∧
      ((s.x 3).v + BitVec.ofNat 64 l * (s.x 4).v).toNat ≤ 0x1FFFC ∧
      ((s.x 3).v + BitVec.ofNat 64 (s.laneN 1 l)).toNat % 4 = 0 ∧
      ((s.x 3).v + BitVec.ofNat 64 (s.laneN 1 l)).toNat ≤ 0x1FFFC) ∧
    s.curK.score = [] ∧ ((s.x 3).v + 4 * (s.x 4).v).toNat % 4 = 0 ∧
    ((s.x 3).v + 4 * (s.x 4).v).toNat ≤ 0x1FFFC := by
  unfold State.issues; decide +kernel

/-- VectorMemoryAccessesTileStore: the lane at which each failure of R152 comes first, at the edges of its
range: a poisoned base, stride and index, an odd stride, and the first address past the store. -/
theorem witness_vector_faults :
    let base := withReg 3 0 sysState true
    let index := withReg 4 0 sysState true
    let odd := withReg 4 2 sysState
    let last := withReg 3 0x1FF84 sysState
    let lane : State := sysState.setCur { sysState.cur with regs := mapPut (laneKey 1 5) ⟨0, true⟩ sysState.cur.regs }
    (∀ s ∈ [base, index, odd, last, lane], s.running = true ∧ s.overrun = false ∧ s.memHeld = false ∧
      s.curK.score = [] ∧ s.activeLanes 0 = lanes) ∧
    (base.x 3).po = true ∧ (index.x 4).po = true ∧ (index.x 3).po = false ∧
    (lane.lane 1 5).po = true ∧ (∀ l ∈ lanes, l < 5 → (lane.lane 1 l).po = false ∧ (lane.gatherAddr 3 1 l).toNat = 0) ∧
    (lane.x 3).po = false ∧
    (odd.strideAddr 3 4 0).toNat = 0 ∧ (odd.strideAddr 3 4 1).toNat % 4 ≠ 0 ∧
    (∀ l ∈ lanes, l < 31 → (last.rowAddr 3 4 l).toNat % 4 = 0 ∧ (last.rowAddr 3 4 l).toNat ≤ 0x1FFFC) ∧
    (last.rowAddr 3 4 31).toNat = 0x20000 ∧ (last.x 3).po = false ∧ (last.x 4).po = false ∧
    (odd.x 3).po = false ∧ (odd.x 4).po = false := by
  decide +kernel

/-- SamplingWritesThePair: the last base that is in range, and the first that is not. -/
theorem witness_sampling :
    let s := withReg 3 0xFFFFFFDF (withReg 4 0xFFFFFFE0 sysState)
    s.issues ∧ (s.x 3).v.toNat % 2 ^ 32 ≤ 0xFFFFFFDF ∧ 0xFFFFFFDF < (s.x 4).v.toNat % 2 ^ 32 := by
  unfold State.issues; decide +kernel

/-! ### Hypotheses of the statements on memory, windows, shared space and queues -/

/-- TileLoadsAndStores: an access at the end of the store that nothing holds, and each fault of R183. -/
theorem witness_tile :
    let s := withReg 3 0x1FFF8 (withReg 4 3 (withReg 5 0x20000 sysState))
    let bad := withReg 3 0 sysState true
    s.issues ∧ s.memHeld = false ∧ s.curK.score = [] ∧ (s.x 3).po = false ∧
    (s.ldAddr .d 3 0).toNat % 8 = 0 ∧ (s.ldAddr .d 3 0).toNat + 8 ≤ 2 ^ 17 ∧
    (s.ldAddr .h 4 0).toNat % 2 ≠ 0 ∧ 2 ^ 17 < (s.ldAddr .d 5 0).toNat + 8 ∧
    bad.issues ∧ bad.memHeld = false ∧ (bad.x 3).po = true := by
  unfold State.issues; decide +kernel

/-- WindowFormsCount, WputSendsTheToken and FormsOfTheUnitsComplete: a consumer end with a token to read and free, a producer end
with a token to reserve and send. -/
theorem witness_windows :
    let s := withReg 3 1 (withReg 4 0x200 userState)
    s.issues ∧ s.memHeld = false ∧ s.inStub = false ∧ s.isConsumer 0 0 = true ∧
    s.isProducer 0 1 = true ∧ (s.x 0).po = false ∧ (s.x 3).po = false ∧
    s.freedCount 0 + (s.x 0).v.toNat < s.declared 0 ∧ s.freedCount 0 + (s.x 3).v.toNat ≤ s.declared 0 ∧
    s.reservedCount 1 + (s.x 3).v.toNat ≤ s.declared 1 - s.sentCount 1 ∧ 0 < (s.x 3).v.toNat ∧
    (s.x 4).po = false ∧ (s.x 4).v.toNat % 32 = 0 ∧ (s.x 4).v.toNat + s.winSize 0 1 ≤ 2 ^ 17 ∧
    s.firstPoison 0 0x200 (s.winSize 0 1) = none ∧ s.sentCount 1 < s.declared 1 ∧
    s.curK.rangeHeld 0x200 (s.winSize 0 1) false = false ∧ Tidy s := by
  unfold State.issues Tidy; decide +kernel

/-- TileMovesStart and FormsOfTheUnitsComplete: a move of 16 bytes at the end of the tile store to a gallery's end; TWAIT with more
and with no more moves than its number. -/
theorem witness_tile_moves :
    let s := withReg 3 0x1FFF0 (withReg 4 (2 ^ 37 + 2 ^ 26 - 16) (withReg 5 16 userState))
    let busy := s.setCur { s.cur with tags := [(0, 1), (1, 2)] }
    s.issues ∧ s.memHeld = false ∧ s.inStub = false ∧ s.cur.tags.length ≤ 0 ∧ busy.issues ∧
    busy.memHeld = false ∧ 1 < busy.cur.tags.length ∧
    (s.x 3).po = false ∧ (s.x 4).po = false ∧ (s.x 5).po = false ∧ (s.x 3).v.toNat % 8 = 0 ∧
    (s.x 4).v.toNat % 8 = 0 ∧ (s.x 5).v.toNat % 8 = 0 ∧ 8 ≤ (s.x 5).v.toNat ∧
    (s.x 5).v.toNat ≤ 65536 ∧ (s.x 3).v.toNat + (s.x 5).v.toNat ≤ 2 ^ 17 ∧
    s.sharedKey (s.x 4).v 16 = some (galleryKey 0 (2 ^ 26 - 16)) ∧
    (0 < 4 ∧ ∀ e ∈ s.cur.tags, e.1 ≠ 0) ∧ (s.curK.score.filter (·.slot)).length < 8 ∧
    s.curK.rangeHeld 0x1FFF0 16 true = false ∧ s.firstPoison s.curCore 0x1FFF0 16 = none := by
  unfold State.issues; decide +kernel

/-- SharedAccessesAreSent and FormsOfTheUnitsComplete: words of 4 and of 8 bytes, room in the return queue. -/
theorem witness_shared_accesses :
    let s := withReg 3 (2 ^ 37 + 4) (withReg 4 0xFFFF8 userState)
    s.issues ∧ s.memHeld = false ∧ s.inStub = false ∧ (s.x 3).po = false ∧ (s.x 4).po = false ∧
    (s.x 5).po = false ∧ (s.x (5 + 1)).po = false ∧ s.cur.rq.length < 8 ∧
    s.sharedKey (s.x 3).v 4 = some (galleryKey 0 4) ∧ (s.x 3).v.toNat % 4 = 0 ∧
    s.sharedKey (s.x 4).v 8 = some (hallKey 0 0xFFFF8) ∧ (s.x 4).v.toNat % 8 = 0 ∧
    (let u : State := { s with accs := [(1, { id := 1, core := s.curCore, ctx := s.curCtx, kind := .store, key := hallKey 0 8, bytes := 8 })] }
     1 ∈ u.covered u.curCore u.curCtx .h) := by
  unfold State.issues; decide +kernel

/-- FullEmptyFormsComplete and FormsOfTheUnitsComplete: a full word, nothing outstanding, an entry of the landing table, and the
largest range of SETE. -/
theorem witness_full_empty :
    let s := (withReg 3 (2 ^ 37) (withReg 4 131072 userState)).setFull (galleryKey 0 0) 8
    s.issues ∧ s.memHeld = false ∧ s.inStub = false ∧ s.parkAsked = false ∧ (s.x 3).po = false ∧
    (s.x 4).po = false ∧ (s.x 3).v.toNat % 8 = 0 ∧ 1 ≤ (s.x 4).v.toNat ∧ (s.x 4).v.toNat ≤ 131072 ∧
    s.sharedKey (s.x 3).v 8 = some (galleryKey 0 0) ∧
    s.sharedKey (s.x 3).v (8 * 131072) = some (galleryKey 0 0) ∧ s.cur.rq = [] ∧ s.cur.tags = [] ∧
    s.cur.pend = [] ∧
    s.curK.mq = [] ∧ setHas (galleryKey 0 0 / 8) s.full = true ∧
    s.allPerformed (s.priorOn s.curCore s.curCtx (galleryKey 0 0) 8) = true ∧
    (1#8).toNat < s.landings s.curCore s.cur.actor ∧
    (let u := (withReg 3 (2 ^ 37) stubState).setFull (galleryKey 0 0) 8
     u.issues ∧ u.memHeld = false ∧ u.inStub = true ∧ (u.x 3).po = false ∧
     u.sharedKey (u.x 3).v 8 = some (galleryKey 0 0) ∧ setHas (galleryKey 0 0 / 8) u.full = true ∧
     u.allPerformed (u.priorOn u.curCore u.curCtx (galleryKey 0 0) 8) = true ∧
     (1#8).toNat < u.landings u.curCore u.cur.actor) := by
  unfold State.issues; decide +kernel

/-- QueueFormsComplete and FormsOfTheUnitsComplete: queue 2 is the actor's input and queue 3 its output. -/
theorem witness_queue_forms :
    let s := withReg 3 0x200 userState
    s.issues ∧ s.memHeld = false ∧ s.inStub = false ∧ s.cur.rq.length < 8 ∧
    s.queueHome (hallOfCore s.curCore) 2 = some (galleryKey 0 0x1000) ∧
    s.queueHome (hallOfCore s.curCore) 3 = some (galleryKey 0 0x2000) ∧
    s.queueIn s.curCore s.cur.actor = some 2 ∧ s.queueOut s.curCore s.cur.actor = some 3 ∧
    s.usesQueues s.curCore s.cur.actor s.cur.phase.toNat = true ∧ s.cur.claimMade = false ∧
    s.cur.putMade = false ∧ (0 < 4 ∧ ∀ e ∈ s.cur.tags, e.1 ≠ 0) ∧
    (s.curK.score.filter (·.slot)).length < 8 ∧
    s.curK.rangeHeld (s.claimBuffer 0 2) (s.queueSize 0 2) true = false ∧ (s.x 3).po = false ∧
    (s.x 3).v.toNat % 32 = 0 ∧ (s.x 3).v.toNat + s.queueSize 0 3 ≤ 2 ^ 17 ∧
    s.firstPoison s.curCore 0x200 (s.queueSize 0 3) = none ∧
    s.curK.rangeHeld 0x200 (s.queueSize 0 3) false = false := by
  unfold State.issues; decide +kernel

/-! ### Hypotheses of the statements on the matrix unit, firings, streams and system forms -/

/-- MatrixFormsEnterTheQueue and FormsOfTheUnitsComplete: a context that owns the matrix, aligned operands and free ranges for the
longest product of each format, and for a bank. -/
theorem witness_matrix_forms :
    let s := withReg 6 0x8000 (withReg 7 0xC000 (withReg 8 0x10000 (withReg 9 0x18000 userState)))
    s.issues ∧ s.ownsMatrix s.curCore s.curCtx = true ∧ s.curK.mq.length < 4 ∧ s.memHeld = false ∧
    (s.x 6).po = false ∧ (s.x 8).po = false ∧ (s.x (6 + 1)).po = false ∧ (s.x (8 + 1)).po = false ∧
    (s.x 6).v.toNat % 256 = 0 ∧ (s.x 8).v.toNat % 8 = 0 ∧ MFmt.plain .e4m3 = true ∧
    MFmt.scaled .kb4 = true ∧ s.curK.score = [] ∧
    0x8000 + 128 * MFmt.bits .e4m3 * 2 ≤ 2 ^ 17 ∧ 0x10000 + 256 * MFmt.bits .e4m3 * 2 ≤ 2 ^ 17 ∧
    0xC000 + 32 * 2 ≤ 2 ^ 17 ∧ 0x18000 + 64 * 2 ≤ 2 ^ 17 ∧ 0x8000 + 8192 ≤ 2 ^ 17 := by
  unfold State.issues; decide +kernel

/-- A queued command on bank 0. -/
def queued : MCmd :=
  { id := 0, instr := .mzero q0 false, word := 0, start := 0, stop := 1, retire := 1 }

/-- MatrixReadsWaitForTheBank: no command and a command on the bank, row numbers at the bound. -/
theorem witness_matrix_reads :
    let s := withReg 3 63 (withReg 4 64 userState)
    let busy := s.setCurK { s.curK with mq := [queued] }
    s.issues ∧ busy.issues ∧ s.ownsMatrix s.curCore s.curCtx = true ∧
    busy.ownsMatrix busy.curCore busy.curCtx = true ∧ s.curK.mq = [] ∧ busy.curK.mq ≠ [] ∧
    (s.x 3).v.toNat < 64 ∧ 64 ≤ (s.x 4).v.toNat ∧ (∀ c ∈ s.curK.mq, c.bank ≠ some false) ∧
    (∃ c ∈ busy.curK.mq, c.bank = some false) := by
  unfold State.issues; decide +kernel

/-- FiringsEndParkAndResume: a firing that has freed, sent, claimed and put what it declares; a firing
and a stub with nothing outstanding, and landing entry 1 of 2. -/
theorem witness_firing_ends :
    let s := userState.setCur { userState.cur with
      freed := [(0, 1)], sent := [(1, 1)], claimMade := true, putMade := true }
    s.running = true ∧ s.inStub = false ∧ Tidy s ∧ LandingClear s (fun _ => True) ∧
    (∀ w < 16, (s.windowMismatch w).1 = false) ∧ (∀ z < 32, (s.queueMismatch z).1 = false) ∧
    (1#8).toNat < s.landings s.curCore s.cur.actor ∧
    stubState.running = true ∧ stubState.inStub = true ∧ LandingClear stubState (fun _ => True) := by
  unfold Tidy LandingClear; decide +kernel

/-- ModesSignalsAndTrapsAct and FormsOfTheUnitsComplete: a mode and a signal of the load, and a break with and without DEBUG. -/
theorem witness_modes_and_traps :
    let s := userState
    let d := userState.setLoad 0 { userState.loadAt 0 with debug := true }
    s.issues ∧ d.issues ∧ s.memHeld = false ∧ s.inStub = false ∧ s.curK.load = some 0 ∧
    bitAt (s.actorWord s.curCore s.cur.actor 0) 58 = true ∧ (1#3).toNat ∈ (s.loadAt 0).modes ∧
    (3#6).toNat ∈ (s.loadAt 0).signals ∧ (s.loadAt 0).debug = false ∧ d.curK.load = some 0 ∧
    (d.loadAt 0).debug = true := by
  unfold State.issues; decide +kernel

/-- StreamFormsAct and FormsOfTheUnitsComplete: an idle and a running stream, and a mask of streams of the load. -/
theorem witness_stream_forms :
    let s := (withReg 3 3 userState).setStream 0 1 { mode := .running, busy := true }
    let bars := fun (m : StreamMode) => (s.setStream 0 0 { mode := m, bar := [1] })
    ((bars .finished).stream 0 0).mode = .finished ∧ ((bars .idle).stream 0 0).bar ≠ [] ∧
    (bars .stopping).myStream 0 = some 0 ∧ s.issues ∧ s.memHeld = false ∧ s.inStub = false ∧ s.myStream 0 = some 0 ∧ s.myStream 1 = some 0 ∧
    (s.stream 0 0).mode = .idle ∧ (s.stream 0 1).mode ≠ .idle ∧ (s.stream 0 1).mode ≠ .finished ∧
    (s.x 3).po = false ∧ (∀ m ∈ maskBits (s.x 3).v, m < 32 ∧ (s.myStream m).isSome = true) ∧
    1 ∈ maskBits (s.x 3).v ∧ (s.stream 0 1).busy = true ∧ s.cur.rq.length < 8 := by
  unfold State.issues; decide +kernel

/-- GrammarFormsSendCommands and FormsOfTheUnitsComplete: a valid slot, a session operand with no other bit, a mask range. -/
theorem witness_grammar_forms :
    let s := withCfg (hallUnits (systemHall 0)) 6 1024 (2 ^ 63) (withReg 3 5 (withReg 4 (2 ^ 37) userState))
    s.issues ∧ s.memHeld = false ∧ s.inStub = false ∧ (s.x 3).po = false ∧ (s.x 4).po = false ∧
    (s.x 5).po = false ∧ bits (s.x 3).v 13 51 = 0 ∧ bits (s.x 3).v 10 3 = 0 ∧
    bits (s.x 5).v 32 32 = 0 ∧ bits (s.x 5).v 2 62 = 0 ∧ s.curK.load = some 0 ∧
    bitAt (s.slotWord (wingOfCore s.curCore) 0 0) 63 = true ∧ (s.x 4).v.toNat % 8 = 0 ∧
    (s.sharedKey (s.x 4).v 32768).isSome = true ∧ s.cur.rq.length < 8 := by
  unfold State.issues; decide +kernel

/-- ConfigurationWritesLand and FormsOfTheUnitsComplete: a code-store word and a window word of core 1 of hall 0, a word that acts at
once, and a route. -/
theorem witness_configuration_writes :
    let s := withReg 3 (2 ^ 34) (withReg 4 (2 ^ 34 + 2 * 2 ^ 30 + 5) (withReg 5
      (hallUnits (systemHall 0) * 2 ^ 34 + 6 * 2 ^ 30 + 2304) (withReg 6 (2 ^ 39 + 7) sysState)))
    s.issues ∧ isSystemCore s.curCore = true ∧ (s.x 3).po = false ∧ (s.x 4).po = false ∧
    (s.x 5).po = false ∧ (s.x 6).po = false ∧ (s.x 7).po = false ∧ Tidy s ∧
    cfgTarget (s.x 3).v = some (1, 0, 0) ∧ (s.targetFault 1 0 0 (s.x 3).v).1 = false ∧
    cfgTarget (s.x 4).v = some (1, 2, 5) ∧ (s.targetFault 1 2 5 (s.x 4).v).1 = false ∧
    s.unitUsable 1 = true ∧
    cfgTarget (s.x 5).v = some (hallUnits (systemHall 0), 6, 2304) ∧
    (s.targetFault (hallUnits (systemHall 0)) 6 2304 (s.x 5).v).1 = false ∧
    actsAtOnce (hallUnits (systemHall 0)) 6 2304 = true ∧
    routeTarget (s.x 6).v = some (1, 7) ∧ s.routeHeld 1 7 = false := by
  unfold State.issues Tidy; decide +kernel

/-- SystemReadsSendResults, LoadFormsAct and FormsOfTheUnitsComplete: free areas, targets of each form, and a load handle with
the states that the forms tell apart. -/
theorem witness_system_forms :
    let s := withReg 3 (2 ^ 34 + 2 * 2 ^ 30 + 5) (withReg 4 (2 ^ 34) (withReg 5 (2 ^ 39)
      (withReg 6 0x1000 (withReg 7 (2 ^ 17 - 8) sysState))))
    s.issues ∧ isSystemCore s.curCore = true ∧ (s.x 3).po = false ∧
    cfgTarget (s.x 3).v = some (1, 2, 5) ∧ crcTarget (s.x 4).v = some 1 ∧
    dmapTarget (s.x 5).v = some 1 ∧ AreaFree s 7 8 ∧ AreaFree s 6 (s.sechArea 6) ∧
    (s.x 6).v.toNat % 8 = 0 ∧ (s.x 6).v.toNat + 208 ≤ 2 ^ 17 ∧
    s.curK.rangeHeld 0x1000 208 false = false ∧ s.curK.rangeHeld 0x1000 32 false = false ∧
    NamesLoad (withReg 8 (27 + 2 ^ 8) s) 8 (2 ^ 8) 27 ∧ NamesLoad (withReg 8 (27 + 3 * 2 ^ 8) s) 8 (3 * 2 ^ 8) 27 ∧
    NamesLoad (withReg 8 27 s) 8 0 27 := by
  unfold State.issues AreaFree NamesLoad; decide +kernel

/-! ### Hypotheses of the statements on events -/

/-- Register writes of the executing context that are under way. -/
def pendState : State := userState.setCur { userState.cur with
  pend := [⟨3, [(7, ⟨1, false⟩)]⟩, ⟨5, [(7, ⟨2, false⟩)]⟩, ⟨9, [(7, ⟨3, false⟩)]⟩], rq := [entryOf 0 false, entryOf 1 false] }

/-- RegisterWritesArrive: the last of the writes of x7 that are due, and an entry of the return queue. -/
theorem witness_register_writes :
    let s : State := { pendState with cycle := 5 }
    (s.ctx 0 0).pend = [⟨3, [(7, ⟨1, false⟩)]⟩] ++ ⟨5, [(7, ⟨2, false⟩)]⟩ :: [⟨9, [(7, ⟨3, false⟩)]⟩] ∧
    5 ≤ s.cycle ∧ (∀ e ∈ ([⟨9, [(7, ⟨3, false⟩)]⟩] : List PendWrite), s.cycle < e.due) ∧ keyConst 7 = none ∧
    (s.ctx 0 0).rq = [entryOf 0 false] ++ entryOf 1 false :: [] ∧
    (∀ p ∈ [entryOf 0 false], p.id ≠ 1) ∧ (∀ e ∈ (s.ctx 0 0).rq, e.id ≠ 2) := by
  decide +kernel

/-- The user core between firings, with an entry for its actor and phase 0. -/
def idleState : State :=
  withCfg 0 3 0 (1 + 9 * 2 ^ 28) (userState.setCur { userState.cur with run := .idle })

/-- The actor claims from no queue. -/
def plainState : State := withCfg 0 3 19 0 idleState

/-- FiringUnitActs: an entry that is ready, one that is not, a poisoned guard, a window that is closed
and empty, and a claim that is due. -/
theorem witness_firing_unit :
    let poisoned := withReg 611 1 (withCfg 0 3 0 (1 + 9 * 2 ^ 28 + 2 ^ 14 + 2 ^ 21) plainState) true
    let closed := withCfg 0 2 1 0 (withCfg 0 2 0 (2 ^ 37 + 4 * 2 ^ 17 + 0x100 + 2 ^ 53) plainState)
    plainState.entryReady 0 0 = true ∧ idleState.entryReady 0 0 = false ∧
    plainState.elastic 0 0 = false ∧ poisoned.evaluated 0 0 = true ∧
    poisoned.poisonedGuard 0 0 = some 1 ∧ (closed.closedFault 0 0).isSome = true ∧
    idleState.claimDue 0 0 = true := by
  decide +kernel

/-- A stage's claim bound to the entry that fires. -/
theorem witness_elastic_start :
    let s := withCfg 0 3 16 (2 ^ 54 + 2 ^ 57 + 8192 * 2 ^ 13)
      (idleState.setCur { idleState.cur with bound := some (0, 5) })
    s.entryReady 0 0 = true ∧ s.elastic 0 0 = true ∧ (s.needsClaim 0 0).isSome = true ∧
    (s.ctx 0 0).bound = some (0, 5) := by
  decide +kernel

/-- The idle core asks for a claim; slot 0 of queue 2 is committed with index 0. -/
def askState : State :=
  (idleState.setCur { idleState.cur with asking := some 0 }).setSlot (galleryKey 0 0x1000) 0 2 0

/-- ClaimsAndStagesEnd: a claim that is granted, one that is denied, and one behind another core's. -/
theorem witness_claims :
    let other := (idleState.setCur { idleState.cur with asking := some 0 })
    let behind := withCfg 0 5 50 1 ((askState.setCtx 32 0 { asking := some 0 }).at 0 (.claimDecide 32 0))
    (askState.ctx 0 0).asking = some 0 ∧ askState.claimBehind 0 = false ∧
    askState.claimGrant 0 0 = some (galleryKey 0 0x1000, 0, 2) ∧ Tidy askState ∧
    (other.ctx 0 0).asking = some 0 ∧ other.claimBehind 0 = false ∧ other.claimGrant 0 0 = none ∧
    (behind.ctx 0 0).asking = some 0 ∧ behind.claimBehind 0 = true := by
  unfold Tidy; decide +kernel

/-- ClaimsAndStagesEnd: the stage between queues 2 and 3, with queue 2 closed and its indices claimed,
before and after its candidate has retired. -/
theorem witness_stages :
    let s := (withCfg 0 3 16 (2 ^ 54 + 2 ^ 57 + 8192 * 2 ^ 13) idleState).setWord
      (galleryKey 0 0x1000 + 24) (2 ^ 32)
    let t := withCfg 0 3 19 (2 + 2 ^ 5 + 3 * 2 ^ 6 + 2 ^ 11 + 2 ^ 12 + 2 ^ 63) s
    s.doneStages = (0, 2) :: [] ∧ (s.candidates 0 2).length = 1 ∧ t.doneStages = [] ∧
    t.loads.head? = some (0, t.loadAt 0) ∧ (t.loadAt 0).state ≠ .free ∧ 3 ∈ t.queuesOf 0 ∧
    (∀ z ∈ t.queuesOf 0, z < 3 → t.outputDone 0 z = none) ∧ t.outputDone 0 3 = some 0 ∧
    t.homeOf 0 3 = some (galleryKey 0 0x2000, 4) := by
  decide +kernel

/-- A copy of core 0 of 32 bytes, none of them moved. -/
def copyOf (kind : CopyKind) (q key : Nat) : Copy :=
  { id := 7, core := 0, ctx := 0, kind := kind, tile := 0x200, key := key, len := 32, queue := q,
    data := List.replicate 32 5 }

/-- Core 0 with one copy under way. -/
def copyState (kind : CopyKind) (q key : Nat) : State :=
  { userState with copies := [(7, copyOf kind q key)] }

/-- A load's halls 0 and 1 while a freeze of it has reached hall 1, and, if `all`, hall 0 too. -/
def frozen (all : Bool) (s : State) : State :=
  s.setLoad 0 { s.loadAt 0 with state := .frozen, halls :=
    [{ logical := 0, phys := 0, user := 0, writtenOut := all }, { logical := 1, phys := 1, user := 1, writtenOut := true }] }

/-- QueueEventsMoveSlots: a put whose covered accesses are performed and one whose are not, a claim's
copy, those of a frozen hall, and a queue that has a home. -/
theorem witness_queue_events :
    let put := copyState .qput 3 (tokenKey (galleryKey 0 0x2000) 4 32 0)
    let claim := copyState .qclaim 2 (tokenKey (galleryKey 0 0x1000) 4 32 0)
    let waits : State := { put with copies := [(7, { copyOf .qput 3 0 with covers := [7] })] }
    mapFind 7 put.copies = some (copyOf .qput 3 (tokenKey (galleryKey 0 0x2000) 4 32 0)) ∧
    put.queueHome 0 3 = some (galleryKey 0 0x2000) ∧ put.allPerformed [] = true ∧
    (put.coreGated 0 = false ∧ claim.coreGated 0 = false ∧ (frozen true put).coreGated 0 = true ∧
      mapFind 7 (frozen true put).copies = some (copyOf .qput 3 (tokenKey (galleryKey 0 0x2000) 4 32 0))) ∧
    put.queuePne 0 3 = true ∧ put.qPseq (galleryKey 0 0x2000) = 0 ∧ Tidy put ∧
    waits.allPerformed [7] = false ∧ claim.queueHome 0 2 = some (galleryKey 0 0x1000) ∧
    claim.copyBehind (copyOf .qclaim 2 0) = false ∧ claim.homeOf 0 2 = some (galleryKey 0 0x1000, 4) ∧
    (claim.putters 0 3 = [(0, 0)] ∧ claim.elastic 0 0 = false) := by
  unfold Tidy; decide +kernel

/-- A packet of load 0 in hall 0. -/
def packetOf (kind : BitVec 3) (dest : Option (Nat × Nat)) : Packet :=
  { id := 7, load := 0, rc := 7, kind := kind, fan := 0, size := 0, seq := 1, data := List.replicate 32 9,
    poison := [], hall := 0, dest := dest }

/-- PacketsMoveAndLand: a packet at a router whose route leaves by no port, and one whose port takes it;
tokens and credits at their ends, a close at an end and at none; packets of a frozen load; acknowledgements. -/
theorem witness_packets :
    let at' := fun (p : Packet) => ({ userState with packets := [(7, p)], acks := [(7, 2 * 2 ^ 16), (8, 2 ^ 16)] } : State)
    let s := at' (packetOf 0 none)
    let tok := at' (packetOf 0 (some (0, 0)))
    let cred := at' (packetOf 1 (some (0, 1)))
    let out : State := { s with routes := [(7, BitVec.ofNat 64 (2 ^ 63 + 2 ^ 12))] }
    let stray := at' (packetOf 2 (some (0, 5)))
    let held := { packetOf 0 none with owed := 1, waitsIn := some (1, 0, 0) }
    (s.frozenAt (packetOf 0 none) = .no ∧ out.frozenAt (packetOf 0 none) = .no ∧
      (frozen true s).frozenAt (packetOf 0 none) = .purged ∧ (frozen false s).frozenAt held = .waits ∧
      ((frozen true tok).loadAt 0).gated 0 = true ∧ (tok.loadAt 0).gated 0 = false) ∧
    (s.loadAt 0).state ≠ .free ∧ s.routeBehind (packetOf 0 none) = false ∧
    s.creditSettled (packetOf 0 none) = true ∧ bitAt (s.route 0 7) 63 = false ∧
    tok.deliveryBehind (packetOf 0 (some (0, 0))) = false ∧ (packetOf 0 (some (0, 0))).engineDest = none ∧
    (packetOf 0 (some (0, 0))).coreDest = some (0, 0) ∧ tok.allPerformed [] = true ∧
    tok.isConsumer 0 0 = true ∧ Tidy tok ∧ (packetOf 1 (some (0, 1))).coreDest = some (0, 1) ∧
    cred.deliveryBehind (packetOf 1 (some (0, 1))) = false ∧ cred.isProducer 0 1 = true ∧
    bitAt (out.route 0 7) 63 = true ∧ bitAt (out.route 0 7) 12 = true ∧
    out.portHolds (4 * (0 / 128) + bits (out.route 0 7) 10 2) (bits (out.route 0 7) 60 3) = false ∧
    (packetOf 2 (some (0, 5))).coreDest = some (0, 5) ∧ stray.isConsumer 0 5 = false ∧
    stray.isProducer 0 5 = false ∧ mapGet 0 7 s.acks = 2 * 2 ^ 16 + 4 * 0 + 0 ∧
    mapGet 0 8 s.acks = 1 * 2 ^ 16 + 4 * 0 + 0 := by
  unfold Tidy; decide +kernel

/-- An access of core 0. -/
def accessOf (kind : AccKind) (after : List Nat) : Access :=
  { id := 7, core := 0, ctx := 0, kind := kind, key := galleryKey 0 0, bytes := 8, a := 5, after := after }

/-- AccessesPerform: an access that nothing precedes, one that another precedes, tile moves, and both
where a freeze has stopped them. -/
theorem witness_accesses :
    let s : State := { userState with accs := [(7, accessOf .add []), (8, accessOf .add [7])] }
    let m := copyState .tmovIn 0 (galleryKey 0 0)
    let a := { accessOf .add [] with key := hallKey 0 0 }
    (s.bankGated 0 (galleryKey 0 0) = false ∧ m.coreGated 0 = false ∧ (frozen true m).coreGated 0 = true ∧
      (frozen true { s with accs := [(7, a)] }).bankGated a.core a.key = true) ∧
    mapFind 7 s.accs = some (accessOf .add []) ∧ s.allPerformed [] = true ∧
    mapFind 8 s.accs = some (accessOf .add [7]) ∧ s.allPerformed [7] = false ∧
    mapFind 7 m.copies = some (copyOf .tmovIn 0 (galleryKey 0 0)) ∧
    m.copyBehind (copyOf .tmovIn 0 0) = false ∧ m.copyBehind (copyOf .tmovOut 0 0) = false ∧
    (copyOf .tmovIn 0 0).id = 7 ∧ (copyOf .tmovIn 0 0).moved < (copyOf .tmovIn 0 0).len ∧
    (copyOf .tmovIn 0 0).len % 8 = 0 ∧ (copyOf .tmovIn 0 0).moved % 8 = 0 := by
  decide +kernel

/-- MatrixCommandsTakeEffect: the oldest command before and at its retire cycle, each kind of command. -/
theorem witness_matrix_events :
    let cmd := fun (i : Instr) (n : Nat) => ({ id := 3, instr := i, word := 0, start := 0, stop := 1, retire := n } : MCmd)
    let s := fun (m : MCmd) => userState.setCore 0 { userState.core 0 with mq := [m] }
    (∀ i ∈ [Instr.mma q0 true 6 8 .bf16 0, .mmas q0 true 6 8 .kb4 0, .mmai q0 true 6 8 0, .mzero q0 true, .mldz q0 true 6, .mstz q0 true 6],
      ((s (cmd i 0)).core 0).mq = cmd i 0 :: [] ∧ (cmd i 0).retire ≤ (s (cmd i 0)).cycle ∧ (s (cmd i 1)).cycle < (cmd i 1).retire ∧ Tidy (s (cmd i 0))) ∧
    (cmd (.mzero q0 true) 0).writesTile = false := by
  unfold Tidy; decide +kernel

/-- A result of context 0 of the placed core. -/
def resultOf (i : Instr) (n : Nat) : Result :=
  { id := n, core := placedCore, ctx := 0, group := 0, instr := i, a := 0, area := 0x1000,
    block := List.replicate 8 1 }

/-- A grammar command of load 0. -/
def commandOf (fn : BitVec 3) : GramCmd :=
  { id := 7, core := 0, ctx := 0, load := 0, fn := fn, a := 5, b := 1, after := [] }

/-- ResultsAndCommandsPerform: a first result of its group and one behind it, results of the two security
forms and of FRZ, commands on a session that is closed, owned, or another load's, and a GMASK that writes
zeros and one that writes a poisoned mask. -/
theorem witness_results_and_commands :
    let s : State := { sysState with results := [(7, resultOf (.dmap q0 1 2) 7), (8, resultOf (.cfgr q0 1 2) 8)] }
    let g : State := { userState with gcmds := [(7, commandOf 1)] }
    let m : GramCmd := { commandOf 2 with b := BitVec.ofNat 64 (2 ^ 37) }
    let o : Session := { state := .faulted, owner := 0 }
    let f : State := { userState with gcmds := [(7, m)] }
    mapFind 7 s.results = some (resultOf (.dmap q0 1 2) 7) ∧ s.resultBehind (resultOf (.dmap q0 1 2) 7) = false ∧
    mapFind 8 s.results = some (resultOf (.cfgr q0 1 2) 8) ∧ s.resultBehind (resultOf (.cfgr q0 1 2) 8) = true ∧
    (∀ i ∈ [Instr.sech q0 1 2, .secv q0 1 2, .frz q0 1 2], sysState.resultBehind (resultOf i 7) = false) ∧
    mapFind 7 g.gcmds = some (commandOf 1) ∧ (g.session 0 5).state = .closed ∧
    ((g.setSession 0 5 { state := .opened, owner := 0 }).session 0 5).owner = 0 ∧
    ((g.setSession 0 5 { state := .opened, owner := 1 }).session 0 5).owner ≠ (commandOf 1).load ∧
    mapFind 7 f.gcmds = some m ∧ (f.session 0 5).state = .closed ∧ (f.gmask (f.session 0 5)).2.2 = some 0 ∧
    f.sharedKey m.b 32768 = some (galleryKey 0 0) ∧ ((f.setSession 0 5 o).session 0 5).owner = m.load ∧
    (f.gmask o).2.2 = none ∧
    (let w := withCfg (hallUnits (systemHall 0)) 6 1024 (3 * 2 ^ 62 + 2 ^ 37 + 2 ^ 26 - 64) userState
     w.slotAstray (w.slotWord 0 0 0) = true ∧ (w.loadAt 0).state = .running ∧ (w.session 0 5).state = .closed) ∧
    userState.slotAstray (userState.slotWord 0 0 0) = false ∧
    (∀ n ∈ [2, 4],
      let k : State :=
        ({ userState with gcmds := [(7, { commandOf n with b := BitVec.ofNat 64 (2 ^ 37) })] } : State).setSession 0 5
          { state := .opened, owner := 1 }
      (mapFind 7 k.gcmds).isSome = true ∧ (k.session 0 5).state ≠ .closed ∧
        (k.session 0 5).owner ≠ (commandOf n).load ∧
        k.sharedKey (BitVec.ofNat 64 (2 ^ 37)) 32768 = some (galleryKey 0 0)) := by
  decide +kernel

/-- Load 0 drains towards mode 1 with its contexts idle. -/
def drainState (targets : Bool) : State :=
  let s := (withCfg 0 2 1 0 plainState).setLoad 0
    { plainState.loadAt 0 with draining := true, target := 1, targets := targets }
  { s with atoms := [(1, ⟨some 0, 0, 0, 0⟩), (2, ⟨some 1, 0, 0, 0⟩)] }

/-- SignalsAndModesTakeEffect: a valid receiver, a context idle with a signal pending and one that runs,
and each stage of a drain. -/
theorem witness_signals_and_modes :
    let s := withCfg 0 5 54 (1 + 2 * 2 ^ 3) (idleState.setCur { idleState.cur with corridor := [3] })
    let busy := userState.setCur { userState.cur with corridor := [3] }
    bitAt (s.receiver 0 3) 0 = true ∧ (s.ctx 0 0).corridor ≠ [] ∧ (s.ctx 0 0).run = .idle ∧
    bits (s.receiver 0 3) 3 3 ≠ 0 ∧ (busy.ctx 0 0).corridor ≠ [] ∧ (busy.ctx 0 0).run ≠ .idle ∧
    (busy.ctx 0 0).park = none ∧ ((drainState false).loadAt 0).draining = true ∧
    (userState.loadAt 0).draining = false ∧ (userState.loadAt 0).state ≠ .free ∧
    (1 : BitVec 3) ≠ (userState.loadAt 0).mode ∧ (0 : BitVec 3) = (userState.loadAt 0).mode ∧
    (drainState false).loadWhere (drainState false).drainPaused = some 0 ∧
    ((drainState true).loadWhere fun h l => l.drains && l.targets && (drainState true).quiescent h) = some 0 ∧
    ((0, 0) ∈ (drainState true).streamsOf 0) := by
  decide +kernel

/-- Stream n of hall 0 in a state. -/
def withStream (n : Nat) (t : Stream) : State := userState.setStream 0 n t

/-- StreamsAct: a stream that stops with nothing and with a token to send, one with a token to send, one that may begin, one that may not, one
with a token in hand, and in an ordered load one with a token in hand and one behind another's. -/
theorem witness_streams :
    let s := withStream 0 { mode := .running }
    let stop := withStream 0 { mode := .stopping }
    let send := withStream 0 { mode := .running, pos := 1, ahead := 1 }
    let last := withStream 0 { mode := .stopping, pos := 1, ahead := 1 }
    let done := withStream 0 { mode := .running, pos := 10 }
    let fin := withStream 0 { mode := .running, pos := 10, ahead := 1 }
    let hand := withStream 0 { mode := .running, busy := true }
    let sink := withCfg 31 6 15 (2 ^ 32) (withStream 1 { mode := .running, busy := true })
    let ordered := hand.setLoad 0 { hand.loadAt 0 with ordered := true }
    let seqd := ((withCfg 31 6 10 (2 ^ 37 + 0x10000) ordered).setStream 0 1 { mode := .running }).setStream 0 0
      { mode := .running, busy := true, cumulative := 3 }
    let behind := seqd.setLoad 0 { seqd.loadAt 0 with
      cert := { modes := 1, actors := 4, reps := [(0, 1), (1, 1)], streamOf := [(0, 0), (1, 1)] } }
    (s.streamOwner 0 0 = some 0 ∧ s.streamOwner 0 1 = some 0 ∧ s.streamsLive 0 0 = true ∧ (s.stream 0 0).mode ≠ .idle ∧
      (s.stream 0 0).mode ≠ .finished) ∧
    (stop.stream 0 0).mode = .stopping ∧ (stop.stream 0 0).busy = false ∧ (stop.stream 0 0).ahead = 0 ∧
    (last.stream 0 0).mode = .stopping ∧ 0 < (last.stream 0 0).ahead ∧ last.maySend 0 0 0 = true ∧
    send.maySend 0 0 0 = true ∧ (send.stream 0 0).mode = .running ∧ send.isQueue 0 0 = false ∧
    ¬send.walkTotal 0 0 ≤ (send.stream 0 0).pos ∧
    fin.maySend 0 0 0 = true ∧ (fin.stream 0 0).mode = .running ∧ fin.walkTotal 0 0 ≤ (fin.stream 0 0).pos ∧
    s.maySend 0 0 0 = false ∧ s.sinkClosed 0 0 0 = false ∧ s.homeAstray 0 0 0 = false ∧ s.mayBegin 0 0 0 = true ∧
    done.maySend 0 0 0 = false ∧ done.sinkClosed 0 0 0 = false ∧ done.homeAstray 0 0 0 = false ∧ done.mayBegin 0 0 0 = false ∧
    (hand.stream 0 0).busy = true ∧ hand.waitsWalk 0 0 = false ∧ (hand.loadAt 0).ordered = false ∧
    hand.tokenPoisoned 0 0 0 = false ∧ hand.isShared 0 0 = true ∧
    hand.sharedKey (BitVec.ofNat 64 (hand.tokenVa 0 0 0)) (hand.streamSize 0 0) = some (galleryKey 0 0x10000) ∧
    hand.mergedOn 0 (galleryKey 0 0x10000) 32 = false ∧
    (sink.stream 0 1).busy = true ∧ sink.isSink 0 1 = true ∧ sink.tokenPoisoned 0 0 1 = false ∧
    sink.sharedKey (BitVec.ofNat 64 (sink.tokenVa 0 1 0)) (sink.streamSize 0 1) = some (galleryKey 0 0x20000) ∧
    ordered.orderedBehind 0 0 0 = false ∧ (ordered.loadAt 0).ordered = true ∧
    behind.orderedBehind 0 0 0 = true ∧ (behind.stream 0 0).busy = true := by
  decide +kernel

/-- A withheld access of stream 0, whose token is that of walk 9 where it has one. -/
def withheldOf (failed : Bool) (walk : Option Nat) : Withheld :=
  { id := 7, load := 0, hall := 0, stream := 0, token := 0, va := 0x200000, asn := 1, sink := false,
    since := 0, failed := failed, cause := 1, walk := walk }

/-- Hall 0's access waits, and walk 9 is under way, over a tree with one entry in each level. -/
def walkState (w : Withheld) (found : Option Walk) : State :=
  let t : WalkToken := { port := 0, tag := 0, va := 0x200000, asn := 1, sink := false, found := found }
  let s : State := { userState with withheld := [(7, w)], walks := [(9, t)], cycle := 60000, nextId := 10 }
  let s := withCfg (hallUnits (systemHall 0)) 6 2304 (2 ^ 63 + 2 ^ 15) s
  let s := s.storeVal (physKey (2 ^ 15 + 8)) 8 (BitVec.ofNat 64 (2 * 2 ^ 15 + 1)) false
  let s := s.storeVal (physKey (2 * 2 ^ 15)) 8 (BitVec.ofNat 64 (3 * 2 ^ 15 + 1)) false
  let s := s.storeVal (physKey (3 * 2 ^ 15)) 8 (BitVec.ofNat 64 (4 * 2 ^ 15 + 1)) false
  s.storeVal (physKey (4 * 2 ^ 15 + 8)) 8 (BitVec.ofNat 64 (5 * 2 ^ 21 + 15)) false

/-- WalksEnd: a walk on its way and its end at each kind of token, an access that is to be walked again
with a port tag free, one whose wait is short of FLIM and one whose wait has reached it. -/
theorem witness_walks :
    let w := withheldOf false (some 9)
    let x := withheldOf true none
    let f : State := { walkState x none with walks := [] }
    let young := { x with since := f.cycle }
    (∀ e ∈ [none, some (Walk.leaf (5 * 2 ^ 21) false true true), some (.leaf (5 * 2 ^ 21) false false true),
        some (.fail 1), some .poisoned], ∃ t, mapFind 9 (walkState w e).walks = some t ∧ t.found = e ∧
      mapSorted (walkState w e).withheld = true ∧ (∀ p ∈ (walkState w e).withheld, p.2.id = p.1) ∧
      7 < (walkState w e).nextId ∧ ((walkState w e).withheld.filter fun p => p.2.walk == some 9) = [(7, w)] ∧
      (walkState w e).streamsLive 0 0 = true ∧ ((walkState w e).tlb 0).length ≤ 512) ∧
    (walkState w none).walk 0 1 0x200000 false = .leaf (5 * 2 ^ 21) false true true ∧
    leafPermits false true true = true ∧ leafPermits false false true = false ∧
    mapFind 7 f.withheld = some x ∧ x.id = 7 ∧ x.failed = true ∧ x.walk = none ∧ x.retryAt ≤ f.cycle ∧
    f.streamsLive 0 0 = true ∧ f.portWalks (f.edgePort 0) = [] ∧ f.freeTag (f.edgePort 0) = some 0 ∧
    (f.loadAt 0).state = .running ∧ x.since + f.walkLimit 0 ≤ f.cycle ∧
    f.cycle < young.since + f.walkLimit 0 ∧ f.longestWithheld 0 = some x := by
  simp only [List.forall_mem_cons, List.not_mem_nil, false_implies, implies_true, and_true]
  refine ⟨⟨⟨_, rfl, ?_⟩, ⟨_, rfl, ?_⟩, ⟨_, rfl, ?_⟩, ⟨_, rfl, ?_⟩, ⟨_, rfl, ?_⟩⟩, ?_⟩ <;> decide +kernel

/-- InvalidationsRemoveEntries: an invalidation of each kind at the head of its wing's list, with the
accesses of its walks walked again, and with one that is not. -/
theorem witness_invalidations :
    let s := fun (e : Nat × Nat × Nat) (l : List (Nat × Withheld)) =>
      ({ userState with invals := [(0, [e])], withheld := l } : State)
    let w := [(7, { withheldOf false none with again := true })]
    (∀ e ∈ [(0, 1, 1), (1, 1, 1), (2, 0, 1), (3, 0, 0)], (mapGet [] 0 (s e []).invals).head? = some e ∧
      (steps 0 1 4).find? (fun n => (s e []).invalStarted n && !(s e []).rewalking n) = some 0 ∧
      mapSorted (s e []).invals = true ∧ Tidy (s e []) ∧ (steps 0 1 4).any (s e w).invalStarted = true ∧
      ∀ n < 4, (s e w).invalStarted n = true → (s e w).rewalking n = true) := by
  unfold Tidy; decide +kernel

/-- Load 0 in a state of its own, with its core's contexts parked. -/
def restState (st : LoadState) (late : Option (List Nat)) : State :=
  let p : Ctx := { park := some { kind := .idle } }
  let s := userState.setCore 0 { userState.core 0 with c0 := p, c1 := p, c2 := p, c3 := p, stopFlag := true }
  let s := s.setLoad 0 { s.loadAt 0 with state := st, late := late, launch := some 4, areas := [(0, 0)],
                                         wings := [(0, 0)] }
  { s with launches := [(4, { queue := 0, kind := 0, started := true, loads := 1, current := some 0 })] }

/-- LoadsComeToRest: a core of a load that is pre-empted or that stops, each kind of load at rest, one
that is not at rest. -/
theorem witness_loads_rest :
    let rest := fun (s : State) (p : Option (List Nat) → Bool) =>
      s.loadWhere fun h l => l.state == .preempting && p l.late && s.atRest h
    let run := userState.setLoad 0 { userState.loadAt 0 with state := .preempting }
    let s := restState .preempting none
    let page := restState .preempting (some [12, 0, 0, 0, 0, 0])
    let arc := restState .preempting (some [13, 0, 0, 0])
    let stop := restState .stopping none
    s.coreLoadState 0 = .preempting ∧ stop.coreLoadState 0 = .stopping ∧
    rest s (·.isNone) = some 0 ∧ rest page (fun l => (l.getD []).head? == some 12) = some 0 ∧
    rest arc (fun l => (l.getD []).head? == some 13) = some 0 ∧ rest run (·.isNone) = none ∧
    (run.loadWhere fun _ l => l.state == .preempting && l.late.isNone) = some 0 ∧
    (stop.loadWhere fun h l => l.state == .stopping &&
        (l.cores.all fun c => (stop.core c).stopFlag) && stop.atRest h) = some 0 ∧
    (stop.loadAt 0).launch = some 4 ∧ (mapFind 4 stop.launches).isSome = true := by
  decide +kernel

/-- HallsAreWrittenOut: a hall in place of a suspended load and of a frozen one, a load that runs. -/
theorem witness_halls :
    let s := restState .suspended none
    let f := restState .frozen none
    let e : LoadHall := { logical := 0, phys := 0, user := 0 }
    (s.loadAt 0).halls[0]? = some e ∧ (s.loadAt 0).slotBase e = some 0x10000 ∧
    (s.loadAt 0).state = .suspended ∧ e.inPlace = true ∧ (f.loadAt 0).state = .frozen ∧
    (f.loadAt 0).halls[0]? = some e ∧ (f.loadAt 0).slotBase e = some 0x10000 ∧ mapFind 0 (s.loadAt 0).areas = some 0 ∧
    (Tidy s ∧ e.phys < 512 ∧ ∀ c ∈ (s.loadAt 0).cores, c < 2 ^ 14) ∧
    ((f.loadAt 0).halls.findIdx? fun e => e.phys == 0 && e.inPlace && !e.writtenOut) = some 0 ∧ Tidy f ∧
    ((restState .running none).loadAt 0).state = .running ∧
    ((restState .running none).loadAt 0).launch = some 4 := by
  unfold Tidy; decide +kernel

/-- Load 0 with two stages of wing 0 at an interval's end: core 0 is an active core of stage 0, actor record 0, and
a candidate of stage 1, actor record 1, which asks for one more. -/
def pairState : State :=
  let sys := hallUnits (systemHall 0)
  let elastic := fun (a q : Nat) (s : State) =>
    withCfg 0 3 (19 + 4 * a) (q + 2 ^ 5) (withCfg 0 3 (16 + 4 * a) (2 ^ 54 + 2 ^ 57) s)
  let stage := fun (n repl tp tn q : Nat) (s : State) =>
    withCfg sys 6 (418 + 3 * n) q (withCfg sys 6 (417 + 3 * n) (tp * 2 ^ 32 + tn)
      (withCfg sys 6 (416 + 3 * n) (2 ^ 63 + 2 ^ 46 + 8 * 2 ^ 35 + repl * 2 ^ 24) s))
  let s := stage 1 1 0 0 3 (stage 0 2 (2 ^ 31 - 1) 0 2 (withCfg 0 3 0 1 (elastic 1 3 (elastic 0 2 userState))))
  { s with cycle := 256 * 64 - 1 }

/-- BalanceActs: a pair of stages that fits, and a wing in which none does. -/
theorem witness_pair : pairState.intervalEndDue 0 = true ∧ Tidy pairState ∧
    (∃ r d, PairFits (pairState.lowerPins 0) 0 r d) ∧
    (let s : State := { userState with cycle := 256 * 64 - 1 }
     s.intervalEndDue 0 = true ∧ ∀ r d, ¬ PairFits (s.lowerPins 0) 0 r d) := by
  refine ⟨by decide +kernel, by unfold Tidy; decide +kernel, ⟨1, 0, ⟨by decide +kernel, by decide +kernel,
    by decide +kernel, by decide +kernel, by decide +kernel, 0, 0, 1, ⟨by decide +kernel, by decide +kernel,
    by decide +kernel, by decide +kernel⟩⟩⟩, by decide +kernel, fun r d h => ?_⟩
  have none : State.stages (({ userState with cycle := 256 * 64 - 1 } : State).lowerPins 0) 0 = [] := by decide +kernel
  simpa [none] using h.valid.1

/-- BalanceActs: a stage whose sample is due, an interval's end, a core that moves, at its boundary and
not, one that has passed it, and a wing whose admission window starts. -/
theorem witness_balance :
    let sys := hallUnits (systemHall 0)
    let s := withCfg sys 6 418 2 (withCfg sys 6 416 (2 ^ 63) userState)
    let last : State := { s with cycle := 256 * 64 - 1 }
    let m : Move := { donor := 0, recipient := 1, passed := false }
    let mv := fun (s : State) (m : Move) => (s.setCore 0 { s.core 0 with move := some m }).setLoad 0
      { s.loadAt 0 with entries := [(0, 1)] }
    0 ∈ s.stages 0 ∧ s.sampleDue 0 = true ∧ last.intervalEndDue 0 = true ∧
    (mv plainState m).movingCores = [0] ∧ (mv plainState m).atBoundary 0 0 = true ∧ Tidy (mv plainState m) ∧
    (mv userState m).movingCores = [0] ∧ (mv userState m).atBoundary 0 0 = false ∧
    ((mv userState { m with passed := true }).core 0).move = some { m with passed := true } ∧
    ((mv plainState m).core 0).load = some 0 ∧
    (mapGet 0 0 ((mv plainState m).loadAt 0).entries).getLsbD 0 = true ∧
    (withCfg sys 6 385 (2 ^ 39) userState).windowStartDue 0 = true := by
  unfold Tidy; decide +kernel

/-- A launch of queue 0. -/
def launchState (t : Launch) : State :=
  withCfg (hallUnits (systemHall 0)) 6 2048 (2 ^ 63) { userState with launches := [(4, t)], nextId := 5 }

/-- LaunchesProceed: a valid queue, a launch of each kind that can act, a placement under way with each
outcome, a launch between loads, a load that is complete, an ended launch; a placing stage that succeeds is
`witness_placing`. -/
theorem witness_launches :
    let t : Launch := { queue := 0, kind := 0, caddr := 2 ^ 37 }
    let s := launchState t
    let p : Launch := { t with placing := true, staged := true, current := some 1, claimed := [1] }
    let placing := launchState p
    let between := launchState { t with started := true, loads := 2, next := 1 }
    let empty := (withCfg 0 3 16 0 (withCfg 0 3 19 0 ((userState.setStream 0 0 { mode := .finished }).setStream 0 1 { mode := .finished })))
    let done : State := (empty.setLoad 0 { empty.loadAt 0 with launch := some 4 })
    let done : State := { done with launches := [(4, { t with started := true, loads := 1, current := some 0 })] }
    let ended := launchState { t with status := some (0, 0, 0) }
    s.power = true ∧ s.dev = .running ∧ s.queueValid 0 = true ∧ (s.queue 0).tail ≠ 1 ∧
    (∀ k ∈ [0, 1, 2, 3], (launchState { t with kind := k }).headLaunch 0 = some 4 ∧
      ((launchState { t with kind := k }).tryStart 4 k []).isSome = true ∧
      mapFind 0 (launchState { t with kind := k }).residents = none) ∧
    mapFind 4 placing.launches = some p ∧ p.placing = true ∧ p.current = some 1 ∧
    (placing.placeImage p.image (placing.imgLoad p.image p.next) ⟨p.claimed, 1, p.vcs⟩).2.2 = 0 ∧
    (∀ n ∈ [1, 2, 3, 4, 5, 6, 7], bits (BitVec.ofNat 64 n) 0 8 = n) ∧
    (between.launches.filter fun e => e.2.between).map (·.1) = 4 :: [] ∧
    (between.tryCandidate 4 []).isSome = true ∧
    done.doneLoads = 0 :: [] ∧ (done.loadAt 0).launch = some 4 ∧ mapSorted done.loads = true ∧
    (ended.launches.find? fun e => e.2.status.isSome) = some (4, { t with status := some (0, 0, 0) }) ∧
    ended.sharedKey (BitVec.ofNat 64 (2 ^ 37)) 8 = some (galleryKey 0 0) ∧ 2 ^ 37 % 8 = 0 ∧
    isGalleryKey (galleryKey 0 0) = true ∧ mapSorted ended.launches = true ∧
    Tidy ended := by
  unfold Tidy; decide +kernel

/-- An image of one load with one hall and no sections, byte by byte as R414 to R418 lay it out, with a header
of 64 bytes: its bytes other than 0, from address 0 of the staging area of launch 4. Its signature's r and s are
one number. -/
def signedImage : List Host.Cell :=
  let cell := fun (o : Nat) (b : Byte) => (stageKey 4 + o, b)
  let half := natToBytes 66 0x840a3c28f6a504dc5da9e53a179f3b965572f468701bc503a70c4ffd86fd9a2982218645ebb506805fa396d507b31d8faa6067ff8bb9c640dd0db4046f07ab4b0000
  let field := fun (p : Nat × Byte) => cell p.1 p.2
  [(8, 64), (25, 1)].map field ++
  (List.zipWith cell (steps 64 1 132) (half ++ half)).filter (fun c => c.2 != 0) ++
  [(256, 64), (257, 1), (264, 24), (268, 1), (272, 128), (273, 1), (280, 192), (281, 1), (296, 192),
    (297, 1), (320, 84), (321, 82), (322, 69), (323, 67), (324, 1), (328, 1), (386, 1)].map field

/-- The public key under which that signature is valid, x then y. -/
def signedImageKey : Nat :=
  0x856d81705d15ddbd1d17dab9b1b417a43a34c0adee8328d00884d95bf56fb6decc91ea669f07250097ae13dcf58603b9f3112a09bf17c082389ed261cb82cf0b290133fb05353503a1fc7ded79d9736fcbbe82751a06e1b9f38a4052234b74fe6342eb560103c51d8b7745e6fb77246643efa99a90a8fea59fd8af2a3b832fe1dab05200

/-- A launch whose image is staged, with room for save areas in wing 0. -/
def stagedState (t : Launch) : State :=
  let sys := hallUnits (systemHall 0)
  withCfg sys 6 2313 100 (withCfg sys 6 2312 (2 ^ 63 + 2 ^ 23) { launchState t with mem := signedImage })

/-- What comes of the first grant on free halls: its chain part, and the refusal by admission. -/
def grantOf (s : State) (t : Launch) : Option (Option Bool × Option Word64) :=
  let c : Choice := { launch := t, prio := 0, reach := .free, avoid := [] }
  ((s.places 4 t.next c).findSome? (s.grant 4 t.next)).map fun g =>
    let b := ((s.startLaunch 4).registerGraph 4).stageInGallery 4 (g.site.place.headD 0 / 128) t.imageLen
    let tb := mapGet t 4 b.launches
    let d := (b.drawn 4 tb.next g.site).assignStages g.site.handle g.stages
    (b.chainReady tb g.site.place d,
      (d.admissionCause (stageKey 4) g.site.handle (b.stagedLoad 4 tb.next) g.site.place).orElse
        fun _ => b.laterRefusal 4 tb)

/-- The same where the copy in the gallery takes no byte, so that its opaque address plays no part. -/
def bareGrant (s : State) (t : Launch) : Option (Option Bool × Option Word64) :=
  let c : Choice := { launch := t, prio := 0, reach := .free, avoid := [] }
  ((s.places 4 t.next c).findSome? (s.grant 4 t.next)).map fun g =>
    let b := (s.startLaunch 4).registerGraph 4
    let tb := mapGet t 4 b.launches
    let d := (b.drawn 4 tb.next g.site).assignStages g.site.handle g.stages
    (b.chainReady tb g.site.place d,
      (d.admissionCause (stageKey 4) g.site.handle (b.stagedLoad 4 tb.next) g.site.place).orElse
        fun _ => b.laterRefusal 4 tb)

theorem copyBytes_none (s : State) (a b : Nat) (h : s.poison = []) : (s.copyBytes a b 0 0).setFull b 0 = s := by
  have range : mapRange a 0 s.mem = [] := List.filter_eq_nil_iff.2 fun e _ => by simp
  have del : mapDelRange b 0 s.mem = s.mem := List.filter_eq_self.2 fun e _ => by
    simp; omega
  cases s
  simp_all [State.copyBytes, State.setFull, unitsOf, moveCells, setDelRange]

theorem grantOf_bare (s : State) (t : Launch) (h : t.imageLen = 0) (p : s.poison = []) :
    grantOf s t = bareGrant s t := by
  have q : ((s.startLaunch 4).registerGraph 4).poison = [] := by
    rw [← p]; simp only [State.registerGraph, State.startLaunch]; repeat' split
    all_goals rfl
  simp only [grantOf, bareGrant, h, State.stageInGallery, Nat.zero_min, copyBytes_none _ _ _ q]

/-- A cold launch whose image is staged, and the state in which its image's certificate is broken. -/
def coldLaunch : Launch := { queue := 0, kind := 0, wmask := 1, staged := true, loads := 1, caddr := 2 ^ 37 }
def brokenState : State :=
  { stagedState coldLaunch with mem := memSetByte (stagedState coldLaunch).mem (stageKey 4 + 340) 1 }

/-- LaunchesProceed: a staged cold launch that is placed, and that its admission or its chain refuses. -/
theorem witness_grants :
    let bound : Launch := { coldLaunch with chain := true, chb := BitVec.ofNat 64 (2 ^ 15) }
    grantOf (stagedState coldLaunch) coldLaunch = some (some true, none) ∧
    (grantOf brokenState coldLaunch).any (fun e => e.1 == some true && e.2.isSome) = true ∧
    ((grantOf (stagedState bound) bound).map (·.1)) = some (some false) := by
  refine ⟨?_, ?_, ?_⟩ <;> rw [grantOf_bare _ _ rfl rfl] <;> decide +kernel

/-- LaunchesProceed: a staged cold launch that no hall can take, or that waits for a channel; heads that may
start. -/
theorem witness_candidates :
    let t := coldLaunch
    let s := stagedState t
    let nowhere : Launch := { t with excluded := steps 0 1 512 }
    let taken := (steps 1 1 7).map fun v => (0, v)
    let full : State := { s with launches := s.launches ++ [(5, { queue := 1, kind := 0, vcs := taken })] }
    let free : Choice := { launch := t, prio := 0, reach := .free, avoid := [] }
    s.mayStart 4 t = true ∧ s.headLaunch 0 = some 4 ∧ s.placeable 4 t 0 = true ∧
    (stagedState nowhere).placeable 4 nowhere 0 = false ∧
    full.placeable 4 t 0 = true ∧ full.places 4 0 free ≠ [] ∧
    (full.places 4 0 free).findSome? (full.grant 4 0) = none ∧
    s.imageBacked (2 ^ 51) 1024 = false := by
  decide +kernel

/-- LaunchesProceed: a launch of priority 7 for which hall 0 alone is left, which load 0, of a launch of priority
0, holds: running, or suspended. -/
theorem witness_victims :
    let t : Launch :=
      { queue := 0, kind := 0, wmask := 1, imageLen := 1024, staged := true, loads := 1, caddr := 2 ^ 37,
        excluded := steps 1 1 511 }
    let v : Launch := { queue := 1, kind := 0, started := true, loads := 1, current := some 0, start := 1 }
    let s := fun (st : LoadState) =>
      let s := withCfg (hallUnits (systemHall 0)) 6 2048 (2 ^ 63 + 7 * 2 ^ 60) (stagedState t)
      let s := s.setLoad 0 { s.loadAt 0 with state := st, launch := some 5 }
      ({ s with launches := [(4, t), (5, v)], nextId := 6 } : State)
    let pick := fun (s : State) (r : Reach) => s.places 4 0 { launch := t, prio := 7, reach := r, avoid := [] }
    ∀ st ∈ [LoadState.running, .suspended], (s st).placeable 4 t 7 = true ∧ pick (s st) .free = [] ∧
      (((s st).victimReaches 7).findSome? fun r => (pick (s st) r).find? fun p => ((s st).grant 4 0 p).isSome) =
        some [0] ∧
      (s st).holders [0] = [0] ∧ ((s st).loadAt 0).late = none ∧ ((s st).loadAt 0).state = st ∧
      ((s st).loadAt 0).launch = some 5 ∧ (mapFind 5 (s st).launches).isSome = true := by
  decide +kernel

/-- LaunchesProceed: a registered graph whose load is idle, that runs, that is between loads, or that is
released; a suspended launch whose load stands in place. -/
theorem witness_residents :
    let t : Launch := { queue := 0, kind := 2, caddr := 2 ^ 37 }
    let tl := { t with loads := 1 }
    let r : Resident := { loads := [0], image := 0, imageLen := 1024 }
    let at' := fun (st : LoadState) (t : Launch) (r : Resident) =>
      let s := launchState t
      let s := s.setLoad 0 { s.loadAt 0 with state := st, resident := some 0 }
      ({ s with residents := [(0, r)] } : State)
    let s := at' .residentIdle t r
    let p := (s.setLaunch 4 tl).startLaunch 4
    let b := { p with residents := mapPut 0 { r with running := true } p.residents }
    let tb := mapGet tl 4 b.launches
    let u := launchState { t with kind := 0, started := true, suspended := true, current := some 0 }
    let u := u.setLoad 0 { u.loadAt 0 with state := .suspended, launch := some 4 }
    mapFind 0 s.residents = some r ∧ r.running = false ∧ (s.loadAt 0).state = .residentIdle ∧
    b.chainReady tb ((b.loadAt 0).halls.map (·.phys)) (b.unbindQueues 0) = some true ∧
    (b.stagePlan ((b.unbindQueues 0).restoreValids (b.loadAt 0)) 0 ((b.loadAt 0).halls.map (·.phys))).isSome = true ∧
    mapSorted s.loads = true ∧ mapSorted s.residents = true ∧ mapSorted s.launches = true ∧
    ({ t with started := true } : Launch).between = true ∧
    ((u.setLaunch 4 { mapGet t 4 u.launches with claimed := [] }).resumeLoad 0 []).2 = 0 ∧
    u.hallClaimed (u.loadAt 0) = false ∧ u.holders [] = [] := by
  decide +kernel

/-- LaunchesProceed: a placing stage of a staged, signed image that succeeds. -/
theorem witness_placing :
    let t : Launch :=
      { queue := 0, kind := 0, imageLen := 1024, staged := true, placing := true, loads := 1,
        current := some 1, claimed := [1], vcs := [(0, 2)], caddr := 2 ^ 37,
        job := List.replicate 8 0 ++ natToBytes 8 (2 * 2 ^ 32 + 2 ^ 24 + 2 ^ 16 + 2 ^ 8) ++ List.replicate 48 0 }
    let s : State :=
      { State.reset with launches := [(4, t)], nextId := 5, keys := [(0, natToBytes 132 signedImageKey)], mem := signedImage }
    bits (s.placingStage 4 t).2 0 8 = 0 := by
  decide +kernel

/-! ### Hypotheses of the statements on the host, power, links, arcs and rounds -/

/-- HostAccessesAct: the values that the clauses tell apart, a masked vector with a message pending. -/
theorem witness_host :
    let s : State := { State.reset with msixPending := [3] }
    s.power = true ∧ s.answersAll = true ∧ (0#64).setWidth 2 = 0#2 ∧ (3#64).setWidth 2 = 3#2 ∧
    (1#64).setWidth 2 = 1#2 ∧ (2#64).setWidth 2 = 2#2 ∧ bitAt (s.dmapAt (128 * 3 + 66)) 17 = true ∧
    s.msixMasked (7 / 2) = true ∧ setHas (7 / 2) s.msixPending = true ∧ s.msixFunctionMask = false ∧
    s.msixMasked 3 = true ∧ ({ s with msixTable := [(7, 0)] } : State).msixMasked 3 = false ∧
    (4#14).toNat % 8 ≠ 0 := by
  decide +kernel

/-- PowerAndHealthAct: a part in its self-test whose firmware has a good signature, and one without a key for
it. -/
theorem witness_firmware :
    State.firmwareGood { State.reset with dev := .selfTest } = true ∧
    State.firmwareGood { State.reset with dev := .selfTest, keys := [] } = false := by
  decide +kernel

/-- PowerAndHealthAct: a part without power, in its self-test, and running with and without a load; a
voltage within its range; halls that may be retired. -/
theorem witness_power :
    let off : State := { State.reset with power := false }
    let test : State := { State.reset with dev := .selfTest }
    let worn : State := { State.reset with monitors := [(22, 0)], dmap := mapPut 5 (withBits (State.reset.dmapAt 5) 32 8 20) State.reset.dmap }
    let bad : SelfTest := { hbm := [2, 5] }
    let word : CfgWrite := { addr := 0x40000000, data := 1, rejected := false }
    let txn := sysState.setCur { sysState.cur with txn := some { words := [word] } }
    (cfgTarget word.addr = some (0, 1, 0) ∧ isStore 1 = true) ∧
    ((mapFind sysState.curCore txn.cores).bind fun k => (k.ctx sysState.curCtx).txn) = some { words := [word] } ∧
    sysState.curCtx < 4 ∧
    (2 ∈ bad.hbm ∧ ∀ k < 2, k ∉ bad.hbm) ∧ (∀ k < 8, k ∉ ({} : SelfTest).hbm) ∧
    State.reset.plannedVoff 5 = some 0 ∧ worn.plannedVoff 5 = none ∧ bits (worn.dmapAt 5) 32 8 = 20 ∧
    bitAt (worn.dmapAt 5) 17 = true ∧ worn.unusedNumbers 0 = [] ∧ worn.ownerOf 5 = none ∧
    State.reset.pwr.toNat ≤ min State.reset.plim.toNat 2400 ∧
    off.power = false ∧ test.power = true ∧ test.dev = .selfTest ∧ (∀ w < 4, test.unusedNumbers w = []) ∧
    (test.markFailed [5]).shortWing = none ∧ (test.markFailed [5, 6, 7]).shortWing = some 0 ∧
    userState.power = true ∧ userState.dev = .running ∧ userState.unfrozen ≠ [] ∧ 0 ∈ userState.unfrozen ∧
    State.reset.unfrozen = [] ∧ State.reset.freezing = false ∧ (-16 : Int) ≤ (20#8).toInt ∧
    (20#8).toInt ≤ 20 ∧ State.reset.unusedNumbers 0 = [] ∧ bitAt (State.reset.dmapAt 5) 17 = true ∧
    State.reset.agenda = [] ∧ (worn.launches.any fun t => t.2.claimed.contains 5) = false ∧
    Tidy State.reset ∧ checkValue [0, 1] ≠ checkValue [0, 0] := by
  unfold Tidy; decide +kernel

/-- A flit of a credit packet. -/
def creditFlit : LinkFlit :=
  let data := natToBytes 8 (2 ^ 45 + 7 * 2 ^ 48)
  { seq := 0, vc := 1, check0 := checkValue data, check1 := 0, data := data }

/-- PortsAct: a port that works, one that waits for a retry and one that retrains, good and bad flits, the
16th failed resend, and a stream with a request outstanding at a CXL port for 1 ms. -/
theorem witness_ports :
    let s := userState
    let t := s.setPort 0 { training := true }
    let r := s.setPort 0 { asked := some 3, fails := 15 }
    let c := withCfg 31 6 2 0 (withCfg 31 6 0 (2 ^ 63 + 4 * 2 ^ 27) (userState.setStream 0 0 { mode := .running, busy := true, lost := some 0 }))
    let c := withCfg 31 6 257 (2 ^ 27 * 2 ^ 21) (withCfg 31 6 256 (2 ^ 63 + 2 ^ 60) c)
    let c : State := { withCfg (hallUnits (systemHall 0)) 6 3848 (2 ^ 63 + 2 ^ 40) c with cycle := 1050000 }
    let k := s.setPort 0 { seeking := true }
    (s.port 0).up = true ∧ (s.port 0).training = false ∧ LinkFlit.good creditFlit = true ∧
    LinkFlit.good { creditFlit with check1 := 1 } = false ∧
    (k.port 0).underWay { creditFlit with seq := 1 } = true ∧ (k.port 0).underWay { creditFlit with check1 := 1 } = false ∧
    (s.port 0).underWay { creditFlit with seq := 1 } = false ∧
    creditFlit.seq = (s.port 0).expect ∧ mapGet [] 1 (s.port 0).inbox ++ [creditFlit] = creditFlit :: [] ∧
    ([] : List LinkFlit).length = dataFlitCount (BitVec.ofNat 64 (byteField creditFlit.data 0 8)) ∧
    { creditFlit with seq := 1 }.seq ≠ (s.port 0).expect ∧ (s.port 0).asked ≠ some 3 ∧
    (r.port 0).asked = some 3 ∧ 15 ≤ (r.port 0).fails ∧ (t.port 0).training = true ∧
    (c.overdue 0).head? = some (0, 0, 0) ∧
    c.portStreams 0 = [(0, 0, 0)] ∧ (c.loadAt 0).state = .running ∧ s.portStreams 0 = [] := by
  decide +kernel

/-- The user state with an arc at window 0 whose timer stands at n. -/
def arcState (n : Nat) : State :=
  let s := withCfg 0 2 3 1 (withCfg 0 2 0 (2 ^ 56 + 2 ^ 37 + 4 * 2 ^ 17 + 0x100) plainState)
  s.setLoad 0 { s.loadAt 0 with timers := [(0, n)] }

/-- A collective descriptor of one rank of load 0 with a contribution to round 0. -/
def roundState (r : Round) : State :=
  let sys := hallUnits (systemHall 0)
  let s := withCfg sys 6 3584 (2 ^ 63 + 2 * 2 ^ 48) (withCfg sys 6 3585 (2 ^ 37 + 0x3000) userState)
  { s with rounds := [(0, r)] }

/-- ArcsAndRoundsAct: an arc at its tolerance and at ALIM, a round that is whole with and without a place
for its result, one that has waited ALIM cycles for its rank. -/
theorem witness_arcs_and_rounds :
    let s := arcState 1048576
    let w := roundState { contrib := [(0, List.replicate 32 1)] }
    let a := withCfg (hallUnits (systemHall 0)) 6 3585 (2 ^ 37 + 2 ^ 26 - 16) w
    let late : State := { roundState { starts := [(0, 0)] } with cycle := 1048576 }
    let full := (List.range 16).map fun k => (⟨4, 0, 0, BitVec.ofNat 16 (k + 1), 1, 0⟩ : DetEntry)
    s.timedLoads = [0] ∧ s.arcsTolerated 0 = [(0, 0)] ∧ detAdd 4 0 0 0 7 (s.loadAt 0).det = none ∧
    (s.loadAt 0).det.length < 16 ∧ detAdd 4 0 0 0 7 full = none ∧ 16 ≤ full.length ∧
    detAdd 4 0 0 0 7 [⟨4, 0, 0, 0, 1, 5⟩] = some [⟨4, 0, 0, 0, 2, 5⟩] ∧
    (s.loadAt 0).state = .running ∧ (late.loadAt (late.engineLoad 0 0)).state = .running ∧
    (late.roundsExpired.find? fun e => late.engineLoad e.1 e.2.1 == late.engineLoad 0 0) = some (0, 0, 0) ∧
    (engines.find? fun e => s.roundReady e.1 e.2) = none ∧
    (engines.find? fun e => s.roundAstray e.1 e.2) = none ∧
    0 ∈ s.runningLoads ∧ 0 ∈ s.timedLoads ∧ (0, 0) ∈ s.arcsTolerated 0 ∧ s.arcExpired 0 = some (0, 0) ∧
    (engines.find? fun e => w.roundReady e.1 e.2) = some (0, 0) ∧
    w.resultSlot 0 0 (w.round 0 0).next = some (galleryKey 0 0x3000) ∧ Tidy w ∧
    bits (w.engineWord 0 0 0) 48 2 = 2 ∧ bits (w.engineWord 0 0 0) 50 2 = 0 ∧
    (0, 0, 0) ∈ late.roundsExpired ∧ (engines.find? fun e => a.roundReady e.1 e.2) = none ∧
    (engines.find? fun e => a.roundAstray e.1 e.2) = some (0, 0) ∧
    (a.loadAt (a.engineLoad 0 0)).state = .running := by
  unfold Tidy; decide +kernel

/-! ### Hypotheses of the statements on decoding, steps and frames -/

/-- DecodeInvertsEncode and DecodeIsExact: an encoded, well-formed instruction and its bytes. -/
theorem witness_decode : (Instr.land q0 1 2).encoded = true ∧ (Instr.land q0 1 2).wf = true ∧
    ∃ rest, decode (bytesOfWords [0x0F200000, 0x00000201]) = .ok (.land q0 1 2, rest) :=
  ⟨rfl, rfl, [], rfl⟩

/-- An addition placed where the next step fetches. -/
def placed : State := State.reset.withFetchWord 32 0x000531C0

/-- StepRunsWhatIsNext: a register write that is due, an event that is due, a slot whose context issues an
instruction, and a cycle with nothing left to do, in which a write to CXL memory is due or nothing is. -/
theorem witness_step :
    let due := sysState.setCur { sysState.cur with pend := [⟨0, [(7, ⟨1, false⟩)]⟩] }
    let event : State := { State.reset with agenda := [(0, .healthRead)] }
    let u := (steps 0 1 4).foldl (fun s y => s.fixYield placedCore y) { placed with todo := [] }
    let f := u.focus placedCore 0
    due.dueWriteback = some (placedCore, 0) ∧ event.dueWriteback = none ∧
    event.agenda = (0, .healthRead) :: [] ∧ 0 ≤ event.cycle ∧ Instr.healthRead.encoded = false ∧
    Instr.healthRead.wf = true ∧ event.dev = .running ∧ placed.dueWriteback = none ∧
    (∀ e ∈ placed.agenda.head?, placed.cycle < e.1) ∧ placed.todo = .issue placedCore :: [] ∧
    u.selected placedCore = some 0 ∧ f.cur.wild = false ∧ f.inExtent f.cur.pc.toNat = true ∧
    f.word ≠ 0xFFFFFFFF#32 ∧ wordLong f.word = false ∧ State.reset.todo = [] ∧
    State.reset.power = true ∧ cxlPortOf (2 ^ 48) = some 0 ∧
    ({ State.reset with outside := [(1, .cxlWrite (2 ^ 48) [5] [])] } : State).outside =
      [(1, .cxlWrite (2 ^ 48) [5] [])] := by
  decide +kernel

/-- The instruction of that slot. -/
theorem witness_step_word : ∃ more,
    decode (memBytes placed.mem (codeKey placedCore 0) 8) = .ok (.add q0 5 6 7, more) :=
  ⟨_, rfl⟩

/-- StepsKeepTheCanonicalForm and StepsAnswerANextState: reset, whose step answers a next state. -/
theorem witness_canonical : Tidy State.reset ∧ AgendaOk State.reset ∧ isNext (step State.reset) = true := by
  unfold Tidy AgendaOk; decide +kernel

/-- RegisterFormsKeepTheRest and StoresKeepTheRest: instructions that complete in the placed context. -/
theorem witness_frames :
    let t := nextOf (exec (.add q0 5 6 7) sysState)
    let u := nextOf (exec (.st q0 .d 5 6 0) sysState)
    let v := nextOf (exec (.vst q0 1 2 3 0) sysState)
    writtenKeys (.add q0 5 6 7) = some [xKey 5] ∧ isNext (exec (.add q0 5 6 7) sysState) = true ∧
    t.cur.run = sysState.cur.run ∧ t.cur.halted = sysState.cur.halted ∧
    isNext (exec (.st q0 .d 5 6 0) sysState) = true ∧ u.cur.run = sysState.cur.run ∧
    u.cur.halted = sysState.cur.halted ∧ isNext (exec (.vst q0 1 2 3 0) sysState) = true ∧
    v.cur.run = sysState.cur.run ∧ v.cur.halted = sysState.cur.halted := by
  decide +kernel

/-- WritesTakeEffectAtTheirLatency: cycles before and at the latency, two registers written, a third left,
a write that is due, and a poisoned base for x0. -/
theorem witness_latency :
    let s := withReg 3 0 sysState true
    let late := s.setCur { s.cur with pend := [⟨s.cycle, [(5, ⟨1, false⟩)]⟩] }
    let ws : List (Nat × PVal) := [(5, ⟨1, true⟩), (600, ⟨2, false⟩)]
    (∀ e ∈ ws, e.1 < 1000) ∧ ws.Pairwise (fun e f => e.1 ≠ f.1) ∧ keyConst 5 = none ∧
    (∀ e ∈ ws, e.1 ≠ 7) ∧ (3 : Nat) < s.cycle + 4 ∧ keyConst 600 = some 0xFFFFFFFF ∧
    late.dueWriteback = some (late.curCore, late.curCtx) ∧ s.issues ∧
    s.memHeld = false ∧ (s.x 3).po = true ∧ s.curK.score = [] := by
  unfold State.issues; decide +kernel

/-- FaultsAndHoldsStopInstructions: an acquire that holds, a core outside the system halls, a landing
distance at its limit, a load that runs, and an open fault log. -/
theorem witness_faults :
    let held := sysState.setCur { sysState.cur with acq := [1] }
    let far := sysState.setCur { sysState.cur with ldist := 8192 }
    let log := withCfg (hallUnits (systemHall 0)) 6 2320 (2 ^ 63) sysState
    held.running = true ∧ held.memHeld = true ∧ userState.memHeld = false ∧
    userState.curK.score = [] ∧ isSystemCore userState.curCore = false ∧ far.overrun = true ∧
    far.running = true ∧ userState.curK.load = some 0 ∧ (userState.loadAt 0).preqs = [] ∧
    (userState.loadAt 0).state = .running ∧ isSystemCore log.curCore = true ∧ Tidy log ∧
    log.curK.load = none ∧ log.logOpen (wingOfCore log.curCore) = true ∧ log.results = [] ∧
    (let own := withCfg (hallUnits (systemHall 0)) 6 2320 (2 ^ 63) userState
     let area : Result :=
       { id := 9, core := placedCore, ctx := 0, group := 0, instr := .preq q0 1 2, a := 0, area := 2 ^ 17 - 8 }
     let waits : State :=
       { own.setLoad 0 { own.loadAt 0 with preqs := [(placedCore, 0, 9)] } with results := [(9, area)] }
     Tidy waits ∧ waits.curK.load = some 0 ∧ waits.logOpen (wingOfCore waits.curCore) = true ∧
     (∀ e ∈ waits.results, tileKey e.2.core e.2.area + 8 ≤ galleryKey 0 0) ∧
     (let t := waits.takeFault (rangeFault 48 0 5)
      memBytes t.mem (galleryKey 0 3) 1 = [0] ∧
      memBytes t.mem (galleryKey 0 0) 1 = natToBytes 1 codeRange ∧
      memBytes t.mem (tileKey placedCore (2 ^ 17 - 8)) 8 = natToBytes 8 3)) := by
  unfold Tidy; decide +kernel

/-! ### Decoding: words written out from the encodings of R77 to R93 -/

/-- Whether the decoder reads an instruction from two words. -/
def reads (w w2 : Nat) (i : Instr) : Bool :=
  match decode (bytesOfWords [BitVec.ofNat 32 w, BitVec.ofNat 32 w2]) with
  | .ok (j, _) => i == j
  | .error _ => false

/-- Whether the decoder refuses two words, for a reason. -/
def refuses (w w2 : Nat) (e : DecodeError) : Bool :=
  match decode (bytesOfWords [BitVec.ofNat 32 w, BitVec.ofNat 32 w2]) with
  | .ok _ => false
  | .error f => e == f

/-- The lines of the chapter's worked encodings. -/
theorem test_decode_worked :
    reads 0x40082980 0 (.add ⟨2, false⟩ 8 5 6) = true ∧ reads 0x020507FD 0 (.addi q0 5 0 (-3)) = true ∧
    reads 0x0409FFFA 0 (.br q0 2 (-6)) = true ∧ reads 0x040BFFFA 0 (.brn q0 2 (-6)) = true ∧
    reads 0x16062483 0 (.vfma ⟨0, true⟩ .f32 3 1 2 1) = true ∧
    reads 0x0F070000 0x12345678 (.moviLong q0 7 0x12345678) = true ∧
    reads 0x0F200000 0x00000005 (.land q0 5 0) = true ∧ reads 0x00000040 0 (.add q0 0 0 1) = true ∧
    reads 0x02E5000A 0 (.movi q0 5 10) = true := by
  decide +kernel

/-- The words of the same chapter that are no instruction, and reserved fields and values of others. -/
theorem test_decode_refused :
    refuses 0x00600000 0 .unassignedMajor = true ∧ refuses 0x0000003F 0 .unassignedValue = true ∧
    refuses 0x00A04800 0 .unassignedMajor = true ∧ refuses 0x00052945 0 (.reservedBits (.div q0 5 5)) = true ∧
    refuses 0xFFFFFFFF 0 .fillWord = true ∧ refuses 0xFFFFFFFE 0 .unassignedMajor = true ∧
    refuses 0x0F200000 0x00001000 (.reservedBits (.land q0 0 0)) = true ∧
    refuses 0x0D000001 0 (.reservedBits (.fend q0)) = true := by
  decide +kernel

/-- Words of the scalar forms, bit by bit from the layouts and maps. -/
theorem test_decode_scalar :
    reads 0x700531c0 0x0 (.add ⟨3, true⟩ 5 6 7) = true ∧
    reads 0xf7c6 0x0 (.divu q0 30 31) = true ∧
    reads 0x2110c6 0x0 (.sel q0 1 2 3 6) = true ∧
    reads 0x431045 0x0 (.cmp q0 .geu 3 2 1) = true ∧
    reads 0x20117fd 0x0 (.addi q0 1 2 (-3)) = true ∧
    reads 0x2c4483f 0x0 (.srai q0 4 9 63) = true ∧
    reads 0x3674400 0x0 (.cmpiLt q0 7 8 (-1024)) = true := by
  decide +kernel

/-- Words of the control forms, bit by bit from the layouts and maps. -/
theorem test_decode_control :
    reads 0xe40bfffc 0x0 (.brn ⟨7, false⟩ 2 (-4)) = true ∧
    reads 0x460f800 0x0 (.jr q0 31) = true ∧
    reads 0x4802014 0x0 (.loop q0 4 20) = true ∧
    reads 0x5050044 0x0 (.pset q0 5 true) = true ∧
    reads 0x5292800 0x0 (.srd q0 9 .ldist) = true := by
  decide +kernel

/-- Words of the vector forms, bit by bit from the layouts and maps. -/
theorem test_decode_vector :
    reads 0x67e4680 0x0 (.vadd q0 .i32 15 2 3 1) = true ∧
    reads 0x6048ba4 0x0 (.vcmp q0 .f32 .gt 2 4 5 3) = true ∧
    reads 0x7024708 0x0 (.vsel q0 1 2 3 2) = true ∧
    reads 0x7224683 0x0 (.vcvt q0 1 2 .rd 1 false .f32 .i32) = true ∧
    reads 0x7c24695 0x0 (.vsamp q0 1 2 3 1 5) = true ∧
    reads 0x7a3c704 0x0 (.vgath q0 1 14 3 2) = true := by
  decide +kernel

/-- Words of the matrix forms, bit by bit from the layouts and maps. -/
theorem test_decode_matrix :
    reads 0xa1214bf 0x0 (.mma q0 true 4 5 .e4m3 63) = true ∧
    reads 0xac8a400 0x0 (.mrdv q0 false 17 9) = true := by
  decide +kernel

/-- Words of the memory forms, bit by bit from the layouts and maps. -/
theorem test_decode_memory :
    reads 0xb0117ff 0x0 (.ld q0 .d 1 2 (-1)) = true ∧
    reads 0xb406903 0x0 (.wput q0 13 4) = true ∧
    reads 0xb630881 0x0 (.tmovOut q0 3 1 2) = true ∧
    reads 0xbc01a33 0x0 (.acas q0 .ar .h true 3 8) = true ∧
    reads 0xc401a34 0x0 (.atomMaxu q0 .rel .s 3 8) = true ∧
    reads 0xc6110c8 0x0 (.ldf q0 1 2 200) = true ∧
    reads 0xca0f801 0x0 (.sstop q0 31) = true ∧
    reads 0xcc03a01 0x0 (.qput q0 7 8) = true := by
  decide +kernel

/-- Words of the firing forms, bit by bit from the layouts and maps. -/
theorem test_decode_firing :
    reads 0xd000000 0x0 (.fend q0) = true ∧
    reads 0xd400005 0x0 (.mode q0 5) = true ∧
    reads 0xd800029 0x0 (.trapS q0 9) = true ∧
    reads 0xdc00884 0x0 (.gqry q0 1 2) = true := by
  decide +kernel

/-- Words of the system forms, bit by bit from the layouts and maps. -/
theorem test_decode_system :
    reads 0xe000883 0x0 (.cfgcommit q0 1 2) = true ∧
    reads 0x1e6052c0 0x0 (.eret ⟨0, true⟩ 10 11) = true := by
  decide +kernel

/-- Words of the two-word forms. -/
theorem test_decode_long :
    reads 0xf070000 0xfffffffe (.moviLong q0 7 (-2)) = true ∧
    reads 0xf070001 0x12345678 (.lih q0 7 0x12345678) = true ∧
    reads 0x4f200000 0x5a3 (.land ⟨2, false⟩ 0xA3 5) = true := by
  decide +kernel

/-- The decoder gives a row's instruction from its numbered bits, for a word and for two. -/
theorem test_table_words :
    decodeTableWord 32 0x40082980 = some (.add ⟨2, false⟩ 8 5 6) ∧
    decodeTableWord 64 0x0000_0005_0F20_0000 = some (.land q0 5 0) ∧
    decodeTableWord 32 0x0000003F = none := by
  decide +kernel

/-! ### Well-formedness: an ill-formed term for each check, and its well-formed neighbour -/

/-- R123, R127, R86 to R89, R197: encoded forms with an operand that no encoding carries. -/
theorem test_ill_formed_encoded :
    (Instr.loop q0 5 0).wf = false ∧ (Instr.loop q0 5 1).wf = true ∧
    (Instr.swr q0 .cyc 5).wf = false ∧ (Instr.swr q0 .tmode 5).wf = true ∧
    (Instr.vfma q0 .i32 1 2 3 0).wf = false ∧ (Instr.vfms q0 .i8 1 2 3 0).wf = false ∧
    (Instr.vfma q0 .f16 1 2 3 0).wf = true ∧ (Instr.vaddSat q0 .f32 1 2 3 0).wf = false ∧
    (Instr.vsubSat q0 .bf16 1 2 3 0).wf = false ∧ (Instr.vaddSat q0 .i8 1 2 3 0).wf = true ∧
    (Instr.vshl q0 .f32 1 2 3 0).wf = false ∧ (Instr.vshr q0 .f16 1 2 3 0).wf = false ∧
    (Instr.vsra q0 .bf16 1 2 3 0).wf = false ∧ (Instr.vsra q0 .i16 1 2 3 0).wf = true ∧
    (Instr.vcvt q0 1 2 .rn 0 false .f32 .f32).wf = false ∧ (Instr.vcvt q0 1 2 .rn 0 true .f32 .i8).wf = false ∧
    (Instr.vcvt q0 1 2 .sr 0 false .f32 .i8).wf = false ∧ (Instr.vcvt q0 1 2 .rn 0 true .i32 .i8).wf = true ∧
    (Instr.mma q0 false 1 2 .kb4 0).wf = false ∧ (Instr.mmas q0 false 1 2 .bf16 0).wf = false ∧
    (Instr.mmas q0 false 31 2 .kb4 0).wf = false ∧ (Instr.mmas q0 false 1 31 .kb4 0).wf = false ∧
    (Instr.mmas q0 false 1 2 .kb4 0).wf = true ∧ (Instr.acas q0 .rlx .h false 1 31).wf = false ∧
    (Instr.acas q0 .rlx .h false 1 30).wf = true := by
  decide +kernel

/-- R1 to R7, R228, R435: events at a place that the part does not have. -/
theorem test_ill_formed_events :
    (Instr.resultWriteback 17 0).wf = false ∧ (Instr.claimDecide 0 4).wf = false ∧
    (Instr.firingStart 0 16).wf = false ∧ (Instr.guardPoison 16384 0).wf = false ∧
    (Instr.queueCredit 28 0 0).wf = false ∧ (Instr.queueClose 0 32 0).wf = false ∧
    (Instr.matrixCommandStart (67 * 32)).wf = false ∧ (Instr.corridorArrival 0 64).wf = false ∧
    (Instr.drainStart 28 0).wf = false ∧ (Instr.hang 28 false none).wf = false ∧
    (Instr.streamToken 67 0).wf = false ∧ (Instr.orderedAccessPerform 0 32).wf = false ∧
    (Instr.invalidateAll 4).wf = false ∧ (Instr.hallWriteOut 28 0).wf = false ∧
    (Instr.freezeArrival 0 512).wf = false ∧ (Instr.voltageReplan 0 67 none).wf = false ∧
    (Instr.cxlTimeout 4).wf = false ∧ (Instr.linkFlitReceive 0 ⟨0, 0, 0, 0, none, [], []⟩).wf = false ∧
    (Instr.linkRetry 16 0).wf = false ∧ (Instr.msixUnmask 65).wf = false ∧
    (Instr.bar2Write (BitVec.ofNat 28 (2 ^ 28 - 1)) [0, 0] false).wf = false ∧
    (Instr.bar2Read (BitVec.ofNat 28 (2 ^ 28 - 1)) 2).wf = false ∧
    (Instr.sramError (.row 0 2 0) false).wf = false ∧ (Instr.resultWriteback 16 3).wf = true ∧
    (Instr.firingStart 0 15).wf = true ∧ (Instr.streamToken 66 31).wf = true := by
  decide +kernel

/-- An ill-formed event that stands in the agenda ends the run by its name. -/
theorem test_ill_formed_agenda :
    isNext (step { State.reset with agenda := [(0, .cxlTimeout 4)] }) = false ∧
    isNext (step { State.reset with agenda := [(0, .cxlTimeout 3)] }) = true := by
  decide +kernel

/-! ### Single steps: results worked out by hand from the rules -/

/-- R20, R112: sums wrap, and a high product of signed values is floored. -/
theorem test_arithmetic :
    let s := withReg 5 (2 ^ 64 - 1) (withReg 6 1 (withReg 8 3 sysState))
    result 7 (exec (.add q0 7 5 6) s) = 0 ∧ result 7 (exec (.sub q0 7 0 6) s) = 2 ^ 64 - 1 ∧
    result 7 (exec (.mulh q0 7 5 8) s) = 2 ^ 64 - 1 ∧ result 7 (exec (.mulhu q0 7 5 5) s) = 2 ^ 64 - 2 ∧
    result 7 (exec (.addi q0 7 0 (-3)) s) = 2 ^ 64 - 3 ∧ result 0 (exec (.add q0 0 5 6) s) = 0 := by
  decide +kernel

/-- R112: shift amounts are the low six bits; counts of zeros and ones. -/
theorem test_shifts_and_counts :
    let s := withReg 5 (2 ^ 64 - 8) (withReg 6 65 (withReg 8 64 sysState))
    result 7 (exec (.sra q0 7 5 6) s) = 2 ^ 64 - 4 ∧ result 7 (exec (.shl q0 7 5 8) s) = 2 ^ 64 - 8 ∧
    result 7 (exec (.rol q0 7 5 6) s) = 2 ^ 64 - 15 ∧ result 7 (exec (.clz q0 7 0) s) = 64 ∧
    result 7 (exec (.ctz q0 7 5) s) = 3 ∧ result 7 (exec (.popc q0 7 6) s) = 2 := by
  decide +kernel

/-- R118, R119: signed and unsigned order, and selection. -/
theorem test_compares :
    let s := withReg 5 (2 ^ 64 - 1) (withReg 6 1 (withReg 611 1 sysState))
    result 612 (exec (.cmp q0 .lt 2 5 6) s) = 1 ∧ result 612 (exec (.cmp q0 .ltu 2 5 6) s) = 0 ∧
    result 612 (exec (.cmpiLt q0 2 6 (-1)) s) = 0 ∧ result 7 (exec (.sel q0 7 5 6 1) s) = 2 ^ 64 - 1 ∧
    result 7 (exec (.sel q0 7 5 6 2) s) = 1 ∧ result 7 (exec (.min q0 7 5 6) s) = 2 ^ 64 - 1 ∧
    result 7 (exec (.maxu q0 7 5 6) s) = 2 ^ 64 - 1 := by
  decide +kernel

/-- R117: the two-word forms, on one register. -/
theorem test_long_forms :
    let s := withReg 7 0xAAAAAAAA00000001 sysState
    result 7 (exec (.moviLong q0 7 0xFFFFFFFE) s) = 2 ^ 64 - 2 ∧
    result 7 (exec (.lih q0 7 0x12345678) s) = 0x1234567800000001 ∧
    (nextOf (exec (.lih q0 7 0) s)).cur.pc = 2 := by
  decide +kernel

/-- R113: the quotients of zero and of the most negative value travel to the return queue. -/
theorem test_divisions :
    let s := withReg 5 (2 ^ 63) (withReg 6 (2 ^ 64 - 1) sysState)
    (nextOf (exec (.div q0 5 0) s)).agenda.map (·.2) =
      [.deferredResultArrival placedCore 0 0 (BitVec.ofNat 64 (2 ^ 64 - 1)) false] ∧
    (nextOf (exec (.rem q0 5 0) s)).agenda.map (·.2) =
      [.deferredResultArrival placedCore 0 0 (BitVec.ofNat 64 (2 ^ 63)) false] ∧
    (nextOf (exec (.div q0 5 6) s)).agenda.map (·.2) =
      [.deferredResultArrival placedCore 0 0 (BitVec.ofNat 64 (2 ^ 63)) false] ∧
    (nextOf (exec (.rem q0 5 6) s)).agenda.map (·.2) =
      [.deferredResultArrival placedCore 0 0 0 false] := by
  decide +kernel

/-- R121, R123: where transfers go, and the loop that a LOOP with end word 2 words on starts. -/
theorem test_transfers :
    let s := withReg 5 10 (sysState.setCur { sysState.cur with pc := 100 })
    (nextOf (exec (.br q0 0 (-6)) s)).cur.pc = 94 ∧ (nextOf (exec (.brn q0 0 (-6)) s)).cur.pc = 101 ∧
    (nextOf (exec (.jal q0 8) s)).cur.pc = 108 ∧ result 31 (exec (.jal q0 8) s) = 101 ∧
    (nextOf (exec (.jr q0 5) s)).cur.pc = 10 ∧
    (nextOf (exec (.loop q0 5 2) s)).cur.loops = [⟨101, 102, 10⟩] ∧
    (nextOf (exec (.jmp q0 0) s)).cur.ready = 4 ∧ (nextOf (exec (.brn q0 0 0) s)).cur.ready = 1 := by
  decide +kernel

/-- One lane of v1 and of v2, FP32 1.0 and 2.0. -/
def laneState : State := withReg 96 0x3F800000 (withReg 128 0x40000000 sysState)

/-- R137, R138: a sum in FP32 and one of bytes that wraps or saturates. -/
theorem test_vector_arithmetic :
    let s := withReg 96 0x64 (withReg 128 0x64 sysState)
    result 160 (exec (.vadd q0 .f32 3 1 2 0) laneState) = 0x40400000 ∧
    result 160 (exec (.vfma q0 .f32 3 1 2 0) laneState) = 0x40000000 ∧
    result 160 (exec (.vadd q0 .i8 3 1 2 0) s) = 0xC8 ∧ result 160 (exec (.vaddSat q0 .i8 3 1 2 0) s) = 0x7F ∧
    result 160 (exec (.vmax q0 .f32 3 1 2 0) (withReg 96 0x7FC00000 laneState)) = 0x40000000 := by
  decide +kernel

/-- R41: special inputs and exact values of the functions. -/
theorem test_functions :
    result 160 (exec (.vrcp q0 3 1 0) (withReg 96 0xFF800000 sysState)) = 0x80000000 ∧
    result 160 (exec (.vlog2 q0 3 1 0) laneState) = 0 ∧
    result 160 (exec (.vexp2 q0 3 1 0) (withReg 96 0x40400000 sysState)) = 0x41000000 ∧
    result 160 (exec (.vsqrt q0 3 1 0) (withReg 96 0x80000000 sysState)) = 0x80000000 ∧
    result 160 (exec (.vrsq q0 3 1 0) (withReg 96 0xBF800000 sysState)) = 0x7FC00000 := by
  decide +kernel

/-- R34 and R37: the conversions that the chapter works out. -/
theorem test_conversions :
    result 160 (exec (.vcvt q0 3 1 .rn 0 false .i32 .f16) (withReg 96 65520 sysState)) % 2 ^ 16 = 0x7C00 ∧
    result 160 (exec (.vpack q0 3 1 2 0 .rn .f32e4m3) (withReg 96 0x41520000 sysState)) % 2 ^ 8 = 0x55 ∧
    result 160 (exec (.vpack q0 3 1 2 0 .ru .f32e4m3) (withReg 96 0x41520000 sysState)) % 2 ^ 8 = 0x56 := by
  decide +kernel

/-- R48, R49: with no active lane the result is the identity and the index all ones. -/
theorem test_reductions :
    result 160 (exec (.vredsum q0 .f32 3 1 1) laneState) = 0x80000000 ∧
    result 161 (exec (.vredarg q0 .f32 3 1 1) laneState) = 0xFFFFFFFF ∧
    result 161 (exec (.vredarg q0 .f32 3 1 0) (withReg 97 0x40000000 laneState)) = 1 ∧
    result 5 (exec (.vkpop q0 5 0) laneState) = 32 := by
  decide +kernel

/-- R44: 32 products of 2^-12 and 2^-13 join 1.0 in one rounding. -/
theorem test_accumulation :
    let c : MCmd := { id := 0, instr := .mma q0 false 1 2 .bf16 31, word := 0, start := 0, stop := 0, retire := 0,
                      aElems := (List.replicate 32 [0x80, 0x39]).flatten,
                      bElems := (List.replicate 32 [0x00, 0x39]).flatten }
    c.accumulate .bf16 32 0 0 0x3F800000 = 0x3F800008 := by
  decide +kernel

/-- R468: CRC-16 of polynomial 0x8BB7 gives the nine digits its published check value. -/
theorem test_check_value :
    checkValue [0x31, 0x32, 0x33, 0x34, 0x35, 0x36, 0x37, 0x38, 0x39] = 0xD0DB := by
  decide +kernel

/-- R182, R15: a store and the loads of its bytes. -/
theorem test_tile :
    let s := withReg 5 0x8877665544332211 (withReg 6 0x100 sysState)
    let t := nextOf (exec (.st q0 .d 5 6 0) s)
    result 7 (exec (.ld q0 .b 7 6 1) t) = 0x22 ∧ result 7 (exec (.ld q0 .w 7 6 1) t) = 0x88776655 ∧
    result 7 (exec (.ld q0 .h 7 6 (-1)) t) = 0 := by
  decide +kernel

/-- R183, R455: a misaligned load stops its load with code 4. -/
theorem test_alignment :
    let t := nextOf (exec (.ld q0 .d 7 6 0) (withReg 6 4 userState))
    (t.loadAt 0).state = .stopping ∧ (t.loadAt 0).code = some 4 ∧ t.cur.halted = true ∧ t.cur.pc = 0 := by
  decide +kernel

/-- R185: one token of 32 bytes stands in slot 0 of window 0, and window 1 has four free slots. -/
theorem test_windows :
    result 7 (exec (.wavail q0 7 0) userState) = 1 ∧ result 7 (exec (.wspace q0 7 1) userState) = 4 ∧
    result 7 (exec (.wget q0 7 0 0) userState) = 0x100 ∧
    (nextOf (exec (.wput q0 1 6) userState)).sentOf 0 1 = 1 := by
  decide +kernel

/-- R223: the firing goes on after TRAP.N and stops after TRAP.S with code 15. -/
theorem test_traps :
    (nextOf (exec (.trapN q0 9) userState)).cur.pc = 1 ∧
    ((nextOf (exec (.trapN q0 9) userState)).loadAt 0).state = .running ∧
    ((nextOf (exec (.trapS q0 9) userState)).loadAt 0).code = some 15 := by
  decide +kernel

/-- R228, R97: a system form in a user core raises PRIV, code 2. -/
theorem test_privilege :
    ((nextOf (exec (.dmap q0 5 6) userState)).loadAt 0).code = some 2 := by
  decide +kernel

/-- The first step after reset with a placed instruction runs it. -/
theorem test_placed_step :
    result 5 (step placed) = 0 ∧ (nextOf (step placed)).cur.ldist = 1 ∧
    (nextOf (step (State.reset.withFetchWord 32 0x020507FD))).cur.pend = [⟨1, [(5, ⟨BitVec.ofNat 64 (2 ^ 64 - 3), false⟩)]⟩] := by
  decide +kernel

/-- R62, R66: the step after the write's cycle begins lets it take effect. -/
theorem test_write_arrives :
    let s := (nextOf (step (State.reset.withFetchWord 32 0x020507FD)))
    let t := nextOf (step { s with cycle := 1 })
    (t.ctx placedCore 0).reg 5 = ⟨BitVec.ofNat 64 (2 ^ 64 - 3), false⟩ ∧ (t.ctx placedCore 0).pend = [] := by
  decide +kernel

end Sys2Proof.Tests
end

namespace Sys2Proof.Machine

variable {s t : State}

/-! ### The canonical form and what leaves it alone -/

theorem Tidy.memWf (ht : Tidy s) : memWf s.mem = true := ht.1

theorem Tidy.cfgSorted (ht : Tidy s) : mapSorted s.cfg = true := ht.2

/-- Tidiness is about memory and configuration words alone. -/
theorem tidy_mk
   
    {cycle power dev failBlk agenda todo curCore curCtx fresh nextId mem poison full dirty saved atoms
    cfg routes cores loads packets accs copies acks results gcmds sigs streams withheld walks saccs
    tlbs invals qfcnt qtgt qbind sessions balAcc balBase admitted queues launches lseq rotation reports
    residents ports cxlDown cxlSilent outside rounds dmap ien ipend msixTable msixPending
    msixFunctionMask cm ce pwr tj plim mcmd retn keys firmware monitors hostOut : _} :
    Tidy {
      cycle, power, dev, failBlk, agenda, todo, curCore, curCtx, fresh, nextId, mem,
      poison, full, dirty, saved, atoms, cfg, routes, cores, loads, packets, accs, copies,
      acks, results, gcmds, sigs, streams, withheld, walks, saccs, tlbs, invals, qfcnt, qtgt, qbind,
      sessions, balAcc, balBase, admitted, queues, launches, lseq, rotation, reports, residents,
      ports, cxlDown, cxlSilent, outside, rounds, dmap, ien, ipend, msixTable, msixPending,
      msixFunctionMask, cm, ce, pwr, tj, plim, mcmd, retn, keys, firmware, monitors, hostOut } ↔
      memWf mem = true ∧ mapSorted cfg = true := Iff.rfl

/-- A record update of fields other than memory and configuration words. -/
theorem Tidy.update (ht : Tidy s)
    {cycle power dev failBlk agenda todo curCore curCtx fresh nextId poison full dirty saved atoms
    routes cores loads packets accs copies acks results gcmds sigs streams withheld walks saccs tlbs
    invals qfcnt qtgt qbind sessions balAcc balBase admitted queues launches lseq rotation reports
    residents ports cxlDown cxlSilent outside rounds dmap ien ipend msixTable msixPending
    msixFunctionMask cm ce pwr tj plim mcmd retn keys firmware monitors hostOut : _} :
    Tidy {
      cycle, power, dev, failBlk, agenda, todo, curCore, curCtx, fresh, nextId, mem := s.mem,
      poison, full, dirty, saved, atoms, cfg := s.cfg, routes, cores, loads, packets, accs, copies,
      acks, results, gcmds, sigs, streams, withheld, walks, saccs, tlbs, invals, qfcnt, qtgt, qbind,
      sessions, balAcc, balBase, admitted, queues, launches, lseq, rotation, reports, residents,
      ports, cxlDown, cxlSilent, outside, rounds, dmap, ien, ipend, msixTable, msixPending,
      msixFunctionMask, cm, ce, pwr, tj, plim, mcmd, retn, keys, firmware, monitors, hostOut } :=
  tidy_mk.2 ht

theorem Tidy.ite {c : Prop} [Decidable c] (hs : Tidy s) (ht : Tidy t) :
    Tidy (if c then s else t) := by
  split
  · exact hs
  · exact ht

theorem Tidy.fst {α : Type} {a : α} (ht : Tidy s) : Tidy (s, a).1 := ht

theorem Tidy.foldl {α : Type} {f : State → α → State} {l : List α} (ht : Tidy s)
    (hf : ∀ s a, Tidy s → Tidy (f s a)) : Tidy (l.foldl f s) := by
  induction l generalizing s with
  | nil => exact ht
  | cons a l ih => exact ih (hf s a ht)

/-- The next state of an answer, where it has one, is tidy. -/
def TidyNext (a : Answer) : Prop := ∀ t, a = .next t → Tidy t

theorem TidyNext.next (ht : Tidy t) : TidyNext (.next t) := by
  rintro _ ⟨⟩
  exact ht

theorem TidyNext.fault {r : Fault} : TidyNext (.fault r) := fun _ h => nomatch h

theorem TidyNext.ite {a b : Answer} {c : Prop} [Decidable c] (ha : TidyNext a) (hb : TidyNext b) :
    TidyNext (if c then a else b) := by
  split
  · exact ha
  · exact hb

/-- The state of an optional one is tidy. -/
def TidySome (o : Option State) : Prop := ∀ t, o = some t → Tidy t

theorem TidySome.none : TidySome none := fun _ h => nomatch h

theorem TidySome.some (ht : Tidy t) : TidySome (some t) := by
  rintro _ ⟨⟩
  exact ht

theorem TidySome.getD {o : Option State} (ho : TidySome o) (ht : Tidy t) : Tidy (o.getD t) := by
  cases o with
  | none => exact ht
  | some u => exact ho u rfl

theorem TidySome.bind {α : Type} {f : α → Option State} (hf : ∀ a, TidySome (f a))
    (o : Option α) :
    TidySome (o.bind f) := by
  cases o with
  | none => exact .none
  | some a => exact hf a

theorem TidySome.map {α : Type} {f : α → State} (hf : ∀ a, Tidy (f a)) (o : Option α) :
    TidySome (o.map f) := by
  cases o with
  | none => exact .none
  | some a => exact .some (hf a)

theorem TidySome.findSome? {α : Type} {f : α → Option State} (hf : ∀ a, TidySome (f a))
    (l : List α) :
    TidySome (l.findSome? f) := by
  intro t h
  obtain ⟨a, -, ha⟩ := List.exists_of_findSome?_eq_some h
  exact hf a t ha

theorem tidy_reset : Tidy State.reset := ⟨rfl, rfl⟩

/-! ### Memory -/

theorem Tidy.touchLines (ht : Tidy s) {key n : Nat} : Tidy (touchLines s key n) :=
  .ite (ht.foldl fun _ _ ht => ht.update) ht

theorem Tidy.store (ht : Tidy s) {key : Nat} {data : List Byte} : Tidy (s.store key data) :=
  (tidy_mk.2 ⟨memWf_setBytes ht.memWf _ _, ht.cfgSorted⟩ : Tidy { s with mem := _ }).touchLines

theorem Tidy.markStore (ht : Tidy s) {key n : Nat} {po : Bool} : Tidy (markStore s key n po) :=
  ht.update

theorem Tidy.storeVal (ht : Tidy s) {key n : Nat} {v : Word64} {po : Bool} :
    Tidy (s.storeVal key n v po) :=
  ht.store.markStore

theorem Tidy.setFull (ht : Tidy s) {key n : Nat} : Tidy (s.setFull key n) := ht.update

theorem Tidy.setEmpty (ht : Tidy s) {key n : Nat} : Tidy (s.setEmpty key n) := ht.update

theorem Tidy.storeMarked (ht : Tidy s) {key : Nat} {data : List Byte} {po : List Nat} :
    Tidy (s.storeMarked key data po) :=
  ht.store.markStore.update

theorem Tidy.storeFull (ht : Tidy s) {key : Nat} {v : Word64} : Tidy (s.storeFull key v) :=
  ht.storeVal.setFull

theorem Tidy.setCfg (ht : Tidy s) {pk space off : Nat} {v : Word64} :
    Tidy (s.setCfg pk space off v) :=
  tidy_mk.2 ⟨ht.memWf, mapSorted_putD _ _ _ ht.cfgSorted⟩

theorem Tidy.setHallCfg (ht : Tidy s) {hk off : Nat} {v : Word64} : Tidy (s.setHallCfg hk off v) :=
  ht.setCfg

theorem Tidy.setSysCfg (ht : Tidy s) {wing off : Nat} {v : Word64} :
    Tidy (s.setSysCfg wing off v) :=
  ht.setHallCfg

/-! ### Ops -/

theorem Tidy.setCore (ht : Tidy s) {c : Nat} {k : Core} : Tidy (s.setCore c k) := ht.update

theorem Tidy.setCtx (ht : Tidy s) {c x : Nat} {t : Ctx} : Tidy (s.setCtx c x t) := ht.setCore

theorem Tidy.setCurK (ht : Tidy s) {k : Core} : Tidy (s.setCurK k) := ht.setCore

theorem Tidy.setCur (ht : Tidy s) {t : Ctx} : Tidy (s.setCur t) := ht.setCtx

theorem Tidy.setLoad (ht : Tidy s) {h : Nat} {l : Load} : Tidy (s.setLoad h l) := ht.update

theorem Tidy.setActorWord (ht : Tidy s) {c a i : Nat} {v : Word64} :
    Tidy (s.setActorWord c a i v) :=
  ht.setCfg

theorem Tidy.writeRegs (ht : Tidy s) {lat : Nat} {ws : List (Nat × PVal)} :
    Tidy (s.writeRegs lat ws) :=
  ht.setCur

theorem Tidy.writeX (ht : Tidy s) {lat : Nat} {d : XReg} {v : Word64} {po : Bool} :
    Tidy (s.writeX lat d v po) :=
  ht.writeRegs

theorem Tidy.writeP (ht : Tidy s) {lat : Nat} {d : PReg} {v po : Bool} :
    Tidy (s.writeP lat d v po) :=
  ht.writeRegs

theorem Tidy.at (ht : Tidy s) {due : Nat} {i : Instr} : Tidy (s.at due i) := ht.update

theorem Tidy.later (ht : Tidy s) {lo : Nat} {i : Instr} : Tidy (s.later lo i) := ht.at.update

theorem Tidy.within (ht : Tidy s) {lo hi : Nat} {i : Instr} : Tidy (s.within lo hi i) :=
  ht.at.update

theorem Tidy.retry (ht : Tidy s) {i : Instr} : Tidy (s.retry i) := ht.at

theorem Tidy.newId (ht : Tidy s) : Tidy s.newId := ht.update

theorem Tidy.pushEntry (ht : Tidy s) {id : Nat} {mem : Bool} : Tidy (s.pushEntry id mem) :=
  ht.setCur

theorem Tidy.arrive (ht : Tidy s) {c x id : Nat} {v : PVal} : Tidy (s.arrive c x id v) := ht.setCtx

theorem Tidy.addRange (ht : Tidy s) {id lo len : Nat} {write slot : Bool} :
    Tidy (s.addRange id lo len write slot) :=
  ht.setCurK

theorem Tidy.dropRanges (ht : Tidy s) {c id : Nat} : Tidy (s.dropRanges c id) := ht.setCore

theorem Tidy.mapAtoms (ht : Tidy s) {f : AtomId → Option AtomId} : Tidy (s.mapAtoms f) := ht.update

theorem Tidy.endEpoch (ht : Tidy s) {h : Nat} : Tidy (s.endEpoch h) := ht.mapAtoms

theorem Tidy.detEvent (ht : Tidy s) {h : Nat} {code ctx : BitVec 8} {core pc : BitVec 16}
    {first : BitVec 32} : Tidy (s.detEvent h code ctx core pc first) := by
  unfold State.detEvent
  extract_lets l
  split
  · exact ht.setLoad
  · exact .ite ht.setLoad ht.setLoad

theorem Tidy.elasticEffect (ht : Tidy s) : Tidy s.elasticEffect := by
  unfold State.elasticEffect
  extract_lets t
  split
  · exact .ite ht.setCur.detEvent ht
  · exact ht

theorem Tidy.raiseMsix (ht : Tidy s) {v : Nat} : Tidy (s.raiseMsix v) := .ite ht.update ht.update

theorem Tidy.logRecord (ht : Tidy s) {wing : Nat} {record : List Byte} :
    Tidy (s.logRecord wing record) :=
  .ite ht.storeMarked.setFull.setSysCfg ht.setSysCfg

theorem Tidy.logFault (ht : Tidy s) {p : FaultPlace} {f : FaultInfo} {more : Option Ctx} :
    Tidy (s.logFault p f more) := by
  unfold State.logFault
  extract_lets seq sent s1 s2
  have ht1 : Tidy s1 := ht.logRecord
  have ht2 : Tidy s2 := Tidy.ite ht1.raiseMsix ht1
  split
  · exact ht2
  · exact .ite ht2.logRecord.raiseMsix ht2.logRecord

theorem Tidy.writeResult (ht : Tidy s) {id : Nat} {data : List Byte} {po : List Nat} :
    Tidy (s.writeResult id data po) := by
  unfold State.writeResult
  split
  · exact ht
  · exact ht.storeMarked.dropRanges.setCtx.update

theorem Tidy.failPreqs (ht : Tidy s) {h : Nat} : Tidy (s.failPreqs h) :=
  (ht.foldl fun _ _ ht => ht.writeResult).setLoad

theorem Tidy.launchFaults (ht : Tidy s) {h code : Nat} : Tidy (s.launchFaults h code) := by
  unfold State.launchFaults
  split
  · exact ht
  · split
    · exact ht
    · exact .ite ht ht.update.later

theorem Tidy.stopLoad (ht : Tidy s) {h code : Nat} : Tidy (s.stopLoad h code) := by
  unfold State.stopLoad
  extract_lets l s1 _ s2 s3
  have ht1 : Tidy s1 := ht.failPreqs
  have ht2 : Tidy s2 := ht1.setLoad
  have ht3 : Tidy s3 := ht2.foldl fun _ _ ht => ht.within
  split
  · exact ht3.later
  · exact ht3.later
  · exact ht3.later
  · exact .ite ht ht.setLoad.launchFaults
  · exact ht

theorem Tidy.faultAt (ht : Tidy s) {c x pc : Nat} {fix : Word64} {phase : Nat} {firing : Bool}
    {f : FaultInfo} : Tidy (s.faultAt c x pc fix phase firing f) := by
  unfold State.faultAt
  extract_lets t sys h second stub flags place s1 s2
  have ht1 : Tidy s1 := ht.logFault
  have ht2 : Tidy s2 := ht1.setCtx
  clear_value h sys
  split
  · exact ht2.stopLoad
  · exact ht2

theorem Tidy.takeFault (ht : Tidy s) {f : FaultInfo} : Tidy (State.takeFault f s) :=
  ht.faultAt.setCurK

theorem Tidy.trapWith (ht : Tidy s) {cont : Bool} {f : FaultInfo} : Tidy (s.trapWith cont f) :=
  ht.logFault

theorem Tidy.trapRecord (ht : Tidy s) {f : FaultInfo} : Tidy (s.trapRecord f) := ht.trapWith

theorem Tidy.haltRecord (ht : Tidy s) {f : FaultInfo} : Tidy (s.haltRecord f) := ht.trapWith

theorem Tidy.faultOutside (ht : Tidy s) {hk h : Nat} {f : FaultInfo} :
    Tidy (s.faultOutside hk h f) :=
  ht.logFault.stopLoad

theorem Tidy.countIssue (ht : Tidy s) : Tidy s.countIssue := ht.setCur

theorem Tidy.advance (ht : Tidy s) {q : Issue} {len : Nat} {target : Option Int} :
    Tidy (s.advance q len target) :=
  ht.setCurK

theorem Tidy.complete (ht : Tidy s) {q : Issue} {len : Nat} {target : Option Int}
    {eff : State → State} (heff : ∀ s, Tidy s → Tidy (eff s)) :
    Tidy (s.complete q len target eff) :=
  (heff _ ht.countIssue).advance

theorem Tidy.issue (ht : Tidy s) {q : Issue} {len : Nat} {hold : Bool} {flt : Option FaultInfo}
    {target : Option Int} {eff : State → State} (heff : ∀ s, Tidy s → Tidy (eff s)) :
    TidyNext (issue q len hold flt target eff s) := by
  unfold Machine.issue
  split
  · exact .next ht
  · split
    · exact .next ht.takeFault
    · split
      · exact .next ht.takeFault
      · exact .next (ht.complete heff)

theorem Tidy.issueLanding (ht : Tidy s) {q : Issue} {len : Nat} {hold : Bool}
    {flt : Option FaultInfo} {target : Option Int} {eff post : State → State}
    (heff : ∀ s, Tidy s → Tidy (eff s)) (hpost : ∀ s, Tidy s → Tidy (post s)) :
    TidyNext (issueLanding q len hold flt target eff post s) := by
  unfold Machine.issueLanding
  split
  · exact .next ht
  · split
    · exact .next ht.takeFault
    · exact .next (hpost _ ((heff _ ht).advance))

/-! ### Graph -/

theorem Tidy.setWin (ht : Tidy s) {c w i : Nat} {v : Word64} : Tidy (s.setWin c w i v) := ht.setCfg

theorem Tidy.setCred (ht : Tidy s) {c w k v : Nat} : Tidy (s.setCred c w k v) :=
  .ite ht.setWin (Tidy.ite ht.setWin (Tidy.ite ht.setWin ht.setWin))

theorem Tidy.setWord (ht : Tidy s) {key v : Nat} : Tidy (s.setWord key v) := ht.storeVal

theorem Tidy.setSlot (ht : Tidy s) {home j st idx : Nat} : Tidy (s.setSlot home j st idx) :=
  ht.setWord

theorem Tidy.mergeOwn (ht : Tidy s) {core ctx : Nat} {sc : Scope} :
    Tidy (s.mergeOwn core ctx sc) := by
  unfold State.mergeOwn
  extract_lets own
  split
  · exact ht.update
  · exact ht.update
  · exact ht
  · exact ht
  · exact ht

/-! ### Firing -/

theorem Tidy.sendPacket (ht : Tidy s) {p : Packet} : Tidy (s.sendPacket p) := ht.newId.update.later

theorem Tidy.beginFreeze (ht : Tidy s) {h : Nat} {cause : Option Nat} :
    Tidy (s.beginFreeze h cause) := by
  unfold State.beginFreeze
  extract_lets s1 s2 l code s3 s4
  have ht1 : Tidy s1 := ht.failPreqs
  have ht2 : Tidy s2 := ht1.detEvent
  have ht3 : Tidy s3 := ht2.setLoad
  have ht4 : Tidy s4 := ht3.foldl fun _ _ ht => ht.within
  clear_value code
  split
  · exact ht4.launchFaults
  · exact ht4

theorem Tidy.progress (ht : Tidy s) {h : Option Nat} : Tidy (s.progress h) := by
  unfold State.progress
  split
  · exact ht.setLoad
  · exact ht

theorem Tidy.updateWaits (ht : Tidy s) {c : Nat} {fired : Option Nat} :
    Tidy (s.updateWaits c fired) :=
  .ite ht ht.setCore

theorem Tidy.execFiringStart (ht : Tidy s) {core entry : Nat} :
    TidyNext (execFiringStart core entry s) := by
  unfold Machine.execFiringStart
  split
  · exact .next ht.setCtx.update.progress
  · exact .next ht

theorem Tidy.guardFault (ht : Tidy s) {c e : Nat} {f : FaultInfo} : Tidy (s.guardFault c e f) :=
  ht.setCtx.faultAt.setCtx

theorem Tidy.execGuardPoison (ht : Tidy s) {core entry : Nat} :
    TidyNext (execGuardPoison core entry s) := by
  unfold Machine.execGuardPoison
  split
  · split
    · exact .next ht.guardFault
    · exact .next ht
  · exact .next ht

theorem Tidy.execWindowClosed (ht : Tidy s) {core entry : Nat} :
    TidyNext (execWindowClosed core entry s) := by
  unfold Machine.execWindowClosed
  split
  · exact .next ht.guardFault
  · exact .next ht

theorem Tidy.execClaimRequest (ht : Tidy s) {core entry : Nat} :
    TidyNext (execClaimRequest core entry s) := by
  unfold Machine.execClaimRequest
  split
  · exact .next ht.setCtx.later
  · exact .next ht

theorem Tidy.execClaimDecide (ht : Tidy s) {core ctx : Nat} :
    TidyNext (execClaimDecide core ctx s) := by
  unfold Machine.execClaimDecide
  split
  · exact .next ht
  · split
    · exact .next ht.at
    · split
      · exact .next ht.later
      · extract_lets n s1 s2 s3
        have ht1 : Tidy s1 := ht.setSlot.setWord
        have ht2 : Tidy s2 := by
          unfold s2
          split
          · exact ht1.update
          · exact ht1
        have ht3 : Tidy s3 := by
          unfold s3
          split
          · exact .ite ht2.later ht2
          · exact ht2
        exact .next ht3.later

theorem Tidy.execClaimAnswer (ht : Tidy s) {core ctx : Nat} {grant : Bool} {idx : Word32} :
    TidyNext (execClaimAnswer core ctx grant idx s) := by
  unfold Machine.execClaimAnswer
  extract_lets t
  split
  · exact .next ht
  · exact .next ht.setCtx

theorem Tidy.sendClose (ht : Tidy s) {c w : Nat} : Tidy (s.sendClose c w) :=
  .ite ht.sendPacket (Tidy.ite ht.sendPacket ht)

theorem Tidy.retireActor (ht : Tidy s) {c a : Nat} : Tidy (s.retireActor c a) := by
  unfold State.retireActor
  extract_lets s1 s2 s3
  have ht1 : Tidy s1 := ht.setActorWord
  have ht2 : Tidy s2 := ht1.foldl fun _ _ ht => ht.setCfg
  have ht3 : Tidy s3 := ht2.foldl fun _ _ ht => ht.sendClose
  split
  · exact .ite ht3 ht3.later
  · exact ht3

theorem Tidy.endOfFiring (ht : Tidy s) : Tidy s.endOfFiring := by
  unfold State.endOfFiring
  extract_lets c a w0 s1 s2 s3 r s4
  have ht1 : Tidy s1 := Tidy.ite ht ht.setActorWord
  have ht2 : Tidy s2 := ht1.setActorWord
  have ht3 : Tidy s3 := ht2.setActorWord
  have ht4 : Tidy s4 := ht3.setCur
  exact .ite ht4.retireActor ht4

theorem Tidy.becomeIdle (ht : Tidy s) : Tidy s.becomeIdle := ht.setCur.update

theorem Tidy.parkAt (ht : Tidy s) {kind : ParkKind} {e : BitVec 8} {pc : BitVec 13} :
    Tidy (s.parkAt kind e pc) :=
  ht.setCur

theorem Tidy.execMode (ht : Tidy s) {q : Issue} {m : BitVec 3} : TidyNext (execMode q m s) := by
  unfold Machine.execMode
  extract_lets h
  refine ht.issue fun s ht => ?_
  extract_lets s1
  have ht1 : Tidy s1 := ht.elasticEffect
  clear_value h
  split
  · exact ht1.at
  · exact ht1

theorem Tidy.execDrainStart (ht : Tidy s) {load : Nat} {m : BitVec 3} :
    TidyNext (execDrainStart load m s) := by
  unfold Machine.execDrainStart
  extract_lets l
  split
  · exact .next ht.setLoad
  · split
    · exact .next ht
    · exact .next ht.setLoad.retry

theorem Tidy.setStream (ht : Tidy s) {hk n : Nat} {t : Stream} : Tidy (s.setStream hk n t) :=
  ht.update

theorem Tidy.setTargets (ht : Tidy s) {h : Nat} : Tidy (s.setTargets h) := by
  unfold State.setTargets
  extract_lets k s1 s2 s3
  have ht1 : Tidy s1 := ht.foldl fun _ _ ht => ht.setActorWord
  have ht2 : Tidy s2 := ht1.foldl fun _ _ ht => ht.setStream
  have ht3 : Tidy s3 := ht2.foldl fun _ _ ht => ht.update
  exact ht3.setLoad.retry

theorem Tidy.execDrainTargetSet (ht : Tidy s) : TidyNext (execDrainTargetSet s) := by
  unfold Machine.execDrainTargetSet
  split
  · exact .next ht.setTargets
  · split
    · exact .next ht.retry
    · exact .next ht

theorem Tidy.reachQuiescent (ht : Tidy s) {h : Nat} : Tidy (s.reachQuiescent h) := by
  unfold State.reachQuiescent
  extract_lets l zero s1 s2 s3 s4 s5
  have ht1 : Tidy s1 := ht.foldl fun _ _ ht => ht.setCore
  have ht2 : Tidy s2 := ht1.foldl fun _ _ ht => ht.setActorWord
  have ht3 : Tidy s3 := ht2.foldl fun _ _ ht => ht.setStream
  have ht4 : Tidy s4 := ht3.update
  have ht5 : Tidy s5 := ht4.endEpoch
  exact ht5.setLoad

theorem Tidy.execQuiescentPoint (ht : Tidy s) : TidyNext (execQuiescentPoint s) := by
  unfold Machine.execQuiescentPoint
  split
  · exact .next ht.reachQuiescent
  · split
    · exact .next ht.retry
    · exact .next ht

theorem Tidy.sendSignal (ht : Tidy s) {target n : Nat} : Tidy (s.sendSignal target n) :=
  ht.newId.update.later

theorem Tidy.endSignal (ht : Tidy s) {target n : Nat} : Tidy (s.endSignal target n) := by
  unfold State.endSignal
  split
  · exact ht.update
  · exact ht

theorem Tidy.execSig (ht : Tidy s) {q : Issue} {n : BitVec 6} : TidyNext (execSig q n s) := by
  unfold Machine.execSig
  extract_lets h
  refine ht.issue fun s ht => ?_
  extract_lets s1
  have ht1 : Tidy s1 := ht.elasticEffect
  clear_value h
  split
  · exact ht1.foldl fun _ _ ht => ht.sendSignal
  · exact ht1

theorem Tidy.execCorridorArrival (ht : Tidy s) {core sig : Nat} :
    TidyNext (execCorridorArrival core sig s) := by
  unfold Machine.execCorridorArrival
  extract_lets s1 w x t
  have ht1 : Tidy s1 := ht.endSignal
  split
  · exact .next ht1.setCtx.at
  · exact .next ht1

theorem Tidy.execCorridorApply (ht : Tidy s) {core ctx : Nat} :
    TidyNext (execCorridorApply core ctx s) := by
  unfold Machine.execCorridorApply
  extract_lets t set
  split
  · exact .next ht
  · split
    · exact .next ht.setCtx
    · exact .next ht.retry

theorem Tidy.execBrk (ht : Tidy s) {q : Issue} : TidyNext (execBrk q s) := by
  unfold Machine.execBrk
  refine ht.issue fun s ht => ?_
  split
  · exact .ite ht (Tidy.ite ht.haltRecord.stopLoad ht.haltRecord.beginFreeze)
  · exact ht

/-! ### Fabric -/

theorem Tidy.badRoute (ht : Tidy s) {p : Packet} : Tidy (s.badRoute p) := ht.update.faultOutside

theorem Tidy.forwardTo (ht : Tidy s) {p : Packet} {hk port : Nat} : Tidy (s.forwardTo p hk port) :=
  ht.sendPacket

theorem Tidy.deliverTo (ht : Tidy s) {p : Packet} {unit desc : Nat} :
    Tidy (s.deliverTo p unit desc) :=
  ht.newId.update.later

theorem Tidy.setPort (ht : Tidy s) {n : Nat} {t : LinkPort} : Tidy (s.setPort n t) := ht.update

theorem Tidy.sendFlit (ht : Tidy s) {n vc : Nat} {f : List Byte × List Nat} :
    Tidy (State.sendFlit n vc s f) :=
  ht.setPort.update

theorem Tidy.pumpLink (ht : Tidy s) {n vc : Nat} : Tidy (s.pumpLink n vc) :=
  ht.setPort.foldl fun _ _ ht => ht.sendFlit

theorem Tidy.pumpPort (ht : Tidy s) {n : Nat} : Tidy (s.pumpPort n) :=
  ht.foldl fun _ _ ht => ht.pumpLink

theorem Tidy.sendLink (ht : Tidy s) {n vc : Nat} {p : Packet} : Tidy (s.sendLink n vc p) :=
  ht.setPort.pumpLink

theorem Tidy.oweCredits (ht : Tidy s) {n vc k : Nat} : Tidy (s.oweCredits n vc k) := ht.setPort

theorem Tidy.takeCredits (ht : Tidy s) {n vc k : Nat} : Tidy (s.takeCredits n vc k) :=
  .ite ht.setPort.pumpLink ht.setPort

theorem Tidy.returnCredits (ht : Tidy s) : Tidy s.returnCredits :=
  ht.foldl fun _ _ ht => (Tidy.ite ht ht.setPort).foldl fun _ _ ht => ht.update

theorem Tidy.admitFlits (ht : Tidy s) {p : Packet} : Tidy (s.admitFlits p).1 := by
  unfold State.admitFlits
  split
  · exact ht
  · exact ht.update

theorem Tidy.routePacket (ht : Tidy s) {p : Packet} : Tidy (s.routePacket p) := by
  unfold State.routePacket
  extract_lets e next win streams s1 s2 s3 s4
  have ht1 : Tidy s1 := ht.update
  have ht2 : Tidy s2 := ht1.foldl fun _ _ ht => ht.forwardTo
  have ht3 : Tidy s3 := ht2.foldl fun _ _ ht => ht.deliverTo
  have ht4 : Tidy s4 := ht3.foldl fun _ _ ht => ht.deliverTo
  exact .ite ht.badRoute (Tidy.ite ht.badRoute (Tidy.ite ht4.sendLink ht4))

theorem Tidy.enterWing (ht : Tidy s) {p : Packet} {port : Nat} : Tidy (s.enterWing p port) := by
  unfold State.enterWing
  split
  · exact ht.retry
  · exact .ite ht.retry ht.update.oweCredits.sendPacket

theorem Tidy.execRouterForward (ht : Tidy s) {id : Nat} : TidyNext (execRouterForward id s) := by
  unfold Machine.execRouterForward
  split
  · exact .next ht
  · split
    · exact .next ht.enterWing
    · split
      · exact .next ht
      · split
        · exact .next ht.update
        · split
          · exact .next ht.update
          · exact .next ht.retry
          · extract_lets e held out
            split
            · exact .next ht.retry
            · split
              next heq =>
              have ht1 := congrArg Prod.fst heq ▸ ht.admitFlits
              exact .ite (.next ht1.routePacket) (.next ht1.update.retry)

theorem Tidy.sendAck (ht : Tidy s) {p : Packet} : Tidy (s.sendAck p) := by
  unfold State.sendAck
  split
  · exact ht.later
  · exact ht.update
  · exact ht

theorem Tidy.setHallWord (ht : Tidy s) {hk n i : Nat} {v : Word64} :
    Tidy (s.setHallWord hk n i v) :=
  ht.setHallCfg

theorem Tidy.commitWindow (ht : Tidy s) {p : Packet} {c w : Nat} : Tidy (s.commitWindow p c w) :=
  ht.storeMarked.setWin

theorem Tidy.commitSink (ht : Tidy s) {p : Packet} {n : Nat} : Tidy (s.commitSink p n) :=
  ht.storeMarked.setHallWord

theorem Tidy.commitRank (ht : Tidy s) {p : Packet} {d : Nat} : Tidy (s.commitRank p d) := ht.update

theorem Tidy.execTokenCommit (ht : Tidy s) {id : Nat} : TidyNext (execTokenCommit id s) := by
  unfold Machine.execTokenCommit
  split
  · exact .next ht
  · split
    · exact .next ht.update
    · split
      · exact .next ht.retry
      · extract_lets s1
        have ht1 : Tidy s1 := ht.update
        split
        · split
          · exact .next ht1.commitRank.sendAck.later
          · exact .next ht.badRoute
        · split
          · split
            · exact .next ht1.commitWindow.sendAck
            · exact .next ht.badRoute
          · split
            · exact .next ht1.commitSink.sendAck
            · exact .next ht.badRoute
          · exact .next ht1

theorem Tidy.execCreditArrival (ht : Tidy s) {id : Nat} : TidyNext (execCreditArrival id s) := by
  unfold Machine.execCreditArrival
  split
  · exact .next ht
  · split
    · exact .next ht.update
    · split
      · exact .next ht.retry
      · extract_lets s1
        have ht1 : Tidy s1 := ht.update
        split
        · split
          · exact .next ht1.setCred.setWin
          · exact .next ht.badRoute
        · split
          · exact .next ht1.setHallWord
          · exact .next ht.badRoute
        · exact .next ht1

theorem Tidy.execClosePacketArrival (ht : Tidy s) {id : Nat} :
    TidyNext (execClosePacketArrival id s) := by
  unfold Machine.execClosePacketArrival
  split
  · exact .next ht
  · split
    · exact .next ht.update
    · split
      · exact .next ht.retry
      · extract_lets s1
        have ht1 : Tidy s1 := ht.update
        split
        · split
          · exact .next ht1
          · exact .next ht.badRoute
        · split
          · exact .next ht1.setWin
          · exact .next ht.badRoute
        · exact .next ht1

theorem Tidy.execCommitAck (ht : Tidy s) {core ctx id : Nat} :
    TidyNext (execCommitAck core ctx id s) := by
  unfold Machine.execCommitAck
  extract_lets v
  split
  · exact .next ht
  · split <;> exact .next ht.update

theorem Tidy.sendCredit (ht : Tidy s) {w : Nat} {holders : List Nat} :
    Tidy (s.sendCredit w holders) :=
  ht.sendPacket

theorem Tidy.putToken (ht : Tidy s) {n lo : Nat} : Tidy (s.putToken n lo) :=
  ht.mergeOwn.sendPacket.addRange.later.update.setCur.setWin

/-! ### Scalar -/

theorem Tidy.scalarForm (ht : Tidy s) {q : Issue} {len lat : Nat} {d : XReg} {v : State → Word64}
    {po : State → Bool} : TidyNext (scalarForm q len lat d v po s) :=
  ht.issue (fun _ ht => ht.writeX)

theorem Tidy.regForm (ht : Tidy s) {q : Issue} {lat : Nat} {d a b : XReg}
    {f : Word64 → Word64 → Word64} : TidyNext (regForm q lat d a b f s) :=
  ht.scalarForm

theorem Tidy.immForm (ht : Tidy s) {q : Issue} {lat : Nat} {d a : XReg} {f : Word64 → Word64} :
    TidyNext (immForm q lat d a f s) :=
  ht.scalarForm

theorem Tidy.deferEntry (ht : Tidy s) {mem : Bool} : Tidy (s.deferEntry mem) := ht.pushEntry.newId

theorem Tidy.divForm (ht : Tidy s) {q : Issue} {signed : Bool} {f : Word64 → Word64 → Word64}
    {a b : XReg} : TidyNext (divForm q signed f a b s) :=
  ht.issue (fun _ ht => ht.deferEntry.at)

theorem Tidy.cmpForm (ht : Tidy s) {q : Issue} {c : Cond} {p : PReg} {a b : State → PVal} :
    TidyNext (cmpForm q c p a b s) :=
  ht.issue (fun _ ht => ht.writeP)

theorem Tidy.cmpiForm (ht : Tidy s) {q : Issue} {c : Cond} {p : PReg} {a : XReg} {i : BitVec 11} :
    TidyNext (cmpiForm q c p a i s) :=
  ht.cmpForm

theorem Tidy.predForm (ht : Tidy s) {q : Issue} {d : PReg} {v po : State → Bool} :
    TidyNext (predForm q d v po s) :=
  ht.issue (fun _ ht => ht.writeP)

theorem Tidy.branchForm (ht : Tidy s) {q : Issue} {sense : Bool} {p : PReg} {off : BitVec 17} :
    TidyNext (branchForm q sense p off s) :=
  ht.issue (fun _ ht => ht)

theorem Tidy.execDpop (ht : Tidy s) {q : Issue} {d : XReg} : TidyNext (execDpop q d s) := by
  unfold Machine.execDpop
  refine ht.issue fun s ht => ?_
  split
  · exact ht
  · exact ht.setCur.writeX

/-! ### Mem -/

theorem Tidy.startCopy (ht : Tidy s) {c : Copy} {write : Bool} : Tidy (s.startCopy c write) := by
  unfold State.startCopy
  extract_lets id c s1 _ s2 s3
  have ht1 : Tidy s1 := ht.newId
  have ht2 : Tidy s2 := by
    unfold s2
    split
    · exact ht1.setCur
    · exact ht1
  have ht3 : Tidy s3 := ht2.addRange
  exact ht3.update

theorem Tidy.endCopy (ht : Tidy s) {c : Copy} : Tidy (s.endCopy c) := ht.dropRanges.setCtx.update

theorem Tidy.moveBytes (ht : Tidy s) {c : Copy} {n : Nat} : Tidy (s.moveBytes c n) :=
  .ite ht.storeMarked ht.storeMarked.setFull

theorem Tidy.execTmovRetire (ht : Tidy s) {id : Nat} : TidyNext (execTmovRetire id s) := by
  unfold Machine.execTmovRetire
  split
  · exact .next ht
  · split
    · exact .next ht
    · split
      · exact .next ht.retry
      · extract_lets n s1 s2
        have ht1 : Tidy s1 := ht.moveBytes
        have ht2 : Tidy s2 := ht1.update
        split
        · exact .next ht2.endCopy
        · exact .next ht2.update.later

theorem Tidy.sendAccess (ht : Tidy s) {a : Access} {release : Option Scope} :
    Tidy (s.sendAccess a release) := by
  unfold State.sendAccess
  extract_lets id c x cov a s1 s2
  have ht1 : Tidy s1 := by
    unfold s1
    split
    · exact ht.mergeOwn
    · exact ht
  have ht2 : Tidy s2 := ht1.newId
  exact ht2.update.later

theorem Tidy.holdAcquire (ht : Tidy s) {acq : Bool} : Tidy (s.holdAcquire acq) := .ite ht.setCur ht

theorem Tidy.sendAtomic (ht : Tidy s) {o : Order} {sc : Scope} {kind : AccKind} {n : Nat}
    {addr a b : Word64} : Tidy (s.sendAtomic o sc kind n addr a b) :=
  ht.elasticEffect.pushEntry.holdAcquire.sendAccess

theorem Tidy.atomForm (ht : Tidy s) {q : Issue} {o : Order} {sc : Scope} {kind : AccKind}
    {a b : XReg} : TidyNext (atomForm q o sc kind a b s) :=
  ht.issue (fun _ ht => ht.sendAtomic)

theorem Tidy.atomIdentity (ht : Tidy s) {a : Access} : Tidy (s.atomIdentity a) := by
  unfold State.atomIdentity
  extract_lets me s1
  have ht1 : Tidy s1 := by
    unfold s1
    split
    · exact .ite ht ht.detEvent
    · exact ht
  exact ht1.update

theorem Tidy.performAccess (ht : Tidy s) {a : Access} : Tidy (s.performAccess a) := by
  unfold State.performAccess
  extract_lets old po s1
  have ht1 : Tidy s1 := ht.atomIdentity
  split
  · exact ht
  · exact ht.storeVal
  · exact ht.storeFull
  · exact ht.setEmpty
  · exact .ite ht1.storeVal ht1
  · exact ht.atomIdentity.storeVal
  · exact ht.atomIdentity.storeVal
  · exact ht.atomIdentity.storeVal
  · exact ht.atomIdentity.storeVal
  · exact ht.atomIdentity.storeVal
  · exact ht.atomIdentity.storeVal
  · exact ht.atomIdentity.storeVal
  · exact ht.atomIdentity.storeVal

theorem Tidy.execAccessReachesBank (ht : Tidy s) {id : Nat} :
    TidyNext (execAccessReachesBank id s) := by
  unfold Machine.execAccessReachesBank
  split
  · exact .next ht
  · split
    · exact .next ht
    · split
      · exact .next ht.retry
      · extract_lets old po s1 s2
        have ht1 : Tidy s1 := ht.performAccess
        have ht2 : Tidy s2 := ht1.update
        split
        · exact .next ht2.later
        · exact .next ht2

theorem Tidy.execLdf (ht : Tidy s) {q : Issue} {d a : XReg} {e : BitVec 8} :
    TidyNext (execLdf q d a e s) := by
  unfold Machine.execLdf
  extract_lets xa pc stub park
  refine ht.issueLanding (fun s ht => ?_) (fun s ht => ?_)
  · extract_lets key _ s1
    have ht1 : Tidy s1 := .ite ht.countIssue ht.setCur
    exact .ite ht1 ht1.writeX
  · exact .ite ht.setCur.parkAt ht

/-! ### Queues -/

theorem Tidy.execQclaim (ht : Tidy s) {q : Issue} {n : BitVec 5} : TidyNext (execQclaim q n s) := by
  unfold Machine.execQclaim
  extract_lets hk z
  refine ht.issue fun s ht => ?_
  split
  · exact ht
  · exact ht.setCur.startCopy.later

theorem Tidy.startPut (ht : Tidy s) {z lo home : Nat} : Tidy (s.startPut z lo home) := by
  unfold State.startPut
  extract_lets c x hk size f id sc key cp s1 s2 _ s3 _ s4
  have ht1 : Tidy s1 := ht.mergeOwn.newId
  have ht2 : Tidy s2 := ht1.update
  have ht3 : Tidy s3 := ht2.setCur
  have ht4 : Tidy s4 := Tidy.ite ht3 ht3.setCurK
  exact ht4.addRange.later.later

theorem Tidy.execQput (ht : Tidy s) {q : Issue} {n : BitVec 5} {b : XReg} :
    TidyNext (execQput q n b s) := by
  unfold Machine.execQput
  extract_lets hk z a size
  refine ht.issue fun s ht => ?_
  split
  · exact ht
  · exact ht.startPut

theorem Tidy.retireIndex (ht : Tidy s) {h q home slots f : Nat} :
    Tidy (s.retireIndex h q home slots f) :=
  .ite ht.setSlot ht.setSlot.setWord.later

theorem Tidy.commitSlot (ht : Tidy s) {home slots size f : Nat} {pne : Bool} {data : List Byte}
    {po : List Nat} : Tidy (s.commitSlot home slots size f pne data po) := by
  unfold State.commitSlot
  extract_lets key s1
  have ht1 : Tidy s1 := ht.storeMarked.setFull.setSlot
  exact .ite ht1.setWord ht1

theorem Tidy.execQueueSlotCommit (ht : Tidy s) {id : Nat} :
    TidyNext (execQueueSlotCommit id s) := by
  unfold Machine.execQueueSlotCommit
  split
  · exact .next ht
  · split
    · exact .next ht
    · extract_lets hk pne
      split
      · exact .next ht.update
      · split
        · exact .next ht.retry
        · exact .next ht.commitSlot.update.later.later

theorem Tidy.execClaimCopyRetire (ht : Tidy s) {id : Nat} :
    TidyNext (execClaimCopyRetire id s) := by
  unfold Machine.execClaimCopyRetire
  split
  · exact .next ht
  · split
    · exact .next ht
    · split
      · exact .next ht.retry
      · extract_lets hk s1 s2
        have ht1 : Tidy s1 := ht.storeMarked
        have ht2 : Tidy s2 := ht1.endCopy
        split
        · exact .next ht2
        · exact .next ht2.retireIndex

theorem Tidy.creditLoad (ht : Tidy s) {h q : Nat} {freed : Word32} :
    Tidy (s.creditLoad h q freed) := by
  unfold State.creditLoad
  refine ht.foldl fun s _ ht => ?_
  split
  · split
    · split
      · exact ht.setWord
      · exact ht
    · exact ht
  · exact ht.setCore

theorem Tidy.execQueueCredit (ht : Tidy s) {load queue : Nat} {freed : Word32} :
    TidyNext (execQueueCredit load queue freed s) := by
  unfold Machine.execQueueCredit
  extract_lets s1
  have ht1 : Tidy s1 := ht.creditLoad
  split
  · exact .next ht1.creditLoad
  · exact .next ht1

theorem Tidy.closeQueue (ht : Tidy s) {home final : Nat} : Tidy (s.closeQueue home final) :=
  ht.setWord

theorem Tidy.execQueueClose (ht : Tidy s) {load queue : Nat} {final : Word32} :
    TidyNext (execQueueClose load queue final s) := by
  unfold Machine.execQueueClose
  split
  · exact .next ht
  · exact .next ht.closeQueue.later.later

theorem Tidy.retireCandidate (ht : Tidy s) {c a : Nat} : Tidy (s.retireCandidate c a) :=
  ht.setActorWord.foldl fun _ _ ht => ht.setCfg

theorem Tidy.clearStageEntry (ht : Tidy s) {h q : Nat} : Tidy (s.clearStageEntry h q) :=
  ht.foldl fun _ _ ht => ht.foldl fun _ _ ht => Tidy.ite ht.setSysCfg ht

theorem Tidy.retireStage (ht : Tidy s) {h q : Nat} : Tidy (s.retireStage h q) := by
  unfold State.retireStage
  extract_lets now s1
  have ht1 : Tidy s1 := ht.foldl fun _ _ ht => ht.retireCandidate
  exact .ite ht1.clearStageEntry ht1

theorem Tidy.execStageRetire (ht : Tidy s) : TidyNext (execStageRetire s) := by
  unfold Machine.execStageRetire
  split
  · exact .next ht
  · extract_lets s1 s2
    have ht1 : Tidy s1 := ht.foldl fun _ _ ht => ht.retireStage
    have ht2 : Tidy s2 := ht1.later.later
    exact .next (Tidy.ite ht2 ht2.retry)

theorem Tidy.execOutputQueueClose (ht : Tidy s) : TidyNext (execOutputQueueClose s) := by
  unfold Machine.execOutputQueueClose
  extract_lets all
  clear_value all
  split
  · exact .next ht
  · split
    · exact .next ht
    · exact .next ht.closeQueue.later.later

/-! ### Translate -/

theorem Tidy.fillTlb (ht : Tidy s) {port asn va base : Nat} {large rd wr : Bool} :
    Tidy (s.fillTlb port asn va base large rd wr) :=
  .ite ht.update ht.update

/-! ### Streams -/

theorem Tidy.streamFault (ht : Tidy s) {hk n h token code : Nat} {detail : Word64} :
    Tidy (s.streamFault hk n h token code detail) :=
  ht.faultOutside

theorem Tidy.raceEvents (ht : Tidy s) {h hk n : Nat} : Tidy (s.raceEvents h hk n) := by
  unfold State.raceEvents
  split
  · exact (ht.foldl fun _ _ ht => ht.detEvent).update
  · exact ht

theorem Tidy.movePiece (ht : Tidy s) {pa ring len : Nat} {sink : Bool} :
    Tidy (s.movePiece pa ring len sink) :=
  .ite ht.storeMarked ht.storeMarked

theorem Tidy.movePieces (ht : Tidy s) {hk n : Nat} {sink : Bool} {va ring : Nat} {given : Option
    (Nat × Nat)}
    {l : List (Nat × Nat)} : Tidy (State.movePieces hk n sink va ring given l s).1 := by
  induction l generalizing s with
  | nil => exact ht
  | cons e l ih =>
    unfold State.movePieces
    extract_lets a x
    clear_value x
    split
    · exact ht
    · exact ht
    · split
      · exact ht
      · exact ih ht.movePiece.setStream

theorem Tidy.finishStream (ht : Tidy s) {h hk n : Nat} : Tidy (s.finishStream h hk n) := by
  unfold State.finishStream
  extract_lets _ s1 s2
  have ht1 : Tidy s1 := ht.setStream
  have ht2 : Tidy s2 := ht1.later
  split
  · split
    · exact ht2.later
    · exact ht2
  · exact ht2

theorem Tidy.releaseBar (ht : Tidy s) {h n : Nat} : Tidy (s.releaseBar h n) :=
  ht.foldl fun _ _ ht => Tidy.ite ht.setStream ht

theorem Tidy.sinkCredit (ht : Tidy s) {h hk n : Nat} : Tidy (s.sinkCredit h hk n) := ht.sendPacket

theorem Tidy.settleStream (ht : Tidy s) {h hk n : Nat} : Tidy (s.settleStream h hk n) :=
  .ite (Tidy.ite ht.setStream.later ht) (Tidy.ite ht.finishStream ht)

theorem Tidy.tokenPerformed (ht : Tidy s) {h hk n : Nat} : Tidy (s.tokenPerformed h hk n) := by
  unfold State.tokenPerformed
  extract_lets s1 s2 t s3 s4
  have ht1 : Tidy s1 := ht.update
  have ht2 : Tidy s2 := ht1.releaseBar
  have ht3 : Tidy s3 := ht2.setStream
  have ht4 : Tidy s4 := by
    unfold s4
    split
    · split
      · exact ht3.retireIndex
      · exact ht3
    · exact ht3.setHallWord.sinkCredit
  exact .ite ht4.progress.settleStream ht2.setStream.settleStream

theorem Tidy.tokenFails (ht : Tidy s) {h hk n code : Nat} {detail : Word64} :
    Tidy (s.tokenFails h hk n code detail) :=
  ht.update.setStream.streamFault

theorem Tidy.cutAccess (ht : Tidy s) {hk n : Nat} : Tidy (s.cutAccess hk n) := ht.update.setStream

theorem Tidy.putWithheld (ht : Tidy s) {w : Withheld} : Tidy (s.putWithheld w) := ht.update

theorem Tidy.joinWalk (ht : Tidy s) {id : Nat} : Tidy (s.joinWalk id) := by
  unfold State.joinWalk
  split
  · exact ht
  · extract_lets port k s1
    have ht1 : Tidy s1 := ht.newId
    split
    · exact ht.putWithheld
    · split
      · exact ht.putWithheld
      · exact ht1.update.putWithheld.later

theorem Tidy.startWalk (ht : Tidy s) {h hk n asn va : Nat} : Tidy (s.startWalk h hk n asn va) :=
  ht.newId.putWithheld.joinWalk

theorem Tidy.performToken (ht : Tidy s) {h hk n : Nat} {given : Option (Nat × Nat)} :
    Tidy (s.performToken h hk n given) := by
  unfold State.performToken
  extract_lets s1 t sink size va place
  have ht1 : Tidy s1 := ht.raceEvents
  have ht2 := ht1.movePieces (hk := hk) (n := n) (sink := sink) (va := va) (ring := place)
    (given := given) (l := (piecesOf va size).drop t.line)
  split
  · exact ht1.tokenFails
  · split
    · split
      · exact ht1.tokenFails
      · exact .ite ht1.retry (Tidy.ite ht1.storeMarked.setFull ht1.storeMarked).tokenPerformed.later
    · split
      · exact ht1
      · split <;> rename_i heq <;> rw [heq] at ht2
        · exact ht2.tokenPerformed.later
        · exact ht2.startWalk
        · exact .ite ht2.cutAccess ht2.setStream.at
        · exact ht2.tokenFails

theorem Tidy.beginToken (ht : Tidy s) {h hk n : Nat} : Tidy (s.beginToken h hk n) := by
  unfold State.beginToken
  extract_lets t ordered s1 a s2 s3
  have ht1 : Tidy s1 := ht.setStream
  have ht2 : Tidy s2 := ht1.update.raceEvents
  have ht3 : Tidy s3 := by
    unfold s3
    split
    · split
      · exact ht2.setSlot.setWord
      · exact ht2
    · exact ht2
  exact ht3.later

theorem Tidy.sendToken (ht : Tidy s) {h hk n : Nat} : Tidy (s.sendToken h hk n) := by
  unfold State.sendToken
  extract_lets t size ring data po s1 seq s2 s3
  have ht1 : Tidy s1 := ht.setStream
  have ht2 : Tidy s2 := ht1.sendPacket
  have ht3 : Tidy s3 := by
    unfold s3
    split
    · split
      · exact ht1.commitSlot
      · exact ht1
    · exact ht2.setHallWord
  exact ht3.progress.settleStream

theorem Tidy.sinkClosedFault (ht : Tidy s) {h hk n : Nat} : Tidy (s.sinkClosedFault h hk n) := by
  unfold State.sinkClosedFault
  extract_lets q
  split
  · exact ht.faultOutside
  · exact ht

theorem Tidy.homeAstrayFault (ht : Tidy s) {h hk n : Nat} : Tidy (s.homeAstrayFault h hk n) :=
  ht.streamFault

theorem Tidy.execStreamToken (ht : Tidy s) {hall stream : Nat} :
    TidyNext (execStreamToken hall stream s) := by
  unfold Machine.execStreamToken
  split
  · exact .next ht
  · extract_lets t live
    split
    · exact .next ht
    · split
      · split
        · exact .next ht
        · exact .next ht.performToken
      · split
        · exact .next ht.settleStream
        · split
          · exact .next ht.sendToken.later
          · split
            · exact .next ht.sinkClosedFault
            · split
              · exact .next ht.homeAstrayFault
              · split
                · exact .next ht.beginToken
                · exact .next ht.retry

theorem Tidy.execOrderedAccessPerform (ht : Tidy s) {hall stream : Nat} :
    TidyNext (execOrderedAccessPerform hall stream s) := by
  unfold Machine.execOrderedAccessPerform
  split
  · exact .next ht
  · extract_lets t live
    split
    · exact .next ht
    · split
      · exact .next ht.retry
      · exact .next ht.performToken

theorem Tidy.resumeToken (ht : Tidy s) {h hk n : Nat} : Tidy (s.resumeToken h hk n) := ht.later

theorem Tidy.walkFailed (ht : Tidy s) {w : Withheld} {cause : Nat} : Tidy (s.walkFailed w cause) :=
  .ite ht.putWithheld.setStream.at ht.putWithheld.setStream.at.at

theorem Tidy.walkPoisoned (ht : Tidy s) {w : Withheld} : Tidy (s.walkPoisoned w) :=
  ht.update.tokenFails

theorem Tidy.walkServes (ht : Tidy s) {w : Withheld} {pa : Nat} : Tidy (s.walkServes w pa) := by
  unfold State.walkServes
  split
  · exact .ite ht.update.setStream.retry ht.update.setStream.performToken
  · exact ht.putWithheld

theorem Tidy.walkAnswers (ht : Tidy s) {f : Walk} {e : Nat × Withheld} :
    Tidy (State.walkAnswers f s e) := by
  unfold State.walkAnswers
  extract_lets _ w
  split
  · exact .ite ht.walkServes ht.putWithheld.joinWalk
  · exact ht.walkFailed
  · exact ht.walkPoisoned

theorem Tidy.wakeMisses (ht : Tidy s) {port : Nat} : Tidy (s.wakeMisses port) :=
  ht.foldl fun _ _ ht => ht.joinWalk

theorem Tidy.endWalk (ht : Tidy s) {id : Nat} {t : WalkToken} {f : Walk} :
    Tidy (s.endWalk id t f) := by
  unfold State.endWalk
  extract_lets mine s1 s2
  have ht1 : Tidy s1 := ht.update
  have ht2 : Tidy s2 := by
    unfold s2
    split
    · exact ht1.fillTlb
    · exact ht1
  exact (ht2.foldl fun _ _ ht => ht.walkAnswers).wakeMisses

theorem Tidy.execWalkResult (ht : Tidy s) {id : Nat} : TidyNext (execWalkResult id s) := by
  unfold Machine.execWalkResult
  split
  · exact .next ht
  · split
    · exact .next ht.endWalk
    · exact .next ht.update.later

theorem Tidy.execRewalk (ht : Tidy s) {id : Nat} : TidyNext (execRewalk id s) := by
  unfold Machine.execRewalk
  split
  · exact .next ht
  · split
    · exact .next ht.joinWalk
    · exact .next ht

theorem Tidy.kickStream (ht : Tidy s) {hk n : Nat} : Tidy (s.kickStream hk n) := .ite ht ht.later

theorem Tidy.startStream (ht : Tidy s) {hk n : Nat} : Tidy (s.startStream hk n) :=
  .ite ht.setStream.kickStream ht

theorem Tidy.execSstart (ht : Tidy s) {q : Issue} {n : BitVec 5} : TidyNext (execSstart q n s) := by
  unfold Machine.execSstart
  refine ht.issue fun s ht => ?_
  split
  · exact ht.elasticEffect.startStream
  · exact ht

theorem Tidy.stopStream (ht : Tidy s) {hk n : Nat} : Tidy (s.stopStream hk n) :=
  .ite ht (Tidy.ite ht.setStream.kickStream ht.setStream.later)

theorem Tidy.execSstop (ht : Tidy s) {q : Issue} {n : BitVec 5} : TidyNext (execSstop q n s) := by
  unfold Machine.execSstop
  refine ht.issue fun s ht => ?_
  split
  · exact ht.elasticEffect.stopStream
  · exact ht

theorem Tidy.barStreams (ht : Tidy s) {named : List Nat} : Tidy (s.barStreams named) := by
  unfold State.barStreams
  extract_lets under
  refine ht.foldl fun s _ ht => ?_
  split
  · exact .ite ht ht.setStream
  · exact ht

/-! ### System -/

theorem Tidy.cfgStore (ht : Tidy s) {unit space off : Nat} {v : Word64} :
    Tidy (s.cfgStore unit space off v) :=
  .ite ht.storeVal ht.setCfg

theorem Tidy.startInvalidation (ht : Tidy s) {wing : Nat} {v : Word64} :
    Tidy (s.startInvalidation wing v) :=
  .ite ht.update.later ht.update

theorem Tidy.limitChanged (ht : Tidy s) {wing : Nat} : Tidy (s.limitChanged wing) :=
  ht.foldl fun _ _ ht => ht.at

theorem Tidy.systemWordWritten (ht : Tidy s) {wing off : Nat} {v : Word64} :
    Tidy (s.systemWordWritten wing off v) := by
  unfold State.systemWordWritten
  split
  · exact ht.limitChanged
  · split
    · exact ht.startInvalidation
    · exact .ite (Tidy.ite ht.at ht) (Tidy.ite ht.update.later ht)

theorem Tidy.setIdentity (ht : Tidy s) {hk : Nat} {own : Bool} {load st lseq : Nat} :
    Tidy (s.setIdentity hk own load st lseq) :=
  .ite ht ht.setHallCfg

theorem Tidy.setHallState (ht : Tidy s) {hk st : Nat} : Tidy (s.setHallState hk st) :=
  .ite ht ht.setHallCfg

theorem Tidy.setLoadHalls (ht : Tidy s) {h st : Nat} : Tidy (s.setLoadHalls h st) :=
  ht.foldl fun _ _ ht => ht.setHallState

theorem Tidy.startResult (ht : Tidy s) {group : Nat} {i : Instr} {a area : Word64} {len : Nat}
    {block : List Byte} {po : Bool} : Tidy (s.startResult group i a area len block po) :=
  ht.newId.addRange.setCur.update

theorem Tidy.sendResult (ht : Tidy s) {group : Nat} {i : Instr} {a area v : Word64} {po : Bool} :
    Tidy (s.sendResult group i a area v po) :=
  ht.startResult.later

theorem Tidy.resultForm (ht : Tidy s) {q : Issue} {i : Instr} {group : Nat} {a b : XReg}
    {checks : State → List (Bool × FaultInfo)} {f : State → State × Word64 × Bool}
    (hf : ∀ s, Tidy s → Tidy (f s).1) : TidyNext (resultForm q i group a b checks f s) :=
  ht.issue fun s ht => (hf s ht).sendResult

theorem Tidy.writeConfig (ht : Tidy s) {unit space off : Nat} {a v : Word64} :
    Tidy (s.writeConfig unit space off a v) := by
  unfold State.writeConfig
  extract_lets usable s1 back w t _ s2 hk _ s3
  have ht1 : Tidy s1 := Tidy.ite ht.cfgStore ht
  have ht2 : Tidy s2 := ht1.setCur
  have ht3 : Tidy s3 := Tidy.ite ht2 ht2.setCore
  exact .ite (Tidy.ite ht2.systemWordWritten ht2) ht3.setHallState

theorem Tidy.execCfgw (ht : Tidy s) {q : Issue} {a b : XReg} : TidyNext (execCfgw q a b s) := by
  unfold Machine.execCfgw
  extract_lets xa bad t
  exact ht.issue (fun _ ht => Tidy.ite ht.cfgStore.systemWordWritten ht.writeConfig)

theorem Tidy.writeRoute (ht : Tidy s) {hk rc : Nat} {v : Word64} : Tidy (s.writeRoute hk rc v) :=
  ht.setCur.update

theorem Tidy.execCfgr (ht : Tidy s) {q : Issue} {a b : XReg} : TidyNext (execCfgr q a b s) := by
  unfold Machine.execCfgr
  refine ht.resultForm fun s ht => ?_
  split <;> exact ht

theorem Tidy.commitWindowCounts (ht : Tidy s) {c w t : Nat} :
    Tidy (s.commitWindowCounts c w t) := by
  unfold State.commitWindowCounts
  extract_lets s1
  have ht1 : Tidy s1 := ht.setWin
  exact .ite ht1.setWin (Tidy.ite ht1.setWin.setWin.setWin ht1)

theorem Tidy.clearActor (ht : Tidy s) {c a : Nat} : Tidy (s.clearActor c a) :=
  ht.setActorWord.setActorWord.setActorWord.setActorWord

theorem Tidy.armCore (ht : Tidy s) {h c : Nat} : Tidy (s.armCore h c) :=
  ((ht.foldl fun _ _ ht => ht.clearActor).setCore).update

theorem Tidy.clearLines (ht : Tidy s) {key n : Nat} : Tidy (s.clearLines key n) := ht.update

theorem Tidy.emptyHall (ht : Tidy s) {hk : Nat} : Tidy (s.emptyHall hk) := ht.update

theorem Tidy.clearQueue (ht : Tidy s) {home slots : Nat} : Tidy (s.clearQueue home slots) :=
  ht.store.store

theorem Tidy.resetStream (ht : Tidy s) {h hk n : Nat} : Tidy (s.resetStream h hk n) :=
  .ite ht.setHallWord.setStream.startStream ht.setHallWord.setStream

theorem Tidy.countReplicas (ht : Tidy s) {h : Nat} : Tidy (s.countReplicas h) :=
  ht.foldl fun _ _ ht => ht.foldl fun _ _ ht => Tidy.ite ht.setSysCfg ht

theorem Tidy.armLoad (ht : Tidy s) {h : Nat} : Tidy (s.armLoad h) := by
  unfold State.armLoad
  extract_lets l s1 s2 s3 s4 s5 s6 s7
  have ht1 : Tidy s1 := ht.foldl fun _ _ ht => ht.foldl fun _ _ ht => ht.commitWindowCounts
  have ht2 : Tidy s2 := ht1.foldl fun _ _ ht => ht.armCore
  have ht3 : Tidy s3 := ht2.foldl fun _ _ ht => ht.emptyHall
  have ht4 : Tidy s4 := by
    unfold s4
    refine ht3.foldl fun s _ ht => ?_
    split
    · exact ht.clearQueue
    · exact ht
  have ht5 : Tidy s5 := ht4.update
  have ht6 : Tidy s6 := ht5.endEpoch
  have ht7 : Tidy s7 := ht6.foldl fun _ _ ht => ht.resetStream
  exact ht7.countReplicas.setLoadHalls

theorem Tidy.commitLoad (ht : Tidy s) {h : Nat} {l : Load} : Tidy (s.commitLoad h l) := by
  unfold State.commitLoad
  extract_lets s1 s2 s3
  have ht1 : Tidy s1 := ht.setLoad
  have ht2 : Tidy s2 := ht1.foldl fun _ _ ht => ht.setIdentity.clearLines
  have ht3 : Tidy s3 := ht2.foldl fun _ _ ht => ht.clearLines.setCore
  exact ht3.armLoad

theorem Tidy.handleForm (ht : Tidy s) {q : Issue} {i : Instr} {group : Nat} {a b : XReg}
    {mask : Nat}
    {f : Nat → Word64 → State → State × Word64} (hf : ∀ h xa s, Tidy s → Tidy (f h xa s).1) :
    TidyNext (handleForm q i group a b mask f s) :=
  ht.issue fun s ht => (hf _ _ s ht).sendResult

theorem Tidy.doCommit (ht : Tidy s) {h : Nat} {debug : Bool} : Tidy (s.doCommit h debug).1 := by
  unfold State.doCommit
  extract_lets st
  split
  · split
    · exact ht.setCur.commitLoad
    · exact ht
  · exact ht

theorem Tidy.unwrite (ht : Tidy s) {a : Nat} : Tidy (s.unwrite a) := by
  unfold State.unwrite
  extract_lets unit space off
  split
  · exact ht
  · split
    · exact ht.storeVal.setEmpty
    · exact tidy_mk.2 ⟨ht.memWf, mapSorted_del _ ht.cfgSorted⟩

theorem Tidy.unconfigure (ht : Tidy s) {unit : Nat} : Tidy (s.unconfigure unit) := by
  unfold State.unconfigure
  extract_lets s1 s2
  have ht1 : Tidy s1 := ht.setCore
  have ht2 : Tidy s2 := .ite ht (tidy_mk.2 ⟨memWf_delRange ht1.memWf _ _, ht1.cfgSorted⟩)
  exact ht2.setHallState

theorem Tidy.rollback (ht : Tidy s) {t : Txn} : Tidy (s.rollback t) := by
  unfold State.rollback
  extract_lets s1 s2
  have ht1 : Tidy s1 := ht.foldl fun _ _ ht => ht.unwrite
  have ht2 : Tidy s2 := ht1.foldl fun _ _ ht => ht.unconfigure
  exact ht2.update

theorem Tidy.execCfgabort (ht : Tidy s) {q : Issue} {b : XReg} : TidyNext (execCfgabort q b s) := by
  unfold Machine.execCfgabort
  refine ht.resultForm fun s ht => ?_
  split
  · exact ht
  · exact ht.setCur.rollback

theorem Tidy.execDmap (ht : Tidy s) {q : Issue} {a b : XReg} : TidyNext (execDmap q a b s) := by
  unfold Machine.execDmap
  refine ht.resultForm fun s ht => ?_
  split <;> exact ht

/-! ### Vector -/

theorem Tidy.laneForm (ht : Tidy s) {q : Issue} {lat : Nat} {w : State → List (Nat × PVal)} :
    TidyNext (laneForm q lat w s) :=
  ht.issue (fun _ ht => ht.writeRegs)

theorem Tidy.typedForm (ht : Tidy s) {q : Issue} {t : VType} {d a b : VReg} {k : KReg}
    {f : Nat → Nat → Nat} : TidyNext (typedForm q t d a b k f s) :=
  ht.laneForm

theorem Tidy.unaryForm (ht : Tidy s) {q : Issue} {lat : Nat} {t : VType} {d a : VReg} {k : KReg}
    {f : Nat → Nat} : TidyNext (unaryForm q lat t d a k f s) :=
  ht.laneForm

theorem Tidy.fusedForm (ht : Tidy s) {q : Issue} {t : VType} {d a b : VReg} {k : KReg}
    {f : Fmt → Nat → Nat → Nat → Nat} : TidyNext (fusedForm q t d a b k f s) :=
  ht.laneForm

theorem Tidy.reduceForm (ht : Tidy s) {q : Issue} {t : VType} {d a : VReg} {k : KReg} {ident : Nat}
    {op : Nat → Nat → Nat} : TidyNext (reduceForm q t d a k ident op s) :=
  ht.laneForm

theorem Tidy.rawForm (ht : Tidy s) {q : Issue} {d a b : VReg} {k : KReg}
    {f : Word64 → Word64 → Word64} : TidyNext (rawForm q d a b k f s) :=
  ht.laneForm

theorem Tidy.maskForm (ht : Tidy s) {q : Issue} {d : KReg} {f : State → Word64} {po : State → Bool}
    : TidyNext (maskForm q d f po s) :=
  ht.laneForm

theorem Tidy.vloadForm (ht : Tidy s) {q : Issue} {lat : Nat} {d : VReg} {k : KReg}
    {addr : Nat → Word64} {po : Nat → List (Bool × FaultInfo)} :
    TidyNext (vloadForm q lat d k addr po s) :=
  ht.issue (fun _ ht => ht.writeRegs)

theorem Tidy.storeLanes (ht : Tidy s) {ws : List (Nat × PVal)} : Tidy (s.storeLanes ws) :=
  (ht.foldl fun _ _ ht => ht.store).update

theorem Tidy.vstoreForm (ht : Tidy s) {q : Issue} {d : VReg} {k : KReg} {addr : Nat → Word64}
    {po : Nat → List (Bool × FaultInfo)} : TidyNext (vstoreForm q d k addr po s) :=
  ht.issue (fun _ ht => ht.storeLanes)

theorem Tidy.sampleEvents (ht : Tidy s) {empty : Bool} {nanx base : Nat} :
    Tidy (s.sampleEvents empty nanx base) := by
  unfold State.sampleEvents
  extract_lets t ev s1 s2
  have ht1 : Tidy s1 := by
    unfold s1
    split
    · unfold ev
      split
      · exact ht.detEvent
      · exact ht
    · exact ht
  have ht2 : Tidy s2 := by
    unfold s2
    split
    · unfold ev
      split
      · exact ht1.detEvent
      · exact ht1
    · exact ht1
  exact .ite ht2.trapRecord ht2

theorem Tidy.sampleForm (ht : Tidy s) {q : Issue} {greedy : Bool} {d a : VReg} {b : SReg} {k : KReg}
    {p : PReg} : TidyNext (sampleForm q greedy d a b k p s) :=
  ht.issue (fun _ ht => ht.sampleEvents.writeRegs)

/-! ### Matrix -/

theorem Tidy.enqueue (ht : Tidy s) {c : MCmd} {mac : Bool} {stream drain : Nat}
    {ranges : List MRange} {write : Bool} : Tidy (s.enqueue c mac stream drain ranges write) :=
  ((((ht.newId.foldl fun _ _ ht => ht.addRange).setCurK).at).at).at

theorem Tidy.macForm (ht : Tidy s) {q : Issue} {i : Instr} {f : MFmt} {a b : XReg} {kc : BitVec 6} :
    TidyNext (macForm q i f a b kc s) :=
  ht.issue (fun _ ht => ht.enqueue)

theorem Tidy.runMatrix (ht : Tidy s) {core : Nat} {c : MCmd} : Tidy (s.runMatrix core c) := by
  unfold State.runMatrix
  extract_lets k mac
  split
  · exact ht.setCore
  · exact ht.setCore
  · exact ht.setCore
  · exact ht.setCore
  · exact ht.setCore
  · exact ht.setCore.foldl fun _ _ ht => ht.storeMarked
  · exact ht

theorem Tidy.smearCommand (ht : Tidy s) {core : Nat} {c : MCmd} :
    Tidy (State.smearCommand core s c) := by
  unfold State.smearCommand
  extract_lets s1 bank
  have ht1 : Tidy s1 := ht.runMatrix
  split
  · exact ht
  · split
    · exact ht.update
    · exact ht.update
    · exact ht.update
    · exact tidy_mk.2 ⟨memWf_mixWords ht.memWf _ _ _, ht1.cfgSorted⟩
    · exact ht

theorem Tidy.execMatrixCommandRetire (ht : Tidy s) {core : Nat} :
    TidyNext (execMatrixCommandRetire core s) := by
  unfold Machine.execMatrixCommandRetire
  extract_lets k
  split
  · exact .next ht
  · split
    · exact .next ht
    · exact .next ht.runMatrix.setCore

/-! ### Grammar -/

theorem Tidy.setSession (ht : Tidy s) {wing n : Nat} {t : Session} : Tidy (s.setSession wing n t) :=
  ht.update

theorem Tidy.writeMask (ht : Tidy s) {xb : Word64} {m : Option Nat} : Tidy (s.writeMask xb m) := by
  unfold State.writeMask
  split
  · exact ht
  · split
    · exact ht.storeMarked.setFull
    · exact ht.storeMarked.setFull.update

theorem Tidy.grammarRace (ht : Tidy s) {wing n c x : Nat} : Tidy (s.grammarRace wing n c x) :=
  .ite ht (Tidy.ite ht.setSession.detEvent ht.setSession)

theorem Tidy.engineFault (ht : Tidy s) {wing h addr : Nat} : Tidy (s.engineFault wing h addr) :=
  ht.faultOutside

theorem Tidy.sendMask (ht : Tidy s) {wing : Nat} {c : GramCmd} {m : Option Nat} :
    Tidy (s.sendMask wing c m) :=
  .ite ht.engineFault ht.writeMask

theorem Tidy.performCommand (ht : Tidy s) {c : GramCmd} : Tidy (s.performCommand c) := by
  unfold State.performCommand
  extract_lets wing n t foreign slot r r r st
  split
  · exact ht.within
  · split
    · exact .ite ht.sendMask ht
    · split
      · exact .ite ht.engineFault ht.setSession
      · split
        · exact ht.setSession.grammarRace
        · exact .ite ht.setSession.sendMask ht.setSession.grammarRace

theorem Tidy.execGrammarCommandPerform (ht : Tidy s) {id : Nat} :
    TidyNext (execGrammarCommandPerform id s) := by
  unfold Machine.execGrammarCommandPerform
  split
  · exact .next ht
  · split
    · exact .next ht.retry
    · exact .next ht.performCommand.update

theorem Tidy.sendCommand (ht : Tidy s) {fn : Nat} {xa xb : Word64} :
    Tidy (s.sendCommand fn xa xb) :=
  ht.newId.update.later

theorem Tidy.commandForm (ht : Tidy s) {q : Issue} {fn : Nat} {a b : XReg} :
    TidyNext (commandForm q fn a b s) :=
  ht.issue (fun _ ht => ht.elasticEffect.sendCommand)

theorem Tidy.closeSessions (ht : Tidy s) {h : Nat} : Tidy (s.closeSessions h) := ht.update

/-! ### Image -/

theorem memWf_moveCells {m : List Host.Cell} (h : memWf m = true) {src dst : Nat}
    {cells : List Host.Cell} :
    memWf (moveCells src dst cells m) = true :=
  memWf_foldl (fun _ _ h => memWf_setByte h _ _) _ h

theorem Tidy.copyBytes (ht : Tidy s) {src dst len room : Nat} :
    Tidy (s.copyBytes src dst len room) :=
  tidy_mk.2 ⟨memWf_moveCells (memWf_delRange ht.memWf _ _), ht.cfgSorted⟩

theorem Tidy.stage (ht : Tidy s) {launch pa len : Nat} : Tidy (s.stage launch pa len) :=
  ht.copyBytes

theorem Tidy.stageInGallery (ht : Tidy s) {launch wing len : Nat} :
    Tidy (s.stageInGallery launch wing len) :=
  ht.copyBytes.setFull

theorem Tidy.unstage (ht : Tidy s) {launch : Nat} : Tidy (s.unstage launch) :=
  tidy_mk.2 ⟨memWf_delRange ht.memWf _ _, ht.cfgSorted⟩

theorem Tidy.writeTile (ht : Tidy s) {img : Nat} {l : ImgLoad} {site : Site} {t : Nat} :
    Tidy (s.writeTile img l site t).1 := by
  unfold State.writeTile
  extract_lets h p put rs hk rs'
  suffices hr : ∀ a : State × Nat, Tidy a.1 → Tidy (rs'.foldl put a).1 from hr (s, 0) ht
  induction rs' with
  | nil => exact fun _ ha => ha
  | cons r rs' ih =>
    intro a ha
    refine ih _ ?_
    show Tidy (put a r).1
    unfold put
    split
    · exact ha.cfgStore
    · exact ha

theorem Tidy.writeRoutes (ht : Tidy s) {m : List (Nat × Word64)} : Tidy (s.writeRoutes m) :=
  ht.update

theorem Tidy.writeTiles (ht : Tidy s) {img : Nat} {l : ImgLoad} {site : Site} {n t : Nat} :
    Tidy (State.writeTiles img l site n t s).1 := by
  induction n generalizing s t with
  | zero => exact ht
  | succ n ih =>
    unfold State.writeTiles
    split
    · exact ht
    · extract_lets r
      split
      · exact ht.writeTile
      · exact ih ht.writeTile

theorem Tidy.placeImage (ht : Tidy s) {img : Nat} {l : ImgLoad} {site : Site} :
    Tidy (s.placeImage img l site).1 :=
  ht.writeRoutes.writeTiles

theorem Tidy.scratch (ht : Tidy s) {img : Nat} {l : ImgLoad} {site : Site} :
    Tidy (s.scratch img l site) :=
  ht.writeRoutes.foldl fun _ _ ht => ht.writeTile

/-! ### Save -/

theorem Tidy.putPhys (ht : Tidy s) {pa : Nat} {b : List Byte} : Tidy (s.putPhys pa b) :=
  ht.storeMarked

theorem Tidy.zeroPhys (ht : Tidy s) {pa n : Nat} : Tidy (s.zeroPhys pa n) :=
  tidy_mk.2 ⟨memWf_delRange ht.memWf _ _, ht.cfgSorted⟩

theorem Tidy.putBits (ht : Tidy s) {pa : Nat} {ids : List Nat} : Tidy (s.putBits pa ids) :=
  ht.foldl fun _ _ ht => tidy_mk.2 ⟨memWf_setByte ht.memWf _ _, ht.cfgSorted⟩

theorem Tidy.writeItem (ht : Tidy s) {c x rb : Nat} {m : Word64} {it : Nat × Nat} :
    Tidy (s.writeItem c x rb m it) := by
  unfold State.writeItem
  extract_lets t k pa bank lanes marks
  split
  · exact ht.putPhys.putPhys
  · split
    · exact ht.putPhys.putPhys
    · exact .ite ht.putPhys (Tidy.ite ht.putPhys ht.putPhys.putPhys)

theorem Tidy.writeCtx (ht : Tidy s) {c x rb : Nat} {freeze : Bool} :
    Tidy (s.writeCtx c x rb freeze) :=
  .ite ht ((ht.foldl fun _ _ ht => ht.writeItem).putPhys)

theorem Tidy.freezeHeader (ht : Tidy s) {c base : Nat} : Tidy (s.freezeHeader c base) := by
  unfold State.freezeHeader
  extract_lets k s1
  have ht1 : Tidy s1 := ht.foldl fun _ _ ht => ht.putPhys.foldl fun _ _ ht => ht.putPhys
  exact ht1.foldl fun _ _ ht => ht.putPhys

theorem Tidy.writeLines (ht : Tidy s) {key n pa : Nat} {freeze : Bool} :
    Tidy (s.writeLines key n pa freeze) :=
  ht.foldl fun _ _ ht => ht.putPhys

theorem Tidy.writeCore (ht : Tidy s) {c base : Nat} {freeze : Bool} :
    Tidy (s.writeCore c base freeze) := by
  unfold State.writeCore
  extract_lets s1 s2 s3 s4 s5 s6 s7 s8
  have ht1 : Tidy s1 := ht.zeroPhys.zeroPhys
  have ht2 : Tidy s2 := ht1.foldl fun _ _ ht => ht.putBits.putPhys
  have ht3 : Tidy s3 := ht2.putPhys
  have ht4 : Tidy s4 := ht3.putPhys
  have ht5 : Tidy s5 := ht4.putBits
  have ht6 : Tidy s6 := ht5.putBits
  have ht7 : Tidy s7 := ht6.foldl fun _ _ ht => ht.writeCtx
  have ht8 : Tidy s8 := ht7.writeLines
  exact .ite ht8.freezeHeader ht8

theorem Tidy.landCut (ht : Tidy s) {p : Packet} : Tidy (s.landCut p) := by
  unfold State.landCut
  extract_lets n data poison ring
  clear_value ring
  split
  · exact ht.storeMarked.update
  · exact ht

theorem Tidy.writeHall (ht : Tidy s) {h i hk base : Nat} {freeze : Bool} :
    Tidy (s.writeHall h i hk base freeze) := by
  unfold State.writeHall
  extract_lets s1 s2 s3 s4 s5 s6 s7 s8 s9 fl
  have ht1 : Tidy s1 := ht.zeroPhys
  have ht2 : Tidy s2 := ht1.putPhys
  have ht3 : Tidy s3 := ht2.putBits
  have ht4 : Tidy s4 := ht3.putBits
  have ht5 : Tidy s5 := ht4.putBits
  have ht6 : Tidy s6 := ht5.foldl fun _ _ ht => ht.putPhys
  have ht7 : Tidy s7 := ht6.writeLines
  have ht8 : Tidy s8 := ht7.foldl fun _ _ ht => ht.writeCore
  have ht9 : Tidy s9 := ht8.zeroPhys
  exact .ite ht9.putPhys.putPhys ht9

theorem Tidy.writeAreaHeader (ht : Tidy s) {h wing kind : Nat} :
    Tidy (s.writeAreaHeader h wing kind) := by
  unfold State.writeAreaHeader
  extract_lets l hs word drain
  split
  · exact ht
  · exact ht.zeroPhys.putPhys.putPhys

theorem Tidy.fillCode (ht : Tidy s) {hk : Nat} : Tidy (s.fillCode hk) :=
  tidy_mk.2 ⟨memWf_delRange ht.memWf _ _, ht.cfgSorted⟩

theorem Tidy.clearHall (ht : Tidy s) {hk : Nat} : Tidy (s.clearHall hk) := by
  unfold State.clearHall
  extract_lets mine s1 s2
  have ht1 : Tidy s1 := ht.fillCode
  have ht2 : Tidy s2 := tidy_mk.2 ⟨ht1.memWf, mapSorted_filter _ ht1.cfgSorted⟩
  exact ht2.setIdentity

theorem Tidy.purgeChannels (ht : Tidy s) {h : Nat} : Tidy (s.purgeChannels h) := ht.update

theorem Tidy.layCells (ht : Tidy s) {hk : Nat} {cells : List Host.Cell} :
    Tidy (s.layCells hk cells) :=
  ht.foldl fun _ _ ht => Tidy.foldl (tidy_mk.2 ⟨memWf_delRange ht.memWf _ _, ht.cfgSorted⟩)
    fun _ _ ht => tidy_mk.2 ⟨memWf_setByte ht.memWf _ _, ht.cfgSorted⟩

theorem Tidy.readAtoms (ht : Tidy s) {e : LoadHall} {hk : Nat} : Tidy (s.readAtoms e hk) :=
  ht.update

theorem Tidy.setEntries (ht : Tidy s) {c a : Nat} {valid : Bool} : Tidy (s.setEntries c a valid) :=
  ht.foldl fun _ _ ht => ht.setCfg

theorem Tidy.settleMove (ht : Tidy s) {c : Nat} : Tidy (s.settleMove c) := by
  unfold State.settleMove
  split
  · exact ht.setEntries.setEntries.setCore
  · exact ht

theorem Tidy.clearShare (ht : Tidy s) {l : Load} {hk : Nat} : Tidy (s.clearShare l hk) := by
  unfold State.clearShare
  split
  · extract_lets mine s1
    have ht1 : Tidy s1 := ht.foldl
      fun _ _ ht => tidy_mk.2 ⟨memWf_delRange ht.memWf _ _, ht.cfgSorted⟩
    exact tidy_mk.2 ⟨ht1.memWf, mapSorted_filter _ ht1.cfgSorted⟩
  · exact ht.clearHall

theorem Tidy.writeOut (ht : Tidy s) {h i : Nat} : Tidy (s.writeOut h i) := by
  unfold State.writeOut
  extract_lets l
  split
  · exact ht
  · split
    · exact ht
    · extract_lets hk _ e s1 s2 _ s3 s4 s5 l s6
      have ht1 : Tidy s1 := ht.foldl fun _ _ ht => ht.settleMove
      have ht2 : Tidy s2 := ht1.writeHall
      have ht3 : Tidy s3 := ht2.setLoad
      have ht4 : Tidy s4 := ht3.writeAreaHeader
      have ht5 : Tidy s5 := ht4.clearShare
      have ht6 : Tidy s6 := ht5.purgeChannels
      exact .ite ht5 ht6.setLoad

theorem Tidy.execHallWriteOut (ht : Tidy s) {load slot : Nat} :
    TidyNext (execHallWriteOut load slot s) := by
  unfold Machine.execHallWriteOut
  extract_lets l
  split
  · split
    · exact .next ht.writeOut.later
    · exact .next ht
  · exact .next ht

theorem Tidy.readLines (ht : Tidy s) {key n pa bits' : Nat} :
    Tidy (s.readLines key n pa bits') := by
  unfold State.readLines
  extract_lets ds s1 mark
  have ht1 : Tidy s1 := ht.foldl fun _ _ ht => tidy_mk.2 ⟨memWf_setBytes ht.memWf _ _, ht.cfgSorted⟩
  exact ht1.update

theorem Tidy.readCore (ht : Tidy s) {h c base : Nat} {e : LoadHall} {p : Nat} :
    Tidy (s.readCore h c base e p) := by
  unfold State.readCore
  extract_lets s1 s2 s3 s4 ctx k s5
  have ht1 : Tidy s1 := ht.foldl fun _ _ ht => ht.setCfg
  have ht2 : Tidy s2 := ht1.foldl fun _ _ ht => ht.setCfg
  have ht3 : Tidy s3 := ht2.readLines
  have ht4 : Tidy s4 := ht3.update
  have ht5 : Tidy s5 := ht4.setCore
  exact ht5.update

theorem Tidy.readStream (ht : Tidy s) {h : Nat} {e : LoadHall} {hk n pa : Nat} :
    Tidy (s.readStream h e hk n pa) :=
  .ite ht.setStream.update ht.setStream

theorem Tidy.readHall (ht : Tidy s) {h : Nat} {e : LoadHall} {hk base : Nat} :
    Tidy (s.readHall h e hk base) := by
  unfold State.readHall
  extract_lets words s1 s2 s3 s4
  have ht1 : Tidy s1 := ht.foldl fun _ _ ht => ht.setHallCfg
  have ht2 : Tidy s2 := ht1.update
  have ht3 : Tidy s3 := ht2.readLines
  have ht4 : Tidy s4 := ht3.foldl fun _ _ ht => ht.readStream
  exact ht4.foldl fun _ _ ht => ht.readCore

theorem Tidy.readPuts (ht : Tidy s) {h : Nat} {cores : List Nat} : Tidy (s.readPuts h cores) :=
  ht.foldl fun _ _ ht => ht.setCore

theorem Tidy.unpark (ht : Tidy s) {c x : Nat} : Tidy (s.unpark c x) := by
  unfold State.unpark
  extract_lets t _ t slast t
  split
  · exact ht
  · exact ht.setCore.update

/-! ### Preempt -/

theorem Tidy.setFlag (ht : Tidy s) {c : Nat} {stop : Bool} : Tidy (s.setFlag c stop) := ht.setCore

theorem Tidy.execPreemptFlagSet (ht : Tidy s) {core : Nat} :
    TidyNext (execPreemptFlagSet core s) := by
  unfold Machine.execPreemptFlagSet
  split
  · exact .next ht.setFlag
  · exact .next ht

theorem Tidy.execStopFlagArrival (ht : Tidy s) {core : Nat} :
    TidyNext (execStopFlagArrival core s) := by
  unfold Machine.execStopFlagArrival
  split
  · exact .next ht.setFlag
  · exact .next ht

theorem Tidy.beginPreempt (ht : Tidy s) {h : Nat} {late : Option (List Nat)} :
    Tidy (s.beginPreempt h late) :=
  (ht.setLoad.foldl fun _ _ ht => ht.within).later

theorem Tidy.suspendLoad (ht : Tidy s) {h : Nat} : Tidy (s.suspendLoad h) :=
  ((ht.setLoadHalls.foldl fun _ _ ht => ht.writeResult).setLoad).later

theorem Tidy.pollPreempt (ht : Tidy s) {i : Instr} {kind : Option (List Nat) → Bool}
    {done : State → Nat → State} (hdone : ∀ s h, Tidy s → Tidy (done s h)) :
    TidyNext (s.pollPreempt i kind done) := by
  unfold State.pollPreempt
  split
  · exact .next (hdone s _ ht)
  · exact .ite (.next ht.retry) (.next ht)

theorem Tidy.endStop (ht : Tidy s) {h : Nat} : Tidy (s.endStop h) :=
  ht.failPreqs.setLoadHalls.setLoad.launchFaults

theorem Tidy.execLoadStopped (ht : Tidy s) : TidyNext (execLoadStopped s) := by
  unfold Machine.execLoadStopped
  extract_lets flagged
  split
  · exact .next ht.endStop
  · split
    · exact .next ht.retry
    · exact .next ht

theorem Tidy.lateRecord (ht : Tidy s) {h : Nat} {late : List Nat} : Tidy (s.lateRecord h late) := by
  unfold State.lateRecord
  extract_lets hallPlace
  split
  · exact ht.logFault
  · exact ht.logFault
  · exact ht.logFault
  · exact ht

theorem Tidy.lateStop (ht : Tidy s) {h : Nat} : Tidy (s.lateStop h) := by
  unfold State.lateStop
  extract_lets l late s1 l1
  have ht1 : Tidy s1 := ht.lateRecord
  exact ht1.setLoad.endStop

theorem Tidy.doPreq (ht : Tidy s) {q : Issue} {a b : XReg} {h : Nat} {xa xb : Word64} :
    Tidy (s.doPreq q a b h xa xb) := by
  unfold State.doPreq
  extract_lets l now wait
  split
  · exact ht.sendResult
  · exact ht.sendResult
  · exact ht.sendResult
  · exact ht.sendResult
  · exact ht.sendResult
  · exact ht.startResult.setLoad
  · exact ht.beginPreempt.startResult.setLoad
  · exact ht.beginPreempt.startResult.setLoad

theorem Tidy.freezeLoad (ht : Tidy s) {h : Nat} : Tidy (s.freezeLoad h) :=
  ht.beginFreeze.foldl fun _ _ ht => ht.writeAreaHeader

theorem Tidy.execFrz (ht : Tidy s) {q : Issue} {a b : XReg} : TidyNext (execFrz q a b s) := by
  refine ht.handleForm fun _ _ s ht => ?_
  split
  · exact ht
  · exact ht
  · exact ht.freezeLoad

theorem Tidy.execFreezeArrival (ht : Tidy s) {load hall : Nat} :
    TidyNext (execFreezeArrival load hall s) := by
  unfold Machine.execFreezeArrival
  extract_lets l smear s1 s2 gate
  have ht1 : Tidy s1 := ht.foldl fun _ _ ht => ht.foldl fun _ _ ht => ht.smearCommand
  have ht2 : Tidy s2 := ht1.foldl fun _ _ ht => ht.landCut
  split
  · exact .next ht
  · split
    · exact .next ht
    · extract_lets e s3 _ s4 s5 s6
      have ht3 : Tidy s3 := by
        unfold s3
        split
        · exact ht2.writeHall
        · exact ht2
      have ht4 : Tidy s4 := ht3.setLoad
      have ht5 : Tidy s5 := ht4.writeAreaHeader
      have ht6 : Tidy s6 := ht5.update
      exact .next ht6.setHallState

theorem Tidy.writeMap (ht : Tidy s) {h wing : Nat} : Tidy (s.writeMap h wing) := ht.storeMarked

theorem Tidy.hangRecord (ht : Tidy s) {h : Nat} {drain : Bool} {stalled : Option (Nat × Nat)} :
    Tidy (s.hangRecord h drain stalled) := by
  unfold State.hangRecord
  extract_lets second wing
  split <;> exact ht.logFault

theorem Tidy.execHang (ht : Tidy s) {load : Nat} {drain : Bool} {stalled : Option (Nat × Nat)} :
    TidyNext (execHang load drain stalled s) := by
  unfold Machine.execHang
  extract_lets l s1
  have ht1 : Tidy s1 := (ht.foldl fun _ _ ht => ht.writeMap).hangRecord
  split
  · exact .next ht1.beginFreeze
  · exact .next ht

theorem Tidy.restoreOne (ht : Tidy s) {h : Nat} {site : Site} {r : Nat × Nat} :
    Tidy (s.restoreOne h site r) := by
  unfold State.restoreOne
  extract_lets l e img il base s1 s2 s3 s4 e'
  have ht1 : Tidy s1 := ht.layCells
  have ht2 : Tidy s2 := ht1.foldl fun _ _ ht => ht.writeTile
  have ht3 : Tidy s3 := ht2.readHall.readAtoms
  have ht4 : Tidy s4 := ht3.setIdentity
  exact ht4.setLoad

theorem Tidy.renameArcs (ht : Tidy s) {wing vc : Nat} {names : List (Nat × Nat)} :
    Tidy (s.renameArcs wing vc names) :=
  ht.foldl fun _ _ ht => ht.setSysCfg

theorem Tidy.renameHomes (ht : Tidy s) {h : Nat} {names : Nat → List (Nat × Nat)} :
    Tidy (s.renameHomes h names) :=
  ht.foldl fun _ _ ht => ht.foldl fun _ _ ht => Tidy.ite ht.setHallCfg ht

theorem Tidy.restoreHalls (ht : Tidy s) {h : Nat} {plan vcs : List (Nat × Nat)} :
    Tidy (s.restoreHalls h plan vcs) := by
  unfold State.restoreHalls
  extract_lets l place site moves rename _ s1 s2 s3 img s4 users s5 s6 s7
  have ht1 : Tidy s1 := ht.purgeChannels.setLoad
  have ht2 : Tidy s2 := ht1.foldl fun _ _ ht => ht.renameArcs
  have ht3 : Tidy s3 := (ht2.foldl fun _ _ ht => ht.restoreOne).renameHomes
  have ht4 : Tidy s4 := ht3.writeRoutes
  have ht5 : Tidy s5 := ht4.update
  have ht6 : Tidy s6 := ht5.mapAtoms
  have ht7 : Tidy s7 := ht6.readPuts
  exact ht7.foldl fun _ _ ht => ht.writeAreaHeader

theorem Tidy.resumeStreams (ht : Tidy s) {h : Nat} : Tidy (s.resumeStreams h) := by
  unfold State.resumeStreams
  extract_lets s1
  have ht1 : Tidy s1 := ht.update
  exact ht1.foldl fun _ _ ht => Tidy.ite ht.setStream (Tidy.ite ht.setStream.resumeToken
    ht.setStream.kickStream)

theorem Tidy.runAgain (ht : Tidy s) {h : Nat} : Tidy (s.runAgain h) := by
  unfold State.runAgain
  extract_lets l s1 s2 _ s3 s4 fresh s5 s6
  have ht1 : Tidy s1 := ht.foldl fun _ _ ht => ht.setCore
  have ht2 : Tidy s2 := ht1.foldl fun _ _ ht => ht.foldl fun _ _ ht => ht.unpark
  have ht3 : Tidy s3 := ht2.setLoad
  have ht4 : Tidy s4 := ht3.setLoadHalls.resumeStreams
  have ht5 : Tidy s5 := ht4.update
  have ht6 : Tidy s6 := by
    unfold s6
    split
    · split
      · exact ht5.update
      · exact ht5
    · exact ht5
  exact ht6.later.later.later

theorem Tidy.resumeLoad (ht : Tidy s) {h : Nat} {avoid : List Nat} :
    Tidy (s.resumeLoad h avoid).1 := by
  unfold State.resumeLoad
  extract_lets l may
  clear_value may
  split
  · exact ht.fst
  · split
    · exact ht.fst
    · split
      · split
        · exact ht.runAgain.fst
        · split
          · exact ht.fst
          · exact ht.restoreHalls.runAgain.fst
      · exact ht.fst

theorem Tidy.leaveResident (ht : Tidy s) {h : Nat} : Tidy (s.leaveResident h) := ht.update

theorem Tidy.dropStages (ht : Tidy s) {h : Nat} : Tidy (s.dropStages h) :=
  ht.foldl fun _ _ ht => ht.foldl fun _ _ ht => Tidy.ite ht.setSysCfg ht

theorem Tidy.clearSystem (ht : Tidy s) {h : Nat} : Tidy (s.clearSystem h) := by
  unfold State.clearSystem
  extract_lets l s1 owned s2
  have ht1 : Tidy s1 := ht.foldl fun _ _ ht => ht.foldl fun _ _ ht => ht.setSysCfg
  have ht2 : Tidy s2 := ht1.update
  exact ht2.dropStages.foldl fun _ _ ht => (ht.foldl fun _ _ ht => ht.setSysCfg).foldl fun _ _ ht
    => Tidy.ite ht.setSysCfg ht

theorem Tidy.teardown (ht : Tidy s) {h : Nat} : Tidy (s.teardown h) := by
  unfold State.teardown
  extract_lets l mine s1 s2 s3 s4 s5
  have ht1 : Tidy s1 := ht.failPreqs.closeSessions.clearSystem.endEpoch
  have ht2 : Tidy s2 := ht1.purgeChannels
  have ht3 : Tidy s3 := ht2.update
  have ht4 : Tidy s4 := ht3.foldl fun _ _ ht => ht.clearShare
  have ht5 : Tidy s5 := ht4.update
  exact ht5.update.leaveResident.later

theorem Tidy.dropLaunch (ht : Tidy s) {h : Nat} : Tidy (s.dropLaunch h) := by
  unfold State.dropLaunch
  split
  · exact ht
  · split
    · exact ht
    · exact .ite ht ht.update.later

theorem Tidy.execEret (ht : Tidy s) {q : Issue} {a b : XReg} : TidyNext (execEret q a b s) := by
  refine ht.handleForm fun _ _ s ht => ?_
  extract_lets act r
  split
  · exact ht
  · split
    · exact ht
    · split
      · exact ht.resumeLoad
      · exact ht.dropLaunch.teardown

theorem Tidy.startSecurity (ht : Tidy s) {i : Instr} {a b : XReg} {block area : Nat} :
    Tidy (s.startSecurity i a b block area) :=
  ht.startResult.later

theorem Tidy.sechResult (ht : Tidy s) {block : List Byte} {po : Bool} :
    Tidy (s.sechResult block po).1 := by
  unfold State.sechResult
  extract_lets src len op
  split
  · exact ht
  · split
    · exact ht
    · split
      · exact ht
      · split
        · exact ht
        · extract_lets d sig
          split
          · exact ht
          · exact ht.update

theorem Tidy.execResultAreaWrite (ht : Tidy s) {id : Nat} :
    TidyNext (execResultAreaWrite id s) := by
  unfold Machine.execResultAreaWrite
  split
  · exact .next ht
  · split
    · exact .next ht.retry
    · split
      · exact .next ht.sechResult.writeResult
      · exact .next ht.writeResult
      · split
        · exact .next ht.retry
        · exact .next ht.writeResult
      · exact .next ht.writeResult

/-! ### Balance -/

theorem Tidy.sampleStage (ht : Tidy s) {wing n : Nat} : Tidy (State.sampleStage wing s n) :=
  ht.update

theorem Tidy.setRepl (ht : Tidy s) {wing n v : Nat} : Tidy (s.setRepl wing n v) := ht.setSysCfg

theorem Tidy.moveCore (ht : Tidy s) {wing r d k a b : Nat} : Tidy (s.moveCore wing r d k a b) :=
  ht.setRepl.setRepl.setSysCfg.setCore.at

theorem Tidy.lowerPins (ht : Tidy s) {wing : Nat} : Tidy (s.lowerPins wing) :=
  ht.foldl fun _ _ ht => ht.setCore

theorem Tidy.endInterval (ht : Tidy s) {wing : Nat} : Tidy (s.endInterval wing) := by
  unfold State.endInterval
  extract_lets s1 pick w s2 s3 s4
  have ht1 : Tidy s1 := ht.lowerPins
  have ht2 : Tidy s2 := ht1.setSysCfg
  have ht3 : Tidy s3 := ht2.foldl fun _ _ ht => ht.setSysCfg
  have ht4 : Tidy s4 := ht3.update
  clear_value pick
  split
  · exact ht4.moveCore
  · exact ht4

theorem Tidy.clockEvent (ht : Tidy s) {due : Bool} {i : Instr} : Tidy (s.clockEvent due i) :=
  .ite ht.at ht

theorem Tidy.stepMove (ht : Tidy s) {c : Nat} : Tidy (s.stepMove c) := by
  unfold State.stepMove
  split
  · exact ht
  · split
    · exact ht
    · extract_lets s1 _ s2
      have ht1 : Tidy s1 := ht.setEntries
      have ht2 : Tidy s2 := ht1.setCore
      exact .ite (Tidy.ite ht2.at ht2.within) ht1

theorem Tidy.execMoveBoundary (ht : Tidy s) : TidyNext (execMoveBoundary s) := by
  unfold Machine.execMoveBoundary
  extract_lets s1
  have ht1 : Tidy s1 := ht.foldl fun _ _ ht => ht.stepMove
  split
  · exact .next ht1
  · exact .next ht1.retry

theorem Tidy.execMoveEntriesValid (ht : Tidy s) {core : Nat} :
    TidyNext (execMoveEntriesValid core s) := by
  unfold Machine.execMoveEntriesValid
  split
  · split
    · exact .next ht.setEntries.setCore
    · exact .next ht
  · exact .next ht

/-! ### Host -/

theorem Tidy.writeMsix (ht : Tidy s) {i : Nat} {v : Word64} : Tidy (s.writeMsix i v) :=
  .ite ht.update.at ht.update

theorem Tidy.replanAll (ht : Tidy s) : Tidy s.replanAll := ht.foldl fun _ _ ht => ht.at

theorem Tidy.execRegisterWrite (ht : Tidy s) {off : BitVec 14} {v : Word64} :
    TidyNext (execRegisterWrite off v s) := by
  unfold Machine.execRegisterWrite
  extract_lets o s1
  have ht1 : Tidy s1 := ht.update
  split
  · exact .next ht
  · split
    · exact .next ht.update
    · split
      · exact .next ht.update
      · split
        · exact .next ht.update
        · split
          · exact .next (Tidy.ite ht1.at (Tidy.ite ht1.replanAll ht1))
          · split
            · exact .next ht.at
            · split
              · exact .next ht.writeMsix
              · exact .next ht

theorem Tidy.execMsixUnmask (ht : Tidy s) {vector : Nat} : TidyNext (execMsixUnmask vector s) := by
  unfold Machine.execMsixUnmask
  split
  · exact .next ht.update
  · exact .next ht

theorem Tidy.execHealthRead (ht : Tidy s) : TidyNext (execHealthRead s) := by
  unfold Machine.execHealthRead
  split
  · exact .next ht
  · exact .next ht.update

theorem Tidy.readBar0 (ht : Tidy s) {off size : Nat} : Tidy (s.readBar0 off size) :=
  .ite ht.update.update ht.update

theorem Tidy.readI3c (ht : Tidy s) {target index : Nat} : Tidy (s.readI3c target index) :=
  .ite ht (Tidy.ite ht.update.update ht.update)

theorem Tidy.maskFunction (ht : Tidy s) {on : Bool} : Tidy (s.maskFunction on) :=
  ht.update.foldl fun _ _ ht => ht.at

theorem Tidy.takeInput (ht : Tidy s) {e : Nat × OutsideInput} : Tidy (s.takeInput e) := by
  unfold State.takeInput
  split
  · exact ht
  · split
    · exact .ite ht.storeMarked ht
    · exact ht.readBar0
    · exact ht.maskFunction
    · exact ht.takeCredits
    · exact ht.update
    · exact ht.readI3c
    · exact ht.update

theorem Tidy.takeInputs (ht : Tidy s) : Tidy s.takeInputs :=
  ht.update.foldl fun _ _ ht => ht.takeInput

theorem memWf_freeWords {m : List Host.Cell} (h : memWf m = true) (words : List Nat) (n : Nat) :
    memWf (words.foldl (fun (a : List Host.Cell × Nat) w =>
      (memSetBytes a.1 (8 * w) (natToBytes 8 (Config.freeBits a.2).toNat), a.2 + 1))
      (m, n)).1 = true := by
  induction words generalizing m n with
  | nil => exact h
  | cons w words ih => exact ih (memWf_setBytes h _ _) (n + 1)

theorem Tidy.freeWords (ht : Tidy s) {words : List Nat} : Tidy (s.freeWords words) :=
  tidy_mk.2 ⟨memWf_freeWords ht.memWf _ _, ht.cfgSorted⟩

theorem Tidy.execBar2Write (ht : Tidy s) {off : BitVec 28} {data : List Byte} {ep : Bool} :
    TidyNext (execBar2Write off data ep s) := by
  unfold Machine.execBar2Write
  extract_lets key
  split
  · exact .next ht
  · split
    · exact .next ht.freeWords
    · exact .next ht.store.markStore

theorem Tidy.execBar2Read (ht : Tidy s) {off : BitVec 28} {n : Nat} :
    TidyNext (execBar2Read off n s) := by
  unfold Machine.execBar2Read
  extract_lets key
  split
  · exact .next ht
  · split <;> exact .next ht.update

theorem Tidy.unitMismatch (ht : Tidy s) {key : Nat} : Tidy (s.unitMismatch key) := by
  unfold State.unitMismatch
  extract_lets lo old new s1
  have ht1 : Tidy s1 := tidy_mk.2 ⟨memWf_setBytes ht.memWf _ _, ht.cfgSorted⟩
  exact .ite ht1 ht1.update

theorem Tidy.flitMismatch (ht : Tidy s) {p : Packet} {n : Nat} : Tidy (s.flitMismatch p n) :=
  .ite ht.update (Tidy.ite ht.update.update ht.update.update)

theorem Tidy.rejectWords (ht : Tidy s) {words : List Nat} : Tidy (s.rejectWords words) := ht.update

theorem Tidy.execSramError (ht : Tidy s) {t : SramTarget} {correctable : Bool} :
    TidyNext (execSramError t correctable s) := by
  unfold Machine.execSramError
  split
  · exact .next ht.update
  · split
    · exact .next ht.freeWords.rejectWords
    · exact .next ht.unitMismatch.rejectWords
    · split
      · exact .next ht.flitMismatch
      · exact .next ht
    · exact .next ht.setCore.update

theorem Tidy.execEnterSafeState (ht : Tidy s) : TidyNext (execEnterSafeState s) := by
  unfold Machine.execEnterSafeState
  split
  · exact .next ht
  · split
    · exact .next ((ht.foldl fun _ _ ht => ht.freezeLoad).retry)
    · split
      · exact .next ht.retry
      · exact .next ht.update

theorem Tidy.setDmap (ht : Tidy s) {hk : Nat} {v : Word64} : Tidy (s.setDmap hk v) := ht.update

theorem Tidy.assignSpares (ht : Tidy s) {wing : Nat} : Tidy (s.assignSpares wing) :=
  ht.foldl fun _ _ ht => ht.setDmap

theorem Tidy.signMap (ht : Tidy s) : Tidy s.signMap := ht.update

theorem Tidy.resigned (ht : Tidy t) : Tidy (s.resigned t) :=
  .ite ht ht.signMap

theorem Tidy.retireHall (ht : Tidy s) {hk : Nat} : Tidy (s.retireHall hk) :=
  ht.setDmap.update.signMap

theorem Tidy.markSuspended (ht : Tidy s) {h : Nat} : Tidy (s.markSuspended h) := by
  unfold State.markSuspended
  split
  · exact ht
  · split
    · exact ht
    · exact ht.update

theorem Tidy.retire (ht : Tidy s) {wing hall : Nat} : Tidy (s.retire wing hall) := by
  unfold State.retire
  extract_lets hk again
  split
  · exact ht
  · split
    · exact ht.retry
    · split
      · exact ht.retireHall
      · extract_lets l out
        have hout : Tidy (out s) := by
          unfold out
          split
          · exact ht.writeOut
          · exact ht
        split
        · exact ht.markSuspended.beginPreempt.retry
        · exact ht.markSuspended.beginPreempt.retry
        · exact ht.retry
        · exact ht.retry
        · exact hout.retireHall.later
        · exact (Tidy.ite hout ht).retireHall
        · exact ht.retireHall
        · exact ht.retireHall

theorem Tidy.stepVoff (ht : Tidy s) {wing hall : Nat} {v : BitVec 8} :
    Tidy (s.stepVoff wing hall v) := by
  unfold State.stepVoff
  extract_lets hk r
  split
  · exact ht.setDmap.resigned.at
  · exact .ite ht.later ht

theorem Tidy.planVoff (ht : Tidy s) {wing hall : Nat} : Tidy (s.planVoff wing hall) := by
  unfold State.planVoff
  extract_lets hk moves due s1 go
  have ht1 : Tidy s1 := ht.update
  split
  · unfold go
    clear_value due
    split
    · exact ht1.at
    · exact ht1.stepVoff
  · split
    · exact ht1.retire
    · unfold go
      clear_value due
      split
      · exact ht1.at
      · exact ht1.stepVoff

theorem Tidy.execVoltageReplan (ht : Tidy s) {wing hall : Nat} {voff : Option (BitVec 8)} :
    TidyNext (execVoltageReplan wing hall voff s) := by
  unfold Machine.execVoltageReplan
  split
  · exact .next (Tidy.ite ht ht.assignSpares.resigned).planVoff
  · exact .ite (.next ht) (.next ht.stepVoff)

theorem Tidy.unpowered (_ : Tidy s) {power : Bool} {dev : DevState} :
    Tidy (s.unpowered power dev) :=
  tidy_reset.update

theorem Tidy.execPowerOff (ht : Tidy s) : TidyNext (execPowerOff s) := .next ht.unpowered

theorem Tidy.execPowerOn (ht : Tidy s) : TidyNext (execPowerOn s) := by
  unfold Machine.execPowerOn
  exact .ite (.next ht) (.next ht.unpowered)

theorem Tidy.markFailed (ht : Tidy s) {failed : List Nat} : Tidy (s.markFailed failed) :=
  (ht.foldl fun _ _ ht => ht.setDmap).foldl fun _ _ ht => ht.assignSpares

theorem Tidy.loadKeys (ht : Tidy s) : Tidy s.loadKeys := ht.update

theorem Tidy.execSelfTestDone (ht : Tidy s) {r : SelfTest} : TidyNext (execSelfTestDone r s) := by
  unfold Machine.execSelfTestDone
  split
  · exact .next ht
  · extract_lets s1 s2
    have ht1 : Tidy s1 := ht.markFailed.signMap
    have ht2 : Tidy s2 := ht1.loadKeys
    split
    · exact .next ht1.update
    · exact .next ht2.update

/-! ### Invalidate -/

theorem Tidy.removeEntries (ht : Tidy s) {wing : Nat} {i : Nat × Nat × Nat} :
    Tidy (s.removeEntries wing i) :=
  ht.update

theorem Tidy.discardWalks (ht : Tidy s) {ids : List Nat} : Tidy (s.discardWalks ids) := by
  unfold State.discardWalks
  extract_lets lost ports s1 s2
  have ht1 : Tidy s1 := ht.update
  have ht2 : Tidy s2 := ht1.foldl fun _ _ ht => ht.putWithheld.joinWalk
  exact ht2.foldl fun _ _ ht => ht.wakeMisses

theorem Tidy.runInvalidation (ht : Tidy s) {wing : Nat} {i : Nat × Nat × Nat} :
    Tidy (s.runInvalidation wing i) :=
  ht.removeEntries.discardWalks.later

theorem Tidy.execInvalidatePage (ht : Tidy s) {wing : Nat} {va : BitVec 35} {asn : BitVec 11} :
    TidyNext (execInvalidatePage wing va asn s) := by
  unfold Machine.execInvalidatePage
  extract_lets i
  split
  · exact .next ht.runInvalidation
  · exact .next ht

theorem Tidy.execInvalidateRegion (ht : Tidy s) {wing : Nat} {va : BitVec 35} {asn : BitVec 11} :
    TidyNext (execInvalidateRegion wing va asn s) := by
  unfold Machine.execInvalidateRegion
  extract_lets i
  split
  · exact .next ht.runInvalidation
  · exact .next ht

theorem Tidy.execInvalidateAsn (ht : Tidy s) {wing : Nat} {asn : BitVec 11} :
    TidyNext (execInvalidateAsn wing asn s) := by
  unfold Machine.execInvalidateAsn
  extract_lets i
  split
  · exact .next ht.runInvalidation
  · exact .next ht

theorem Tidy.execInvalidateAll (ht : Tidy s) {wing : Nat} :
    TidyNext (execInvalidateAll wing s) := by
  unfold Machine.execInvalidateAll
  extract_lets i
  split
  · exact .next ht.runInvalidation
  · exact .next ht

theorem Tidy.endInvalidation (ht : Tidy s) {wing : Nat} {i : Nat × Nat × Nat} :
    Tidy (s.endInvalidation wing i) := by
  unfold State.endInvalidation
  extract_lets s1 w s2 s3
  have ht1 : Tidy s1 := ht.removeEntries
  have ht2 : Tidy s2 := ht1.setSysCfg
  have ht3 : Tidy s3 := ht2.foldl fun _ _ ht => ht.joinWalk
  split
  · exact ht3.update
  · exact ht3.update.later

theorem Tidy.execInvalidationComplete (ht : Tidy s) : TidyNext (execInvalidationComplete s) := by
  unfold Machine.execInvalidationComplete
  split
  · exact .next ht.endInvalidation
  · split
    · exact .next ht.retry
    · exact .next ht

theorem Tidy.execFlimExpiry (ht : Tidy s) {id : Nat} : TidyNext (execFlimExpiry id s) := by
  unfold Machine.execFlimExpiry
  split
  · exact .next ht
  · extract_lets due
    split
    · exact .next ht
    · split
      · exact .next ht.at
      · split
        · exact .next ht
        · exact .next ht.beginPreempt

/-! ### Launch -/

theorem Tidy.setLaunch (ht : Tidy s) {id : Nat} {t : Launch} : Tidy (s.setLaunch id t) := ht.update

theorem Tidy.setQueue (ht : Tidy s) {q : Nat} {t : LaunchQueue} : Tidy (s.setQueue q t) := ht.update

theorem Tidy.refreshBusy (ht : Tidy s) {q : Nat} : Tidy (s.refreshBusy q) := ht.setQueue

theorem Tidy.execDoorbellWrite (ht : Tidy s) {queue : BitVec 6} {v : Word64} :
    TidyNext (execDoorbellWrite queue v s) := by
  unfold Machine.execDoorbellWrite
  extract_lets n q tail err
  split
  · exact .next ht
  · exact .next ht.setQueue.within

theorem Tidy.readHead (ht : Tidy s) {q : Nat} : Tidy (s.readHead q) :=
  .ite ht.newId.setLaunch.setQueue ht

theorem Tidy.freePlacing (ht : Tidy s) {id : Nat} {t : Launch} : Tidy (s.freePlacing id t) := by
  unfold State.freePlacing
  extract_lets s1
  have ht1 : Tidy s1 := Tidy.ite (ht.dropStages.foldl fun _ _ ht => ht.setIdentity) ht
  exact ht1.setLaunch

theorem Tidy.finishLaunch (ht : Tidy s) {id st code cause : Nat} :
    Tidy (s.finishLaunch id st code cause) := by
  unfold State.finishLaunch
  split
  · exact ht
  · exact ht.freePlacing.setLaunch.later

theorem Tidy.refuse (ht : Tidy s) {id : Nat} {detail : Word64} : Tidy (s.refuse id detail) := by
  unfold State.refuse
  split
  · exact ht
  · exact ht.setLaunch.finishLaunch

theorem Tidy.storeShared (ht : Tidy s) {a : Nat} {b : List Byte} : Tidy (s.storeShared a b) := by
  unfold State.storeShared
  split
  · exact ht.storeMarked
  · exact ht

theorem Tidy.writeCompletion (ht : Tidy s) {t : Launch} {st code cause : Nat} :
    Tidy (s.writeCompletion t st code cause) := by
  unfold State.writeCompletion
  extract_lets s1 place
  have ht1 : Tidy s1 := ht.foldl fun _ _ ht => ht.storeShared
  clear_value place
  split
  · exact ht1
  · exact .ite ht1.storeFull.update.raiseMsix ht1.storeFull

theorem Tidy.abortChain (ht : Tidy s) {id : Nat} : Tidy (s.abortChain id) := by
  unfold State.abortChain
  extract_lets hs all s1
  have ht1 : Tidy s1 := by
    unfold s1
    split
    · exact ht.foldl fun _ _ ht => ht.setLaunch
    · exact ht
  exact (ht1.foldl fun _ _ ht => ht.teardown).finishLaunch

theorem Tidy.dropEnded (ht : Tidy s) {id : Nat} {t : Launch} : Tidy (s.dropEnded id t) :=
  ht.unstage.update.refreshBusy

theorem Tidy.execCompletionWord (ht : Tidy s) : TidyNext (execCompletionWord s) := by
  unfold Machine.execCompletionWord
  split
  · exact .next ht
  · extract_lets e t mates s1 s2 s3
    have ht1 : Tidy s1 := ht.writeCompletion
    have ht2 : Tidy s2 := ht1.foldl fun _ _ ht => ht.abortChain
    have ht3 : Tidy s3 := ht2.dropEnded.later
    exact .next (Tidy.ite ht3.later ht3)

theorem Tidy.startLaunch (ht : Tidy s) {id : Nat} : Tidy (s.startLaunch id) := by
  unfold State.startLaunch
  split
  · exact ht
  · exact .ite ht ht.setLaunch.newId.update.refreshBusy

theorem Tidy.registerGraph (ht : Tidy s) {id : Nat} : Tidy (s.registerGraph id) := by
  unfold State.registerGraph
  split
  · exact ht
  · exact .ite ht.setLaunch.update ht

theorem Tidy.drawn (ht : Tidy s) {id k : Nat} {site : Site} : Tidy (s.drawn id k site) :=
  (ht.foldl fun _ _ ht => ht.clearHall).scratch

theorem Tidy.assignStages (ht : Tidy s) {h : Nat} {plan : List (Nat × Nat × Nat)} :
    Tidy (s.assignStages h plan) :=
  ht.foldl fun _ _ ht => ht.setSysCfg.setSysCfg

theorem Tidy.bindQueue (ht : Tidy s) {h hp : Nat} {b : Nat × Nat} :
    Tidy (State.bindQueue h hp s b) := by
  unfold State.bindQueue
  split
  · exact ht
  · exact (ht.setLoad.foldl fun _ _ ht => ht.setHallCfg.setHallCfg).update

theorem Tidy.unbindQueues (ht : Tidy s) {h : Nat} : Tidy (s.unbindQueues h) :=
  ((ht.foldl fun _ _ ht => ht.setCfg).setLoad).update

theorem Tidy.bindLoad (ht : Tidy s) {h : Nat} {t : Launch} : Tidy (s.bindLoad h t) := by
  unfold State.bindLoad
  split
  · exact .ite (ht.foldl fun _ _ ht => ht.bindQueue) ht
  · exact ht

theorem Tidy.beginPlacing (ht : Tidy s) {id : Nat} {g : Grant} :
    TidySome (s.beginPlacing id g) := by
  unfold State.beginPlacing
  extract_lets s1 place h
  have ht1 : Tidy s1 := ht.startLaunch
  split
  · exact .none
  · extract_lets s2 t s3 s4 s5
    have ht2 : Tidy s2 := ht1.registerGraph.stageInGallery
    have ht3 : Tidy s3 := ht2.drawn.assignStages
    have ht4 : Tidy s4 := ht2.foldl fun _ _ ht => ht.setIdentity
    have ht5 : Tidy s5 := ht4.assignStages.setLaunch
    split
    · exact .none
    · exact .some ht2.finishLaunch
    · split
      · exact .some ht2.refuse
      · exact .some ht5.later

theorem Tidy.commitPlaced (ht : Tidy s) {id : Nat} {t : Launch} {site : Site} {debug : Bool} :
    Tidy (s.commitPlaced id t site debug) := by
  unfold State.commitPlaced
  extract_lets h l l s1 s2
  have ht1 : Tidy s1 := ht.commitLoad.bindLoad
  have ht2 : Tidy s2 := by
    unfold s2
    split
    · exact .ite ht1.update ht1
    · exact ht1
  exact ht2.setLaunch

theorem Tidy.abortPlacing (ht : Tidy s) {site : Site} {words : List (Nat × Nat × Nat × Word64)} :
    Tidy (s.abortPlacing site words) := by
  unfold State.abortPlacing
  extract_lets s1
  have ht1 : Tidy s1 := ht.foldl fun _ _ ht => Tidy.ite ht.unwrite ht
  exact ht1.foldl fun _ _ ht => ht.fillCode

theorem Tidy.loaderRecord (ht : Tidy s) {wing cause a : Nat} : Tidy (s.loaderRecord wing cause a) :=
  ht.logFault

theorem Tidy.placingStage (ht : Tidy s) {id : Nat} {t : Launch} : Tidy (s.placingStage id t).1 := by
  unfold State.placingStage
  extract_lets img l p site st r words tile met c
  split
  · exact ht
  · split
    · exact ht
    · split
      · exact ht
      · split
        · exact ht.loaderRecord
        · split
          · exact ht.abortPlacing.loaderRecord
          · split
            · exact ht.abortPlacing
            · split
              · exact ht.abortPlacing
              · exact (ht.foldl fun _ _ ht => ht.fillCode).placeImage.commitPlaced

theorem Tidy.placingFails (ht : Tidy s) {id : Nat} {t : Launch} {word : Word64} :
    Tidy (s.placingFails id t word) :=
  .ite ht.abortPlacing ht

theorem Tidy.placingEnd (ht : Tidy s) {id : Nat} {t : Launch} {word : Word64} :
    Tidy (s.placingEnd id t word).1 := by
  unfold State.placingEnd
  split
  · exact ht.placingStage
  · exact ht.placingFails

theorem Tidy.actOnOutcome (ht : Tidy s) {id : Nat} {t : Launch} {word : Word64} :
    Tidy (s.actOnOutcome id t word) := by
  unfold State.actOnOutcome
  extract_lets st bad s1
  have ht1 : Tidy s1 := ht.update
  exact .ite ht.refuse (Tidy.ite ht1.freePlacing.later ht.finishLaunch)

theorem Tidy.execPlacingOutcome (ht : Tidy s) {launch : Nat} {word : Word64} :
    TidyNext (execPlacingOutcome launch word s) := by
  unfold Machine.execPlacingOutcome
  split
  · exact .next ht
  · split
    · exact .next ht
    · extract_lets r s1
      have ht1 : Tidy s1 := ht.placingEnd.storeFull
      split
      · exact .next ht1.actOnOutcome
      · split
        · exact .next ht1.beginPreempt
        · exact .next ht1

theorem Tidy.preemptLaunch (ht : Tidy s) {id : Nat} : Tidy (s.preemptLaunch id) := by
  unfold State.preemptLaunch
  split
  · exact ht
  · exact .ite ht ((ht.foldl fun _ _ ht => ht.beginPreempt).setLaunch)

theorem Tidy.preemptVictim (ht : Tidy s) {h : Nat} : Tidy (s.preemptVictim h) := by
  unfold State.preemptVictim
  split
  · exact ht.foldl fun _ _ ht => ht.preemptLaunch
  · exact ht

theorem Tidy.claimHalls (ht : Tidy s) {h : Nat} {halls : List Nat} : Tidy (s.claimHalls h halls) :=
  ht.foldl fun _ _ ht => Tidy.ite ht.later ht

theorem Tidy.stepClaims (ht : Tidy s) {id : Nat} {t : Launch} : TidySome (s.stepClaims id t) := by
  unfold State.stepClaims
  extract_lets hs s1
  have ht1 : Tidy s1 := by
    unfold s1
    refine ht.foldl fun s _ ht => ?_
    split
    · exact ht.preemptVictim
    · exact ht.claimHalls
    · exact ht
  split
  · exact .some ht.setLaunch
  · split
    · exact .none
    · exact .some ht1

theorem Tidy.claimPlace (ht : Tidy s) {id : Nat} {place : List Nat} :
    Tidy (s.claimPlace id place) := by
  unfold State.claimPlace
  extract_lets s1
  have ht1 : Tidy s1 := ht.startLaunch.registerGraph
  split
  · exact ht1
  · exact ht1.setLaunch.stepClaims.getD ht1.setLaunch

theorem Tidy.stageLaunch (ht : Tidy s) {id : Nat} {t : Launch} : Tidy (s.stageLaunch id t) := by
  unfold State.stageLaunch
  extract_lets refused s1 img n
  have ht1 : Tidy s1 := ht.stage
  split
  · exact ht.startLaunch.refuse
  · split
    · exact ht1.startLaunch.refuse
    · exact .ite ht1.startLaunch.refuse ht1.setLaunch

theorem Tidy.placeNext (ht : Tidy s) {id : Nat} {t : Launch} {avoid : List Nat} :
    TidySome (s.placeNext id t avoid) := by
  unfold State.placeNext
  extract_lets prio pick
  split
  · split
    · exact ht.stepClaims
    · exact .bind (fun _ => ht.setLaunch.beginPlacing) _
  · split
    · exact .some ht.startLaunch.finishLaunch
    · split
      · exact ht.beginPlacing
      · split
        · exact .none
        · exact .map (fun _ => ht.claimPlace) _

theorem Tidy.tryPlace (ht : Tidy s) {id : Nat} {t : Launch} {avoid : List Nat} :
    TidySome (s.tryPlace id t avoid) := by
  unfold State.tryPlace
  split
  · exact ht.placeNext
  · extract_lets s1
    have ht1 : Tidy s1 := ht.stageLaunch
    split
    · split
      · exact .some ht1
      · exact .some (ht1.placeNext.getD ht1)
    · exact .none

theorem Tidy.restoreValids (ht : Tidy s) {l : Load} : Tidy (s.restoreValids l) :=
  ht.foldl fun _ _ ht => ht.foldl fun _ _ ht => ht.setCfg

theorem Tidy.markRearmed (ht : Tidy s) {cores : List Nat} : Tidy (s.markRearmed cores) :=
  ht.foldl fun _ _ ht => ht.foldl fun _ _ ht => ht.setCtx

theorem Tidy.rearm (ht : Tidy s) {id h : Nat} {t : Launch} {stages : List (Nat × Nat × Nat)} :
    Tidy (s.rearm id h t stages) := by
  unfold State.rearm
  extract_lets s1 l s2 s3 s4 s5
  have ht1 : Tidy s1 := ht.unbindQueues.assignStages
  have ht2 : Tidy s2 := ht1.restoreValids.closeSessions
  have ht3 : Tidy s3 := ht2.setLoad
  have ht4 : Tidy s4 := ht3.setLaunch
  have ht5 : Tidy s5 := ht4.foldl fun _ _ ht => ht.setIdentity
  exact ht5.armLoad.markRearmed.bindLoad

theorem Tidy.startInPlace (ht : Tidy s) {id : Nat} {t : Launch} {h : Nat} :
    TidySome (s.startInPlace id t h) := by
  unfold State.startInPlace
  extract_lets place
  split
  · exact .none
  · exact .some ht.finishLaunch
  · exact .map (fun _ => ht.rearm) _

theorem Tidy.claimRestore (ht : Tidy s) {id : Nat} {t : Launch} {l : Load} {avoid : List Nat} :
    TidySome (s.claimRestore id t l avoid) := by
  unfold State.claimRestore
  split
  · exact .none
  · extract_lets held
    split
    · exact .none
    · exact .some (ht.setLaunch.stepClaims.getD ht.setLaunch)

theorem Tidy.startResident (ht : Tidy s) {id : Nat} {t : Launch} {h : Nat} {avoid : List Nat} :
    TidySome (s.startResident id t h avoid) := by
  unfold State.startResident
  extract_lets l
  split
  · exact ht.startInPlace
  · split
    · exact .none
    · split
      · split
        · exact .none
        · split
          · exact .some ht.finishLaunch
          · exact (Tidy.ite ht ht.restoreHalls).startInPlace
      · split
        · exact .some ht.finishLaunch
        · exact .none
  · exact .none

theorem Tidy.tryResident (ht : Tidy s) {id : Nat} {t : Launch} {avoid : List Nat} :
    TidySome (s.tryResident id t avoid) := by
  unfold State.tryResident
  split
  · exact .some ht.finishLaunch
  · extract_lets idle t s1 s2
    have ht1 : Tidy s1 := ht.setLaunch.startLaunch
    have ht2 : Tidy s2 := ht1.update
    split
    · exact .none
    · split
      · exact ht2.startResident
      · exact .some ht2.finishLaunch

theorem Tidy.tryRelease (ht : Tidy s) {id : Nat} {t : Launch} : TidySome (s.tryRelease id t) := by
  unfold State.tryRelease
  split
  · exact .some ht.finishLaunch
  · split
    · exact .none
    · extract_lets s1 keep s2 s3
      have ht1 : Tidy s1 := ht.startLaunch
      have ht2 : Tidy s2 := by
        unfold s2
        split
        · exact ht1.setLaunch
        · exact ht1
      have ht3 : Tidy s3 := ht2.foldl fun _ _ ht => ht.teardown
      exact .some ht3.update.finishLaunch

theorem Tidy.tryResume (ht : Tidy s) {id : Nat} {t : Launch} {avoid : List Nat} :
    TidySome (s.tryResume id t avoid) := by
  unfold State.tryResume
  split
  · extract_lets waits
    split
    · exact .none
    · exact .some ht.setLaunch
  · extract_lets l s1 r
    have ht1 : Tidy s1 := ht.setLaunch
    split
    · split
      · exact .none
      · split
        · exact ht.stepClaims
        · split
          · exact .some ht1.resumeLoad
          · split
            · exact .none
            · exact ht1.claimRestore
    · exact .some ht.setLaunch
    · exact .none

theorem Tidy.bindPred (ht : Tidy s) {id : Nat} {t : Launch} : Tidy (s.bindPred id t) :=
  .ite ht.setLaunch ht

theorem Tidy.tryStart (ht : Tidy s) {id kind : Nat} {avoid : List Nat} :
    TidySome (s.tryStart id kind avoid) := by
  unfold State.tryStart
  split
  · exact .none
  · split
    · exact .none
    · extract_lets s1 t
      have ht1 : Tidy s1 := ht.bindPred
      split
      · exact ht1.tryPlace
      · split
        · split
          · exact .some ht1.finishLaunch
          · exact ht1.tryPlace
        · split
          · exact ht1.tryResident
          · split
            · exact ht1.tryRelease
            · exact .some ht1.finishLaunch

theorem Tidy.tryCandidate (ht : Tidy s) {id : Nat} {avoid : List Nat} :
    TidySome (s.tryCandidate id avoid) := by
  unfold State.tryCandidate
  split
  · exact .none
  · split
    · exact ht.tryResume
    · split
      · split
        · exact ht.tryResident
        · exact ht.tryPlace
      · split
        · split
          · exact ht.tryStart
          · split
            · exact .some ht.at
            · exact .none
        · exact .none

theorem Tidy.takeCandidate (ht : Tidy s) {wing : Nat} : Tidy (s.takeCandidate wing) :=
  (TidySome.findSome? (fun _ => ht.tryCandidate) _).getD ht

theorem Tidy.execCandidateStart (ht : Tidy s) : TidyNext (execCandidateStart s) := by
  unfold Machine.execCandidateStart
  extract_lets s1 s2 waits queued
  have ht1 : Tidy s1 := ht.foldl fun _ _ ht => ht.readHead
  have ht2 : Tidy s2 := ht1.foldl fun _ _ ht => ht.takeCandidate
  exact .next (Tidy.ite ht2.retry ht2)

theorem Tidy.launchKind (ht : Tidy s) {queue : BitVec 6} {kind : Nat} :
    Tidy (s.launchKind queue kind) := by
  unfold State.launchKind
  split
  · exact ht.tryStart.getD ht
  · exact ht

theorem Tidy.completeLoad (ht : Tidy s) {h : Nat} : Tidy (s.completeLoad h) := by
  unfold State.completeLoad
  split
  · exact ht
  · split
    · exact ht.setLoad
    · extract_lets t last t s1 _ s2
      have ht1 : Tidy s1 := ht.setLaunch
      have ht2 : Tidy s2 := Tidy.ite ht1.teardown ht1.setLoadHalls.setLoad
      exact .ite ht2.finishLaunch ht2.later

theorem Tidy.execLoadComplete (ht : Tidy s) : TidyNext (execLoadComplete s) := by
  unfold Machine.execLoadComplete
  split
  · exact .next ht
  · exact .next (Tidy.ite ht.completeLoad ht.completeLoad.later)

theorem Tidy.execNextLoadStart (ht : Tidy s) : TidyNext (execNextLoadStart s) := by
  unfold Machine.execNextLoadStart
  extract_lets ids go
  split
  · next heq => exact .next (TidySome.findSome? (fun _ => ht.tryCandidate) _ _ heq)
  · exact .next (.ite ht ht.later)

/-! ### Links -/

theorem Tidy.noteLate (ht : Tidy s) {h : Nat} {e : Nat × Nat} : Tidy (State.noteLate h s e) :=
  ht.detEvent.setLoad

theorem Tidy.execAlimExpiry (ht : Tidy s) : TidyNext (execAlimExpiry s) := by
  unfold Machine.execAlimExpiry
  refine .next ?_
  refine ht.foldl fun s _ ht => ?_
  split
  · exact ht.beginPreempt
  · exact ht

theorem Tidy.roundFault (ht : Tidy s) {wing d : Nat} : Tidy (s.roundFault wing d) := ht.faultOutside

theorem Tidy.finishRound (ht : Tidy s) {wing d : Nat} : Tidy (s.finishRound wing d) :=
  ht.storeMarked.setFull.update.foldl fun _ _ ht => ht.sendPacket

theorem Tidy.execCollectiveRound (ht : Tidy s) : TidyNext (execCollectiveRound s) := by
  unfold Machine.execCollectiveRound
  split
  · exact .next ht.finishRound.later
  · exact .next ht.roundFault.later
  · extract_lets whole
    split
    · exact .next ht.retry
    · exact .next ht

theorem Tidy.packetArrived (ht : Tidy s) {port : Nat} {fl : List LinkFlit} :
    Tidy (s.packetArrived port fl) := by
  unfold State.packetArrived
  split
  · exact ht
  · exact ht.newId.update.later

theorem Tidy.acceptFlit (ht : Tidy s) {port : Nat} {f : LinkFlit} : Tidy (s.acceptFlit port f) := by
  unfold State.acceptFlit
  extract_lets s1 t vc got whole s2
  have ht1 : Tidy s1 := by
    unfold s1
    split
    · exact ht.takeCredits
    · exact ht
  have ht2 : Tidy s2 := ht1.setPort
  exact .ite ht2.packetArrived ht2

theorem Tidy.execLinkFlitReceive (ht : Tidy s) {port : Nat} {f : LinkFlit} :
    TidyNext (execLinkFlitReceive port f s) := by
  unfold Machine.execLinkFlitReceive
  extract_lets t far s1
  have ht1 : Tidy s1 := ht.setPort
  split
  · exact .next ht
  · split
    · exact .next ht.acceptFlit
    · split
      · exact .next ht1
      · exact .next ht1.update

theorem Tidy.resend (ht : Tidy s) {port : Nat} {seq : BitVec 12} : Tidy (s.resend port seq) :=
  ht.update

theorem Tidy.execLinkRetry (ht : Tidy s) {port : Nat} {seq : BitVec 12} :
    TidyNext (execLinkRetry port seq s) := by
  unfold Machine.execLinkRetry
  extract_lets t fails failed
  split
  · exact .next ht
  · split
    · exact .next ht.setPort
    · exact .next ht.setPort.resend

theorem Tidy.execLinkRetrainDone (ht : Tidy s) {port : Nat} {up : Bool} :
    TidyNext (execLinkRetrainDone port up s) := by
  unfold Machine.execLinkRetrainDone
  extract_lets t s1
  have ht1 : Tidy s1 := ht.setPort
  split
  · exact .next ht1.resend.pumpPort
  · exact .next ht1

theorem Tidy.memoryPortError (ht : Tidy s) {port : Nat} {e : Nat × Nat × Nat} :
    Tidy (s.memoryPortError port e) :=
  ht.streamFault.setLoad.foldl fun _ _ ht => ht.cutAccess

theorem Tidy.execCxlTimeout (ht : Tidy s) {port : Nat} : TidyNext (execCxlTimeout port s) := by
  unfold Machine.execCxlTimeout
  split
  · exact .next ht.memoryPortError
  · exact .next ht

/-! ### Dispatch -/

/-- Whatever an instruction or event answers is tidy. -/
theorem Tidy.exec (ht : Tidy s) {i : Instr} : TidyNext (exec i s) := by
  cases i <;> dsimp only [Machine.exec]
  case add | sub | mul | mulh | mulhu | and | or | xor | andn | shl | shr | sra | rol | min | max |
    minu | maxu =>
    exact ht.regForm
  case div | divu | rem | remu => exact ht.divForm
  case clz | ctz | popc | addi | andi | ori | xori | shli | shri | srai | lea => exact ht.immForm
  case sel | movi | moviLong | lih | srd => exact ht.scalarForm
  case cmp => exact ht.cmpForm
  case cmpiEq | cmpiNe | cmpiLt | cmpiLtu | cmpiGe | cmpiGeu => exact ht.cmpiForm
  case br | brn => exact ht.branchForm
  case jmp | jr | mwait | twait | trapS => exact ht.issue (fun _ ht => ht)
  case jal | vext | mstat | ld | wget | wavail | wspace => exact ht.issue (fun _ ht => ht.writeX)
  case loop => exact ht.issue (fun _ ht => Tidy.ite ht ht.setCur)
  case pand | por | pxor | pnot | pset => exact ht.predForm
  case swr | wres => exact ht.issue (fun _ ht => ht.setCur)
  case dpop => exact ht.execDpop
  case vadd | vsub | vmul | vmin | vmax | vaddSat | vsubSat | vshl | vshr | vsra =>
    exact ht.typedForm
  case vfma | vfms => exact ht.fusedForm
  case vabs | vneg | vrcp | vrsq | vsqrt | vexp2 | vlog2 => exact ht.unaryForm
  case vcmp | vredarg | vsel | vkpop | vmov | vbcast | vperm | vshuf | vrot | vscale | vscaleApply |
    vrng =>
    exact ht.laneForm
  case vredsum | vredmax | vredmin => exact ht.reduceForm
  case vand | vor | vxor => exact ht.rawForm
  case vkand | vkor | vknot => exact ht.maskForm
  case vins | vcvt | vpack | vunpk | vmaskld => exact ht.issue (fun _ ht => ht.writeRegs)
  case vld | vlds | vgath => exact ht.vloadForm
  case vst | vsts | vscat => exact ht.vstoreForm
  case vsamp | vsampGreedy => exact ht.sampleForm
  case mma | mmas | mmai => exact ht.macForm
  case mzero | mldz | mstz => exact ht.issue (fun _ ht => ht.enqueue)
  case mrdv => exact ht.issue (fun _ ht => ht.setCurK.writeRegs)
  case st => exact ht.issue (fun _ ht => ht.storeVal)
  case wfree => exact ht.issue (fun _ ht => Tidy.ite ht ht.setCur.setWin.sendCredit)
  case wput => exact ht.issue (fun _ ht => ht.putToken)
  case tmovIn => exact ht.issue (fun _ ht => ht.startCopy.later)
  case tmovOut => exact ht.issue (fun _ ht => ht.elasticEffect.startCopy.later)
  case ald => exact ht.issue (fun _ ht => ht.pushEntry.holdAcquire.sendAccess)
  case ast | stf | sete => exact ht.issue (fun _ ht => ht.elasticEffect.sendAccess)
  case acas => exact ht.issue (fun _ ht => ht.sendAtomic)
  case atomAdd | atomSwap | atomAnd | atomOr | atomXor | atomMin | atomMax | atomMaxu =>
    exact ht.atomForm
  case ldf => exact ht.execLdf
  case fence => exact ht.issue (fun _ ht => ht.setCur.mergeOwn)
  case sstart => exact ht.execSstart
  case sstop => exact ht.execSstop
  case sbar => exact ht.issue (fun _ ht => ht.elasticEffect.barStreams)
  case sstat => exact ht.issue (fun _ ht => ht.holdAcquire.deferEntry.later)
  case qclaim => exact ht.execQclaim
  case qput => exact ht.execQput
  case qstat => exact ht.issue (fun _ ht => ht.deferEntry.later)
  case fend =>
    exact ht.issueLanding (fun _ ht => ht) (fun _ ht => ht.endOfFiring.becomeIdle.progress)
  case resume => exact ht.issueLanding (fun _ ht => ht) (fun _ ht => ht.setCur)
  case land => exact ht.issueLanding (fun _ ht => ht.setCur) (fun _ ht => Tidy.ite ht.parkAt ht)
  case mode => exact ht.execMode
  case sig => exact ht.execSig
  case trapN => exact ht.issue (fun _ ht => ht.trapRecord)
  case brk => exact ht.execBrk
  case gopen | gstep | gmask | gclose => exact ht.commandForm
  case gqry => exact ht.issue (fun _ ht => ht.pushEntry.sendCommand)
  case cfgw => exact ht.execCfgw
  case cfgr => exact ht.execCfgr
  case cfgcrc => exact ht.resultForm (fun _ ht => ht)
  case cfgcommit => exact ht.handleForm (fun _ _ _ ht => ht.doCommit)
  case cfgabort => exact ht.execCfgabort
  case rtw => exact ht.issue (fun _ ht => ht.writeRoute)
  case sech | secv => exact ht.issue (fun _ ht => ht.startSecurity)
  case eret => exact ht.execEret
  case preq => exact ht.issue (fun _ ht => ht.doPreq)
  case frz => exact ht.execFrz
  case dmap => exact ht.execDmap
  case resultWriteback => exact .next ht.setCtx
  case deferredResultArrival => exact .next ht.arrive
  case firingStart => exact ht.execFiringStart
  case guardPoison => exact ht.execGuardPoison
  case windowClosed => exact ht.execWindowClosed
  case claimRequest => exact ht.execClaimRequest
  case claimDecide => exact ht.execClaimDecide
  case claimAnswer => exact ht.execClaimAnswer
  case queueSlotCommit => exact ht.execQueueSlotCommit
  case claimCopyRetire => exact ht.execClaimCopyRetire
  case queueCredit => exact ht.execQueueCredit
  case queueClose => exact ht.execQueueClose
  case routerForward => exact ht.execRouterForward
  case tokenCommit => exact ht.execTokenCommit
  case wputReadDone | admissionWindowStart => exact .next ht.update
  case creditArrival => exact ht.execCreditArrival
  case closePacketArrival => exact ht.execClosePacketArrival
  case commitAck => exact ht.execCommitAck
  case tmovRetire => exact ht.execTmovRetire
  case matrixCommandStart | matrixStreamEnd => exact .next ht.setCore
  case matrixCommandRetire => exact ht.execMatrixCommandRetire
  case resultAreaWrite => exact ht.execResultAreaWrite
  case corridorArrival => exact ht.execCorridorArrival
  case corridorApply => exact ht.execCorridorApply
  case drainStart => exact ht.execDrainStart
  case streamToken => exact ht.execStreamToken
  case orderedAccessPerform => exact ht.execOrderedAccessPerform
  case walkResult => exact ht.execWalkResult
  case rewalk => exact ht.execRewalk
  case flimExpiry => exact ht.execFlimExpiry
  case invalidatePage => exact ht.execInvalidatePage
  case invalidateRegion => exact ht.execInvalidateRegion
  case invalidateAsn => exact ht.execInvalidateAsn
  case invalidateAll => exact ht.execInvalidateAll
  case preemptFlagSet => exact ht.execPreemptFlagSet
  case hallWriteOut => exact ht.execHallWriteOut
  case freezeArrival => exact ht.execFreezeArrival
  case stopFlagArrival => exact ht.execStopFlagArrival
  case hang => exact ht.execHang
  case moveEntriesValid => exact ht.execMoveEntriesValid
  case benRestart => exact .next ht.setSysCfg.update.clockEvent.clockEvent
  case grammarCommandPerform => exact ht.execGrammarCommandPerform
  case doorbellWrite => exact ht.execDoorbellWrite
  case launchCold | launchColdResident | launchResidentRun | launchRelease =>
    exact .next ht.launchKind
  case msixUnmask => exact ht.execMsixUnmask
  case placingOutcome => exact ht.execPlacingOutcome
  case bar2Write => exact ht.execBar2Write
  case bar2Read => exact ht.execBar2Read
  case registerWrite => exact ht.execRegisterWrite
  case voltageReplan => exact ht.execVoltageReplan
  case thermalTrip | powerTrip => exact .next (Tidy.ite ht.update.at ht.update)
  case selfTestDone => exact ht.execSelfTestDone
  case cxlTimeout => exact ht.execCxlTimeout
  case cxlLinkDown => exact .next (ht.update.foldl fun _ _ ht => ht.memoryPortError)
  case linkFlitReceive => exact ht.execLinkFlitReceive
  case linkRetry => exact ht.execLinkRetry
  case linkRetrainDone => exact ht.execLinkRetrainDone
  case accessReachesBank => exact ht.execAccessReachesBank
  case sramError => exact ht.execSramError
  case powerEnvelopeControl => exact .next ht.setSysCfg
  case balanceSample => exact .next (ht.foldl fun _ _ ht => ht.foldl fun _ _ ht => ht.sampleStage)
  case balanceIntervalEnd => exact .next (ht.foldl fun _ _ ht => ht.endInterval)
  case loadStopped => exact ht.execLoadStopped
  case preqComplete => exact ht.pollPreempt (fun _ _ ht => ht.suspendLoad)
  case pageStall | arcLate => exact ht.pollPreempt (fun _ _ ht => ht.lateStop)
  case loadComplete => exact ht.execLoadComplete
  case drainTargetSet => exact ht.execDrainTargetSet
  case quiescentPoint => exact ht.execQuiescentPoint
  case candidateStart => exact ht.execCandidateStart
  case nextLoadStart => exact ht.execNextLoadStart
  case completionWord => exact ht.execCompletionWord
  case invalidationComplete => exact ht.execInvalidationComplete
  case stageRetire => exact ht.execStageRetire
  case outputQueueClose => exact ht.execOutputQueueClose
  case moveBoundary => exact ht.execMoveBoundary
  case collectiveRound => exact ht.execCollectiveRound
  case arcTolerance => exact .next (ht.foldl fun _ _ ht => ht.foldl fun _ _ ht => ht.noteLate)
  case alimExpiry => exact ht.execAlimExpiry
  case collectiveTolerance => exact .next (ht.foldl fun _ _ ht => ht.detEvent)
  case collectiveLimit => exact .next (ht.foldl fun _ _ ht => Tidy.ite ht.beginPreempt ht)
  case healthRead => exact ht.execHealthRead
  case enterSafeState => exact ht.execEnterSafeState
  case powerOn => exact ht.execPowerOn
  case powerOff => exact ht.execPowerOff

/-! ### Cycle -/

theorem Tidy.focus (ht : Tidy s) {c x : Nat} : Tidy (s.focus c x) := ht.update

theorem Tidy.attempt (ht : Tidy s) {c x : Nat} : TidyNext (s.attempt c x) := by
  unfold State.attempt
  extract_lets s1
  have ht1 : Tidy s1 := ht.focus
  split
  · split
    · exact .next ht1
    · exact .next ht1.takeFault
  · exact ht1.exec

theorem Tidy.fixYield (ht : Tidy s) {c x : Nat} : Tidy (s.fixYield c x) := by
  unfold State.fixYield
  extract_lets t now
  split
  · split <;> exact ht.setCtx
  · exact ht

theorem Tidy.issueSlot (ht : Tidy s) {c : Nat} : TidyNext (s.issueSlot c) := by
  unfold State.issueSlot
  extract_lets s1
  have ht1 : Tidy s1 := ht.foldl fun _ _ ht => ht.fixYield
  split
  · exact ht1.attempt
  · exact .next ht1

theorem Tidy.fireSlot (ht : Tidy s) {c : Nat} {rest : List Slot} :
    TidyNext (s.fireSlot c rest) := by
  unfold State.fireSlot
  split
  · exact .next ht.update.updateWaits
  · exact ht.exec
  · exact ht.update.exec
  · exact ht.update.updateWaits.exec

theorem Tidy.runEvent (ht : Tidy s) {i : Instr} : TidyNext (s.runEvent i) := by
  unfold State.runEvent
  split
  · exact .fault
  · split
    · exact .next ht
    · exact ht.exec

theorem Tidy.countLoad (ht : Tidy s) {h : Nat} : Tidy (s.countLoad h) := by
  unfold State.countLoad
  extract_lets l on s1
  have ht1 : Tidy s1 := ht.setLoad
  exact .ite ht (Tidy.ite (ht1.foldl fun _ _ ht => ht.setCore) ht1)

theorem Tidy.stepTimers (ht : Tidy s) : Tidy s.stepTimers := by
  unfold State.stepTimers
  extract_lets s1 s2
  have ht1 : Tidy s1 := ht.foldl fun _ _ ht => ht.setLoad
  have ht2 : Tidy s2 := Tidy.ite ht1.at ht1
  exact .ite ht2.at ht2

theorem Tidy.noticeDone (ht : Tidy s) : Tidy s.noticeDone := .ite ht.later ht

theorem Tidy.tick (ht : Tidy s) : Tidy s.tick := by
  unfold State.tick
  split
  · exact ht.update.takeInputs
  · extract_lets hangs s1 s2 s3 s4 s5
    have ht1 : Tidy s1 := ht.returnCredits
    have ht2 : Tidy s2 := ht1.update.takeInputs
    have ht3 : Tidy s3 := ht2.foldl fun _ _ ht => ht.countLoad
    have ht4 : Tidy s4 := ht3.foldl fun _ _ ht => ht.at
    have ht5 : Tidy s5 := ht4.noticeDone
    exact ht5.update

theorem Tidy.nextSlot (ht : Tidy s) : TidyNext s.nextSlot := by
  unfold State.nextSlot
  split
  · exact .next ht.update.stepTimers
  · exact ht.fireSlot
  · exact ht.update.issueSlot
  · exact .next ht.tick

theorem Tidy.advanceMachine (ht : Tidy s) : TidyNext s.advanceMachine := by
  unfold State.advanceMachine
  split
  · exact ht.exec
  · split
    · split
      · exact ht.update.runEvent
      · exact ht.nextSlot
    · exact ht.nextSlot

/-! ### Step -/

theorem Tidy.step (ht : Tidy s) : TidyNext (step s) := ht.advanceMachine

/-- Settles O55: every operation of the model keeps the canonical form, and a step is made of them. -/
theorem stepsKeepTheCanonicalForm : Obligations.StepsKeepTheCanonicalForm :=
  fun _ t ht h => ht.step t h

end Sys2Proof.Machine

namespace Sys2Proof.Machine

variable {s t : State}

/-! ### What the proofs about power and health share -/

/-- What no step of a fold moves, the fold does not move. -/
theorem foldl_keeps {α β : Type} (g : State → β) {f : State → α → State}
    (hf : ∀ s a, g (f s a) = g s) (l : List α) (s : State) : g (l.foldl f s) = g s := by
  induction l generalizing s with
  | nil => rfl
  | cons a l ih => rw [List.foldl_cons, ih, hf]

theorem steps_eq_range' (first step n : Nat) : steps first step n = List.range' first n step := by
  induction n generalizing first with
  | zero => rfl
  | succ n ih => rw [steps, List.range', ih]

theorem mem_steps {i n m : Nat} : i ∈ steps m 1 n ↔ m ≤ i ∧ i < m + n := by
  rw [steps_eq_range', List.mem_range'_1]

theorem mem_agendaInsert (due : Nat) (i : Instr) (a : List (Nat × Instr)) :
    (due, i) ∈ agendaInsert due i a := by
  induction a with
  | nil => exact List.mem_singleton_self _
  | cons e a ih =>
    simp only [agendaInsert]
    split
    · exact List.mem_cons_self
    · exact List.mem_cons_of_mem _ ih

theorem State.mem_at (s : State) (due : Nat) (i : Instr) : (due, i) ∈ (s.at due i).agenda :=
  mem_agendaInsert ..

/-! ### Fields of a word -/

theorem bits_lt (w : Word64) (lo n : Nat) : bits w lo n < 2 ^ n := Nat.mod_lt _ (by positivity)

/-- A field put into a word reads back. -/
theorem bits_withBits (w : Word64) {lo n : Nat} (h : lo + n ≤ 64) (v : Nat) :
    bits (withBits w lo n v) lo n = v % 2 ^ n := by
  have hw : w.toNat / 2 ^ lo / 2 ^ n < 2 ^ (64 - lo - n) := by
    rw [Nat.div_div_eq_div_mul, ← pow_add, Nat.div_lt_iff_lt_mul (by positivity), ← pow_add]
    exact lt_of_lt_of_eq w.isLt (by congr 1; omega)
  have hq := Nat.div_add_mod (w.toNat / 2 ^ lo) (2 ^ n)
  have ha := Nat.div_add_mod w.toNat (2 ^ lo)
  have hlo := Nat.mod_lt w.toNat (y := 2 ^ lo) (by positivity)
  have hv := Nat.mod_lt v (y := 2 ^ n) (by positivity)
  set c := w.toNat / 2 ^ lo / 2 ^ n
  set a := w.toNat % 2 ^ lo
  set u := v % 2 ^ n
  have key : w.toNat - bits w lo n * 2 ^ lo + u * 2 ^ lo = (2 ^ n * c + u) * 2 ^ lo + a := by
    have : w.toNat = (2 ^ n * c + bits w lo n) * 2 ^ lo + a := by
      rw [bits, hq, Nat.mul_comm, ha]
    rw [Nat.add_mul] at this ⊢
    omega
  have hlt : (2 ^ n * c + u) * 2 ^ lo + a < 2 ^ 64 := by
    have h1 : 2 ^ n * c + u < 2 ^ (64 - lo) := by
      have : 2 ^ n * (c + 1) ≤ 2 ^ n * 2 ^ (64 - lo - n) := Nat.mul_le_mul_left _ hw
      rw [← pow_add, show n + (64 - lo - n) = 64 - lo by omega, Nat.mul_add] at this
      omega
    have h2 : (2 ^ n * c + u + 1) * 2 ^ lo ≤ 2 ^ (64 - lo) * 2 ^ lo := Nat.mul_le_mul_right _ h1
    rw [← pow_add, show 64 - lo + lo = 64 by omega, Nat.add_mul] at h2
    omega
  rw [withBits, key, bits, BitVec.toNat_ofNat, Nat.mod_eq_of_lt hlt,
    Nat.add_comm, Nat.add_mul_div_right _ _ (by positivity), Nat.div_eq_of_lt hlo, Nat.zero_add,
    Nat.mul_add_mod, Nat.mod_eq_of_lt hv]

theorem bitAt_eq_bits (w : Word64) (n : Nat) : bitAt w n = (bits w n 1 == 1) := by
  rw [bitAt, bits, ← BitVec.testBit_toNat, Nat.testBit_eq_decide_div_mod_eq]
  rfl

/-- The record of a hall that has failed or is retired: HOK 0 and no user hall number. -/
theorem bits_retired (w : Word64) :
    bitAt (withBits (withBits w 17 1 0) 24 8 0xFF) 17 = false ∧
      bits (withBits (withBits w 17 1 0) 24 8 0xFF) 24 8 = 255 := by
  refine ⟨?_, bits_withBits _ (by decide) _⟩
  have h17 := bits_withBits w (lo := 17) (n := 1) (by decide) 0
  rw [bitAt_eq_bits]
  generalize withBits w 17 1 0 = u at h17 ⊢
  have := u.isLt
  rw [beq_eq_false_iff_ne]
  simp only [bits, withBits, BitVec.toNat_ofNat] at h17 ⊢
  omega

/-! ### The defect map -/

@[simp] theorem State.dmapAt_setDmap (s : State) (hk : Nat) (v : Word64) :
    (s.setDmap hk v).dmapAt hk = v := mapGet_put ..

@[simp] theorem State.signMap_dmap (s : State) : s.signMap.dmap = s.dmap := rfl

@[simp] theorem State.resigned_dmap (s t : State) : (s.resigned t).dmap = t.dmap := by
  unfold State.resigned
  split <;> rfl

@[simp] theorem State.resigned_cycle (s t : State) : (s.resigned t).cycle = t.cycle := by
  unfold State.resigned
  split <;> rfl

theorem State.resigned_self (s : State) : s.resigned s = s := if_pos rfl

theorem dmapAt_congr (h : t.dmap = s.dmap) (hk : Nat) : t.dmapAt hk = s.dmapAt hk := by
  rw [State.dmapAt, h, State.dmapAt]

theorem State.assignSpares_of_none {wing : Nat} (h : s.unusedNumbers wing = []) :
    s.assignSpares wing = s := by
  rw [State.assignSpares, h]
  rfl

/-! ### Voltages (R474) and the retirement of a hall (R475, R476) -/

theorem exec_voltageReplan_some {v : BitVec 8} (hlo : -16 ≤ v.toInt) (hhi : v.toInt ≤ 20)
    (s : State) (wing hall : Nat) :
    exec (.voltageReplan wing hall (some v)) s = .next (s.stepVoff wing hall v) :=
  if_neg (by omega)

/-- Where no user hall number is free, a re-plan without an offset is the plan alone. -/
theorem exec_voltageReplan_none {wing : Nat} (h : s.unusedNumbers wing = []) (hall : Nat) :
    exec (.voltageReplan wing hall none) s = .next (s.planVoff wing hall) := by
  have hs : s.resigned (s.assignSpares wing) = s := by
    rw [State.assignSpares_of_none h, State.resigned_self]
  change Host.Outcome.next ((if s.retiring (wing * 128 + hall) then s
    else s.resigned (s.assignSpares wing)).planVoff wing hall) = _
  rw [hs, ite_self]

theorem State.dmapAt_stepVoff (s : State) (wing hall : Nat) (v : BitVec 8) :
    (s.stepVoff wing hall v).dmapAt (wing * 128 + hall) =
      (stepVoltage (s.dmapAt (wing * 128 + hall)) v).1 := by
  unfold State.stepVoff
  dsimp only
  split
  · exact (dmapAt_congr ((State.at_dmap ..).trans (State.resigned_dmap ..)) _).trans
      (State.dmapAt_setDmap ..)
  · next h =>
    rw [not_not.1 h]
    split <;> rfl

theorem State.stepVoff_of_ne {wing hall : Nat} {v : BitVec 8}
    (h : (stepVoltage (s.dmapAt (wing * 128 + hall)) v).1 ≠ s.dmapAt (wing * 128 + hall)) :
    s.stepVoff wing hall v = (s.resigned (s.setDmap (wing * 128 + hall)
      (stepVoltage (s.dmapAt (wing * 128 + hall)) v).1)).at (s.cycle + 1050)
        (.voltageReplan wing hall (some v)) := if_pos h

/-- The offset of a record after one step toward a plan. -/
def nextVoff (now v : BitVec 8) : BitVec 8 :=
  if now.toInt < v.toInt then now + 1 else if v.toInt < now.toInt then now - 1 else now

theorem bits_stepVoltage (d : Word64) (v : BitVec 8) :
    bits (stepVoltage d v).1 32 8 = (nextVoff (BitVec.ofNat 8 (bits d 32 8)) v).toNat :=
  (bits_withBits d (by decide) _).trans (Nat.mod_eq_of_lt (BitVec.isLt _))

/-- Only an offset that stands at its plan makes no step. -/
theorem eq_of_nextVoff_eq {now v : BitVec 8} (h : nextVoff now v = now) : now = v := by
  unfold nextVoff at h
  split at h
  · exact absurd h (by bv_omega)
  · split at h
    · exact absurd h (by bv_omega)
    · exact BitVec.eq_of_toInt_eq (by omega)

theorem stepVoltage_ne {d : Word64} {v : BitVec 8}
    (h : nextVoff (BitVec.ofNat 8 (bits d 32 8)) v ≠ v) : (stepVoltage d v).1 ≠ d := by
  intro he
  have hb := bits_stepVoltage d v
  rw [he] at hb
  have hn : nextVoff (BitVec.ofNat 8 (bits d 32 8)) v = BitVec.ofNat 8 (bits d 32 8) := by
    rw [← BitVec.toNat_inj, ← hb, BitVec.toNat_ofNat, Nat.mod_eq_of_lt (bits_lt d 32 8)]
  exact h (hn.trans (eq_of_nextVoff_eq hn))

theorem voltageReplan_steps {v : BitVec 8} (hlo : -16 ≤ v.toInt) (hhi : v.toInt ≤ 20)
    (s : State) (wing hall : Nat) :
    let next := nextVoff (BitVec.ofNat 8 (bits (s.dmapAt (wing * 128 + hall)) 32 8)) v
    ∃ t, exec (.voltageReplan wing hall (some v)) s = .next t ∧
      bits (t.dmapAt (wing * 128 + hall)) 32 8 = next.toNat ∧
      (next ≠ v → (s.cycle + 1050, .voltageReplan wing hall (some v)) ∈ t.agenda) := by
  refine ⟨_, exec_voltageReplan_some hlo hhi s wing hall, ?_, fun h => ?_⟩
  · rw [State.dmapAt_stepVoff, bits_stepVoltage]
  · rw [State.stepVoff_of_ne (stepVoltage_ne h), State.at_agenda]
    exact mem_agendaInsert ..

/-- A plan by the monitors lies within the range of VOFF. -/
theorem State.plannedVoff_range {hk : Nat} {v : BitVec 8} (h : s.plannedVoff hk = some v) :
    -16 ≤ v.toInt ∧ v.toInt ≤ 20 := by
  obtain ⟨i, hi, rfl⟩ := Option.map_eq_some_iff.1 h
  have hlt := (mem_steps.1 (List.mem_of_find?_eq_some hi)).2
  have hall : ∀ i < 37, -16 ≤ (BitVec.ofNat 8 (i + 256 - 16)).toInt ∧
      (BitVec.ofNat 8 (i + 256 - 16)).toInt ≤ 20 := by decide
  exact hall i (by omega)

/-- The events that a new plan of a hall's offset takes the place of. -/
def movesVoff (wing hall : Nat) (i : Instr) : Bool :=
  match i with
  | .voltageReplan w n (some _) => w == wing && n == hall
  | _ => false

/-- A state without them. -/
def State.dropMoves (s : State) (wing hall : Nat) : State :=
  { s with agenda := s.agenda.filter fun e => !movesVoff wing hall e.2 }

theorem State.planVoff_retires {wing hall : Nat}
    (hp : s.plannedVoff (wing * 128 + hall) = none)
    (hb : bits (s.dmapAt (wing * 128 + hall)) 32 8 = 20) :
    s.planVoff wing hall = (s.dropMoves wing hall).retire wing hall := by
  have hp' : (s.dropMoves wing hall).plannedVoff (wing * 128 + hall) = none := hp
  change (match (s.dropMoves wing hall).plannedVoff (wing * 128 + hall) with
    | some _ => _
    | none => if bits (s.dmapAt (wing * 128 + hall)) 32 8 = 20 then _ else _) = _
  rw [hp']
  exact if_pos hb

theorem State.planVoff_of_planned {wing hall : Nat} {v : BitVec 8}
    (hw : ∀ e ∈ s.agenda, movesVoff wing hall e.2 = false)
    (hv : s.plannedVoff (wing * 128 + hall) = some v) :
    s.planVoff wing hall = s.stepVoff wing hall v := by
  have hs : s.dropMoves wing hall = s := by
    have : s.agenda.filter (fun e => !movesVoff wing hall e.2) = s.agenda :=
      List.filter_eq_self.2 fun e he => by rw [hw e he]; rfl
    rw [State.dropMoves, this]
  have hd : s.agenda.find? (fun e => movesVoff wing hall e.2) = none :=
    List.find?_eq_none.2 fun e he => by simp [hw e he]
  change (match (s.dropMoves wing hall).plannedVoff (wing * 128 + hall) with
    | some v => match (s.agenda.find? fun e : Nat × Instr => movesVoff wing hall e.2).map Prod.fst with
      | some _ => _
      | none => (s.dropMoves wing hall).stepVoff wing hall v
    | none => _) = _
  rw [hs, hv, hd]
  rfl

theorem voltageReplan_planned {wing hall : Nat} {v : BitVec 8} (hu : s.unusedNumbers wing = [])
    (hv : s.plannedVoff (wing * 128 + hall) = some v)
    (hw : ∀ e ∈ s.agenda, movesVoff wing hall e.2 = false) :
    exec (.voltageReplan wing hall none) s = exec (.voltageReplan wing hall (some v)) s := by
  obtain ⟨hlo, hhi⟩ := State.plannedVoff_range hv
  rw [exec_voltageReplan_none hu, exec_voltageReplan_some hlo hhi, State.planVoff_of_planned hw hv]

theorem State.retire_of_free {wing hall : Nat} (hok : bitAt (s.dmapAt (wing * 128 + hall)) 17 = true)
    (hc : (s.launches.any fun t => t.2.claimed.contains (wing * 128 + hall)) = false)
    (ho : s.ownerOf (wing * 128 + hall) = none) :
    s.retire wing hall = s.retireHall (wing * 128 + hall) := by
  simp only [State.retire, hok, hc, ho, Bool.not_true, Bool.false_eq_true, if_false]

theorem State.retn_retireHall (s : State) (hk : Nat) : (s.retireHall hk).retn = s.retn + 1 := rfl

theorem State.dmapAt_retireHall (s : State) (hk : Nat) :
    (s.retireHall hk).dmapAt hk = withBits (withBits (s.dmapAt hk) 17 1 0) 24 8 0xFF :=
  State.dmapAt_setDmap s hk _

theorem voltageReplan_retires {wing hall : Nat}
    (hok : bitAt (s.dmapAt (wing * 128 + hall)) 17 = true) (hu : s.unusedNumbers wing = [])
    (ho : s.ownerOf (wing * 128 + hall) = none) (hp : s.plannedVoff (wing * 128 + hall) = none)
    (hb : bits (s.dmapAt (wing * 128 + hall)) 32 8 = 20)
    (hc : (s.launches.any fun t => t.2.claimed.contains (wing * 128 + hall)) = false) :
    ∃ t, exec (.voltageReplan wing hall none) s = .next t ∧ t.retn = s.retn + 1 ∧
      bitAt (t.dmapAt (wing * 128 + hall)) 17 = false ∧
      bits (t.dmapAt (wing * 128 + hall)) 24 8 = 255 := by
  have hr : s.planVoff wing hall = (s.dropMoves wing hall).retireHall (wing * 128 + hall) :=
    (State.planVoff_retires hp hb).trans (State.retire_of_free hok hc ho)
  refine ⟨_, exec_voltageReplan_none hu hall, ?_⟩
  rw [hr, State.retn_retireHall, State.dmapAt_retireHall]
  exact ⟨rfl, bits_retired _⟩

/-! ### Power (R9, R470), trips and the limiter's word (R304, R472, R473) -/

theorem powerOff_ends (s : State) : ∃ t, exec .powerOff s = .next t ∧
    t.power = false ∧ t.mem = [] ∧ t.loads = [] ∧ t.cores = [] :=
  ⟨s.unpowered false .selfTest, rfl, rfl, rfl, rfl, rfl⟩

theorem powerOn_starts (h : s.power = false) : ∃ t, exec .powerOn s = .next t ∧
    t.power = true ∧ t.dev = .selfTest ∧ t.mem = [] ∧ t.loads = [] :=
  ⟨s.unpowered true .selfTest, if_neg (by simp [h]), rfl, rfl, rfl, rfl⟩

theorem thermalTrip_trips (s : State) (tj : BitVec 8) : ∃ t, exec (.thermalTrip tj) s = .next t ∧
    t.tj = tj ∧ (105 ≤ tj.toNat → (s.cycle, .enterSafeState) ∈ t.agenda) ∧
    (tj.toNat < 105 → t.agenda = s.agenda) := by
  refine ⟨if 105 ≤ tj.toNat then ({ s with tj := tj } : State).at s.cycle .enterSafeState
    else { s with tj := tj }, rfl, ?_, fun h => ?_, fun h => ?_⟩
  · split <;> rfl
  · rw [if_pos h]
    exact State.mem_at ..
  · rw [if_neg (by omega)]

theorem powerTrip_trips (s : State) (pwr : BitVec 16) : ∃ t, exec (.powerTrip pwr) s = .next t ∧
    t.pwr = pwr ∧ (2640 < pwr.toNat → (s.cycle, .enterSafeState) ∈ t.agenda) ∧
    (pwr.toNat ≤ 2640 → t.agenda = s.agenda) := by
  refine ⟨if 2640 < pwr.toNat then ({ s with pwr := pwr } : State).at s.cycle .enterSafeState
    else { s with pwr := pwr }, rfl, ?_, fun h => ?_, fun h => ?_⟩
  · split <;> rfl
  · rw [if_pos h]
    exact State.mem_at ..
  · rw [if_neg (by omega)]

theorem sysCfg_setSysCfg (h : Tidy s) (wing off : Nat) (v : Word64) :
    (s.setSysCfg wing off v).sysCfg wing off = v :=
  mapGet_putD _ _ _ h.cfgSorted

theorem powerEnvelopeControl_sets (s : State) (wing : Nat) (afl : Word32) :
    ∃ t, exec (.powerEnvelopeControl wing afl) s = .next t ∧ t.mem = s.mem ∧
      (Tidy s → bits (t.sysCfg wing 385) 0 32 = (s.nextAfl wing afl).toNat ∧
        (s.pwr.toNat ≤ min s.plim.toNat 2400 → s.nextAfl wing afl = afl)) := by
  refine ⟨_, rfl, rfl, fun h => ⟨?_, fun hp => if_pos hp⟩⟩
  rw [sysCfg_setSysCfg h, bits_withBits _ (by decide), Nat.mod_eq_of_lt (BitVec.isLt _)]

/-! ### The end of the self-test (R470, R471, R477) -/

/-- A self-test marks halls in the defect map and leaves the rest of the state. -/
theorem State.markFailed_keeps {β : Type} (g : State → β) (hg : ∀ s hk v, g (s.setDmap hk v) = g s)
    (s : State) (failed : List Nat) : g (s.markFailed failed) = g s := by
  have ha : ∀ s wing, g (State.assignSpares s wing) = g s := fun s wing =>
    foldl_keeps g (fun s e => hg s _ _) _ s
  exact (foldl_keeps g ha _ _).trans (foldl_keeps g (fun s hk => hg s _ _) _ s)

theorem State.firmwareGood_congr (hk : t.keys = s.keys) (hf : t.firmware.image = s.firmware.image)
    (hs : t.firmware.sig = s.firmware.sig) : t.firmwareGood = s.firmwareGood := by
  simp only [State.firmwareGood, State.verify, hk, hf, hs]

theorem State.firmwareGood_markFailed (s : State) (failed : List Nat) :
    (s.markFailed failed).signMap.firmwareGood = s.firmwareGood := by
  have hf := State.markFailed_keeps (·.firmware) (fun _ _ _ => rfl) s failed
  exact State.firmwareGood_congr (State.markFailed_keeps (·.keys) (fun _ _ _ => rfl) s failed)
    (congrArg (·.image) hf) (congrArg (·.sig) hf)

/-- The state after a self-test, whose halls are marked and whose map is signed. -/
def State.tested (s : State) (r : SelfTest) : State :=
  match s.failingBlock r with
  | some b => { s with dev := .vestibule, failBlk := BitVec.ofNat 16 b }
  | none =>
    let s := s.loadKeys
    { s with dev := .running, cycle := 0,
             agenda := s.agenda.map (fun e => (e.1 - s.cycle, e.2)),
             outside := s.outside.map fun e => (e.1 - s.cycle, e.2) }

theorem exec_selfTestDone (hp : s.power = true) (hd : s.dev = .selfTest) (r : SelfTest) :
    exec (.selfTestDone r) s = .next ((s.markFailed r.halls).signMap.tested r) := by
  change (if !s.power || s.dev != .selfTest then _
    else match (s.markFailed r.halls).signMap.failingBlock r with
      | some _ => _
      | none => _) = _
  rw [if_neg (by simp [hp, hd]), State.tested]
  cases (s.markFailed r.halls).signMap.failingBlock r <;> rfl

theorem State.tested_dmap (s : State) (r : SelfTest) : (s.tested r).dmap = s.dmap := by
  unfold State.tested
  split <;> rfl

theorem State.tested_fails {r : SelfTest} {b : Nat} (h : s.failingBlock r = some b) :
    (s.tested r).dev = .vestibule ∧ (s.tested r).failBlk = BitVec.ofNat 16 b := by
  rw [State.tested, h]
  exact ⟨rfl, rfl⟩

theorem State.tested_passes {r : SelfTest} (h : s.failingBlock r = none) :
    (s.tested r).dev = .running ∧ (s.tested r).cycle = 0 ∧ (s.tested r).keys = s.loadKeys.keys := by
  rw [State.tested, h]
  exact ⟨rfl, rfl, rfl⟩

theorem State.failingBlock_firmware (h : s.firmwareGood = false) (r : SelfTest) :
    s.failingBlock r = some 3 := by
  simp [State.failingBlock, h]

theorem State.failingBlock_baseDie {r : SelfTest} (h : s.firmwareGood = true)
    (hb : r.baseDie = false) : s.failingBlock r = some 1 := by
  simp [State.failingBlock, h, hb]

theorem State.failingBlock_security {r : SelfTest} (h : s.firmwareGood = true)
    (hb : r.baseDie = true) (hs : r.security = false) : s.failingBlock r = some 2 := by
  simp [State.failingBlock, h, hb, hs]

theorem State.failingBlock_stack {r : SelfTest} {n : Nat} (h : s.firmwareGood = true)
    (hb : r.baseDie = true) (hs : r.security = true)
    (hf : (steps 0 1 8).find? r.hbm.contains = some n) : s.failingBlock r = some (0x100 + n) := by
  simp only [State.failingBlock, h, hb, hs, hf, Bool.not_true, Bool.false_eq_true, if_false]

theorem State.failingBlock_wing {r : SelfTest} (h : s.firmwareGood = true)
    (hb : r.baseDie = true) (hs : r.security = true)
    (hf : (steps 0 1 8).find? r.hbm.contains = none) :
    s.failingBlock r = s.shortWing.map fun w => 0x200 + w := by
  simp only [State.failingBlock, h, hb, hs, hf, Bool.not_true, Bool.false_eq_true, if_false]

/-- The first stack that has failed. -/
theorem find_steps_eq_some {p : Nat → Bool} {n : Nat} (hn : n < 8) (hp : p n = true)
    (hlt : ∀ k < n, p k = false) : (steps 0 1 8).find? p = some n := by
  rw [steps_eq_range', ← List.range_eq_range', List.find?_range_eq_some]
  exact ⟨hp, List.mem_range.2 hn, fun k hk => by simp [hlt k hk]⟩

theorem find_steps_eq_none {p : Nat → Bool} (h : ∀ k < 8, p k = false) :
    (steps 0 1 8).find? p = none :=
  List.find?_eq_none.2 fun k hk => by simp [h k (mem_steps.1 hk).2]

theorem selfTestDone_reports (hp : s.power = true) (hd : s.dev = .selfTest) (r : SelfTest) (n : Nat) :
    let m := s.markFailed r.halls
    ∃ t, exec (.selfTestDone r) s = .next t ∧ t.dmap = m.dmap ∧
      (s.firmwareGood = false → t.dev = .vestibule ∧ t.failBlk = 3) ∧
      (s.firmwareGood = true →
        (r.baseDie = false → t.dev = .vestibule ∧ t.failBlk = 1) ∧
        (r.baseDie = true → r.security = false → t.dev = .vestibule ∧ t.failBlk = 2) ∧
        (r.baseDie = true → r.security = true →
          (n < 8 → n ∈ r.hbm → (∀ k < n, k ∉ r.hbm) →
            t.dev = .vestibule ∧ t.failBlk = BitVec.ofNat 16 (0x100 + n)) ∧
          ((∀ k < 8, k ∉ r.hbm) →
            (∀ w, m.shortWing = some w →
              t.dev = .vestibule ∧ t.failBlk = BitVec.ofNat 16 (0x200 + w)) ∧
            (m.shortWing = none → t.dev = .running ∧ t.cycle = 0 ∧ t.keys = m.loadKeys.keys)))) := by
  have hm := s.firmwareGood_markFailed r.halls
  refine ⟨_, exec_selfTestDone hp hd r, State.tested_dmap _ r, fun hg => ?_, fun hg => ?_⟩
  · exact State.tested_fails (State.failingBlock_firmware (hm.trans hg) r)
  · have hg' := hm.trans hg
    refine ⟨fun hb => State.tested_fails (State.failingBlock_baseDie hg' hb),
      fun hb hs => State.tested_fails (State.failingBlock_security hg' hb hs),
      fun hb hs => ⟨fun hn hin hlt => State.tested_fails ?_, fun hnone => ?_⟩⟩
    · exact State.failingBlock_stack hg' hb hs
        (find_steps_eq_some hn (by simpa using hin) (by simpa using hlt))
    · have hf := State.failingBlock_wing hg' hb hs (find_steps_eq_none (by simpa using hnone))
      exact ⟨fun w hw => State.tested_fails (hf.trans (congrArg (Option.map _) hw)),
        fun hw => State.tested_passes (hf.trans (congrArg (Option.map _) hw))⟩

/-! ### The safe state (R473) -/

theorem storeMarked_keeps {β : Type} (g : State → β)
    (hg : ∀ (s : State) mem poison dirty saved,
      g { s with mem := mem, poison := poison, dirty := dirty, saved := saved } = g s)
    (s : State) (key : Nat) (d : List Byte) (po : List Nat) : g (s.storeMarked key d po) = g s := by
  have ht : ∀ (s : State) n, g (touchLines s key n) = g s := fun s n => by
    unfold touchLines
    split
    · exact foldl_keeps g (fun s l => hg s s.mem s.poison _ _) _ s
    · rfl
  exact (hg (markStore (s.store key d) key d.length false) _ _ _ _).trans
    ((hg (s.store key d) _ _ _ _).trans ((ht _ _).trans (hg s _ s.poison s.dirty s.saved)))

theorem writeResult_keeps {β : Type} (g : State → β)
    (hg : ∀ (s : State) mem poison dirty saved,
      g { s with mem := mem, poison := poison, dirty := dirty, saved := saved } = g s)
    (hc : ∀ (s : State) cores results, g { s with cores := cores, results := results } = g s)
    (s : State) (id : Nat) (d : List Byte) (po : List Nat) : g (s.writeResult id d po) = g s := by
  unfold State.writeResult
  split
  · rfl
  · exact (hc _ _ _).trans ((hc _ _ _).trans ((hc _ _ _).trans (storeMarked_keeps g hg s _ d po)))

/-- Where a load stands. -/
def State.stateOf (s : State) (h : Nat) : LoadState := (s.loadAt h).state

theorem State.stateOf_setLoad (s : State) (k : Nat) (l : Load) (h : Nat) :
    (s.setLoad k l).stateOf h = if h = k then l.state else s.stateOf h := by
  unfold State.stateOf State.loadAt State.setLoad
  split
  · next hk => rw [hk, mapGet_put]
  · next hk => rw [mapGet_put_ne _ hk]

/-- Answering the PREQs of a load moves no cycle, and no load's place. -/
theorem State.failPreqs_keeps (s : State) (k : Nat) :
    (s.failPreqs k).cycle = s.cycle ∧ ∀ h, (s.failPreqs k).stateOf h = s.stateOf h := by
  unfold State.failPreqs
  refine ⟨foldl_keeps (·.cycle) (fun s q => writeResult_keeps (·.cycle) (fun _ _ _ _ _ => rfl)
    (fun _ _ _ => rfl) s _ _ _) _ s, fun h => ?_⟩
  have hl := foldl_keeps (·.loads) (fun s (q : Nat × Nat × Nat) => writeResult_keeps (·.loads)
    (fun _ _ _ _ _ => rfl) (fun _ _ _ => rfl) s q.2.2 (natToBytes 8 3) []) (s.loadAt k).preqs s
  rw [State.stateOf_setLoad]
  split
  · next hk => rw [hk]; rfl
  · rw [State.stateOf, State.loadAt, hl]
    rfl

theorem State.detEvent_keeps (s : State) (k : Nat) (code ctx : BitVec 8) (core pc : BitVec 16)
    (first : BitVec 32) : (s.detEvent k code ctx core pc first).cycle = s.cycle ∧
      ∀ h, (s.detEvent k code ctx core pc first).stateOf h = s.stateOf h := by
  obtain ⟨d, n, hd⟩ := s.detEvent_eq k code ctx core pc first
  rw [hd]
  refine ⟨rfl, fun h => ?_⟩
  rw [State.stateOf_setLoad]
  split
  · next hk => rw [hk]; rfl
  · rfl

theorem State.launchFaults_keeps {β : Type} (g : State → β)
    (hg : ∀ (s : State) launches agenda fresh,
      g { s with launches := launches, agenda := agenda, fresh := fresh } = g s)
    (s : State) (k code : Nat) : g (s.launchFaults k code) = g s := by
  unfold State.launchFaults
  split
  · rfl
  · split
    · rfl
    · split
      · rfl
      · exact hg s _ _ _

theorem State.beginFreeze_keeps (s : State) (k : Nat) (cause : Option Nat) :
    (s.beginFreeze k cause).cycle = s.cycle ∧
      ∀ h, (s.beginFreeze k cause).stateOf h = if h = k then .frozen else s.stateOf h := by
  obtain ⟨hc, hs⟩ := s.failPreqs_keeps k
  obtain ⟨hc', hs'⟩ := (s.failPreqs k).detEvent_keeps k 5 0 0 0 0
  have hend : ∀ {β : Type} (g : State → β), (∀ (s : State) launches agenda fresh,
      g { s with launches := launches, agenda := agenda, fresh := fresh } = g s) →
      ∀ (u : State) (l : List LoadHall) (code : Option (BitVec 8)),
        let v := l.foldl (fun s e => s.within 1 200 (.freezeArrival k e.phys)) u
        g (match code with
          | some n => v.launchFaults k n.toNat
          | none => v) = g u := fun g hg u l code => by
    have hw : ∀ (s : State) (e : LoadHall),
        g (s.within 1 200 (.freezeArrival k e.phys)) = g s := fun s _ => hg s _ _ _
    have hv := foldl_keeps g hw l u
    cases code with
    | none => exact hv
    | some n => exact (State.launchFaults_keeps g hg _ k _).trans hv
  refine ⟨(hend (·.cycle) (fun _ _ _ _ => rfl) _ _ _).trans (hc'.trans hc), fun h =>
    (hend (·.stateOf h) (fun _ _ _ _ => rfl) _ _ _).trans ?_⟩
  rw [State.stateOf_setLoad, hs', hs]

/-- A freeze leaves its load frozen, and every other load where it stands. -/
theorem State.freezeLoad_keeps (s : State) (k : Nat) :
    (s.freezeLoad k).cycle = s.cycle ∧
      ∀ h, (s.freezeLoad k).stateOf h = if h = k then .frozen else s.stateOf h := by
  have hw : ∀ {β : Type} (g : State → β), (∀ (s : State) mem poison dirty saved,
      g { s with mem := mem, poison := poison, dirty := dirty, saved := saved } = g s) →
      ∀ s w, g (State.writeAreaHeader s k w 2) = g s := fun g hg s w => by
    unfold State.writeAreaHeader
    dsimp only
    split
    · rfl
    · exact (storeMarked_keeps g hg _ _ _ _).trans ((storeMarked_keeps g hg _ _ _ _).trans
        (hg s _ _ s.dirty s.saved))
  obtain ⟨hc, hs⟩ := s.beginFreeze_keeps k none
  refine ⟨(foldl_keeps (·.cycle) (hw _ fun _ _ _ _ _ => rfl) _ _).trans hc, fun h => ?_⟩
  exact (foldl_keeps (·.stateOf h) (hw (·.stateOf h) fun _ _ _ _ _ => rfl) _ _).trans (hs h)

theorem freezeLoads_keep (l : List Nat) (s : State) :
    (l.foldl State.freezeLoad s).cycle = s.cycle ∧
      ∀ h, (l.foldl State.freezeLoad s).stateOf h = if h ∈ l then .frozen else s.stateOf h := by
  induction l generalizing s with
  | nil => exact ⟨rfl, fun _ => rfl⟩
  | cons k l ih =>
    obtain ⟨hc, hs⟩ := s.freezeLoad_keeps k
    obtain ⟨hc', hs'⟩ := ih (s.freezeLoad k)
    refine ⟨hc'.trans hc, fun h => (hs' h).trans ?_⟩
    rw [hs]
    by_cases hk : h = k <;> simp [hk]

theorem enterSafeState_freezes (hp : s.power = true) (hd : s.dev = .running) {h : Nat}
    (hh : h ∈ s.unfrozen) : ∃ t, exec .enterSafeState s = .next t ∧
      (t.loadAt h).state = .frozen ∧ Scheduled s t .enterSafeState := by
  obtain ⟨hc, hs⟩ := freezeLoads_keep s.unfrozen s
  refine ⟨(s.unfrozen.foldl State.freezeLoad s).retry .enterSafeState, ?_, ?_, s.cycle + 1,
    Nat.lt_succ_self _, ?_⟩
  · change (if !s.power || s.dev != .running then _ else match s.unfrozen with
      | _ :: _ => _
      | [] => _) = _
    rw [if_neg (by simp [hp, hd])]
    cases hu : s.unfrozen with
    | nil => rw [hu] at hh; exact absurd hh List.not_mem_nil
    | cons => rfl
  · exact (hs h).trans (if_pos hh)
  · rw [← hc]
    exact State.mem_at ..

theorem enterSafeState_enters (hp : s.power = true) (hd : s.dev = .running)
    (hu : s.unfrozen = []) (hf : s.freezing = false) : ∃ t, exec .enterSafeState s = .next t ∧
      t.dev = .safe ∧ t.mem = s.mem ∧ ∀ e ∈ t.agenda, isInput e.2 = true := by
  refine ⟨{ s with dev := .safe, todo := [], agenda := s.agenda.filter fun e => isInput e.2 }, ?_,
    rfl, rfl, fun e he => (List.mem_filter.1 he).2⟩
  change (if !s.power || s.dev != .running then _ else match s.unfrozen with
    | _ :: _ => _
    | [] => if s.freezing then _ else _) = _
  rw [if_neg (by simp [hp, hd]), hu, hf]
  rfl

/-! ### Soft errors (R179, R229, R468, R469) -/

theorem setHas_foldl_add (j : Nat) (l p : List Nat) :
    setHas j (l.foldl (fun p w => setAdd w p) p) = true ↔ j ∈ l ∨ setHas j p = true := by
  induction l generalizing p with
  | nil => simp
  | cons w l ih => rw [List.foldl_cons, ih, setHas_add, List.mem_cons]; tauto

theorem mapFind_map {α β : Type} (f : α → β) (k : Nat) (m : List (Nat × α)) :
    mapFind k (m.map fun e => (e.1, f e.2)) = (mapFind k m).map f := by
  induction m with
  | nil => rfl
  | cons e m ih =>
    obtain ⟨j, v⟩ := e
    simp only [List.map_cons, mapFind, ih]
    split <;> rfl

/-- What becomes of a word of an open transaction when an error strikes words of memory. -/
def State.rejectWord (s : State) (words : List Nat) (w : CfgWrite) : CfgWrite :=
  match cfgTarget w.addr with
  | some (unit, space, off) =>
    let key := storeKey unit space off
    if isStore space && words.contains (key / 8) then
      { w with rejected := true, data := s.load64 (key / 8 * 8) }
    else w
  | none => w

theorem State.rejectWord_struck {words : List Nat} {w : CfgWrite} {unit space off : Nat}
    (ht : cfgTarget w.addr = some (unit, space, off)) (hs : isStore space = true)
    (hm : storeKey unit space off / 8 ∈ words) :
    (s.rejectWord words w).addr = w.addr ∧ (s.rejectWord words w).rejected = true := by
  simp only [State.rejectWord, ht, hs, List.contains_iff_mem.2 hm, Bool.and_self, if_true, and_self]

/-- And of the transaction that a context has open. -/
def State.rejectCtx (s : State) (words : List Nat) (t : Ctx) : Ctx :=
  { t with txn := t.txn.map fun y => { y with words := y.words.map (s.rejectWord words) } }

/-- And of a core's four contexts. -/
def State.rejectCore (s : State) (words : List Nat) (k : Core) : Core :=
  { k with c0 := s.rejectCtx words k.c0, c1 := s.rejectCtx words k.c1,
           c2 := s.rejectCtx words k.c2, c3 := s.rejectCtx words k.c3 }

theorem State.cores_rejectWords (s : State) (words : List Nat) :
    (s.rejectWords words).cores = s.cores.map fun e => (e.1, s.rejectCore words e.2) := rfl

theorem State.ctx_rejectWords (s : State) (words : List Nat) {c : Nat} {k : Core} (x : Nat)
    (hk : mapFind c s.cores = some k) :
    ((s.rejectWords words).core c).ctx x = s.rejectCtx words (k.ctx x) := by
  rw [State.core, mapGet, State.cores_rejectWords, mapFind_map, hk, Option.map_some,
    Option.getD_some]
  simp only [Core.ctx, State.rejectCore, apply_ite (s.rejectCtx words)]

theorem sramError_word (s : State) (key : Nat) :
    ∃ t, exec (.sramError (.word key) false) s = .next t ∧ setHas (key / 8) t.poison = true ∧
      (∀ k, k / 8 ≠ key / 8 → memByte t.mem k = memByte s.mem k) ∧
      ∀ (c : Nat) (k : Core) (x : Nat) (y : Txn), mapFind c s.cores = some k → x < 4 →
        (k.ctx x).txn = some y →
        ∃ z : Txn, ((t.core c).ctx x).txn = some z ∧ z.routes = y.routes ∧
          ∀ (i : Nat) (w : CfgWrite) unit space off, y.words[i]? = some w →
            cfgTarget w.addr = some (unit, space, off) → isStore space = true →
            storeKey unit space off / 8 = key / 8 →
            ∃ u : CfgWrite, z.words[i]? = some u ∧ u.addr = w.addr ∧ u.rejected = true := by
  refine ⟨(s.freeWords [key / 8]).rejectWords [key / 8], rfl, ?_, fun k hk => ?_,
    fun c k x y hk _ hy => ?_⟩
  · exact (setHas_add ..).2 (.inl rfl)
  · refine memByte_setBytes_outside _ _ _ ?_
    rw [natToBytes_length]
    omega
  · rw [(s.freeWords [key / 8]).ctx_rejectWords [key / 8] x hk, State.rejectCtx, hy]
    refine ⟨_, rfl, rfl, fun i w unit space off hw ht hs hkey => ?_⟩
    refine ⟨(s.freeWords [key / 8]).rejectWord [key / 8] w, ?_,
      State.rejectWord_struck ht hs (List.mem_singleton.2 hkey)⟩
    rw [List.getElem?_map, hw]
    rfl

theorem State.freeBytes_length (s : State) : (s.freeBytes 32).length = 32 := by
  simp [State.freeBytes, steps, natToBytes_length]

theorem State.unitMismatch_mem (s : State) (key : Nat) :
    (s.unitMismatch key).mem = memSetBytes s.mem (key / 32 * 32) (s.freeBytes 32) := by
  rw [State.unitMismatch, apply_ite State.mem, ite_self]

/-- A mismatch that the check value tells is counted, and its words are poisoned. -/
theorem State.unitMismatch_found {key : Nat}
    (h : checkValue (s.freeBytes 32) ≠ checkValue (memBytes s.mem (key / 32 * 32) 32)) :
    (s.unitMismatch key).cm = bump s.cm ∧ (s.unitMismatch key).poison =
      (unitsOf 8 (key / 32 * 32) 32).foldl (fun p w => setAdd w p) s.poison := by
  rw [State.unitMismatch, if_neg h]
  exact ⟨rfl, rfl⟩

theorem State.rejectWords_mem (s : State) (words : List Nat) : (s.rejectWords words).mem = s.mem :=
  rfl

theorem State.rejectWords_cm (s : State) (words : List Nat) : (s.rejectWords words).cm = s.cm := rfl

theorem State.rejectWords_poison (s : State) (words : List Nat) :
    (s.rejectWords words).poison = s.poison := rfl

theorem sramError_unit (h : Tidy s) (key : Nat) :
    ∃ t, exec (.sramError (.unit key) false) s = .next t ∧
      let lo := key / 32 * 32
      (∀ k, k / 32 ≠ key / 32 → memByte t.mem k = memByte s.mem k) ∧
      (checkValue (memBytes t.mem lo 32) ≠ checkValue (memBytes s.mem lo 32) →
        t.cm = bump s.cm ∧ ∀ j < 4, setHas (lo / 8 + j) t.poison = true) := by
  have hr := memBytes_setBytes h.memWf (key / 32 * 32) (s.freeBytes 32)
  rw [State.freeBytes_length] at hr
  refine ⟨(s.unitMismatch key).rejectWords (unitsOf 8 (key / 32 * 32) 32), rfl, ?_⟩
  rw [State.rejectWords_mem, State.rejectWords_cm, State.rejectWords_poison,
    State.unitMismatch_mem]
  dsimp only
  rw [hr]
  refine ⟨fun k hk => ?_, fun hne => ?_⟩
  · rw [memByte_setBytes_outside]
    rw [State.freeBytes_length]
    omega
  · obtain ⟨hcm, hpo⟩ := State.unitMismatch_found hne
    refine ⟨hcm, fun j hj => ?_⟩
    rw [hpo, setHas_foldl_add, unitsOf, if_neg (by decide), mem_steps]
    omega

/-- What a map answers at a key, told by the entries of that key alone. -/
theorem mapGet_eq_of_mem {α : Type} {d v : α} {k : Nat} {m : List (Nat × α)}
    (hu : ∀ w, (k, w) ∈ m → w = v) (hm : v = d ∨ (k, v) ∈ m) : mapGet d k m = v := by
  induction m with
  | nil => exact (hm.resolve_right List.not_mem_nil).symm
  | cons e m ih =>
    obtain ⟨j, w⟩ := e
    by_cases hj : j = k
    · subst hj
      rw [mapGet, mapFind, if_pos rfl, Option.getD_some]
      exact hu w List.mem_cons_self
    · have hk : ∀ u, (k, u) ∈ (j, w) :: m ↔ (k, u) ∈ m := fun u => by
        rw [List.mem_cons, Prod.mk.injEq]
        tauto
      rw [mapGet, mapFind, if_neg hj]
      exact ih (fun u hm => hu u ((hk u).2 hm)) (hm.imp_right (hk v).1)

theorem Core.zAt_setBank (k : Core) (f : Nat → Nat → Word32) {i j : Nat} (hi : i < 32) (hj : j < 64) :
    (k.setBank false f).zAt false i j = f i j := by
  have hmem : ∀ w, (64 * i + j, w) ∈ (k.setBank false f).z ↔ f i j ≠ 0 ∧ w = f i j := fun w => by
    simp only [Core.setBank, Bool.false_eq_true, if_false, List.mem_append, List.mem_filter,
      List.mem_flatMap, List.mem_filterMap, mem_steps, decide_eq_true_eq]
    constructor
    · rintro (⟨i', hi', j', hj', he⟩ | ⟨-, hk⟩)
      · split at he
        · exact nomatch he
        · next hf =>
          obtain ⟨hk, rfl⟩ := Prod.mk.inj (Option.some.inj he)
          obtain ⟨rfl, rfl⟩ : i' = i ∧ j' = j := by omega
          exact ⟨hf, rfl⟩
      · omega
    · rintro ⟨hf, rfl⟩
      exact .inl ⟨i, by omega, j, by omega, by rw [if_neg hf, Nat.zero_add]⟩
  have hk : (k.setBank false f).zAt false i j = mapGet 0 (64 * i + j) (k.setBank false f).z := by
    simp only [Core.zAt, Bool.false_eq_true, if_false, Nat.zero_add]
  rw [hk]
  refine mapGet_eq_of_mem (fun w hw => ((hmem w).1 hw).2) ?_
  by_cases hf : f i j = 0
  · exact .inl hf
  · exact .inr ((hmem _).2 ⟨hf, rfl⟩)

theorem sramError_row (s : State) (core : Nat) {row : Nat} (hr : row < 32) :
    ∃ t, exec (.sramError (.row core 0 row) false) s = .next t ∧
      bitAt ((t.core core).zErr0.setWidth 64) row = true ∧ t.mem = s.mem ∧
      ∀ i j, i < 32 → j < 64 → i ≠ row →
        (t.core core).zAt false i j = (s.core core).zAt false i j := by
  refine ⟨_, rfl, ?_, rfl, fun i j hi hj hne => ?_⟩
  · change bitAt (((s.setCore core _).core core).zErr0.setWidth 64) row = true
    rw [State.core_setCore]
    change bitAt (((s.core core).zErr0 ||| BitVec.ofNat 32 (2 ^ row)).setWidth 64) row = true
    rw [bitAt, BitVec.getLsbD_setWidth, BitVec.getLsbD_or, BitVec.getLsbD_ofNat,
      Nat.testBit_two_pow_self]
    simp [hr, show row < 64 by omega]
  · change ((s.setCore core _).core core).zAt false i j = _
    rw [State.core_setCore]
    exact ((s.core core).zAt_setBank _ hi hj).trans (if_neg hne)

/-- Settles O47: a lemma for each instruction. -/
theorem powerAndHealthAct : Obligations.PowerAndHealthAct := by
  intro s tj v pwr wing hall key core row h n afl r
  refine ⟨powerOff_ends s, powerOn_starts, fun hp hd => selfTestDone_reports hp hd r n,
    fun hp hd => ⟨fun _ hh => enterSafeState_freezes hp hd hh, enterSafeState_enters hp hd⟩,
    thermalTrip_trips s tj, powerTrip_trips s pwr, powerEnvelopeControl_sets s wing afl,
    fun hlo hhi _ => voltageReplan_steps hlo hhi s wing hall,
    fun hu hv hw => voltageReplan_planned hu hv fun e he => ?_,
    fun hok hu ho hp hb hc => voltageReplan_retires hok hu ho hp hb hc, fun _ => rfl,
    sramError_word s key, fun ht => sramError_unit ht key, sramError_row s core⟩
  have hm := List.all_eq_true.1 hw e he
  unfold movesVoff
  split
  · next heq =>
    rw [heq] at hm
    simpa only [Bool.not_eq_true'] using hm
  · rfl

end Sys2Proof.Machine

namespace Sys2Proof.Machine

/-! ### The state right after reset (R9, R94, R201, R304, R383, R437, R448, R472) -/

/-- Memory lists nothing after reset, so that a byte reads as its address has it. -/
theorem memByte_reset (key : Nat) : memByte State.reset.mem key = unlisted key := rfl

theorem unlisted_of_code {key : Nat} (h : key / 2 ^ 60 = 1) : unlisted key = 0xFF := if_pos h

theorem unlisted_of_ne_code {key : Nat} (h : key / 2 ^ 60 ≠ 1) : unlisted key = 0 := if_neg h

/-- The code stores hold the fill word (R94). -/
theorem load32_reset_code {c n : Nat} (hc : c < 16384) (hn : n < 8192) :
    State.reset.load32 (codeKey c (4 * n)) = 0xFFFFFFFF#32 := by
  have hb : ∀ j < 4, memByte State.reset.mem (codeKey c (4 * n) + j) = 0xFF := fun j hj => by
    rw [memByte_reset, unlisted_of_code]
    unfold codeKey
    omega
  have hm : memBytes State.reset.mem (codeKey c (4 * n)) 4 = [0xFF, 0xFF, 0xFF, 0xFF] := by
    simp only [memBytes, Nat.add_assoc, Nat.reduceAdd]
    rw [hb 1 (by decide), hb 2 (by decide), hb 3 (by decide)]
    rw [← Nat.add_zero (codeKey c (4 * n)), hb 0 (by decide)]
  rw [State.load32, State.load, hm]
  rfl

theorem memByte_reset_hall {h n : Nat} (hh : h < 512) (hn : n < 2 ^ 20) :
    memByte State.reset.mem (hallKey h n) = 0 := by
  rw [memByte_reset, unlisted_of_ne_code]
  unfold hallKey
  omega

theorem memByte_reset_gallery {w n : Nat} (hw : w < 4) (hn : n < 2 ^ 26) :
    memByte State.reset.mem (galleryKey w n) = 0 := by
  rw [memByte_reset, unlisted_of_ne_code]
  unfold galleryKey
  omega

theorem cfgDefault_system {key off : Nat} (hu : key / 2 ^ 39 % 128 = 66)
    (hs : key / 2 ^ 30 % 16 = 6) (ho : key % 2 ^ 30 = off) : cfgDefault key = systemWordReset off := by
  subst ho
  exact (if_pos hu).trans (if_pos hs)

theorem cfgKey_systemHall (w off : Nat) : cfgKey (hallUnits (systemHall w)) 6 off =
    w * 2 ^ 46 + 66 * 2 ^ 39 + 31 * 2 ^ 34 + 6 * 2 ^ 30 + off := by
  unfold cfgKey hallUnits systemHall
  omega

/-- A word of a wing's system hall after reset is that of its offset. -/
theorem sysCfg_reset (w : Nat) {off : Nat} (ho : off < 2 ^ 30) :
    State.reset.sysCfg w off = systemWordReset off := by
  have hc : State.reset.cfg = [] := rfl
  have hk := cfgKey_systemHall w off
  rw [State.sysCfg, State.hallCfg, State.cfgAt, hc, mapGet_nil, cfgDefault_system] <;> omega

/-- Settles O54: the fields are read off, and the stores and configuration words of no listed value
have that of their address. -/
theorem resetLeavesTheSpecValues : Obligations.ResetLeavesTheSpecValues := by
  refine ⟨tidy_reset, rfl, rfl, rfl, rfl, rfl, rfl, rfl, rfl, rfl,
    fun c n hc hn => load32_reset_code hc hn, fun h n hh hn => memByte_reset_hall hh hn,
    fun w n hw hn => memByte_reset_gallery hw hn, fun w _ => ?_, fun _ => rfl, fun c x => ?_⟩
  · simp [sysCfg_reset, systemWordReset]
  · have hctx : State.reset.ctx c x = {} := by
      change Core.ctx {} x = _
      simp [Core.ctx]
    rw [hctx]
    exact ⟨rfl, rfl, rfl, rfl, rfl, rfl, fun b i j => rfl⟩

/-! ### Words that decode (R15, R77 to R93) -/

/-- Settles O50: the decoder runs on each word. -/
theorem wordsDecodeAsEncoded : Obligations.WordsDecodeAsEncoded := by
  refine ⟨⟨_, rfl⟩, ⟨_, rfl⟩, ⟨_, rfl⟩, ⟨_, rfl⟩, ⟨_, rfl⟩, ⟨_, rfl⟩, ⟨_, rfl⟩, ⟨_, rfl⟩, ⟨_, rfl⟩,
    ⟨_, rfl⟩, ⟨_, rfl⟩, ⟨_, rfl⟩, ⟨_, rfl⟩, ⟨_, rfl⟩⟩

end Sys2Proof.Machine

namespace Sys2Proof.Machine

/-! ### An effect reads the registers as they stand before its issue is counted (R51, R76) -/

@[simp] theorem State.countIssue_lane (s : State) (r : VReg) : s.countIssue.lane r = s.lane r :=
  funext fun _ => s.countIssue_reg _

@[simp] theorem State.countIssue_laneN (s : State) (r : VReg) : s.countIssue.laneN r = s.laneN r :=
  funext fun l => by rw [State.laneN, State.laneN, s.countIssue_lane r]

@[simp] theorem State.countIssue_active (s : State) (k : KReg) :
    s.countIssue.active k = s.active k :=
  funext fun l => by rw [State.active, State.active, s.countIssue_k]

@[simp] theorem State.countIssue_activeLanes (s : State) (k : KReg) :
    s.countIssue.activeLanes k = s.activeLanes k := by
  rw [State.activeLanes, State.activeLanes, s.countIssue_active k]

@[simp] theorem State.countIssue_activePoison (s : State) (a : VReg) (k : KReg) :
    s.countIssue.activePoison a k = s.activePoison a k := by
  simp only [State.activePoison, State.countIssue_k, State.countIssue_activeLanes,
    State.countIssue_lane]

@[simp] theorem State.countIssue_laneWrites (s : State) (d : VReg) (k : KReg) (f : Nat → PVal) :
    s.countIssue.laneWrites d k f = s.laneWrites d k f := by
  simp only [State.laneWrites, State.countIssue_k, State.countIssue_active]

@[simp] theorem State.countIssue_maskWrites (s : State) (m k : KReg) (f : Nat → Bool) (po : Bool) :
    s.countIssue.maskWrites m k f po = s.maskWrites m k f po := by
  simp only [State.maskWrites, State.countIssue_k, State.countIssue_activeLanes]

@[simp] theorem State.countIssue_packElem (s : State) (c : PackCode) (m : RMode) (r x : Nat) :
    s.countIssue.packElem c m r x = s.packElem c m r x := by
  simp only [State.packElem, State.countIssue_cur]

/-! ### Forms that only write registers complete with what they computed -/

section Forms

variable {s : State} {q : Issue} {len lat : Nat}

theorem issue_writes (h : s.issues) {w : State → List (Nat × PVal)} {ws : List (Nat × PVal)}
    (hw : w s.countIssue = ws) :
    issue q len false none none (fun u => u.writeRegs lat (w u)) s =
      .next (s.wrote q len lat ws) := by
  subst hw
  exact issue_completes h

theorem scalarForm_completes (h : s.issues) {d : XReg} {v : State → Word64} {po : State → Bool}
    {x : Word64} {b : Bool} (hv : v s.countIssue = x) (hpo : po s.countIssue = b) :
    scalarForm q len lat d v po s = .next (s.wrote q len lat [(xKey d, ⟨x, b⟩)]) := by
  subst hv hpo
  exact issue_writes h rfl

theorem regForm_completes (h : s.issues) {d a b : XReg} {f : Word64 → Word64 → Word64} :
    regForm q lat d a b f s =
      .next (s.wroteX q lat d (f (s.x a).v (s.x b).v) ((s.x a).po || (s.x b).po)) :=
  scalarForm_completes h (by simp only [State.countIssue_x]) (by simp only [State.countIssue_x])

theorem immForm_completes (h : s.issues) {d a : XReg} {f : Word64 → Word64} :
    immForm q lat d a f s = .next (s.wroteX q lat d (f (s.x a).v) (s.x a).po) :=
  scalarForm_completes h (by simp only [State.countIssue_x]) (by simp only [State.countIssue_x])

theorem predForm_completes (h : s.issues) {d : PReg} {v po : State → Bool} {x b : Bool}
    (hv : v s.countIssue = x) (hpo : po s.countIssue = b) :
    predForm q d v po s = .next (s.wroteP q 1 d x b) := by
  subst hv hpo
  exact issue_writes h rfl

theorem cmpForm_completes (h : s.issues) {c : Cond} {p : PReg} {a b : State → PVal} {x y : PVal}
    {v : Bool} (ha : a s.countIssue = x) (hb : b s.countIssue = y) (hv : condHolds c x.v y.v = v) :
    cmpForm q c p a b s = .next (s.wroteP q 1 p v (x.po || y.po)) := by
  subst ha hb hv
  exact issue_writes h rfl

theorem cmpiForm_completes (h : s.issues) {c : Cond} {p : PReg} {a : XReg} {i : BitVec 11} {v : Bool}
    (hv : condHolds c (s.x a).v (imm11 i) = v) :
    cmpiForm q c p a i s = .next (s.wroteP q 1 p v (s.x a).po) :=
  (cmpForm_completes h (s.countIssue_x a) rfl hv).trans (by rw [Bool.or_false])

theorem laneForm_completes (h : s.issues) {w : State → List (Nat × PVal)} {ws : List (Nat × PVal)}
    (hw : w s.countIssue = ws) : laneForm q lat w s = .next (s.wrote q 1 lat ws) :=
  issue_writes h hw

end Forms

/-! ### Scalar results (R112, R115 to R120) -/

theorem ite_slt {α : Type} (x y : Word64) (a b : α) :
    (if x.slt y then a else b) = if x.toInt < y.toInt then a else b := by
  simp only [BitVec.slt, decide_eq_true_eq]

theorem ite_ult {α : Type} (x y : Word64) (a b : α) :
    (if x.ult y then a else b) = if x.toNat < y.toNat then a else b := by
  simp only [BitVec.ult, decide_eq_true_eq]

/-- Settles O1: each is a register form, and MIN to MAXU compare by value. -/
theorem registerFormsWriteResults : Obligations.RegisterFormsWriteResults := by
  intro s q d a b h
  dsimp only [exec]
  refine ⟨regForm_completes h, regForm_completes h, regForm_completes h, regForm_completes h,
    regForm_completes h, regForm_completes h, regForm_completes h, regForm_completes h,
    regForm_completes h, regForm_completes h, regForm_completes h, regForm_completes h,
    regForm_completes h, ?_, ?_, ?_, ?_⟩
  · rw [← ite_slt]
    exact regForm_completes h
  · rw [← ite_slt]
    exact regForm_completes h
  · rw [← ite_ult]
    exact regForm_completes h
  · rw [← ite_ult]
    exact regForm_completes h

theorem clzOf_le (x : Word64) (n : Nat) : clzOf x n ≤ n := by
  induction n with
  | zero => exact Nat.le_refl 0
  | succ n ih =>
    rw [clzOf]
    split <;> omega

/-- Above the bit that CLZ finds, all are 0. -/
theorem getLsbD_of_lt_clzOf (x : Word64) {n j : Nat} (hj : j < clzOf x n) :
    x.getLsbD (n - 1 - j) = false := by
  induction n generalizing j with
  | zero => exact absurd hj (Nat.not_lt_zero j)
  | succ n ih =>
    rw [clzOf] at hj
    split at hj
    · omega
    · next hx =>
      cases j with
      | zero => simpa using hx
      | succ j =>
        rw [show n + 1 - 1 - (j + 1) = n - 1 - j by omega]
        exact ih (by omega)

/-- The bit that CLZ finds is 1. -/
theorem getLsbD_clzOf (x : Word64) {n : Nat} (hn : clzOf x n < n) :
    x.getLsbD (n - 1 - clzOf x n) = true := by
  induction n with
  | zero => exact absurd hn (Nat.not_lt_zero _)
  | succ n ih =>
    rw [clzOf] at hn ⊢
    split at hn
    · next hx => rwa [if_pos hx]
    · next hx =>
      rw [if_neg hx, show n + 1 - 1 - (1 + clzOf x n) = n - 1 - clzOf x n by omega]
      exact ih (by omega)

theorem ctzOf_le (x : Word64) (k n : Nat) : ctzOf x k n ≤ n := by
  induction n generalizing k with
  | zero => exact Nat.le_refl 0
  | succ n ih =>
    have := ih (k + 1)
    rw [ctzOf]
    split <;> omega

/-- Below the bit that CTZ finds, all are 0. -/
theorem getLsbD_of_lt_ctzOf (x : Word64) {k n j : Nat} (hj : j < ctzOf x k n) :
    x.getLsbD (k + j) = false := by
  induction n generalizing k j with
  | zero => exact absurd hj (Nat.not_lt_zero j)
  | succ n ih =>
    rw [ctzOf] at hj
    split at hj
    · omega
    · next hx =>
      cases j with
      | zero => simpa using hx
      | succ j =>
        rw [show k + (j + 1) = k + 1 + j by omega]
        exact ih (by omega)

/-- The bit that CTZ finds is 1. -/
theorem getLsbD_ctzOf (x : Word64) {k n : Nat} (hn : ctzOf x k n < n) :
    x.getLsbD (k + ctzOf x k n) = true := by
  induction n generalizing k with
  | zero => exact absurd hn (Nat.not_lt_zero _)
  | succ n ih =>
    rw [ctzOf] at hn ⊢
    split at hn
    · next hx => rwa [if_pos hx]
    · next hx =>
      rw [if_neg hx, ← Nat.add_assoc]
      exact ih (by omega)

theorem popOf_eq_countP (x : Word64) (n : Nat) :
    popOf x n = (List.range n).countP fun j => x.getLsbD j := by
  induction n with
  | zero => rfl
  | succ n ih =>
    rw [popOf, ih, List.range_succ, List.countP_append, List.countP_singleton, Nat.add_comm]

/-- Settles O2: the forms on one register or a constant, and what the bit counts count. -/
theorem constantFormsWriteResults : Obligations.ConstantFormsWriteResults := by
  intro s q d a i n w h
  dsimp only [exec]
  refine ⟨⟨clzOf (s.x a).v 64, immForm_completes h, clzOf_le _ _,
      fun j hj => getLsbD_of_lt_clzOf _ hj, getLsbD_clzOf _⟩,
    ⟨ctzOf (s.x a).v 0 64, immForm_completes h, ctzOf_le _ _ _, fun j hj => ?_, fun hc => ?_⟩, ?_,
    immForm_completes h, immForm_completes h, immForm_completes h,
    immForm_completes h, immForm_completes h, immForm_completes h,
    immForm_completes h, immForm_completes h, scalarForm_completes h rfl rfl,
    scalarForm_completes h rfl rfl,
    scalarForm_completes h (by rw [State.countIssue_x]) (by rw [State.countIssue_x])⟩
  · simpa only [Nat.zero_add] using getLsbD_of_lt_ctzOf _ hj
  · simpa only [Nat.zero_add] using getLsbD_ctzOf _ hc
  · rw [← popOf_eq_countP]
    exact immForm_completes h

section Conditions

variable (x y : Word64)

theorem condHolds_eq : condHolds .eq x y = decide (x = y) := beq_eq_decide x y

theorem condHolds_ne : condHolds .ne x y = decide (x ≠ y) := by
  rw [condHolds, bne, beq_eq_decide, ← decide_not]

theorem condHolds_lt : condHolds .lt x y = decide (x.toInt < y.toInt) := rfl

theorem condHolds_ltu : condHolds .ltu x y = decide (x.toNat < y.toNat) := rfl

theorem condHolds_ge : condHolds .ge x y = decide (y.toInt ≤ x.toInt) := by
  rw [condHolds, BitVec.slt, ← decide_not, decide_eq_decide, Int.not_lt]

theorem condHolds_geu : condHolds .geu x y = decide (y.toNat ≤ x.toNat) := by
  rw [condHolds, BitVec.ult, ← decide_not, decide_eq_decide, Nat.not_lt]

end Conditions

/-- Settles O3: each condition by its own lemma. -/
theorem predicateFormsWriteResults : Obligations.PredicateFormsWriteResults := by
  intro s q c p p' r d a b i v h
  dsimp only [exec]
  refine ⟨cmpForm_completes h (s.countIssue_x a) (s.countIssue_x b) ?_,
    cmpiForm_completes h (condHolds_eq _ _), cmpiForm_completes h (condHolds_ne _ _),
    cmpiForm_completes h (condHolds_lt _ _), cmpiForm_completes h (condHolds_ltu _ _),
    cmpiForm_completes h (condHolds_ge _ _), cmpiForm_completes h (condHolds_geu _ _),
    scalarForm_completes h ?_ ?_, predForm_completes h ?_ ?_, predForm_completes h ?_ ?_,
    predForm_completes h ?_ ?_, predForm_completes h ?_ ?_, predForm_completes h rfl rfl⟩
  · cases c with
    | eq => exact condHolds_eq _ _
    | ne => exact condHolds_ne _ _
    | lt => exact condHolds_lt _ _
    | ltu => exact condHolds_ltu _ _
    | ge => exact condHolds_ge _ _
    | geu => exact condHolds_geu _ _
  all_goals simp only [State.countIssue_x, State.countIssue_p, State.countIssue_pv]

/-! ### Element-wise vector forms (R135 to R139) -/

section Elementwise

variable {s : State} {q : Issue} {t : VType} {d a b : VReg} {k : KReg}

theorem typedForm_completes (h : s.issues) {f : Nat → Nat → Nat} :
    typedForm q t d a b k f s = .next (s.wroteLanes q (vLat t) d k (s.zipLane t a b f)
      fun l => (s.lane a l).po || (s.lane b l).po) :=
  laneForm_completes h (by simp only [State.countIssue_laneWrites, State.countIssue_laneN,
    State.countIssue_lane, State.zipLane])

theorem unaryForm_completes (h : s.issues) {lat : Nat} {f : Nat → Nat} :
    unaryForm q lat t d a k f s =
      .next (s.wroteLanes q lat d k (s.mapLane t a f) fun l => (s.lane a l).po) :=
  laneForm_completes h (by simp only [State.countIssue_laneWrites, State.countIssue_laneN,
    State.countIssue_lane, State.mapLane])

theorem fusedForm_completes (h : s.issues) {f : Fmt → Nat → Nat → Nat → Nat} :
    fusedForm q t d a b k f s = .next (s.wroteLanes q 4 d k (s.zip3Lane t a b d (f (vFmt t)))
      fun l => (s.lane a l).po || (s.lane b l).po || (s.lane d l).po) :=
  laneForm_completes h (by simp only [State.countIssue_laneWrites, State.countIssue_laneN,
    State.countIssue_lane, State.zip3Lane])

theorem vOp_eq_ite (t : VType) (f : Fmt → Nat → Nat → Nat) (g : Int → Int → Int) :
    vOp t f g = if t.isFloat then f (vFmt t) else wrapOp t.bits g := by
  funext x y
  rw [vOp]
  split <;> rfl

/-- A typed form in floating point, or in integers that wrap. -/
theorem typedForm_vOp_completes (h : s.issues) {f : Fmt → Nat → Nat → Nat} {g : Int → Int → Int} :
    typedForm q t d a b k (vOp t f g) s = .next (s.wroteLanes q (vLat t) d k
      (s.zipLane t a b (if t.isFloat then f (vFmt t) else wrapOp t.bits g))
      fun l => (s.lane a l).po || (s.lane b l).po) := by
  rw [← vOp_eq_ite]
  exact typedForm_completes h

end Elementwise

/-- Settles O7: each is a typed form, a fused form or a form on one operand. -/
theorem elementwiseFormsWriteLanes : Obligations.ElementwiseFormsWriteLanes := by
  refine ⟨fun s q t d a b k h => ?_, fun s q t d a k h => ?_⟩
  · dsimp only [exec]
    exact ⟨typedForm_vOp_completes h, typedForm_vOp_completes h, typedForm_vOp_completes h,
      typedForm_vOp_completes h, typedForm_vOp_completes h, fusedForm_completes h,
      fusedForm_completes h, typedForm_completes h, typedForm_completes h, typedForm_completes h,
      typedForm_completes h, typedForm_completes h⟩
  · dsimp only [exec]
    exact ⟨unaryForm_completes h, unaryForm_completes h, unaryForm_completes h,
      unaryForm_completes h, unaryForm_completes h, unaryForm_completes h, unaryForm_completes h⟩

/-! ### VCMP and the mask forms (R140, R143) -/

theorem toInt_ofNat_eq_intOf (n x : Nat) : (BitVec.ofNat n x).toInt = intOf n x := by
  rw [BitVec.toInt_eq_toNat_cond, BitVec.toNat_ofNat, intOf]
  have : 2 * (x % 2 ^ n) < 2 ^ n ↔ x % 2 ^ n < 2 ^ (n - 1) := by
    cases n with
    | zero => simp [Nat.mod_one]
    | succ n => rw [Nat.add_sub_cancel, Nat.pow_succ]; omega
  simp only [this, Int.natCast_mod, Int.natCast_pow, Int.cast_ofNat_Int]

section Conditions

variable (n x y : Nat)

theorem vcondInt_eq : vcondInt .eq (BitVec.ofNat n x) (BitVec.ofNat n y) =
    (intOf n x == intOf n y) := by
  rw [vcondInt, ← toInt_ofNat_eq_intOf, ← toInt_ofNat_eq_intOf, beq_eq_decide, beq_eq_decide,
    decide_eq_decide, BitVec.toInt_inj]

theorem vcondInt_ne : vcondInt .ne (BitVec.ofNat n x) (BitVec.ofNat n y) =
    (intOf n x != intOf n y) :=
  congrArg not (vcondInt_eq n x y)

theorem vcondInt_lt : vcondInt .lt (BitVec.ofNat n x) (BitVec.ofNat n y) =
    decide (intOf n x < intOf n y) := by
  rw [vcondInt, BitVec.slt, toInt_ofNat_eq_intOf, toInt_ofNat_eq_intOf]

theorem vcondInt_ge : vcondInt .ge (BitVec.ofNat n x) (BitVec.ofNat n y) =
    decide (intOf n y ≤ intOf n x) := by
  rw [vcondInt, BitVec.slt, toInt_ofNat_eq_intOf, toInt_ofNat_eq_intOf, ← decide_not,
    decide_eq_decide, Int.not_lt]

theorem vcondInt_gt : vcondInt .gt (BitVec.ofNat n x) (BitVec.ofNat n y) =
    decide (intOf n y < intOf n x) :=
  vcondInt_lt n y x

theorem vcondInt_le : vcondInt .le (BitVec.ofNat n x) (BitVec.ofNat n y) =
    decide (intOf n x ≤ intOf n y) :=
  vcondInt_ge n y x

end Conditions

theorem execVcmp_completes {s : State} (h : s.issues) (q : Issue) (t : VType) (c : VCond) (m : KReg)
    (a b : VReg) (k : KReg) :
    execVcmp q t c m a b k s = .next (s.wrote q 1 2 (s.maskWrites m k
      (fun l => (steps 0 1 (vCount t)).all fun j =>
        vCond t c (elem t.bits (s.laneN a l) j) (elem t.bits (s.laneN b l) j))
      ((s.activeLanes k).any fun l => (s.lane a l).po || (s.lane b l).po))) :=
  laneForm_completes h (by simp only [State.countIssue_maskWrites, State.countIssue_laneN,
    State.countIssue_lane, State.countIssue_activeLanes])

theorem maskForm_completes {s : State} (h : s.issues) {q : Issue} {d : KReg} {f : State → Word64}
    {po : State → Bool} {v : Word64} {b : Bool} (hf : f s.countIssue = v)
    (hpo : po s.countIssue = b) :
    maskForm q d f po s = .next (s.wrote q 1 2 [(kKey d, ⟨v &&& 0xFFFFFFFF, b⟩)]) := by
  subst hf hpo
  exact laneForm_completes h rfl

/-! ### Reductions (R48, R49, R141) -/

theorem length_treeLevel {α : Type} (op : α → α → α) (l : List α) :
    (treeLevel op l).length = (l.length + 1) / 2 := by
  induction l using treeLevel.induct with
  | case1 x y r ih =>
    rw [treeLevel, List.length_cons, ih, List.length_cons, List.length_cons]
    omega
  | case2 l hl =>
    match l with
    | [] => simp [treeLevel]
    | [_] => simp [treeLevel]
    | x :: y :: r => exact absurd rfl (hl x y r)

/-- The tree over 2^n leaves has one root (R48). -/
theorem treeFold_eq_singleton {α : Type} (op : α → α → α) {n : Nat} {l : List α}
    (hl : l.length = 2 ^ n) : ∃ r, treeFold op n l = [r] := by
  induction n generalizing l with
  | zero => exact List.length_eq_one_iff.1 hl
  | succ n ih =>
    refine ih ?_
    rw [length_treeLevel, hl, Nat.pow_succ]
    omega

theorem length_leavesOf (t : VType) : (leavesOf t).length = 2 ^ vLevels t := by
  have hlen : (leavesOf t).length = 32 * vCount t := by
    simp only [leavesOf, lanes, steps_eq_range', List.length_flatMap, List.length_map,
      List.length_range', List.map_const', List.sum_replicate, smul_eq_mul]
  rw [hlen]
  cases t <;> rfl

/-- A reduction has a leaf for every element of va, so its tree has one root. -/
theorem reduction_root {α : Type} (op : α → α → α) (t : VType) (f : Nat × Nat → α) :
    ∃ r, treeFold op (vLevels t) ((leavesOf t).map f) = [r] :=
  treeFold_eq_singleton op (by rw [List.length_map, length_leavesOf])

theorem reduceForm_completes {s : State} (h : s.issues) {q : Issue} {t : VType} {d a : VReg} {k : KReg}
    {ident : Nat} {op op' : Nat → Nat → Nat} (hop : op' = op) :
    ∃ r, treeFold op (vLevels t) ((leavesOf t).map fun e =>
        if s.active k e.1 then elem t.bits (s.laneN a e.1) e.2 else ident) = [r] ∧
      reduceForm q t d a k ident op' s =
        .next (s.wrote q 1 7 (reduceWrites d r none (s.activePoison a k))) := by
  subst hop
  obtain ⟨r, hr⟩ := reduction_root op' t fun e =>
    if s.active k e.1 then elem t.bits (s.laneN a e.1) e.2 else ident
  refine ⟨r, hr, laneForm_completes h ?_⟩
  simp only [State.countIssue_active, State.countIssue_laneN, State.countIssue_activePoison, hr,
    List.head?_cons, Option.getD_some]

theorem execVredarg_completes {s : State} (h : s.issues) (q : Issue) (t : VType) (d a : VReg)
    (k : KReg) :
    ∃ r, treeFold (argWin t) (vLevels t) ((leavesOf t).map fun e =>
        (s.active k e.1, elem t.bits (s.laneN a e.1) e.2, vCount t * e.1 + e.2)) = [r] ∧
      execVredarg q t d a k s = .next (s.wrote q 1 7 (reduceWrites d
        (if !r.1 then vMaxId t
          else if t.isFloat && (fdecode (vFmt t) r.2.1).isNan then (vFmt t).nan else r.2.1)
        (some (if r.1 then r.2.2 else 0xFFFFFFFF)) (s.activePoison a k))) := by
  obtain ⟨r, hr⟩ := reduction_root (argWin t) t fun e =>
    (s.active k e.1, elem t.bits (s.laneN a e.1) e.2, vCount t * e.1 + e.2)
  refine ⟨r, hr, laneForm_completes h ?_⟩
  simp only [State.countIssue_active, State.countIssue_laneN, State.countIssue_activePoison, hr,
    List.head?_cons, Option.getD_some]

/-- Settles O8: VCMP by each condition, the mask forms, and the root of each reduction's tree. -/
theorem masksAndReductionsWrite : Obligations.MasksAndReductionsWrite := by
  refine ⟨fun s q t c m k k' x a b h => ?_, fun s q t d a k h => ?_⟩
  · dsimp only [exec]
    refine ⟨(execVcmp_completes h q t c m a b k).trans ?_, maskForm_completes h ?_ ?_,
      maskForm_completes h ?_ ?_, maskForm_completes h ?_ ?_, laneForm_completes h ?_⟩
    · cases c with
      | eq => simp only [vCond, vCount, vcondInt_eq]
      | ne => simp only [vCond, vCount, vcondInt_ne]
      | lt => simp only [vCond, vCount, vcondInt_lt]
      | le => simp only [vCond, vCount, vcondInt_le]
      | gt => simp only [vCond, vCount, vcondInt_gt]
      | ge => simp only [vCond, vCount, vcondInt_ge]
    all_goals simp only [State.countIssue_k, popOf_eq_countP, scalarOf]
  · dsimp only [exec]
    exact ⟨reduceForm_completes h (vOp_eq_ite ..), reduceForm_completes h (vOp_eq_ite ..),
      reduceForm_completes h (vOp_eq_ite ..), execVredarg_completes h q t d a k⟩

/-! ### Conversions (R146 to R150) -/

/-- A form with one fault of its own takes it, or writes its registers. -/
theorem issue_writes_unless {s : State} {q : Issue} {len lat : Nat} (h : s.issues) {b : Bool}
    {p : Prop} [Decidable p] {f : FaultInfo} {w : State → List (Nat × PVal)} {ws : List (Nat × PVal)}
    (hb : b = true ↔ p) (hw : w s.countIssue = ws) :
    issue q len false (firstFault [(b, f)]) none (fun u => u.writeRegs lat (w u)) s =
      if p then .next (s.takeFault f) else .next (s.wrote q len lat ws) := by
  cases b with
  | false =>
    rw [if_neg (by simp [← hb])]
    exact issue_writes h hw
  | true =>
    rw [if_pos (hb.1 rfl)]
    exact issue_faults h.1

theorem bits_low_byte (w : Word64) : bits w 0 8 = w.toNat % 256 := by
  simp [bits]

/-- Settles O10: VCVT, VPACK and VUNPK write unless their one fault is taken; the block scale and its
application write always. -/
theorem conversionsWriteLanes : Obligations.ConversionsWriteLanes := by
  intro s q d a b x k m sat u v c part n e h
  dsimp only [exec]
  refine ⟨issue_writes_unless h Iff.rfl ?vcvt,
    fun hl => (issue_writes_unless h Iff.rfl ?vpack).trans (if_neg (by rw [hl]; decide)),
    fun hl => (issue_writes_unless h Iff.rfl rfl).trans (if_pos (by rw [hl]; rfl)),
    issue_writes_unless h decide_eq_true_iff ?vunpk, laneForm_completes h ?vscale,
    laneForm_completes h ?apply⟩
  case vcvt | vunpk =>
    simp only [State.countIssue_laneWrites, State.countIssue_laneN, State.countIssue_lane]
  case vpack => simp only [State.countIssue_packElem, State.countIssue_lane]
  case vscale =>
    simp only [State.countIssue_laneWrites, State.countIssue_laneN, State.countIssue_activeLanes,
      State.countIssue_activePoison, scalarOf]
  case apply =>
    simp only [State.countIssue_laneWrites, State.countIssue_laneN, State.countIssue_lane,
      State.countIssue_x, scalarOf, bits_low_byte, Int.natCast_mod, Int.cast_ofNat_Int]

end Sys2Proof.Machine


namespace Sys2Proof.Machine

variable {s : State}

/-! ### What a step runs (R60 to R62, R94 to R97; logs 1, 97) -/

theorem step_of_dueWriteback {c x : Nat} (h : s.dueWriteback = some (c, x)) :
    step s = exec (.resultWriteback c x) s := by
  rw [step, State.advanceMachine, h]

/-- An event that is due leaves the agenda and runs. -/
theorem step_of_event_due {d : Nat} {i : Instr} {events : List (Nat × Instr)}
    (hw : s.dueWriteback = none) (ha : s.agenda = (d, i) :: events) (hd : d ≤ s.cycle) :
    step s = { s with agenda := events }.runEvent i := by
  rw [step, State.advanceMachine, hw]
  simp only [ha, if_pos hd]

theorem State.runEvent_wellFormed {i : Instr} (he : i.encoded = false) (hf : i.wf = true)
    (hr : s.dev = .running ∨ isHostSide i = true) : s.runEvent i = exec i s := by
  rw [State.runEvent, he, hf, if_neg (by decide), if_neg (by rcases hr with h | h <;> simp [h])]

/-- With nothing due, the next slot of the cycle is taken up. -/
theorem step_of_nothing_due (hw : s.dueWriteback = none)
    (ha : ∀ e ∈ s.agenda.head?, s.cycle < e.1) : step s = s.nextSlot := by
  rw [step, State.advanceMachine, hw]
  cases hl : s.agenda with
  | nil => rfl
  | cons e events =>
    rw [hl] at ha
    exact if_neg (Nat.not_le.2 (ha e rfl))

theorem State.nextSlot_of_issue {c : Nat} {rest : List Slot} (h : s.todo = .issue c :: rest) :
    s.nextSlot = State.issueSlot { s with todo := rest } c := by
  unfold State.nextSlot
  simp only [h]

theorem State.nextSlot_of_nil (h : s.todo = []) : s.nextSlot = .next s.tick := by
  unfold State.nextSlot
  simp only [h]

theorem State.fetch_of_decode {i : Instr} {more : List Byte} (hw : s.cur.wild = false)
    (hx : s.inExtent s.cur.pc.toNat = true) (hf : s.word ≠ 0xFFFFFFFF#32)
    (hl : wordLong s.word = true → s.inExtent (s.cur.pc.toNat + 1) = true)
    (hd : decode s.codeBytes = .ok (i, more)) : s.fetch = .ok i := by
  have hl' : ¬ (wordLong s.word && !s.inExtent (s.cur.pc.toNat + 1)) = true := by
    simpa using hl
  unfold State.fetch
  simp only [if_neg hl', hd]
  rw [if_neg (by simp [hw, hx]), if_neg (by rwa [beq_iff_eq])]

theorem State.attempt_of_fetch {c x : Nat} {i : Instr} (h : (s.focus c x).fetch = .ok i) :
    s.attempt c x = exec i (s.focus c x) := by
  rw [State.attempt]
  simp only [h]

theorem State.issueSlot_of_selected {c x : Nat}
    (h : ((steps 0 1 4).foldl (fun s y => s.fixYield c y) s).selected c = some x) :
    s.issueSlot c = ((steps 0 1 4).foldl (fun s y => s.fixYield c y) s).attempt c x := by
  unfold State.issueSlot
  generalize (steps 0 1 4).foldl (fun s y => State.fixYield s c y) s = u at h ⊢
  simp only [h]

/-! ### A cycle begins: the inputs from outside that are due take place (log 97) -/

theorem State.pumpLink_keeps {β : Type} (g : State → β)
    (hg : ∀ (s : State) ports hostOut, g { s with ports := ports, hostOut := hostOut } = g s)
    (s : State) (n vc : Nat) : g (s.pumpLink n vc) = g s :=
  (foldl_keeps g (fun s _ => hg s _ _) _ _).trans (hg s _ s.hostOut)

/-- What an input from outside does not move. -/
theorem State.takeInput_keeps {β : Type} (g : State → β)
    (hg : ∀ (s : State) mem poison dirty saved agenda ports cxlSilent msixFunctionMask cm ce monitors
      hostOut, g { s with mem := mem, poison := poison, dirty := dirty, saved := saved,
                          agenda := agenda, ports := ports, cxlSilent := cxlSilent,
                          msixFunctionMask := msixFunctionMask, cm := cm, ce := ce,
                          monitors := monitors, hostOut := hostOut } = g s)
    (s : State) (e : Nat × OutsideInput) : g (s.takeInput e) = g s := by
  have hput : ∀ (s : State) hostOut cm ce, g { s with hostOut := hostOut, cm := cm, ce := ce } = g s :=
    fun s hostOut cm ce => hg s _ _ _ _ _ _ _ _ cm ce _ hostOut
  have hport : ∀ (s : State) ports hostOut, g { s with ports := ports, hostOut := hostOut } = g s :=
    fun s ports hostOut => hg s _ _ _ _ _ ports _ _ _ _ _ hostOut
  obtain ⟨due, i⟩ := e
  unfold State.takeInput
  split
  · rfl
  · cases i with
    | cxlWrite a d po =>
      dsimp only
      split
      · exact storeMarked_keeps g (fun s mem poison dirty saved =>
          hg s mem poison dirty saved _ _ _ _ _ _ _ _) s _ d po
      · rfl
    | bar0Read off n =>
      change g (if _ then _ else _) = g s
      split
      · exact hput s _ _ _
      · exact hput s _ s.cm s.ce
    | functionMask on =>
      exact (foldl_keeps g (fun s v => hg s _ _ _ _ _ _ _ _ _ _ _ _) _ _).trans
        (hg s _ _ _ _ _ _ _ on _ _ _ _)
    | linkCredit port vc n =>
      change g (if _ then State.pumpLink _ _ _ else _) = g s
      split
      · exact (State.pumpLink_keeps g hport _ _ _).trans (hport s _ s.hostOut)
      · exact hport s _ s.hostOut
    | cxlSilent port => exact hg s _ _ _ _ _ _ _ _ _ _ _ _
    | i3cRead target index =>
      change g (if _ then _ else if _ then _ else _) = g s
      split
      · rfl
      · split
        · exact hput s _ _ _
        · exact hput s _ s.cm s.ce
    | slack hall monitor good => exact hg s _ _ _ _ _ _ _ _ _ _ _ _

/-- The inputs that are due leave the list of those to come. -/
theorem State.takeInputs_outside (s : State) :
    s.takeInputs.outside = s.outside.filter fun e => decide (s.cycle < e.1) :=
  foldl_keeps (·.outside) (State.takeInput_keeps _ fun _ _ _ _ _ _ _ _ _ _ _ _ _ => rfl) _ _

theorem State.takeInputs_cycle (s : State) : s.takeInputs.cycle = s.cycle :=
  foldl_keeps (·.cycle) (State.takeInput_keeps _ fun _ _ _ _ _ _ _ _ _ _ _ _ _ => rfl) _ _

theorem State.takeInputs_mem_of_none_due (h : ∀ e ∈ s.outside, s.cycle < e.1) :
    s.takeInputs.mem = s.mem := by
  have hdue : s.outside.filter (fun e => decide (e.1 ≤ s.cycle)) = [] :=
    List.filter_eq_nil_iff.2 fun e he => by simpa using h e he
  rw [State.takeInputs, hdue]
  rfl

/-- A write to CXL device memory by another user of the device is performed at the device (R334). -/
theorem State.takeInputs_mem_of_cxlWrite {d a : Nat} {data : List Byte} {po : List Nat}
    (ho : s.outside = [(d, .cxlWrite a data po)]) (hd : d ≤ s.cycle) (hp : s.power = true)
    (ha : (cxlPortOf a).isSome = true) : s.takeInputs.mem = memSetBytes s.mem (physKey a) data := by
  have hdue : s.outside.filter (fun e => decide (e.1 ≤ s.cycle)) = s.outside := by
    rw [ho]
    exact List.filter_eq_self.2 fun e he => by simpa [List.mem_singleton.1 he] using hd
  rw [State.takeInputs, hdue, ho]
  simp [State.takeInput, hp, ha]

theorem State.countLoad_keeps {β : Type} (g : State → β)
    (hg : ∀ (s : State) loads cores, g { s with loads := loads, cores := cores } = g s)
    (s : State) (h : Nat) : g (s.countLoad h) = g s := by
  unfold State.countLoad
  extract_lets l on u
  have hu : g u = g s := hg s _ s.cores
  split
  · rfl
  · split
    · exact (foldl_keeps g (fun s c => hg s s.loads _) _ _).trans hu
    · exact hu

theorem State.returnCredits_keeps {β : Type} (g : State → β)
    (hg : ∀ (s : State) ports hostOut, g { s with ports := ports, hostOut := hostOut } = g s)
    (s : State) : g s.returnCredits = g s := by
  refine foldl_keeps g (fun s e => ?_) _ s
  refine (foldl_keeps g (fun s o => hg s s.ports _) _ _).trans ?_
  split
  · rfl
  · exact hg s _ s.hostOut

/-- What the counters, clocks and slots of a new cycle leave is what its inputs have left. -/
theorem State.tick_keeps {β : Type} (g : State → β)
    (hg : ∀ (s : State) loads cores agenda fresh todo, g { s with
      loads := loads, cores := cores, agenda := agenda, fresh := fresh, todo := todo } = g s)
    (s : State) : ∃ u : State, u.mem = s.mem ∧ u.outside = s.outside ∧ u.power = s.power ∧
      u.cycle = s.cycle + 1 ∧ g s.tick = g u.takeInputs := by
  unfold State.tick
  split
  · exact ⟨{ s with cycle := s.cycle + 1 }, rfl, rfl, rfl, rfl, rfl⟩
  · have hr := fun {γ : Type} (f : State → γ) hf => State.returnCredits_keeps f hf s
    refine ⟨{ s.returnCredits with cycle := s.cycle + 1 }, hr (·.mem) fun _ _ _ => rfl,
      hr (·.outside) fun _ _ _ => rfl, hr (·.power) fun _ _ _ => rfl, rfl, ?_⟩
    extract_lets hangs u₀ u₁ u₂ u₃ u₄
    have hcount : g u₂ = g u₁ := foldl_keeps g
      (State.countLoad_keeps g fun s loads cores => hg s loads cores _ _ _) _ _
    have hclock : g u₃ = g u₂ := foldl_keeps g (fun s i => hg s _ _ _ _ _) _ _
    have hdone : g u₄ = g u₃ := by
      change g (if _ then _ else _) = _
      split
      · exact hg u₃ _ _ _ _ _
      · rfl
    exact (hg u₄ _ _ _ _ _).trans (hdone.trans (hclock.trans hcount))

/-- A cycle begins, and with it the inputs that are due take place. -/
theorem State.tick_takes_inputs (s : State) : s.tick.cycle = s.cycle + 1 ∧
    s.tick.outside = s.outside.filter (fun e => decide (s.cycle + 1 < e.1)) ∧
    ((∀ e ∈ s.outside, s.cycle + 1 < e.1) → s.tick.mem = s.mem) ∧
    ∀ d a data po, s.outside = [(d, .cxlWrite a data po)] → d ≤ s.cycle + 1 → s.power = true →
      (cxlPortOf a).isSome = true → s.tick.mem = memSetBytes s.mem (physKey a) data := by
  refine ⟨?_, ?_, fun h => ?_, fun d a data po ho hd hp ha => ?_⟩
  · obtain ⟨u, -, -, -, hc, ht⟩ := s.tick_keeps (·.cycle) fun _ _ _ _ _ _ => rfl
    exact ht.trans (u.takeInputs_cycle.trans hc)
  · obtain ⟨u, -, hu, -, hc, ht⟩ := s.tick_keeps (·.outside) fun _ _ _ _ _ _ => rfl
    rw [ht, u.takeInputs_outside, hu, hc]
  · obtain ⟨u, hm, hu, -, hc, ht⟩ := s.tick_keeps (·.mem) fun _ _ _ _ _ _ => rfl
    rw [ht, State.takeInputs_mem_of_none_due (by rwa [hu, hc]), hm]
  · obtain ⟨u, hm, hu, hpu, hc, ht⟩ := s.tick_keeps (·.mem) fun _ _ _ _ _ _ => rfl
    rw [ht, State.takeInputs_mem_of_cxlWrite (hu.trans ho) (hd.trans_eq hc.symm) (hpu.trans hp) ha,
      hm]

/-- Settles O53: one case per branch of the step, and the inputs of a new cycle. -/
theorem stepRunsWhatIsNext : Obligations.StepRunsWhatIsNext := by
  intro s c x d i events rest more
  refine ⟨step_of_dueWriteback, fun hw ha hd he hf hr => ?event, fun hw ha => ⟨?issue, fun ht => ?tick⟩⟩
  case event => exact (step_of_event_due hw ha hd).trans (State.runEvent_wellFormed he hf hr)
  case issue =>
    intro ht u f hs hwild hx hfill hlong hdec
    calc step s = s.nextSlot := step_of_nothing_due hw ha
      _ = State.issueSlot { s with todo := rest } c := State.nextSlot_of_issue ht
      _ = u.attempt c x := State.issueSlot_of_selected hs
      _ = exec i f := State.attempt_of_fetch (State.fetch_of_decode hwild hx hfill hlong hdec)
  case tick =>
    obtain ⟨hcycle, hout, hkeep, hwrite⟩ := s.tick_takes_inputs
    exact ⟨s.tick, (step_of_nothing_due hw ha).trans (State.nextSlot_of_nil ht), hcycle, hout, hkeep,
      fun a data po => hwrite d a data po⟩

end Sys2Proof.Machine


namespace Sys2Proof.Machine

variable {s : State}

/-! ### Register writes that arrive (R57, R66, R67, R69, R412) -/

/-- Of a list of pending writes, those that are due take effect in order (R66, R67). -/
theorem Ctx.reg_writeback (t : Ctx) (now key : Nat) : (t.writeback now).reg key =
    ((t.pend.filter fun w => decide (w.due ≤ now)).foldl (fun t w => t.setRegs w.writes) t).reg key :=
  Ctx.reg_of_regs rfl rfl key

/-- A write that names a register, and no other key, is read back. -/
theorem Ctx.reg_setReg {k : Nat} (hk : k < 1000) (hc : keyConst k = none) (t : Ctx) (v : PVal) :
    (t.setReg k v).reg k = v := by
  rw [Ctx.setReg, if_pos hk]
  exact t.reg_putReg hc v

/-- Of writes to distinct registers each is read back. -/
theorem Ctx.reg_setRegs {ws : List (Nat × PVal)} (hk : ∀ e ∈ ws, e.1 < 1000)
    (hd : ws.Pairwise fun e f => e.1 ≠ f.1) {e : Nat × PVal} (he : e ∈ ws)
    (hc : keyConst e.1 = none) (t : Ctx) : (t.setRegs ws).reg e.1 = e.2 := by
  induction ws generalizing t with
  | nil => exact absurd he List.not_mem_nil
  | cons w ws ih =>
    obtain ⟨hw, hd⟩ := List.pairwise_cons.1 hd
    have hk' : ∀ f ∈ ws, f.1 < 1000 := fun f hf => hk f (.tail _ hf)
    rcases List.mem_cons.1 he with rfl | he
    · refine (Ctx.reg_setRegs_ne (t.setReg e.1 e.2) ws e.1 fun f hf => ?_).trans
        (Ctx.reg_setReg (hk e (.head _)) hc t e.2)
      rw [writeTarget, if_pos (hk' f hf)]
      exact hw f hf
    · exact ih hk' hd he _

/-- With a write appended that is not due yet, a write-back reads as before. -/
theorem Ctx.reg_writeback_of_later {t u : Ctx} {w : PendWrite} {now : Nat} (hr : u.regs = t.regs)
    (hb : u.base = t.base) (hp : u.pend = t.pend ++ [w]) (hw : now < w.due) (key : Nat) :
    (u.writeback now).reg key = (t.writeback now).reg key := by
  have hfilter : u.pend.filter (fun w => decide (w.due ≤ now)) =
      t.pend.filter fun w => decide (w.due ≤ now) := by
    rw [hp, List.filter_append, List.filter_cons_of_neg (by simpa using hw), List.filter_nil,
      List.append_nil]
  rw [Ctx.reg_writeback, Ctx.reg_writeback, hfilter]
  obtain ⟨hregs, hbase⟩ := foldl_setRegs_congr (t.pend.filter fun w => decide (w.due ≤ now)) u t hr hb
  exact Ctx.reg_of_regs hregs hbase key

/-- The last pending write that is due takes effect after every other. -/
theorem Ctx.reg_writeback_of_last_due {t : Ctx} {before after : List PendWrite} {w : PendWrite}
    {now : Nat} (hp : t.pend = before ++ w :: after) (hw : w.due ≤ now)
    (ha : ∀ e ∈ after, now < e.due) (key : Nat) :
    ∃ u : Ctx, (t.writeback now).reg key = (u.setRegs w.writes).reg key := by
  refine ⟨(before.filter fun w => decide (w.due ≤ now)).foldl (fun t w => t.setRegs w.writes) t, ?_⟩
  have hafter : after.filter (fun w => decide (w.due ≤ now)) = [] :=
    List.filter_eq_nil_iff.2 fun e he => by simpa using ha e he
  rw [Ctx.reg_writeback, hp, List.filter_append, List.filter_cons_of_pos (by simpa using hw), hafter,
    List.foldl_append]
  rfl

theorem Ctx.putReg_pend (t : Ctx) (k : Nat) (v : PVal) : (t.putReg k v).pend = t.pend := by
  unfold Ctx.putReg
  split <;> rfl

theorem Ctx.setReg_pend (t : Ctx) (k : Nat) (v : PVal) : (t.setReg k v).pend = t.pend := by
  unfold Ctx.setReg
  split
  · exact t.putReg_pend _ _
  · split <;> exact t.putReg_pend _ _

/-- What no step of a fold over a context moves, the fold does not move. -/
theorem Ctx.foldl_keeps {α β : Type} (g : Ctx → β) {f : Ctx → α → Ctx}
    (hf : ∀ t a, g (f t a) = g t) (l : List α) (t : Ctx) : g (l.foldl f t) = g t := by
  induction l generalizing t with
  | nil => rfl
  | cons a l ih => rw [List.foldl_cons, ih, hf]

theorem Ctx.setRegs_pend (t : Ctx) (ws : List (Nat × PVal)) : (t.setRegs ws).pend = t.pend := by
  rw [Ctx.setRegs]
  exact Ctx.foldl_keeps (·.pend) (fun t w => t.setReg_pend w.1 w.2) ws t

theorem Ctx.writeback_pend (t : Ctx) (now : Nat) :
    (t.writeback now).pend = t.pend.filter fun w => decide (now < w.due) := by
  have hkept := Ctx.foldl_keeps (·.pend) (fun t w => Ctx.setRegs_pend t w.writes)
    (t.pend.filter fun w => decide (w.due ≤ now)) t
  rw [Ctx.writeback]
  dsimp only
  rw [hkept]
  exact List.filter_congr fun w _ => by rw [← decide_not, decide_eq_decide, Nat.not_le]

theorem arriveEntry_of_absent {id : Nat} {v : PVal} {l : List RqEntry} (h : ∀ e ∈ l, e.id ≠ id) :
    arriveEntry id v l = l := by
  induction l with
  | nil => rfl
  | cons e l ih =>
    rw [arriveEntry, if_neg (h e (.head _)), ih fun f hf => h f (.tail _ hf)]

/-- A value fills the first entry of its operation. -/
theorem arriveEntry_of_first {id : Nat} {v : PVal} {before after : List RqEntry} {e : RqEntry}
    (he : e.id = id) (hb : ∀ p ∈ before, p.id ≠ id) : arriveEntry id v (before ++ e :: after) =
      before ++ { e with arrived := true, val := v } :: after := by
  induction before with
  | nil => rw [List.nil_append, arriveEntry, if_pos he, List.nil_append]
  | cons p before ih =>
    rw [List.cons_append, arriveEntry, if_neg (hb p (.head _)), ih fun f hf => hb f (.tail _ hf),
      List.cons_append]

theorem setHas_setDel_self (id : Nat) (l : List Nat) : setHas id (setDel id l) = false := by
  simp [setHas, setDel]

/-- Settles O30: the last due write is the last to take effect, and a value fills its own entry. -/
theorem registerWritesArrive : Obligations.RegisterWritesArrive := by
  intro s c x id v po
  refine ⟨⟨_, rfl, rfl, ?_, ?_⟩, ⟨s.arrive c x id ⟨v, po⟩, rfl, rfl, ?_⟩⟩
  · rw [State.ctx_setCtx, Ctx.writeback_pend]
  · intro before after d key w hp hd ha hk hc
    rw [State.ctx_setCtx]
    obtain ⟨u, hu⟩ := Ctx.reg_writeback_of_last_due hp hd ha key
    exact hu.trans (u.reg_setReg hk hc w)
  · rw [State.arrive, State.ctx_setCtx]
    exact ⟨rfl, setHas_setDel_self id _, arriveEntry_of_absent, fun before e after hq he hb =>
      (congrArg _ hq).trans (arriveEntry_of_first he hb)⟩

/-! ### Writes at their latency, and the constants (R57, R66) -/

theorem Ctx.reg_of_keyConst {key : Nat} {v : Word64} (h : keyConst key = some v) (t : Ctx) :
    t.reg key = ⟨v, false⟩ := by
  rw [Ctx.reg, h]

/-- What has completed with register writes has them pending, and no register written yet. -/
theorem State.wrote_cur (s : State) (q : Issue) (len lat : Nat) (ws : List (Nat × PVal)) :
    (s.wrote q len lat ws).cur.regs = s.cur.regs ∧ (s.wrote q len lat ws).cur.base = s.cur.base ∧
      (s.wrote q len lat ws).cur.pend = s.cur.pend ++ [⟨s.cycle + lat, ws⟩] := by
  obtain ⟨pc, wild, prev, ready, loops, hmoved⟩ :=
    (s.countIssue.writeRegs lat ws).cur.stepPc_moved q len none s.cycle
  have hcur : (s.wrote q len lat ws).cur = _ := State.advance_cur _ q len none
  rw [show (s.countIssue.writeRegs lat ws).cycle = s.cycle from rfl, hmoved, State.writeRegs,
    State.cur_setCur, State.countIssue_cur] at hcur
  rw [hcur]
  exact ⟨rfl, rfl, rfl⟩

section Wrote

variable {ws : List (Nat × PVal)} (q : Issue) (len lat : Nat)

theorem State.reg_wrote_before {now : Nat} (h : now < s.cycle + lat) (key : Nat) :
    ((s.wrote q len lat ws).cur.writeback now).reg key = (s.cur.writeback now).reg key := by
  obtain ⟨hregs, hbase, hpend⟩ := s.wrote_cur q len lat ws
  exact Ctx.reg_writeback_of_later hregs hbase hpend h key

theorem State.reg_wrote_at (hk : ∀ e ∈ ws, e.1 < 1000) (hd : ws.Pairwise fun e f => e.1 ≠ f.1)
    {e : Nat × PVal} (he : e ∈ ws) (hc : keyConst e.1 = none) :
    ((s.wrote q len lat ws).cur.writeback (s.cycle + lat)).reg e.1 = e.2 := by
  obtain ⟨-, -, hpend⟩ := s.wrote_cur q len lat ws
  obtain ⟨u, hu⟩ := Ctx.reg_writeback_of_last_due hpend (le_refl _) (by simp) e.1
  exact hu.trans (u.reg_setRegs hk hd he hc)

theorem State.reg_wrote_other (hk : ∀ e ∈ ws, e.1 < 1000) {key : Nat} (hn : ∀ e ∈ ws, e.1 ≠ key)
    (now : Nat) :
    ((s.wrote q len lat ws).cur.writeback now).reg key = (s.cur.writeback now).reg key := by
  have hw : WritesOnly (ws.map Prod.fst) s (s.countIssue.writeRegs lat ws) :=
    writesOnly_regs s lat ws fun e he => by
      rw [writeTarget, if_pos (hk e he)]
      exact List.mem_map_of_mem he
  refine (advance_registersOnly q len none hw).kept now key fun h => ?_
  obtain ⟨e, he, rfl⟩ := List.mem_map.1 h
  exact hn e he rfl

end Wrote

theorem tileHeld_eq_false {a : Word64} {len : Nat} {write : Bool} (hm : s.memHeld = false)
    (h : a.toNat + len ≤ 2 ^ 17 → s.curK.rangeHeld a.toNat len write = false) :
    tileHeld a len write s = false := by
  rw [tileHeld, hm, Core.addrHeld, Bool.false_or]
  by_cases hr : a.toNat + len ≤ 2 ^ 17
  · rw [h hr, Bool.and_false]
  · rw [decide_eq_false hr, Bool.and_false, Bool.false_and]

theorem execLd_poisoned (hr : s.running = true) (hm : s.memHeld = false) {q : Issue} {w : Width}
    {d a : XReg} {o : BitVec 9} (hp : (s.x a).po = true)
    (hf : (s.ldAddr w a o).toNat + Width.size w ≤ 2 ^ 17 →
      s.curK.rangeHeld (s.ldAddr w a o).toNat (Width.size w) false = false) :
    exec (.ld q w d a o) s = .next (s.takeFault (poisonX a)) := by
  have hfault : s.tileChecks a (s.ldAddr w a o) (Width.size w) = some (poisonX a) := if_pos hp
  dsimp only [exec, execLd]
  rw [tileHeld_eq_false hm hf, hfault]
  exact issue_faults hr

/-- Settles O59: the writes stand last in the pending list, due at their latency. -/
theorem writesTakeEffectAtTheirLatency : Obligations.WritesTakeEffectAtTheirLatency := by
  intro s q d a b k wd o u len lat now c x key v ws t
  have hconst : ∀ {r v}, keyConst r = some v → s.cur.reg r = ⟨v, false⟩ := fun h =>
    Ctx.reg_of_keyConst h s.cur
  refine ⟨fun hk hd => ⟨fun h => State.reg_wrote_before q len lat h key,
      fun e he hc => State.reg_wrote_at q len lat hk hd he hc,
      fun hn => State.reg_wrote_other q len lat hk hn now⟩,
    step_of_dueWriteback, fun h => u.reg_of_keyConst h, rfl, rfl, rfl,
    hconst (r := xKey 0) rfl, hconst (r := kKey 0) rfl, hconst (r := pKey 0) rfl, fun h =>
    ⟨?add, ?mul, ?pset, ?vknot, fun hm hp hf => execLd_poisoned h.1 hm hp hf⟩⟩
  all_goals dsimp only [exec]
  case add => exact regForm_completes h
  case mul => exact regForm_completes h
  case pset =>
    exact (predForm_completes h rfl rfl).trans (by rw [State.wroteP, if_neg Bool.false_ne_true])
  case vknot => exact maskForm_completes h (by rw [State.countIssue_k]) (by rw [State.countIssue_k])

end Sys2Proof.Machine


namespace Sys2Proof.Machine

variable {s : State} {q : Issue}

/-! ### Divisions and DPOP (R69 to R71, R113, R114) -/

/-- The effect of a completed instruction matters on the counted issue alone. -/
theorem State.complete_congr {len : Nat} {target : Option Int} {eff eff' : State → State}
    (h : eff s.countIssue = eff' s.countIssue) :
    s.complete q len target eff = s.complete q len target eff' := by
  rw [State.complete, State.complete, h]

theorem divCycles_ge (signed : Bool) (a b : Word64) : 6 ≤ divCycles signed a b := by
  unfold divCycles
  omega

theorem divCycles_le (signed : Bool) (a b : Word64) : divCycles signed a b ≤ 70 :=
  Nat.min_le_right _ _

theorem divForm_defers (h : s.issues) (hr : s.cur.rq.length < 8) {signed : Bool}
    {f : Word64 → Word64 → Word64} {a b : XReg} {v : Word64} (hv : f (s.x a).v (s.x b).v = v) :
    ∃ n, 6 ≤ n ∧ n ≤ 70 ∧ divForm q signed f a b s = .next (s.complete q 1 none fun u =>
      (u.setCur { u.cur with rq := u.cur.rq ++ [⟨s.nextId, false, {}, false⟩] }).newId.at
        (s.cycle + n) (.deferredResultArrival s.curCore s.curCtx s.nextId v
          ((s.x a).po || (s.x b).po))) := by
  refine ⟨divCycles signed (s.x a).v (s.x b).v, divCycles_ge .., divCycles_le .., ?_⟩
  have hroom : s.cur.rqFull = false := decide_eq_false (Nat.not_le.2 hr)
  rw [divForm, hroom, issue_completes h, ← hv]
  refine congrArg _ (State.complete_congr ?_)
  simp only [State.countIssue_x]
  rfl

theorem divForm_held (hr : 8 ≤ s.cur.rq.length) {signed : Bool} {f : Word64 → Word64 → Word64}
    {a b : XReg} : divForm q signed f a b s = .next s := by
  have hfull : s.cur.rqFull = true := decide_eq_true hr
  rw [divForm, hfull]
  exact issue_held

theorem dpopHeld_of_cons {e : RqEntry} {es : List RqEntry} (hq : s.cur.rq = e :: es) :
    dpopHeld s = !e.arrived := by
  rw [dpopHeld, hq]

theorem dpop_of_cons (h : s.issues) {e : RqEntry} {es : List RqEntry} (hq : s.cur.rq = e :: es)
    (d : XReg) : exec (.dpop q d) s = if e.arrived then
      .next (s.complete q 1 none fun u =>
        (u.setCur { u.cur with rq := es }).writeX 1 d e.val.v e.val.po)
    else .next s := by
  dsimp only [exec, execDpop]
  rw [dpopHeld_of_cons hq]
  by_cases ha : e.arrived = true
  · rw [if_pos ha, ha, hq]
    refine (issue_completes h).trans (congrArg _ (State.complete_congr ?_))
    simp only [State.countIssue_cur, hq]
  · rw [if_neg ha, eq_false_of_ne_true ha]
    exact issue_held

theorem dpop_of_nil (h : s.running = true) (hq : s.cur.rq = []) (d : XReg) :
    exec (.dpop q d) s = .next (s.takeFault { code := codeRange, detail := 1 }) := by
  dsimp only [exec, execDpop]
  rw [dpopHeld, hq]
  exact issue_faults h

/-- Settles O4: a division defers, or is held; DPOP by the three shapes of the queue. -/
theorem divisionsDeferAndPop : Obligations.DivisionsDeferAndPop := by
  intro s q d a b h
  dsimp only
  exact ⟨fun hr => ⟨divForm_defers h hr rfl, divForm_defers h hr rfl, divForm_defers h hr rfl,
      divForm_defers h hr rfl⟩,
    fun hr => ⟨divForm_held hr, divForm_held hr, divForm_held hr, divForm_held hr⟩,
    fun e es hq => dpop_of_cons h hq d, fun hq => dpop_of_nil h.1 hq d⟩

/-! ### Transfers (R121 to R123, R133, R134) -/

theorem branchForm_clean (h : s.issues) {sense : Bool} {p : PReg} {off : BitVec 17}
    (hp : (s.p p).po = false) : branchForm q sense p off s =
      .next (s.moved q (if s.pv p == sense then some (relTarget s off) else none)) := by
  rw [branchForm, hp]
  exact issue_completes h

theorem branchForm_poisoned (h : s.running = true) {sense : Bool} {p : PReg} {off : BitVec 17}
    (hp : (s.p p).po = true) : branchForm q sense p off s = .next (s.takeFault (poisonP p)) := by
  rw [branchForm, hp]
  exact issue_faults h

theorem jr_clean (h : s.issues) {a : XReg} (hp : (s.x a).po = false) : exec (.jr q a) s =
    if (s.x a).v.toNat < 2 ^ 13 then .next (s.moved q (some ((s.x a).v.toNat : Int)))
    else .next (s.takeFault (scalarRange 4 (s.x a).v)) := by
  dsimp only [exec, execJr]
  rw [hp]
  by_cases hr : (s.x a).v.toNat < 2 ^ 13
  · rw [if_pos hr, decide_eq_false (Nat.not_le.2 hr)]
    exact issue_completes h
  · rw [if_neg hr, decide_eq_true (Nat.not_lt.1 hr)]
    exact issue_faults h.1

theorem loop_clean (h : s.issues) {a : XReg} (hp : (s.x a).po = false) (i : BitVec 11) :
    exec (.loop q a i) s =
      if 2 ^ 32 ≤ (s.x a).v.toNat then .next (s.takeFault (scalarRange 3 (s.x a).v))
      else if (s.x a).v.toNat = 0 then
        .next (s.moved q (some ((s.cur.pc.toNat : Int) + i.toNat + 1)))
      else if 2 ≤ s.cur.loops.length then .next (s.takeFault (scalarRange 2 0))
      else .next (s.complete q 1 none fun u => u.setCur { u.cur with
        loops := ⟨s.cur.pc.toNat + 1, s.cur.pc.toNat + i.toNat,
          BitVec.ofNat 32 (s.x a).v.toNat⟩ :: u.cur.loops }) := by
  dsimp only [exec, execLoop]
  rw [hp]
  by_cases hbig : 2 ^ 32 ≤ (s.x a).v.toNat
  · rw [if_pos hbig, decide_eq_true (by omega)]
    exact issue_faults h.1
  rw [if_neg hbig, decide_eq_false (by omega)]
  by_cases hzero : (s.x a).v.toNat = 0
  · rw [if_pos hzero, if_pos hzero, hzero]
    exact issue_completes h
  rw [if_neg hzero, if_neg hzero, bne_iff_ne.2 hzero]
  by_cases hfull : 2 ≤ s.cur.loops.length
  · rw [if_pos hfull, decide_eq_true hfull]
    exact issue_faults h.1
  · rw [if_neg hfull, decide_eq_false hfull]
    refine (issue_completes h).trans (congrArg _ (State.complete_congr ?_))
    rw [if_neg hzero, State.countIssue_cur]

/-- Settles O5: transfers that go, that fault, and LOOP by its count and its stack. -/
theorem transfersMoveThePc : Obligations.TransfersMoveThePc := by
  intro s q p a off i h
  refine ⟨fun hp => ⟨?br, ?brn⟩, fun hp => ⟨branchForm_poisoned h.1 hp, branchForm_poisoned h.1 hp⟩,
    issue_completes h, ?jal, fun hp => ⟨?jrFault, ?loopFault⟩,
    fun hp => ⟨jr_clean h hp, loop_clean h hp i⟩⟩
  case br =>
    refine (branchForm_clean h hp).trans ?_
    cases s.pv p <;> rfl
  case brn =>
    refine (branchForm_clean h hp).trans ?_
    cases s.pv p <;> rfl
  case jal =>
    refine (issue_completes h).trans (congrArg _ (State.complete_congr ?_))
    rw [State.countIssue_cur]
  case jrFault =>
    dsimp only [exec, execJr]
    rw [hp]
    exact issue_faults h.1
  case loopFault =>
    dsimp only [exec, execLoop]
    rw [hp]
    exact issue_faults h.1

end Sys2Proof.Machine


namespace Sys2Proof.Machine

variable {s : State}

/-! ### Commands that enter the matrix queue (R165 to R169, R173, R175) -/

theorem mem_agendaInsert_of_mem {e : Nat × Instr} {a : List (Nat × Instr)} (h : e ∈ a) (due : Nat)
    (i : Instr) : e ∈ agendaInsert due i a := by
  induction a with
  | nil => exact absurd h List.not_mem_nil
  | cons b a ih =>
    rw [agendaInsert]
    split
    · exact .tail _ h
    · rcases List.mem_cons.1 h with rfl | h
      · exact .head _
      · exact .tail _ (ih h)

/-- A fold of maxima lies above its start and every value, and is one of them. -/
theorem foldl_max_spec {α : Type} (f : α → Nat) (l : List α) (m : Nat) :
    let r := l.foldl (fun m a => max m (f a)) m
    m ≤ r ∧ (∀ a ∈ l, f a ≤ r) ∧ (r = m ∨ ∃ a ∈ l, r = f a) := by
  induction l generalizing m with
  | nil => exact ⟨le_refl m, fun _ h => absurd h List.not_mem_nil, .inl rfl⟩
  | cons a l ih =>
    obtain ⟨hstart, hall, hone⟩ := ih (max m (f a))
    refine ⟨(le_max_left _ _).trans hstart, fun b hb => ?_, ?_⟩
    · rcases List.mem_cons.1 hb with rfl | hb
      · exact (le_max_right _ _).trans hstart
      · exact hall b hb
    · rcases hone with h | ⟨b, hb, h⟩
      · rcases max_choice m (f a) with hm | hm
        · exact .inl (h.trans hm)
        · exact .inr ⟨a, .head _, h.trans hm⟩
      · exact .inr ⟨b, .tail _ hb, h⟩

/-- The cycle from which a later command may run beside an earlier one (R169). -/
def MCmd.clearsAt (c : MCmd) (mac : Bool) : Nat := if mac && isMac c.instr then c.stop else c.retire

theorem Core.startCycle_eq (k : Core) (now : Nat) (mac : Bool) :
    k.startCycle now mac = k.mq.foldl (fun t c => max t (c.clearsAt mac)) (now + 2) := rfl

theorem firstFault_eq_none {l : List (Bool × FaultInfo)} (h : ∀ e ∈ l, e.1 = false) :
    firstFault l = none := by
  induction l with
  | nil => rfl
  | cons e l ih =>
    obtain ⟨b, f⟩ := e
    obtain rfl : b = false := h (b, f) (.head _)
    exact ih fun e he => h e (.tail _ he)

/-- Replacing a context leaves the units of its core. -/
theorem Core.setCtx_units (k : Core) (x : Nat) (t : Ctx) : k.setCtx x t =
    { k with c0 := (k.setCtx x t).c0, c1 := (k.setCtx x t).c1, c2 := (k.setCtx x t).c2,
             c3 := (k.setCtx x t).c3 } := by
  unfold Core.setCtx
  split
  · rfl
  · split
    · rfl
    · split <;> rfl

@[simp] theorem Core.setCtx_score (k : Core) (x : Nat) (t : Ctx) : (k.setCtx x t).score = k.score := by
  rw [Core.setCtx_units]

@[simp] theorem Core.setCtx_mq (k : Core) (x : Nat) (t : Ctx) : (k.setCtx x t).mq = k.mq := by
  rw [Core.setCtx_units]

theorem State.setCurK_setCurK (s : State) (k l : Core) : (s.setCurK k).setCurK l = s.setCurK l := by
  simp only [State.setCurK, State.setCore, mapPut_put]

/-- The range entries of an operation. -/
def rangeEntries (id : Nat) (write : Bool) (ranges : List MRange) : List ScoreEntry :=
  ranges.map fun r => ⟨id, r.base.toNat, r.len, write, false⟩

/-- Ranges that enter the scoreboard change nothing else. -/
theorem State.foldl_addRange (s : State) (id : Nat) (write : Bool) (ranges : List MRange) :
    let u := ranges.foldl (fun s r => s.addRange id r.base.toNat r.len write false) s
    u.curK = { s.curK with score := s.curK.score ++ rangeEntries id write ranges } ∧
      ∀ k, u.setCurK k = s.setCurK k := by
  induction ranges generalizing s with
  | nil => exact ⟨by rw [rangeEntries, List.map_nil, List.append_nil]; rfl, fun _ => rfl⟩
  | cons r ranges ih =>
    obtain ⟨hk, hset⟩ := ih (s.addRange id r.base.toNat r.len write false)
    refine ⟨hk.trans ?_, fun k => (hset k).trans (s.setCurK_setCurK _ k)⟩
    rw [State.addRange, State.curK_setCurK]
    simp only [List.append_assoc]
    rfl

/-- A command as it stands in the queue. -/
def State.asQueued (s : State) (c : MCmd) (mac : Bool) (stream drain : Nat) : MCmd :=
  let start := s.curK.startCycle s.cycle mac
  { c with id := s.nextId, word := s.word, start := start, stop := start + stream,
           retire := start + stream + drain }

/-- A core with a command behind the others of its queue, and the command's ranges held. -/
def Core.withCommand (k : Core) (c : MCmd) (entries : List ScoreEntry) : Core :=
  { k with score := k.score ++ entries, mq := k.mq ++ [c] }

@[simp] theorem Core.ctx_withCommand (k : Core) (c : MCmd) (entries : List ScoreEntry) (x : Nat) :
    (k.withCommand c entries).ctx x = k.ctx x := rfl

/-- The three events of a queued command (R169). -/
def State.commandEvents (s : State) (c : MCmd) : State :=
  ((s.at c.start (.matrixCommandStart s.curCore)).at c.stop (.matrixStreamEnd s.curCore)).at c.retire
    (.matrixCommandRetire s.curCore)

/-- What the entry of a command into the queue changes. -/
theorem State.enqueue_eq (s : State) (c : MCmd) (mac : Bool) (stream drain : Nat)
    (ranges : List MRange) (write : Bool) : s.enqueue c mac stream drain ranges write =
      (s.newId.setCurK (s.curK.withCommand (s.asQueued c mac stream drain)
        (rangeEntries s.nextId write ranges))).commandEvents (s.asQueued c mac stream drain) := by
  obtain ⟨hk, hset⟩ := s.newId.foldl_addRange s.nextId write ranges
  let v := ranges.foldl (fun u r => State.addRange u s.nextId r.base.toNat r.len write false) s.newId
  have hv : v.setCurK { v.curK with mq := v.curK.mq ++ [s.asQueued c mac stream drain] } =
      s.newId.setCurK (s.curK.withCommand (s.asQueued c mac stream drain)
        (rangeEntries s.nextId write ranges)) := by
    refine (hset _).trans (congrArg _ ?_)
    rw [hk]
    rfl
  exact congrArg (State.commandEvents · (s.asQueued c mac stream drain)) hv

/-- The events of a command stand in the agenda. -/
theorem State.mem_commandEvents (s : State) (c : MCmd) :
    (c.start, .matrixCommandStart s.curCore) ∈ (s.commandEvents c).agenda ∧
    (c.stop, .matrixStreamEnd s.curCore) ∈ (s.commandEvents c).agenda ∧
    (c.retire, .matrixCommandRetire s.curCore) ∈ (s.commandEvents c).agenda :=
  ⟨mem_agendaInsert_of_mem (mem_agendaInsert_of_mem (mem_agendaInsert ..) _ _) _ _,
    mem_agendaInsert_of_mem (mem_agendaInsert ..) _ _, mem_agendaInsert ..⟩

/-- The state in which a command has entered the queue in an issue that counts. -/
def State.withCommand (s : State) (d : MCmd) (entries : List ScoreEntry) : State :=
  (s.countIssue.newId.setCurK (s.countIssue.curK.withCommand d entries)).commandEvents d

/-- A context whose issue alone has been counted differs in no more than `NothingWritten` admits. -/
theorem Ctx.own_of_counted {t u : Ctx} {n : BitVec 16} (h : u = { t with ldist := n }) :
    u = { t with
      ldist := u.ldist, rq := u.rq, tags := u.tags, acq := u.acq, fence := u.fence, areas := u.areas,
      claimMade := u.claimMade, putMade := u.putMade, freed := u.freed, reserved := u.reserved,
      sent := u.sent, elastic := u.elastic, txn := u.txn } := by
  subst h
  rfl

section WithCommand

variable (s : State) (d : MCmd) (entries : List ScoreEntry)

theorem State.withCommand_core (n : Nat) : (s.withCommand d entries).core n =
    (s.countIssue.setCurK (s.countIssue.curK.withCommand d entries)).core n := rfl

theorem State.withCommand_curK : (s.withCommand d entries).curK =
    (s.curK.setCtx s.curCtx { s.cur with ldist := s.cur.ldist + 1 }).withCommand d entries :=
  (State.core_setCore ..).trans (congrArg (Core.withCommand · d entries) (State.curK_setCur ..))

theorem State.withCommand_cur :
    (s.withCommand d entries).cur = { s.cur with ldist := s.cur.ldist + 1 } := by
  have hctx : (s.withCommand d entries).curCtx = s.curCtx := rfl
  rw [State.cur_eq, hctx, State.withCommand_curK, Core.ctx_withCommand, Core.ctx_setCtx]

/-- It writes nothing yet (R165, R168). -/
theorem nothingWritten_withCommand : NothingWritten s (s.withCommand d entries) := by
  refine ⟨?mem, ?poison, ?full, ?own, ?units, fun x hx hne => ?contexts, fun n hn => ?others⟩
  case mem | poison | full => simp [State.withCommand, State.commandEvents]
  case own => exact Ctx.own_of_counted (s.withCommand_cur d entries)
  case units =>
    rw [State.withCommand_curK, Core.setCtx_units]
    rfl
  case contexts =>
    refine (congrArg (Core.ctx · x) (s.withCommand_curK d entries)).trans ?_
    exact (Core.ctx_withCommand ..).trans (Core.ctx_setCtx_ne _ _ (by omega))
  case others =>
    rw [State.withCommand_core]
    exact (State.core_setCore_ne _ _ hn).trans (State.core_setCore_ne _ _ hn)

end WithCommand

/-- Ranges as first byte and length. -/
def spans (ranges : List MRange) : List (Nat × Nat) := ranges.map fun r => (r.base.toNat, r.len)

/-- A command that enters the queue in an issue that counts (R168, R169, R173). -/
theorem matrixQueued_withCommand {i : Instr} {d : MCmd} {stream drain : Nat} {ranges : List MRange}
    {write : Bool} (hid : d.id = s.nextId) (hi : d.instr = i) (hs : d.started = false)
    (hstart : d.start = s.curK.startCycle s.cycle (isMac i)) (hstop : d.stop = d.start + stream)
    (hretire : d.retire = d.stop + drain) :
    MatrixQueued s (s.withCommand d (rangeEntries s.nextId write ranges)) i stream drain
      (spans ranges) write := by
  obtain ⟨hmin, hall, hone⟩ :=
    foldl_max_spec (fun c => MCmd.clearsAt c (isMac i)) s.curK.mq (s.cycle + 2)
  rw [← Core.startCycle_eq, ← hstart] at hmin hall hone
  obtain ⟨hevent, hevent', hevent''⟩ := State.mem_commandEvents (s.countIssue.newId.setCurK
    (s.countIssue.curK.withCommand d (rangeEntries s.nextId write ranges))) d
  refine ⟨⟨d, ?_, hid, hi, hs, hstop, hretire, hmin, hall, hone, hevent, hevent', hevent''⟩, ?_,
    nothingWritten_withCommand ..⟩
  · rw [State.withCommand_curK]
    exact congrArg (· ++ [d]) (Core.setCtx_mq ..)
  · rw [State.withCommand_curK]
    refine congrArg₂ (· ++ ·) (Core.setCtx_score ..) ?_
    rw [spans, List.map_map]
    rfl

/-- A queued form that neither a hold nor a fault meets completes with its command in the queue. -/
theorem queuedForm_completes (h : s.issues) {q : Issue} {hold : Bool} {flt : Option FaultInfo}
    {i : Instr} {c : MCmd} {stream drain : Nat} {ranges : List MRange} {write : Bool}
    {eff : State → State} (hhold : hold = false) (hflt : flt = none)
    (heff : eff s.countIssue = s.countIssue.enqueue c (isMac i) stream drain ranges write)
    (hi : c.instr = i) (hs : c.started = false) :
    ∃ u, issue q 1 hold flt none eff s = .next (u.advance q 1 none) ∧
      u.cur.ldist = s.cur.ldist + 1 ∧
      MatrixQueued s u i stream drain (spans ranges) write := by
  subst hhold hflt
  refine ⟨s.countIssue.enqueue c (isMac i) stream drain ranges write, ?_, ?_, ?_⟩
  · rw [issue_completes h, State.complete, heff]
  · rw [State.enqueue_eq]
    exact congrArg Ctx.ldist (s.withCommand_cur ..)
  · rw [State.enqueue_eq]
    refine matrixQueued_withCommand rfl hi hs ?_ rfl rfl
    have hmq : s.countIssue.curK.mq = s.curK.mq := by
      rw [State.countIssue, State.curK_setCur, Core.setCtx_mq]
    exact (Core.startCycle_eq ..).trans (by rw [hmq]; rfl)

theorem queueHeld_eq_false {ranges : List MRange} {write : Bool} (hq : s.curK.mq.length < 4)
    (hr : RangesFree s write (spans ranges)) : queueHeld ranges write s = false := by
  have hany : ranges.any (fun r => s.curK.addrHeld r.base r.len write) = false :=
    List.any_eq_false.2 fun r h => by
      rw [Core.addrHeld, (hr _ (List.mem_map_of_mem h)).2, Bool.and_false]
      exact Bool.false_ne_true
  rw [queueHeld, hany, Bool.or_false]
  exact decide_eq_false (Nat.not_le.2 hq)

theorem matrixFaultOf_of_owner (h : s.ownsMatrix s.curCore s.curCtx = true) :
    s.matrixFaultOf.1 = false := by
  rw [State.matrixFaultOf, h]
  rfl

theorem macForm_completes (h : s.issues) (hown : s.ownsMatrix s.curCore s.curCtx = true)
    (hq : s.curK.mq.length < 4) {q : Issue} {i : Instr} {f : MFmt} {a b : XReg} {kc : BitVec 6}
    (hi : isMac i = true) (ha : (s.x a).v.toNat % 8 = 0) (hb : (s.x b).v.toNat % 8 = 0)
    (hp : ∀ r ∈ macRegs f a b, (s.x r).po = false) {l : List (Nat × Nat)}
    (hl : spans (s.macRanges f a b (kc.toNat + 1)) = l) (hr : RangesFree s false l) :
    ∃ u, macForm q i f a b kc s = .next (u.advance q 1 none) ∧ u.cur.ldist = s.cur.ldist + 1 ∧
      MatrixQueued s u i (streamCycles f (kc.toNat + 1)) 96 l false := by
  subst hl
  refine queuedForm_completes h (queueHeld_eq_false hq hr) (firstFault_eq_none ?_)
    (by rw [hi]) rfl rfl
  intro e he
  simp only [State.macChecks, List.mem_cons, List.mem_append, List.mem_map] at he
  rcases he with rfl | (⟨r, hreg, rfl⟩ | rfl | rfl | he) | ⟨r, hrange, rfl⟩
  · exact matrixFaultOf_of_owner hown
  · exact hp r hreg
  · simp [ha]
  · simp [hb]
  · exact absurd he List.not_mem_nil
  · exact decide_eq_false (Nat.not_lt.2 (hr _ (List.mem_map_of_mem hrange)).1)

theorem bankChecks_eq_none (hown : s.ownsMatrix s.curCore s.curCtx = true) {a : XReg} {write : Bool}
    (hp : (s.x a).po = false) (ha : (s.x a).v.toNat % 256 = 0)
    (hr : RangesFree s write [((s.x a).v.toNat, 8192)]) : firstFault (s.bankChecks a) = none := by
  refine firstFault_eq_none fun e he => ?_
  simp only [State.bankChecks, List.mem_cons] at he
  rcases he with rfl | rfl | rfl | rfl | he
  · exact matrixFaultOf_of_owner hown
  · exact hp
  · simp [ha]
  · have hle : (s.x a).v.toNat + 8192 ≤ 2 ^ 17 := (hr _ (List.mem_singleton_self _)).1
    dsimp only
    exact decide_eq_false (Nat.not_lt.2 hle)
  · exact absurd he List.not_mem_nil

theorem blockBytes_groups (n : Nat) (f : MFmt) (g : Nat) :
    n * blockBytes f * g = 4 * n * MFmt.bits f * g := by
  rw [blockBytes, Nat.mul_comm 4, ← Nat.mul_assoc, Nat.mul_right_comm n, Nat.mul_comm n]

theorem spans_macRanges_plain {f : MFmt} (hf : MFmt.scaled f = false) (a b : XReg) (n : Nat) :
    spans (s.macRanges f a b n) = [((s.x a).v.toNat, 128 * MFmt.bits f * ((n + 31) / 32)),
      ((s.x b).v.toNat, 256 * MFmt.bits f * ((n + 31) / 32))] := by
  rw [State.macRanges, hf, blockBytes_groups, blockBytes_groups]
  rfl

theorem spans_macRanges_scaled {f : MFmt} (hf : MFmt.scaled f = true) (a b : XReg) (n : Nat) :
    spans (s.macRanges f a b n) = [((s.x a).v.toNat, 128 * MFmt.bits f * ((n + 31) / 32)),
      ((s.x b).v.toNat, 256 * MFmt.bits f * ((n + 31) / 32)),
      ((s.x (a + 1)).v.toNat, 32 * ((n + 31) / 32)), ((s.x (b + 1)).v.toNat, 64 * ((n + 31) / 32))] := by
  rw [State.macRanges, hf, blockBytes_groups, blockBytes_groups]
  rfl

theorem scaled_of_plain {f : MFmt} (h : MFmt.plain f = true) : MFmt.scaled f = false := by
  cases f <;> first | rfl | cases h

/-- The registers of a plain multiply-accumulate are clean where its two are (R181). -/
theorem macRegs_clean {f : MFmt} (hf : MFmt.scaled f = false) {a b : XReg}
    (ha : (s.x a).po = false) (hb : (s.x b).po = false) :
    ∀ r ∈ macRegs f a b, (s.x r).po = false := by
  simp [macRegs, hf, ha, hb]

/-- And of a scaled one where its four are. -/
theorem macRegs_clean_scaled {f : MFmt} (hf : MFmt.scaled f = true) {a b : XReg}
    (ha : (s.x a).po = false) (hb : (s.x b).po = false) (ha' : (s.x (a + 1)).po = false)
    (hb' : (s.x (b + 1)).po = false) : ∀ r ∈ macRegs f a b, (s.x r).po = false := by
  rw [macRegs, if_pos hf]
  simp only [List.forall_mem_cons]
  exact ⟨ha, hb, ha', hb', fun _ h => absurd h List.not_mem_nil⟩

/-- Settles O20: each form enters the queue with the ranges of its format. -/
theorem matrixFormsEnterTheQueue : Obligations.MatrixFormsEnterTheQueue := by
  intro s q z a b f kc h hown hq n g at' ab sc stream
  refine ⟨?mzero, fun hpa ha hpb hb => ⟨fun hf hr => ?mma, fun hr => ?mmai,
    fun hf hpa' hpb' hr => ?mmas⟩, fun hp ha hm => ⟨fun hr => ?mldz, fun hr => ?mstz⟩⟩
  case mzero =>
    refine queuedForm_completes (ranges := []) h (queueHeld_eq_false hq ?_)
      (firstFault_eq_none fun e he => ?_) rfl rfl rfl
    · exact fun r hr => absurd hr List.not_mem_nil
    · rw [List.mem_singleton.1 he]
      exact matrixFaultOf_of_owner hown
  case mma =>
    exact macForm_completes h hown hq rfl ha hb (macRegs_clean (scaled_of_plain hf) hpa hpb)
      (spans_macRanges_plain (scaled_of_plain hf) a b n) hr
  case mmai =>
    exact macForm_completes h hown hq rfl ha hb (macRegs_clean rfl hpa hpb)
      (spans_macRanges_plain rfl a b n) hr
  case mmas =>
    exact macForm_completes h hown hq rfl ha hb (macRegs_clean_scaled hf hpa hpb hpa' hpb')
      (spans_macRanges_scaled hf a b n) hr
  case mldz =>
    refine queuedForm_completes (ranges := [⟨(s.x a).v, 8192, 36⟩]) h ?_
      (bankChecks_eq_none hown hp ha hr) (by rw [State.countIssue_x]; rfl) rfl rfl
    rw [hm, queueHeld_eq_false hq hr]
    rfl
  case mstz =>
    refine queuedForm_completes (ranges := [⟨(s.x a).v, 8192, 36⟩]) h ?_
      (bankChecks_eq_none hown hp ha hr) rfl rfl rfl
    rw [hm, queueHeld_eq_false hq hr]
    rfl

end Sys2Proof.Machine


namespace Sys2Proof.Machine

variable {s : State}

/-! ### What taking a fault leaves, and what it stops (R455 to R458) -/

/-- A context replaced by one that a function cannot tell from it changes that function of no context. -/
theorem State.ctx_setCtx_keeps {β : Type} (p : Ctx → β) {c x : Nat} {t : Ctx}
    (h : p t = p (s.ctx c x)) (d y : Nat) : p ((s.setCtx c x t).ctx d y) = p (s.ctx d y) := by
  by_cases hc : d = c
  · subst hc
    rw [State.ctx, State.setCtx, State.core_setCore]
    by_cases hx : min x 3 = min y 3
    · have hy : ∀ k : Core, k.ctx y = k.ctx x := fun k => by
        unfold Core.ctx
        rcases (by omega : x = y ∨ 2 < x ∧ 2 < y) with rfl | ⟨h1, h2⟩
        · rfl
        · simp only [show x ≠ 0 by omega, show x ≠ 1 by omega, show x ≠ 2 by omega,
            show y ≠ 0 by omega, show y ≠ 1 by omega, show y ≠ 2 by omega, if_false]
      rw [hy, Core.ctx_setCtx, h, State.ctx, State.ctx, hy]
    · rw [Core.ctx_setCtx_ne _ _ hx, State.ctx]
  · rw [State.ctx, State.setCtx, State.core_setCore_ne _ _ hc, State.ctx]

/-- A core replaced by one with the same contexts. -/
theorem State.ctx_setCore_keeps {c : Nat} {k : Core} (h : ∀ x, k.ctx x = (s.core c).ctx x) (d y : Nat) :
    (s.setCore c k).ctx d y = s.ctx d y := by
  by_cases hc : d = c
  · subst hc
    rw [State.ctx, State.core_setCore, h, State.ctx]
  · rw [State.ctx, State.core_setCore_ne _ _ hc, State.ctx]

theorem State.ctx_of_cores {t : State} (h : t.cores = s.cores) (c x : Nat) : t.ctx c x = s.ctx c x := by
  rw [State.ctx, State.core, h, State.ctx, State.core]

/-- The ranges of an operation are not in a context. -/
theorem State.dropRanges_ctx (s : State) (k id c x : Nat) : (s.dropRanges k id).ctx c x = s.ctx c x := by
  unfold State.dropRanges
  refine State.ctx_setCore_keeps ?_ c x
  intro y
  rfl

/-- A result that is written changes of the contexts no more than what areas they count (R226). -/
theorem State.writeResult_ctx {β : Type} (p : Ctx → β)
    (hp : ∀ (t : Ctx) areas, p { t with areas := areas } = p t) (s : State) (id : Nat) (d : List Byte)
    (po : List Nat) (c x : Nat) : p ((s.writeResult id d po).ctx c x) = p (s.ctx c x) := by
  unfold State.writeResult
  split
  · rfl
  · next r _ =>
    extract_lets u v t w
    have hu : ∀ c x, u.ctx c x = s.ctx c x :=
      State.ctx_of_cores (storeMarked_keeps (·.cores) (fun _ _ _ _ _ => rfl) s _ d po)
    have hv : v.ctx c x = u.ctx c x := u.dropRanges_ctx r.core id c x
    have hw : p (w.ctx c x) = p (v.ctx c x) := State.ctx_setCtx_keeps p (hp t _) c x
    calc p (State.ctx _ c x) = p (w.ctx c x) := congrArg p (State.ctx_of_cores (s := w) (by rfl) c x)
      _ = p (s.ctx c x) := hw.trans (congrArg p (hv.trans (hu c x)))

/-- What the end of a load's PREQs and the start of its stop do not move. -/
theorem State.stopLoad_keeps {β : Type} (g : State → β)
    (hg : ∀ (s : State) loads launches agenda fresh, g { s with
      loads := loads, launches := launches, agenda := agenda, fresh := fresh } = g s)
    {s : State} {h : Nat} (hp : g (s.failPreqs h) = g s) (code : Nat) : g (s.stopLoad h code) = g s := by
  have hstop : g ((s.loadAt h).cores.foldl (fun s c => State.within s 1 200 (.stopFlagArrival c))
      ((s.failPreqs h).setLoad h { (s.failPreqs h).loadAt h with
        state := .stopping, code := some (BitVec.ofNat 8 code), stopAt := (s.failPreqs h).cycle })) = g s :=
    (foldl_keeps g (fun s c => hg s s.loads s.launches _ _) _ _).trans
      ((hg _ _ (s.failPreqs h).launches (s.failPreqs h).agenda (s.failPreqs h).fresh).trans hp)
  unfold State.stopLoad
  extract_lets l u v w z
  have hlater : g (z.later 1 .loadStopped) = g s := (hg z z.loads z.launches _ _).trans hstop
  split
  · exact hlater
  · exact hlater
  · exact hlater
  · split
    · rfl
    · exact (State.launchFaults_keeps g (fun s launches agenda fresh => hg s s.loads launches agenda fresh)
        _ _ _).trans (hg s _ s.launches s.agenda s.fresh)
  · rfl

theorem State.failPreqs_ctx {β : Type} (p : Ctx → β)
    (hp : ∀ (t : Ctx) areas, p { t with areas := areas } = p t) (s : State) (h c x : Nat) :
    p ((s.failPreqs h).ctx c x) = p (s.ctx c x) :=
  foldl_keeps (fun s => p (s.ctx c x)) (fun s _ => State.writeResult_ctx p hp s _ _ _ c x) _ s

theorem State.stopLoad_ctx {β : Type} (p : Ctx → β)
    (hp : ∀ (t : Ctx) areas, p { t with areas := areas } = p t) (s : State) (h code c x : Nat) :
    p ((s.stopLoad h code).ctx c x) = p (s.ctx c x) :=
  State.stopLoad_keeps (fun s => p (s.ctx c x)) (fun _ _ _ _ _ => rfl) (s.failPreqs_ctx p hp h c x) code

/-- A record in a fault log is memory, marks and the log's own word. -/
theorem State.logRecord_keeps {β : Type} (g : State → β)
    (hg : ∀ (s : State) mem poison dirty saved full cfg, g { s with
      mem := mem, poison := poison, dirty := dirty, saved := saved, full := full, cfg := cfg } = g s)
    (s : State) (wing : Nat) (record : List Byte) : g (s.logRecord wing record) = g s := by
  unfold State.logRecord
  extract_lets w n key
  split
  · have hstored : g (s.storeMarked key record []) = g s :=
      storeMarked_keeps g (fun s mem poison dirty saved => hg s mem poison dirty saved s.full s.cfg) s key
        record []
    exact (hg ((s.storeMarked key record []).setFull key 64) _ _ _ _ _ _).trans
      ((hg (s.storeMarked key record []) _ _ _ _ _ _).trans hstored)
  · exact hg s s.mem s.poison s.dirty s.saved s.full _

theorem State.logFault_keeps {β : Type} (g : State → β)
    (hg : ∀ (s : State) mem poison dirty saved full cfg, g { s with
      mem := mem, poison := poison, dirty := dirty, saved := saved, full := full, cfg := cfg } = g s)
    (hm : ∀ (s : State) msixPending hostOut, g { s with
      msixPending := msixPending, hostOut := hostOut } = g s)
    (s : State) (p : FaultPlace) (f : FaultInfo) (more : Option Ctx) : g (s.logFault p f more) = g s := by
  have hsent : ∀ a b : State, g (if a.logOpen p.wing then b.raiseMsix 64 else b) = g b := fun a b => by
    unfold State.raiseMsix
    split
    · split
      · exact hm b _ b.hostOut
      · exact hm b b.msixPending _
    · rfl
  have hrecord : ∀ (u : State) r, g (u.logRecord p.wing r) = g u :=
    fun u r => State.logRecord_keeps g hg u p.wing r
  unfold State.logFault
  cases more with
  | none => exact (hsent _ _).trans (hrecord _ _)
  | some t => exact (hsent _ _).trans ((hrecord _ _).trans ((hsent _ _).trans (hrecord _ _)))

end Sys2Proof.Machine


namespace Sys2Proof.Machine

variable {s : State}

/-- The load whose context faulted stops, but by no fault of a system hall's context (R455, R458). -/
def State.stopFaulted (s : State) (c : Nat) (h : Option Nat) (code : Nat) : State :=
  match h, isSystemCore c with
  | some n, false => s.stopLoad n code
  | _, _ => s

theorem State.stopFaulted_keeps {β : Type} (g : State → β) {c code : Nat} {h : Option Nat}
    (hg : ∀ n, h = some n → g (s.stopLoad n code) = g s) : g (s.stopFaulted c h code) = g s := by
  unfold State.stopFaulted
  split
  · exact hg _ rfl
  · rfl

/-- The executing context, recorded at a place of the log, stops, and its load with it (R455 to R462). -/
def State.faultedAs (s : State) (p : FaultPlace) (f : FaultInfo) : State :=
  let u := s.logFault p f (some s.cur)
  (u.setCtx s.curCore s.curCtx ((u.ctx s.curCore s.curCtx).haltFor (isSystemCore s.curCore))).stopFaulted
    s.curCore s.curK.load f.code

/-- R461: what the record of a fault of the executing context names. -/
structure FaultPlace.Names (s : State) (f : FaultInfo) (p : FaultPlace) : Prop where
  wing : p.wing = wingOfCore s.curCore
  load : f.named = none → p.load = if isSystemCore s.curCore then 0xFF else s.curK.load.getD 0xFF
  pc : p.pc = s.cur.pc.toNat
  fix : p.fix = s.cur.fix

theorem State.takeFault_eq (s : State) (f : FaultInfo) : ∃ p : FaultPlace, p.Names s f ∧
    s.takeFault f = (s.faultedAs p f).setCurK { (s.faultedAs p f).curK with
      last := BitVec.ofNat 2 (s.faultedAs p f).curCtx } := by
  refine ⟨_, ⟨rfl, fun hn => ?_, rfl, rfl⟩, rfl⟩
  change (match f.named, s.curK.load with
    | some n, _ => n
    | none, some n => if isSystemCore s.curCore then 0xFF else n
    | none, none => 0xFF) = _
  rw [hn]
  cases s.curK.load with
  | none => exact (ite_self _).symm
  | some n => rfl

/-- What the log, a context and the stop of a load do not move, a fault keeps. -/
theorem State.faultedAs_keeps {β : Type} (g : State → β)
    (hlog : ∀ (s : State) mem poison dirty saved full cfg, g { s with
      mem := mem, poison := poison, dirty := dirty, saved := saved, full := full, cfg := cfg } = g s)
    (hmsix : ∀ (s : State) msixPending hostOut, g { s with
      msixPending := msixPending, hostOut := hostOut } = g s)
    (hctx : ∀ (u : State) t, g (u.setCtx s.curCore s.curCtx t) = g u) {f : FaultInfo}
    (hload : ∀ (u : State) n, s.curK.load = some n → u.loads = s.loads → g (u.stopLoad n f.code) = g u)
    (p : FaultPlace) : g (s.faultedAs p f) = g s := by
  have hloads : (s.logFault p f (some s.cur)).loads = s.loads :=
    State.logFault_keeps (·.loads) (fun _ _ _ _ _ _ _ => rfl) (fun _ _ _ => rfl) s p f _
  refine (State.stopFaulted_keeps g fun n hn => hload _ n hn ?_).trans
    ((hctx _ _).trans (State.logFault_keeps g hlog hmsix s p f _))
  exact hloads

/-- The executing context faulted is the context stopped, up to the areas of results that end. -/
theorem State.faultedAs_ctx {β : Type} (g : Ctx → β)
    (hg : ∀ (t : Ctx) areas, g { t with areas := areas } = g t) (s : State) (p : FaultPlace) (f : FaultInfo) :
    g ((s.faultedAs p f).ctx s.curCore s.curCtx) = g (s.cur.haltFor (isSystemCore s.curCore)) := by
  have hcores : (s.logFault p f (some s.cur)).cores = s.cores :=
    State.logFault_keeps (·.cores) (fun _ _ _ _ _ _ _ => rfl) (fun _ _ _ => rfl) s p f _
  refine (State.stopFaulted_keeps (fun u => g (u.ctx s.curCore s.curCtx))
    fun n _ => State.stopLoad_ctx g hg _ n f.code _ _).trans ?_
  rw [State.ctx_setCtx, State.ctx_of_cores hcores, State.cur]

theorem State.takeFault_curCore (s : State) (f : FaultInfo) :
    (s.takeFault f).curCore = s.curCore ∧ (s.takeFault f).curCtx = s.curCtx := by
  obtain ⟨p, -, heq⟩ := s.takeFault_eq f
  have hstop : ∀ {β : Type} (g : State → β), (∀ (s : State) mem poison dirty saved,
      g { s with mem := mem, poison := poison, dirty := dirty, saved := saved } = g s) →
      (∀ (s : State) cores results, g { s with cores := cores, results := results } = g s) →
      (∀ (s : State) loads launches agenda fresh, g { s with
        loads := loads, launches := launches, agenda := agenda, fresh := fresh } = g s) →
      ∀ (u : State) n, g (u.stopLoad n f.code) = g u := fun g hm hr hg u n =>
    State.stopLoad_keeps g hg ((hg _ _ _ _ _).trans
      (foldl_keeps g (fun s (q : Nat × Nat × Nat) => writeResult_keeps g hm hr s q.2.2 _ []) _ u)) f.code
  rw [heq]
  exact ⟨State.faultedAs_keeps (·.curCore) (fun _ _ _ _ _ _ _ => rfl) (fun _ _ _ => rfl) (fun _ _ => rfl)
      (fun u n _ _ => hstop (·.curCore) (fun _ _ _ _ _ => rfl) (fun _ _ _ => rfl) (fun _ _ _ _ _ => rfl) u n) p,
    State.faultedAs_keeps (·.curCtx) (fun _ _ _ _ _ _ _ => rfl) (fun _ _ _ => rfl) (fun _ _ => rfl)
      (fun u n _ _ => hstop (·.curCtx) (fun _ _ _ _ _ => rfl) (fun _ _ _ => rfl) (fun _ _ _ _ _ => rfl) u n) p⟩

/-- R455: where a context stands that faults, up to the areas of results that end. -/
theorem State.takeFault_cur {β : Type} (g : Ctx → β)
    (hg : ∀ (t : Ctx) areas, g { t with areas := areas } = g t) (s : State) (f : FaultInfo) :
    g (s.takeFault f).cur = g (s.cur.haltFor (isSystemCore s.curCore)) := by
  obtain ⟨hc, hx⟩ := s.takeFault_curCore f
  obtain ⟨p, -, heq⟩ := s.takeFault_eq f
  rw [State.cur, hc, hx, heq, State.setCurK]
  refine Eq.trans (congrArg g (State.ctx_setCore_keeps (fun y => ?_) _ _)) (s.faultedAs_ctx g hg p f)
  rfl

/-- R455: the running load of a core outside the system halls begins to stop by a fault. -/
theorem State.stopLoad_running {h : Nat} (hrun : (s.loadAt h).state = .running) (code : Nat) :
    ((s.stopLoad h code).loadAt h).state = .stopping ∧
      ((s.stopLoad h code).loadAt h).code = some (BitVec.ofNat 8 code) := by
  unfold State.stopLoad
  extract_lets l u v w z
  rw [show l.state = .running from hrun]
  have hz : z.loads = w.loads := foldl_keeps (·.loads)
    (f := fun s c => s.within 1 200 (.stopFlagArrival c)) (fun _ _ => rfl) _ w
  have hload : (z.later 1 .loadStopped).loadAt h = w.loadAt h := by
    rw [State.loadAt, State.loadAt, ← hz]
    rfl
  rw [hload, show w.loadAt h = _ from mapGet_put _ h _ u.loads]
  exact ⟨rfl, rfl⟩

theorem State.takeFault_stops {h : Nat} (hsys : isSystemCore s.curCore = false)
    (hload : s.curK.load = some h) (hrun : (s.loadAt h).state = .running) (f : FaultInfo) :
    ((s.takeFault f).loadAt h).state = .stopping ∧
      ((s.takeFault f).loadAt h).code = some (BitVec.ofNat 8 f.code) := by
  obtain ⟨p, -, heq⟩ := s.takeFault_eq f
  have hl : (s.logFault p f (some s.cur)).loads = s.loads :=
    State.logFault_keeps (·.loads) (fun _ _ _ _ _ _ _ => rfl) (fun _ _ _ => rfl) s p f _
  rw [heq]
  change ((s.faultedAs p f).loadAt h).state = _ ∧ ((s.faultedAs p f).loadAt h).code = _
  unfold State.faultedAs State.stopFaulted
  rw [hsys, hload]
  refine State.stopLoad_running ?_ f.code
  change (mapGet {} h (s.logFault p f (some s.cur)).loads).state = _
  rw [hl]
  exact hrun

/-- A load with no result to end in its cores stops with no effect on a core. -/
theorem State.stopLoad_core {h : Nat} (hp : (s.loadAt h).preqs = []) (code c : Nat) :
    (s.stopLoad h code).core c = s.core c :=
  State.stopLoad_keeps (·.core c) (fun _ _ _ _ _ => rfl) (by rw [State.failPreqs, hp]; rfl) code

theorem State.takeFault_core {c : Nat} (hc : c ≠ s.curCore)
    (hp : ∀ h, s.curK.load = some h → (s.loadAt h).preqs = []) (f : FaultInfo) :
    (s.takeFault f).core c = s.core c := by
  obtain ⟨hcur, -⟩ := s.takeFault_curCore f
  obtain ⟨p, -, heq⟩ := s.takeFault_eq f
  have hk := State.faultedAs_keeps (f := f) (·.core c) (fun _ _ _ _ _ _ _ => rfl) (fun _ _ _ => rfl)
    (fun u t => State.core_setCore_ne u _ hc) (fun u n hn hl => State.stopLoad_core
      ((congrArg (fun l => (mapGet {} n l : Load).preqs) hl).trans (hp n hn)) f.code c) p
  rw [heq] at hcur ⊢
  exact (State.core_setCore_ne _ _ fun h => hc (h.trans hcur)).trans hk

end Sys2Proof.Machine


namespace Sys2Proof.Machine

variable {s : State}

/-! ### The record of a fault (R460, R461) -/

theorem memSetBytes_append (m : List Host.Cell) (key : Nat) (a b : List Byte) :
    memSetBytes m key (a ++ b) = memSetBytes (memSetBytes m key a) (key + a.length) b := by
  induction a generalizing m key with
  | nil => rfl
  | cons x a ih =>
    rw [List.cons_append, memSetBytes, ih, memSetBytes, List.length_cons, Nat.add_right_comm key 1,
      Nat.add_assoc]

/-- A field of a record that is written reads back. -/
theorem memBytes_setBytes_field {m : List Host.Cell} (h : memWf m = true) (key : Nat) (d : List Byte)
    {n len : Nat} (hn : n + len ≤ d.length) :
    memBytes (memSetBytes m key d) (key + n) len = (d.drop n).take len := by
  have hmid : ((d.drop n).take len).length = len := by
    rw [List.length_take, List.length_drop]
    omega
  have hpre : (d.take n).length = n := by
    rw [List.length_take]
    omega
  have hsplit : d = d.take n ++ ((d.drop n).take len ++ (d.drop n).drop len) := by
    rw [List.take_append_drop, List.take_append_drop]
  calc memBytes (memSetBytes m key d) (key + n) len
      = memBytes (memSetBytes (memSetBytes (memSetBytes m key (d.take n)) (key + n) ((d.drop n).take len))
          (key + n + len) ((d.drop n).drop len)) (key + n) len := by
        conv_lhs => rw [hsplit, memSetBytes_append, memSetBytes_append, hpre, hmid]
    _ = memBytes (memSetBytes (memSetBytes m key (d.take n)) (key + n) ((d.drop n).take len))
          (key + n) ((d.drop n).take len).length := by
        rw [hmid]
        exact memBytes_congr _ _ fun j _ hj => memByte_setBytes_outside _ _ _ (.inl hj)
    _ = (d.drop n).take len := memBytes_setBytes (memWf_setBytes h _ _) _ _

theorem sysCfg_setSysCfg_ne (wing : Nat) {off j : Nat} (h : j ≠ off) (v : Word64) :
    (s.setSysCfg wing off v).sysCfg wing j = s.sysCfg wing j :=
  mapGet_putD_ne _ _ (by unfold cfgKey; omega) _ _

/-- Where the next record of a wing's fault log goes (R460). -/
def State.logKey (s : State) (wing : Nat) : Nat :=
  galleryKey wing ((bits (s.sysCfg wing 2320) 0 26 + 64 * (s.logIndex wing % 64)) % 2 ^ 26)

theorem State.sysCfg_setFull (s : State) (key n wing off : Nat) :
    (s.setFull key n).sysCfg wing off = s.sysCfg wing off := rfl

theorem State.sysCfg_storeMarked (s : State) (key : Nat) (d : List Byte) (po : List Nat) (wing off : Nat) :
    (s.storeMarked key d po).sysCfg wing off = s.sysCfg wing off :=
  storeMarked_keeps (·.sysCfg wing off) (fun _ _ _ _ _ => rfl) s key d po

theorem State.sysCfg_logRecord_base {wing : Nat} (ho : s.logOpen wing = true) (r : List Byte) :
    (s.logRecord wing r).sysCfg wing 2320 = s.sysCfg wing 2320 := by
  unfold State.logRecord
  rw [if_pos ho, sysCfg_setSysCfg_ne wing (by decide), State.sysCfg_setFull, State.sysCfg_storeMarked]

theorem State.logIndex_logRecord (ht : Tidy s) {wing : Nat} (ho : s.logOpen wing = true) (r : List Byte) :
    (s.logRecord wing r).logIndex wing = (s.logIndex wing + 1) % 2 ^ 16 := by
  unfold State.logRecord
  rw [if_pos ho, State.logIndex, sysCfg_setSysCfg ht.storeMarked.setFull, bits_withBits _ (by decide),
      State.logIndex]

theorem slots_apart (gallery base n : Nat) :
    gallery + (base + 64 * ((n + 1) % 2 ^ 16 % 64)) % 2 ^ 26 + 64 ≤ gallery + (base + 64 * (n % 64)) % 2 ^ 26 ∨
    gallery + (base + 64 * (n % 64)) % 2 ^ 26 + 64 ≤ gallery + (base + 64 * ((n + 1) % 2 ^ 16 % 64)) % 2 ^ 26 := by
  omega

/-- The next record goes to the next slot, which no byte of this one's shares. -/
theorem State.logKey_logRecord (ht : Tidy s) {wing : Nat} (ho : s.logOpen wing = true) (r : List Byte) :
    (s.logRecord wing r).logKey wing + 64 ≤ s.logKey wing ∨
      s.logKey wing + 64 ≤ (s.logRecord wing r).logKey wing := by
  unfold State.logKey galleryKey
  rw [State.sysCfg_logRecord_base ho, State.logIndex_logRecord ht ho]
  exact slots_apart _ _ _

theorem State.raiseMsix_mem (s : State) (n : Nat) : (s.raiseMsix n).mem = s.mem := by
  unfold State.raiseMsix
  split <;> rfl

theorem State.raiseMsix_cfg (s : State) (n : Nat) : (s.raiseMsix n).cfg = s.cfg := by
  unfold State.raiseMsix
  split <;> rfl

/-- A record keeps every byte outside the slot that it goes to. -/
theorem State.logRecord_memByte {wing j : Nat} {r : List Byte}
    (hj : j < s.logKey wing ∨ s.logKey wing + r.length ≤ j) :
    memByte (s.logRecord wing r).mem j = memByte s.mem j := by
  cases ho : s.logOpen wing with
  | true =>
    rw [State.logRecord_mem _ _ _ ho]
    exact memByte_setBytes_outside _ _ r hj
  | false => rw [State.logRecord_mem_lost _ _ _ ho]

theorem primaryRecord_length (p : FaultPlace) (f : FaultInfo) (cyc seq : Nat) :
    (primaryRecord p f cyc seq).length = 64 := by
  simp [primaryRecord]

theorem continuationRecord_length (t : Ctx) (seq : Nat) : (continuationRecord t seq).length = 64 := by
  simp [continuationRecord, packCounts]

/-- The vector of a record that is written moves no memory and no configuration (R460). -/
theorem State.raisedIf_mem (s : State) (b : Bool) : (if b then s.raiseMsix 64 else s).mem = s.mem := by
  cases b with
  | false => rfl
  | true => exact s.raiseMsix_mem 64

theorem State.raisedIf_logKey (s : State) (b : Bool) (wing : Nat) :
    (if b then s.raiseMsix 64 else s).logKey wing = s.logKey wing := by
  have hcfg : ∀ {u : State}, u.cfg = s.cfg → u.logKey wing = s.logKey wing := fun {u} h => by
    unfold State.logKey State.logIndex State.sysCfg State.hallCfg State.cfgAt
    rw [h]
  cases b with
  | false => rfl
  | true => exact hcfg (s.raiseMsix_cfg 64)

/-- The fields of a record that an open log took stand in its slot, and its continuation record elsewhere. -/
theorem State.logFault_field (ht : Tidy s) {p : FaultPlace} (ho : s.logOpen p.wing = true)
    (f : FaultInfo) (t : Ctx) {n len : Nat} (hn : n + len ≤ 64) :
    memBytes (s.logFault p f (some t)).mem (s.logKey p.wing + n) len =
      ((primaryRecord p f s.cycle (s.logIndex p.wing)).drop n).take len := by
  have hlen := primaryRecord_length p f s.cycle (s.logIndex p.wing)
  have hapart := State.logKey_logRecord ht ho (primaryRecord p f s.cycle (s.logIndex p.wing))
  have hfirst : memBytes (s.logRecord p.wing (primaryRecord p f s.cycle (s.logIndex p.wing))).mem
      (s.logKey p.wing + n) len = ((primaryRecord p f s.cycle (s.logIndex p.wing)).drop n).take len := by
    rw [State.logRecord_mem _ _ _ ho]
    exact memBytes_setBytes_field ht.memWf _ _ (hn.trans_eq hlen.symm)
  refine (memBytes_congr _ _ fun j lo hi => ?_).trans hfirst
  unfold State.logFault
  dsimp only
  rw [State.raisedIf_mem, State.logRecord_memByte, State.raisedIf_mem]
  rw [State.raisedIf_logKey, continuationRecord_length]
  omega

/-! ### Memory at a load's stop -/

theorem mem_of_mapFind {α : Type} {k : Nat} {v : α} {m : List (Nat × α)} (h : mapFind k m = some v) :
    (k, v) ∈ m := by
  induction m with
  | nil => cases h
  | cons e m ih =>
    obtain ⟨j, w⟩ := e
    rw [mapFind_cons] at h
    split at h
    · next hj =>
      cases h
      exact hj ▸ List.mem_cons_self
    · exact List.mem_cons_of_mem _ (ih h)

/-- A result that ends is written in its own area (R226). -/
theorem State.writeResult_memByte {j : Nat} {d : List Byte}
    (hj : ∀ e ∈ s.results, tileKey e.2.core e.2.area + d.length ≤ j) (id : Nat) (po : List Nat) :
    memByte (s.writeResult id d po).mem j = memByte s.mem j := by
  rw [State.writeResult_mem]
  cases hf : mapFind id s.results with
  | none => rfl
  | some r =>
    have harea := hj (id, r) (mem_of_mapFind hf)
    dsimp only at harea ⊢
    rw [memByte_setBytes_outside _ _ d (.inr harea)]

theorem State.writeResult_results (s : State) (id : Nat) (d : List Byte) (po : List Nat) :
    ∀ e ∈ (s.writeResult id d po).results, e ∈ s.results := by
  intro e he
  unfold State.writeResult at he
  split at he
  · exact he
  · next r _ =>
    have hstored : (s.storeMarked (tileKey r.core r.area) d po).results = s.results :=
      storeMarked_keeps (·.results) (fun _ _ _ _ _ => rfl) s _ d po
    exact hstored ▸ mem_mapDel he

/-- The PREQs of a load that stops are answered in their areas alone (R232). -/
theorem State.failPreqs_memByte {j : Nat}
    (hj : ∀ e ∈ s.results, tileKey e.2.core e.2.area + 8 ≤ j) (h : Nat) :
    memByte (s.failPreqs h).mem j = memByte s.mem j := by
  have hanswered : ∀ (preqs : List (Nat × Nat × Nat)) (s : State),
      (∀ e ∈ s.results, tileKey e.2.core e.2.area + 8 ≤ j) →
      memByte (preqs.foldl (fun s q => s.writeResult q.2.2 (natToBytes 8 3)) s).mem j =
        memByte s.mem j := fun preqs => by
    induction preqs with
    | nil => exact fun _ _ => rfl
    | cons q preqs ih =>
      intro s hj
      rw [List.foldl_cons, ih _ fun e he => hj e (s.writeResult_results _ _ _ e he)]
      exact State.writeResult_memByte hj _ _
  exact hanswered (s.loadAt h).preqs s hj

theorem State.stopLoad_memByte {j : Nat}
    (hj : ∀ e ∈ s.results, tileKey e.2.core e.2.area + 8 ≤ j) (h code : Nat) :
    memByte (s.stopLoad h code).mem j = memByte s.mem j :=
  State.stopLoad_keeps (fun s => memByte s.mem j) (fun _ _ _ _ _ => rfl) (State.failPreqs_memByte hj h) code

/-- R460, R461: a field of the record of a fault, in the slot of its wing's open log. -/
theorem State.takeFault_field (ht : Tidy s)
    (hareas : ∀ e ∈ s.results, tileKey e.2.core e.2.area + 8 ≤ galleryKey 0 0)
    (ho : s.logOpen (wingOfCore s.curCore) = true) (f : FaultInfo) : ∃ p : FaultPlace, p.Names s f ∧
      ∀ n len, n + len ≤ 64 →
        memBytes (s.takeFault f).mem (s.logKey (wingOfCore s.curCore) + n) len =
          ((primaryRecord p f s.cycle (s.logIndex p.wing)).drop n).take len := by
  obtain ⟨p, hp, heq⟩ := s.takeFault_eq f
  refine ⟨p, hp, fun n len hn => ?_⟩
  rw [← hp.wing] at ho ⊢
  refine (memBytes_congr _ _ fun j hlo _ => ?_).trans (State.logFault_field ht ho f s.cur hn)
  have hj : galleryKey 0 0 ≤ j := by
    unfold State.logKey galleryKey at hlo
    unfold galleryKey
    omega
  have hresults : (s.logFault p f (some s.cur)).results = s.results :=
    State.logFault_keeps (·.results) (fun _ _ _ _ _ _ _ => rfl) (fun _ _ _ => rfl) s p f _
  rw [heq]
  refine State.stopFaulted_keeps (fun u => memByte u.mem j) fun n _ => State.stopLoad_memByte ?_ n f.code
  intro e he
  have hin := hareas e (hresults ▸ he)
  omega

/-- R461: the fields of the record of a fault. -/
theorem primaryRecord_fields (p : FaultPlace) (f : FaultInfo) (cyc seq : Nat) :
    let field := fun n len => ((primaryRecord p f cyc seq).drop n).take len
    field 0 1 = natToBytes 1 f.code ∧ field 3 1 = natToBytes 1 p.load ∧ field 8 2 = natToBytes 2 p.pc ∧
      field 16 8 = natToBytes 8 p.fix.toNat ∧ field 32 8 = natToBytes 8 f.detail.toNat ∧
      field 40 8 = natToBytes 8 cyc := by
  refine ⟨?_, ?_, ?_, ?_, ?_, ?_⟩ <;>
    simp [primaryRecord, List.drop_append, List.drop_eq_nil_of_le]

theorem State.takeFault_record (ht : Tidy s)
    (hareas : ∀ e ∈ s.results, tileKey e.2.core e.2.area + 8 ≤ galleryKey 0 0)
    (ho : s.logOpen (wingOfCore s.curCore) = true) (f : FaultInfo) :
    let key := s.logKey (wingOfCore s.curCore)
    memBytes (s.takeFault f).mem key 1 = natToBytes 1 f.code ∧
      (f.named = none → memBytes (s.takeFault f).mem (key + 3) 1 = natToBytes 1
        (if isSystemCore s.curCore then 0xFF else s.curK.load.getD 0xFF)) ∧
      memBytes (s.takeFault f).mem (key + 8) 2 = natToBytes 2 s.cur.pc.toNat ∧
      memBytes (s.takeFault f).mem (key + 16) 8 = natToBytes 8 s.cur.fix.toNat ∧
      memBytes (s.takeFault f).mem (key + 32) 8 = natToBytes 8 f.detail.toNat ∧
      memBytes (s.takeFault f).mem (key + 40) 8 = natToBytes 8 s.cycle := by
  obtain ⟨p, hp, hfield⟩ := State.takeFault_field ht hareas ho f
  obtain ⟨hcode, hload, hpc, hfix, hdetail, hcyc⟩ := primaryRecord_fields p f s.cycle (s.logIndex p.wing)
  refine ⟨(hfield 0 1 (by decide)).trans hcode, fun hn => ?_, ?_, ?_,
    (hfield 32 8 (by decide)).trans hdetail, (hfield 40 8 (by decide)).trans hcyc⟩
  · rw [← hp.load hn]
    exact (hfield 3 1 (by decide)).trans hload
  · rw [← hp.pc]
    exact (hfield 8 2 (by decide)).trans hpc
  · rw [← hp.fix]
    exact (hfield 16 8 (by decide)).trans hfix

end Sys2Proof.Machine


namespace Sys2Proof.Machine

variable {s : State} {keys : List Nat}

/-! ### The forms that only write registers (R112 to R152) -/

/-- An answer by an issue whose effect, where nothing faults, is a write of registers of a list. -/
def OnlyWrites (keys : List Nat) (s : State) (a : Answer) : Prop :=
  ∃ q len hold flt target eff, a = issue q len hold flt target eff s ∧
    (flt = none → WritesOnly keys s (eff s.countIssue))

theorem OnlyWrites.of_issue {q : Issue} {len : Nat} {hold : Bool} {flt : Option FaultInfo}
    {target : Option Int} {eff : State → State} (h : flt = none → WritesOnly keys s (eff s.countIssue)) :
    OnlyWrites keys s (issue q len hold flt target eff s) :=
  ⟨q, len, hold, flt, target, eff, rfl, h⟩

theorem OnlyWrites.scalarForm (q : Issue) (len lat : Nat) (d : XReg) (v : State → Word64)
    (po : State → Bool) : OnlyWrites [xKey d] s (scalarForm q len lat d v po s) :=
  .of_issue fun _ => writesOnly_x s lat d _ _ List.mem_cons_self

theorem OnlyWrites.writeP (q : Issue) (d : PReg) (v po : State → Bool) :
    OnlyWrites [pKey d] s (issue q 1 false none none (fun s => s.writeP 1 d (v s) (po s)) s) :=
  .of_issue fun _ => writesOnly_p s 1 d _ _ List.mem_cons_self

theorem OnlyWrites.writeX {q : Issue} {hold : Bool} {flt : Option FaultInfo} {target : Option Int} {lat : Nat}
    {d : XReg} {v : State → Word64} {po : State → Bool} :
    OnlyWrites [xKey d] s (issue q 1 hold flt target (fun s => s.writeX lat d (v s) (po s)) s) :=
  .of_issue fun _ => writesOnly_x s lat d _ _ List.mem_cons_self

theorem OnlyWrites.writeRegs {q : Issue} {hold : Bool} {flt : Option FaultInfo} {lat : Nat}
    {w : State → List (Nat × PVal)} (h : flt = none → ∀ e ∈ w s.countIssue, writeTarget e.1 ∈ keys) :
    OnlyWrites keys s (issue q 1 hold flt none (fun s => s.writeRegs lat (w s)) s) :=
  .of_issue fun hf => writesOnly_regs s lat _ (h hf)

theorem OnlyWrites.nothing {q : Issue} {hold : Bool} {flt : Option FaultInfo} {target : Option Int} :
    OnlyWrites keys s (issue q 1 hold flt target (fun s => s) s) :=
  .of_issue fun _ => writesOnly_id keys s

theorem OnlyWrites.laneForm {q : Issue} {lat : Nat} {w : State → List (Nat × PVal)}
    (h : ∀ e ∈ w s.countIssue, writeTarget e.1 ∈ keys) : OnlyWrites keys s (laneForm q lat w s) :=
  .writeRegs fun _ => h

/-! ### The registers that a list of writes names -/

theorem laneKey_mem_laneKeys (d : VReg) {l : Nat} (hl : l ∈ lanes) : laneKey d l ∈ laneKeys d :=
  List.mem_map_of_mem hl

theorem laneKey_lt (d : VReg) {l : Nat} (hl : l ∈ lanes) : laneKey d l < 1000 := by
  have hlt := (mem_steps.1 hl).2
  have hd := d.isLt
  unfold laneKey
  omega

/-- A write of a lane is one of its vector register. -/
theorem writeTarget_laneKey (d : VReg) {l : Nat} (hl : l ∈ lanes) :
    writeTarget (laneKey d l) ∈ laneKeys d := by
  rw [writeTarget, if_pos (laneKey_lt d hl)]
  exact laneKey_mem_laneKeys d hl

/-- The mark of a lane is its vector register's. -/
theorem writeTarget_laneMark (d : VReg) {l : Nat} (hl : l ∈ lanes) :
    writeTarget (1000 + laneKey d l) ∈ laneKeys d := by
  have hlt := laneKey_lt d hl
  rw [writeTarget, if_neg (by omega), if_pos (by omega), Nat.add_sub_cancel_left]
  exact laneKey_mem_laneKeys d hl

theorem laneWrites_target (u : State) (d : VReg) (k : KReg) (f : Nat → PVal) :
    ∀ e ∈ u.laneWrites d k f, writeTarget e.1 ∈ laneKeys d := by
  intro e he
  obtain ⟨l, hl, hw⟩ := List.mem_filterMap.1 he
  split at hw
  · cases hw
    exact writeTarget_laneKey d hl
  · split at hw
    · cases hw
      exact writeTarget_laneMark d hl
    · cases hw

theorem reduceWrites_target (d : VReg) (v0 : Nat) (v1 : Option Nat) (po : Bool) :
    ∀ e ∈ reduceWrites d v0 v1 po, writeTarget e.1 ∈ laneKeys d := by
  intro e he
  obtain ⟨l, hl, rfl⟩ := List.mem_map.1 he
  exact writeTarget_laneKey d hl

theorem writeTarget_xKey (d : XReg) : writeTarget (xKey d) = xKey d := by
  have hd := d.isLt
  rw [writeTarget, if_pos (by unfold xKey; omega)]

theorem writeTarget_kKey (m : KReg) : writeTarget (kKey m) = kKey m := by
  have hm := m.isLt
  rw [writeTarget, if_pos (by unfold kKey; omega)]

theorem maskWrites_target (u : State) (m k : KReg) (f : Nat → Bool) (po : Bool) :
    ∀ e ∈ u.maskWrites m k f po, writeTarget e.1 ∈ [kKey m] := by
  intro e he
  have hm := m.isLt
  unfold State.maskWrites at he
  extract_lets kp po act at he
  rw [List.mem_singleton]
  split at he
  · cases List.mem_singleton.1 he
    exact writeTarget_kKey m
  · rcases List.mem_append.1 he with hbit | hmark
    · obtain ⟨l, hl, rfl⟩ := List.mem_map.1 hbit
      have hlt := (mem_steps.1 (List.mem_of_mem_filter hl)).2
      rw [writeTarget, if_neg (by omega), if_neg (by omega), kKey]
      omega
    · split at hmark
      · cases List.mem_singleton.1 hmark
        rw [writeTarget, if_neg (by omega), if_pos (by unfold kKey; omega), Nat.add_sub_cancel_left]
      · cases hmark

theorem OnlyWrites.laneWrites {q : Issue} {hold : Bool} {flt : Option FaultInfo} {lat : Nat} {d : VReg}
    {k : KReg} {f : State → Nat → PVal} : OnlyWrites (laneKeys d) s
      (issue q 1 hold flt none (fun s => s.writeRegs lat (s.laneWrites d k (f s))) s) :=
  .writeRegs fun _ => laneWrites_target _ d k _

theorem eq_false_of_firstFault {b : Bool} {f : FaultInfo} (h : firstFault [(b, f)] = none) : b = false := by
  cases b with
  | false => rfl
  | true => cases h

/-! ### The forms with more than one kind of write, or with a fault that bounds what they write -/

theorem execVins_onlyWrites (q : Issue) (d : VReg) (a b : SReg) :
    OnlyWrites (laneKeys d) s (execVins q d a b s) := by
  refine .writeRegs fun hf e he => ?_
  have hn : (s.x (scalarOf b)).v.toNat ≤ 31 := by
    have := eq_false_of_firstFault hf
    rw [decide_eq_false_iff_not] at this
    omega
  rcases List.mem_cons.1 he with rfl | hmark
  · exact writeTarget_laneKey d (mem_steps.2 ⟨Nat.zero_le _, by omega⟩)
  · split at hmark
    · obtain ⟨l, hl, rfl⟩ := List.mem_map.1 hmark
      exact writeTarget_laneMark d hl
    · cases hmark

theorem execVpack_onlyWrites (q : Issue) (d a b : VReg) (part : BitVec 2) (m : RMode) (c : PackCode) :
    OnlyWrites (laneKeys d) s (execVpack q d a b part m c s) := by
  refine .writeRegs fun hf e he => ?_
  have hfits : (part.toNat + 1) * packWidth c ≤ 32 := by
    have hlegal := (Bool.not_eq_false' _).mp (eq_false_of_firstFault hf)
    unfold packLegal at hlegal
    exact of_decide_eq_true (Bool.and_eq_true_iff.1 hlegal).1
  obtain ⟨l, hl, rfl⟩ := List.mem_map.1 he
  have hlt := (mem_steps.1 hl).2
  rw [Nat.add_mul, Nat.one_mul] at hfits
  exact writeTarget_laneKey d (mem_steps.2 ⟨Nat.zero_le _, by omega⟩)

theorem execVscale_onlyWrites (q : Issue) (d a : VReg) (b : SReg) (k : KReg) (f : ElemFmt) :
    OnlyWrites (xKey (scalarOf b) :: laneKeys d) s (execVscale q d a b k f s) := by
  refine .laneForm fun e he => ?_
  rcases List.mem_append.1 he with hlane | hscale
  · exact List.mem_cons_of_mem _ (laneWrites_target _ d k _ e hlane)
  · cases List.mem_singleton.1 hscale
    rw [writeTarget_xKey]
    exact List.mem_cons_self

theorem execVsel_onlyWrites (q : Issue) (d a b : VReg) (k : KReg) :
    OnlyWrites (laneKeys d) s (execVsel q d a b k s) := by
  refine .laneForm fun e he => ?_
  obtain ⟨l, hl, rfl⟩ := List.mem_map.1 he
  exact writeTarget_laneKey d hl

theorem writeTarget_singleton {key : Nat} (h : writeTarget key = key) (v : PVal) :
    ∀ e ∈ [(key, v)], writeTarget e.1 ∈ [key] := by
  intro e he
  cases List.mem_singleton.1 he
  exact List.mem_singleton.2 h

theorem OnlyWrites.maskForm (q : Issue) (d : KReg) (f : State → Word64) (po : State → Bool) :
    OnlyWrites [kKey d] s (maskForm q d f po s) :=
  .laneForm (writeTarget_singleton (writeTarget_kKey d) _)

/-- A new loop stack is no register write (R73). -/
theorem writesOnly_loops (s : State) (l : List LoopEntry) :
    WritesOnly keys s (s.countIssue.setCur { s.countIssue.cur with loops := l }) := by
  refine ⟨_, [], l, ?_, rfl, fun _ h => absurd h List.not_mem_nil⟩
  rw [List.append_nil, State.countIssue, State.cur_setCur, State.setCur_setCur]

/-- A LOOP writes no register; it may push an entry of the loop stack (R123). -/
theorem execLoop_onlyWrites (q : Issue) (a : XReg) (i : BitVec 11) : OnlyWrites keys s (execLoop q a i s) := by
  refine .of_issue fun _ => ?_
  dsimp only
  split
  · exact writesOnly_id keys s
  · exact writesOnly_loops s _

theorem OnlyWrites.typedForm (q : Issue) (t : VType) (d a b : VReg) (k : KReg) (f : Nat → Nat → Nat) :
    OnlyWrites (laneKeys d) s (typedForm q t d a b k f s) :=
  .laneForm (laneWrites_target _ d k _)

theorem OnlyWrites.unaryForm (q : Issue) (lat : Nat) (t : VType) (d a : VReg) (k : KReg) (f : Nat → Nat) :
    OnlyWrites (laneKeys d) s (unaryForm q lat t d a k f s) :=
  .laneForm (laneWrites_target _ d k _)

theorem OnlyWrites.fusedForm (q : Issue) (t : VType) (d a b : VReg) (k : KReg)
    (f : Fmt → Nat → Nat → Nat → Nat) : OnlyWrites (laneKeys d) s (fusedForm q t d a b k f s) :=
  .laneForm (laneWrites_target _ d k _)

theorem OnlyWrites.rawForm (q : Issue) (d a b : VReg) (k : KReg) (f : Word64 → Word64 → Word64) :
    OnlyWrites (laneKeys d) s (rawForm q d a b k f s) :=
  .laneForm (laneWrites_target _ d k _)

theorem OnlyWrites.reduceForm (q : Issue) (t : VType) (d a : VReg) (k : KReg) (ident : Nat)
    (op : Nat → Nat → Nat) : OnlyWrites (laneKeys d) s (reduceForm q t d a k ident op s) :=
  .laneForm (reduceWrites_target _ _ _ _)

/-- Each form of `writtenKeys` is an issue whose effect only writes its registers. -/
theorem exec_onlyWrites {i : Instr} (h : writtenKeys i = some keys) : OnlyWrites keys s (exec i s) := by
  cases i
  case add | sub | mul | mulh | mulhu | and | or | xor | andn | shl | shr | sra | rol | min | max | minu
    | maxu | clz | ctz | popc | addi | andi | ori | xori | shli | shri | srai | lea | sel | movi | moviLong
    | lih | srd =>
    cases h
    exact .scalarForm ..
  case ld | wget | wavail | wspace | mstat | vext =>
    cases h
    exact .writeX
  case jal =>
    cases h
    dsimp only [exec, execJal]
    exact .of_issue fun _ => writesOnly_x s 1 31 _ _ List.mem_cons_self
  case cmp | cmpiEq | cmpiNe | cmpiLt | cmpiLtu | cmpiGe | cmpiGeu | pand | por | pxor | pnot | pset =>
    cases h
    exact .writeP ..
  case br | brn | jmp | jr | twait | mwait =>
    cases h
    dsimp only [exec]
    exact .nothing
  case loop =>
    cases h
    exact execLoop_onlyWrites ..
  case vadd | vsub | vmul | vmin | vmax | vaddSat | vsubSat | vshl | vshr | vsra =>
    cases h
    exact .typedForm ..
  case vfma | vfms =>
    cases h
    exact .fusedForm ..
  case vabs | vneg | vrcp | vrsq | vsqrt | vexp2 | vlog2 =>
    cases h
    exact .unaryForm ..
  case vand | vor | vxor =>
    cases h
    exact .rawForm ..
  case vmov | vbcast | vperm | vshuf | vrot | vrng | vscaleApply =>
    cases h
    exact .laneForm (laneWrites_target _ _ _ _)
  case vcvt | vunpk | vld | vlds | vgath =>
    cases h
    exact .laneWrites
  case vredsum | vredmax | vredmin =>
    cases h
    exact .reduceForm ..
  case vredarg =>
    cases h
    exact .laneForm (reduceWrites_target _ _ _ _)
  case vcmp =>
    cases h
    exact .laneForm (maskWrites_target _ _ _ _ _)
  case vkand | vkor | vknot =>
    cases h
    exact .maskForm ..
  case vmaskld =>
    cases h
    exact .writeRegs fun _ => writeTarget_singleton (writeTarget_kKey _) _
  case vins =>
    cases h
    exact execVins_onlyWrites ..
  case vpack =>
    cases h
    exact execVpack_onlyWrites ..
  case vscale =>
    cases h
    exact execVscale_onlyWrites ..
  case vsel =>
    cases h
    exact execVsel_onlyWrites ..
  case vkpop =>
    cases h
    exact .laneForm (writeTarget_singleton (writeTarget_xKey _) _)
  all_goals cases h

end Sys2Proof.Machine


namespace Sys2Proof.Machine

variable {s t : State} {i : Instr} {keys : List Nat}

/-! ### What register forms leave, and what they do not do over the landing distance -/

/-- A state whose registers nobody writes is a frame of itself. -/
theorem RegistersOnly.refl (keys : List Nat) (s : State) : RegistersOnly keys s s :=
  ⟨⟨rfl, fun _ _ => rfl, fun _ => rfl⟩, ⟨rfl, fun _ _ _ => rfl⟩, rfl, fun _ _ _ => rfl⟩

/-- A context that ran stands elsewhere after a fault: it is halted, or idle in a system hall (R455). -/
theorem State.takeFault_stopped (hr : s.running = true) (f : FaultInfo)
    (hrun : (s.takeFault f).cur.run = s.cur.run) : (s.takeFault f).cur.halted ≠ s.cur.halted := by
  have hidle := State.takeFault_cur (·.run) (fun _ _ => rfl) s f
  have hhalt := State.takeFault_cur (·.halted) (fun _ _ => rfl) s f
  simp only [State.running, Bool.and_eq_true, bne_iff_ne, ne_eq, Bool.not_eq_true'] at hr
  obtain ⟨⟨hne, hnot⟩, -⟩ := hr
  cases hsys : isSystemCore s.curCore with
  | true =>
    rw [hsys] at hidle
    exact absurd (hrun.symm.trans hidle) hne
  | false =>
    rw [hsys] at hhalt
    rw [hhalt, hnot]
    exact Bool.noConfusion

/-- Settles O57: an issue of a form that only writes registers, held, faulting or complete. -/
theorem registerFormsKeepTheRest : Obligations.RegisterFormsKeepTheRest := by
  intro s t i keys hkeys hexec hrun hhalt
  obtain ⟨q, len, hold, flt, target, eff, heq, hwrites⟩ := exec_onlyWrites (s := s) hkeys
  rcases issue_cases (heq ▸ hexec) with
    ⟨rfl, -⟩ | ⟨hr, -, ⟨f, -, rfl⟩ | ⟨-, -, rfl⟩ | ⟨hf, -, rfl⟩⟩
  · exact RegistersOnly.refl keys t
  · exact absurd hhalt (State.takeFault_stopped hr f hrun)
  · exact absurd hhalt (State.takeFault_stopped hr _ hrun)
  · exact advance_registersOnly q len target (hwrites hf)

/-- R394: over the landing distance a form that only writes registers is held or faults. -/
theorem exec_overrun (ho : s.overrun = true) (hkeys : writtenKeys i = some keys)
    (hexec : exec i s = .next t) : t = s ∨ ∃ f, t = s.takeFault f := by
  obtain ⟨q, len, hold, flt, target, eff, heq, -⟩ := exec_onlyWrites (s := s) hkeys
  rcases issue_cases (heq ▸ hexec) with
    ⟨hkept, -⟩ | ⟨-, -, ⟨f, -, hfault⟩ | ⟨-, -, hfault⟩ | ⟨-, hno, -⟩⟩
  · exact .inl hkept
  · exact .inr ⟨f, hfault⟩
  · exact .inr ⟨_, hfault⟩
  · rw [ho] at hno
    cases hno

/-! ### The holds of memory-class forms (R61) -/

theorem tileHeld_of_memHeld (h : s.memHeld = true) (a : Word64) (len : Nat) (write : Bool) :
    tileHeld a len write s = true := by
  rw [tileHeld, h, Bool.true_or]

theorem lanesHeld_of_memHeld (h : s.memHeld = true) (ls : List Nat) (addr : Nat → Word64) (write : Bool) :
    lanesHeld ls addr write s = true := by
  rw [lanesHeld, h, Bool.true_or]

theorem issue_of_hold {q : Issue} {len : Nat} {hold : Bool} {flt : Option FaultInfo} {target : Option Int}
    {eff : State → State} (h : hold = true) : issue q len hold flt target eff s = .next s := by
  rw [h, issue_held]

theorem exec_held (h : s.memHeld = true) {q : Issue} {d a b : XReg} {wd : Width} {o : BitVec 9} {x y : SReg}
    {vd : VReg} {k : KReg} {w : BitVec 4} {n : BitVec 5}
    (hi : i = .ld q wd d a o ∨ i = .st q wd d a o ∨ i = .vld q vd x y k ∨ i = .vst q vd x y k ∨
        i = .wget q d w b ∨ i = .wavail q d w ∨ i = .wspace q d w ∨ i = .sstat q n ∨ i = .qstat q n) :
    exec i s = .next s := by
  have hq : (s.memHeld || s.cur.rqFull) = true := by rw [h, Bool.true_or]
  rcases hi with rfl | rfl | rfl | rfl | rfl | rfl | rfl | rfl | rfl
  · exact issue_of_hold (tileHeld_of_memHeld h ..)
  · exact issue_of_hold (tileHeld_of_memHeld h ..)
  · exact issue_of_hold (lanesHeld_of_memHeld h ..)
  · exact issue_of_hold (lanesHeld_of_memHeld h ..)
  · exact issue_of_hold h
  · exact issue_of_hold h
  · exact issue_of_hold h
  · exact issue_of_hold hq
  · exact issue_of_hold hq

/-! ### System forms outside the system halls (R97, R228) -/

theorem addrHeld_of_no_score (h : s.curK.score = []) (a : Word64) (len : Nat) (write : Bool) :
    s.curK.addrHeld a len write = false := by
  rw [Core.addrHeld, Core.rangeHeld, h, List.any_nil, Bool.and_false]

theorem areaHeld_of_no_score (h : s.curK.score = []) (a : Word64) (len : Nat) :
    areaHeld a len s = false := by
  rw [areaHeld, addrHeld_of_no_score h, Core.noEntry, h]
  rfl

theorem securityHeld_of_no_score (h : s.curK.score = []) (a b : XReg) (block area : Nat) :
    securityHeld a b block area s = false := by
  rw [securityHeld, areaHeld_of_no_score h, addrHeld_of_no_score h, Bool.or_self]

/-- A form whose first check is for a system hall raises PRIV outside them. -/
theorem issue_priv (hr : s.running = true) (hsys : isSystemCore s.curCore = false) {q : Issue} {len : Nat}
    {hold : Bool} (hh : hold = false) {checks : List (Bool × FaultInfo)} {target : Option Int}
    {eff : State → State} : issue q len hold (firstFault (s.privFaultOf :: checks)) target eff s =
      .next (s.takeFault privFault) := by
  have hfault : firstFault (s.privFaultOf :: checks) = some privFault := by
    rw [State.privFaultOf, hsys]
    rfl
  rw [hh, hfault, issue_faults hr]

theorem exec_priv (hr : s.running = true) (hscore : s.curK.score = [])
    (hsys : isSystemCore s.curCore = false) {q : Issue} {a b : XReg}
    (hi : i = .cfgw q a b ∨ i = .cfgr q a b ∨ i = .cfgcrc q a b ∨ i = .cfgcommit q a b ∨
        i = .cfgabort q b ∨ i = .rtw q a b ∨ i = .sech q a b ∨ i = .secv q a b ∨ i = .eret q a b ∨
        i = .preq q a b ∨ i = .frz q a b ∨ i = .dmap q a b) :
    exec i s = .next (s.takeFault privFault) := by
  have harea := areaHeld_of_no_score hscore (s.x b).v 8
  have hpriv := fun {hold} (hh : hold = false) q checks eff =>
    issue_priv (q := q) (len := 1) (checks := checks) (target := none) (eff := eff) hr hsys hh
  rcases hi with rfl | rfl | rfl | rfl | rfl | rfl | rfl | rfl | rfl | rfl | rfl | rfl
  · exact hpriv rfl ..
  · exact hpriv harea ..
  · exact hpriv harea ..
  · exact hpriv harea ..
  · exact hpriv harea ..
  · exact hpriv rfl ..
  · exact hpriv (securityHeld_of_no_score hscore ..) ..
  · exact hpriv (securityHeld_of_no_score hscore ..) ..
  · exact hpriv harea ..
  · exact hpriv harea ..
  · exact hpriv harea ..
  · exact hpriv harea ..

/-- Settles O60: issue's own cases, and what taking a fault leaves, stops and records. -/
theorem faultsAndHoldsStopInstructions : Obligations.FaultsAndHoldsStopInstructions := by
  intro s t q d a b wd o x y vd k w n i keys f hr
  refine ⟨fun hm => exec_held hm, fun _ hscore hsys => exec_priv hr hscore hsys, exec_overrun,
    fun ho => issue_overruns hr ho, fun hsys => ?_, fun hsys => ?_,
    fun ht hareas ho => State.takeFault_record ht hareas ho f⟩
  · have hcur : ∀ {β : Type} (g : Ctx → β), (∀ (t : Ctx) areas, g { t with areas := areas } = g t) →
        g (s.takeFault f).cur = g (s.cur.haltFor false) := fun g hg => hsys ▸ s.takeFault_cur g hg f
    exact ⟨hcur (·.halted) fun _ _ => rfl, hcur (·.pc) fun _ _ => rfl,
      fun key => hcur (·.reg key) fun _ _ => rfl, fun c hc hp => State.takeFault_core hc hp f,
      fun h hload hrun => State.takeFault_stops hsys hload hrun f⟩
  · have hcur := s.takeFault_cur (·.run) (fun _ _ => rfl) f
    rw [hsys] at hcur
    exact hcur

end Sys2Proof.Machine

namespace Sys2Proof

open BitVec (extractLsb'_append_eq_left extractLsb'_append_eq_right extractLsb'_append_extractLsb')

variable {n k : Nat}

/-! ### Bits side by side -/

theorem toNat_append_eq (x : BitVec n) (y : BitVec k) :
    (x ++ y).toNat = x.toNat * 2 ^ k + y.toNat := by
  rw [BitVec.toNat_append, Nat.shiftLeft_eq, Nat.mul_comm, Nat.two_pow_add_eq_or_of_lt y.isLt]

theorem toNat_getLsbD (w : BitVec n) (i : Nat) : (w.getLsbD i).toNat = w.toNat / 2 ^ i % 2 :=
  Nat.toNat_testBit ..

theorem getLsbD_eq_iff {w : BitVec n} {i : Nat} {b : Bool} :
    w.getLsbD i = b ↔ w.toNat / 2 ^ i % 2 = (BitVec.ofBool b).toNat := by
  rw [BitVec.toNat_ofBool, ← toNat_getLsbD]
  cases w.getLsbD i <;> cases b <;> decide

theorem extract_append_middle {l : Nat} (x : BitVec n) (y : BitVec k) (z : BitVec l) :
    (x ++ y ++ z).extractLsb' l k = y := by
  rw [BitVec.extractLsb'_append_eq_of_le l.le_refl, Nat.sub_self, extractLsb'_append_eq_right]

theorem extract_append_top {l j : Nat} (x : BitVec n) (y : BitVec k) (z : BitVec l)
    (hj : j = k + l) : (x ++ y ++ z).extractLsb' j n = x := by
  subst hj
  rw [BitVec.extractLsb'_append_eq_of_le (l.le_add_left k), Nat.add_sub_cancel,
    extractLsb'_append_eq_left]

theorem extract_append_extract_three {l j : Nat} (w : BitVec (n + k + l)) (hj : j = k + l) :
    w.extractLsb' j n ++ w.extractLsb' l k ++ w.extractLsb' 0 l = w := by
  subst hj
  rw [BitVec.extractLsb'_append_extractLsb'_eq_extractLsb' (Nat.add_comm k l)]
  exact extractLsb'_append_extractLsb'

theorem extract_eq_iff {w : BitVec (n + k)} {x : BitVec n} :
    w.extractLsb' k n = x ↔ x ++ w.extractLsb' 0 k = w :=
  ⟨fun h => h ▸ extractLsb'_append_extractLsb',
    fun h => by rw [← h, extractLsb'_append_eq_left]⟩

theorem ofBool_getLsbD (w : BitVec n) (j : Nat) :
    BitVec.ofBool (w.getLsbD j) = w.extractLsb' j 1 := by
  rw [← BitVec.toNat_inj, BitVec.toNat_ofBool, toNat_getLsbD, BitVec.extractLsb'_toNat,
    Nat.shiftRight_eq_div_pow, Nat.pow_one]

theorem getLsbD_append_high (x : BitVec n) (y : BitVec k) : (x ++ y).getLsbD k = x.getLsbD 0 := by
  rw [BitVec.getLsbD_append, if_neg k.lt_irrefl, Nat.sub_self]

theorem getLsbD_append_top {l j : Nat} (x : BitVec n) (y : BitVec k) (z : BitVec l)
    (hj : j = k + l) : (x ++ y ++ z).getLsbD j = x.getLsbD 0 := by
  subst hj
  rw [BitVec.getLsbD_append, if_neg (by omega), Nat.add_sub_cancel, getLsbD_append_high]

theorem getLsbD_ofBool_zero (b : Bool) : (BitVec.ofBool b).getLsbD 0 = b := by cases b <;> rfl

theorem getLsbD_append_ofBool (x : BitVec n) (b : Bool) :
    (x ++ BitVec.ofBool b).getLsbD 0 = b := by
  rw [BitVec.getLsbD_append, if_pos Nat.one_pos, getLsbD_ofBool_zero]

theorem exists_ofNat (x : BitVec n) : ∃ j, x.toNat = j ∧ x = BitVec.ofNat n j :=
  ⟨_, rfl, (BitVec.setWidth_eq x ▸ BitVec.ofNat_toNat n x).symm⟩

/-! ### Codes of the subfields (R84 to R90, R127) -/

theorem Cond.ofCode_eq_some {c : BitVec 3} {x : Cond} : Cond.ofCode c = some x ↔ x.code = c := by
  cases x <;> revert c <;> decide

theorem VType.ofCode_eq_some {c : BitVec 3} {x : VType} :
    VType.ofCode c = some x ↔ x.code = c := by
  cases x <;> revert c <;> decide

theorem RMode.ofCode_eq_some {c : BitVec 3} {x : RMode} :
    RMode.ofCode c = some x ↔ x.code = c := by
  cases x <;> revert c <;> decide

theorem PackCode.ofCode_eq_some {c : BitVec 4} {x : PackCode} :
    PackCode.ofCode c = some x ↔ x.code = c := by
  cases x <;> revert c <;> decide

theorem ElemFmt.ofCode_eq_some {c : BitVec 3} {x : ElemFmt} :
    ElemFmt.ofCode c = some x ↔ x.code = c := by
  cases x <;> revert c <;> decide

theorem MFmt.ofCode_eq_some {c : BitVec 4} {x : MFmt} : MFmt.ofCode c = some x ↔ x.code = c := by
  cases x <;> revert c <;> decide

theorem Scope.ofCode_eq_some {c : BitVec 3} {x : Scope} :
    Scope.ofCode c = some x ↔ x.code = c := by
  cases x <;> revert c <;> decide

theorem SpecReg.ofCode_eq_some {c : BitVec 5} {x : SpecReg} :
    SpecReg.ofCode c = some x ↔ x.code = c := by
  cases x <;> revert c <;> decide

theorem Width.ofCode_code (x : Width) : Width.ofCode x.code = x := by cases x <;> rfl

theorem Width.code_ofCode (c : BitVec 2) : (Width.ofCode c).code = c := by revert c; decide

theorem Order.ofCode_code (x : Order) : Order.ofCode x.code = x := by cases x <;> rfl

theorem Order.code_ofCode (c : BitVec 2) : (Order.ofCode c).code = c := by revert c; decide

/-! ### The fields of a word (R77, R78) -/

section Fields

variable (q : Issue) (m : BitVec 7) (w : Word32)

theorem wordQ_eq_iff : wordQ w = q ↔ w.toNat / 2 ^ 29 % 2 ^ 3 = q.g.toNat ∧
    w.toNat / 2 ^ 28 % 2 = (BitVec.ofBool q.y).toNat := by
  obtain ⟨g, y⟩ := q
  rw [wordQ, Issue.mk.injEq, ← BitVec.toNat_inj, BitVec.extractLsb'_toNat,
    Nat.shiftRight_eq_div_pow, getLsbD_eq_iff]

theorem wordA_fields (d a b : XReg) (fn : BitVec 6) :
    wordQ (wordA q m d a b fn) = q ∧ wordMajor (wordA q m d a b fn) = m ∧
    (wordA q m d a b fn).extractLsb' 16 5 = d ∧ (wordA q m d a b fn).extractLsb' 11 5 = a ∧
    (wordA q m d a b fn).extractLsb' 6 5 = b ∧ (wordA q m d a b fn).extractLsb' 0 6 = fn := by
  simp only [wordQ_eq_iff, wordMajor, ← BitVec.toNat_inj, BitVec.extractLsb'_toNat,
    toNat_append_eq, Nat.shiftRight_eq_div_pow, wordA]
  omega

theorem wordA_of_fields : wordA (wordQ w) (wordMajor w) (w.extractLsb' 16 5) (w.extractLsb' 11 5)
    (w.extractLsb' 6 5) (w.extractLsb' 0 6) = w := by
  simp only [wordA, wordQ, wordMajor, ofBool_getLsbD]
  repeat rw [BitVec.extractLsb'_append_extractLsb'_eq_extractLsb' (by rfl)]
  exact BitVec.extractLsb'_eq_self

theorem wordI_fields (d a : XReg) (i : BitVec 11) :
    wordQ (wordI q m d a i) = q ∧ wordMajor (wordI q m d a i) = m ∧
    (wordI q m d a i).extractLsb' 16 5 = d ∧ (wordI q m d a i).extractLsb' 11 5 = a ∧
    (wordI q m d a i).extractLsb' 0 11 = i := by
  simp only [wordQ_eq_iff, wordMajor, ← BitVec.toNat_inj, BitVec.extractLsb'_toNat,
    toNat_append_eq, Nat.shiftRight_eq_div_pow, wordI]
  omega

theorem wordI_of_fields : wordI (wordQ w) (wordMajor w) (w.extractLsb' 16 5) (w.extractLsb' 11 5)
    (w.extractLsb' 0 11) = w := by
  simp only [wordI, wordQ, wordMajor, ofBool_getLsbD]
  repeat rw [BitVec.extractLsb'_append_extractLsb'_eq_extractLsb' (by rfl)]
  exact BitVec.extractLsb'_eq_self

theorem wordB_fields (p : PReg) (s : Bool) (off : BitVec 17) :
    wordQ (wordB q m p s off) = q ∧ wordMajor (wordB q m p s off) = m ∧
    (wordB q m p s off).extractLsb' 18 3 = p ∧ (wordB q m p s off).getLsbD 17 = s ∧
    (wordB q m p s off).extractLsb' 0 17 = off := by
  simp only [wordQ_eq_iff, wordMajor, ← BitVec.toNat_inj, getLsbD_eq_iff,
    BitVec.extractLsb'_toNat, toNat_append_eq, Nat.shiftRight_eq_div_pow, wordB]
  omega

theorem wordB_of_fields : wordB (wordQ w) (wordMajor w) (w.extractLsb' 18 3) (w.getLsbD 17)
    (w.extractLsb' 0 17) = w := by
  simp only [wordB, wordQ, wordMajor, ofBool_getLsbD]
  repeat rw [BitVec.extractLsb'_append_extractLsb'_eq_extractLsb' (by rfl)]
  exact BitVec.extractLsb'_eq_self

theorem wordV_fields (d a b : VReg) (k : KReg) (fn : BitVec 7) :
    wordQ (wordV q m d a b k fn) = q ∧ wordMajor (wordV q m d a b k fn) = m ∧
    (wordV q m d a b k fn).extractLsb' 17 4 = d ∧ (wordV q m d a b k fn).extractLsb' 13 4 = a ∧
    (wordV q m d a b k fn).extractLsb' 9 4 = b ∧ (wordV q m d a b k fn).extractLsb' 7 2 = k ∧
    (wordV q m d a b k fn).extractLsb' 0 7 = fn := by
  simp only [wordQ_eq_iff, wordMajor, ← BitVec.toNat_inj, BitVec.extractLsb'_toNat,
    toNat_append_eq, Nat.shiftRight_eq_div_pow, wordV]
  omega

theorem wordV_of_fields : wordV (wordQ w) (wordMajor w) (w.extractLsb' 17 4) (w.extractLsb' 13 4)
    (w.extractLsb' 9 4) (w.extractLsb' 7 2) (w.extractLsb' 0 7) = w := by
  simp only [wordV, wordQ, wordMajor, ofBool_getLsbD]
  repeat rw [BitVec.extractLsb'_append_extractLsb'_eq_extractLsb' (by rfl)]
  exact BitVec.extractLsb'_eq_self

theorem wordM_fields (z : Bool) (a b : XReg) (f : BitVec 4) (kc : BitVec 6) :
    wordQ (wordM q m z a b f kc) = q ∧ wordMajor (wordM q m z a b f kc) = m ∧
    (wordM q m z a b f kc).getLsbD 20 = z ∧ (wordM q m z a b f kc).extractLsb' 15 5 = a ∧
    (wordM q m z a b f kc).extractLsb' 10 5 = b ∧ (wordM q m z a b f kc).extractLsb' 6 4 = f ∧
    (wordM q m z a b f kc).extractLsb' 0 6 = kc := by
  simp only [wordQ_eq_iff, wordMajor, ← BitVec.toNat_inj, getLsbD_eq_iff,
    BitVec.extractLsb'_toNat, toNat_append_eq, Nat.shiftRight_eq_div_pow, wordM]
  omega

theorem wordM_of_fields : wordM (wordQ w) (wordMajor w) (w.getLsbD 20) (w.extractLsb' 15 5)
    (w.extractLsb' 10 5) (w.extractLsb' 6 4) (w.extractLsb' 0 6) = w := by
  simp only [wordM, wordQ, wordMajor, ofBool_getLsbD]
  repeat rw [BitVec.extractLsb'_append_extractLsb'_eq_extractLsb' (by rfl)]
  exact BitVec.extractLsb'_eq_self

end Fields

/-! ### Words and bytes (R15) -/

theorem wordOfBytes_bytesOfWord (w : Word32) :
    wordOfBytes (w.extractLsb' 0 8) (w.extractLsb' 8 8) (w.extractLsb' 16 8) (w.extractLsb' 24 8) =
      w := by
  simp only [wordOfBytes, ← BitVec.toNat_inj, BitVec.extractLsb'_toNat, toNat_append_eq,
    Nat.shiftRight_eq_div_pow]
  omega

theorem bytesOfWord_wordOfBytes (b0 b1 b2 b3 : Byte) :
    bytesOfWord (wordOfBytes b0 b1 b2 b3) = [b0, b1, b2, b3] := by
  simp only [bytesOfWord, wordOfBytes, List.cons.injEq, ← BitVec.toNat_inj,
    BitVec.extractLsb'_toNat, toNat_append_eq, Nat.shiftRight_eq_div_pow, and_true]
  omega

end Sys2Proof

namespace Sys2Proof

open BitVec (extractLsb'_append_eq_left extractLsb'_append_eq_right extractLsb'_append_extractLsb')

variable {w w2 : Word32} {i : Instr} {q : Issue} {m : BitVec 7}

/-! ### From bytes to words -/

theorem decode_bytesOfWords_short (hl : wordLong w = false) (rest : List Byte) :
    decode (bytesOfWords [w] ++ rest) = (decodeWords w 0).map (·, rest) := by
  simp [bytesOfWords, bytesOfWord, decode, wordOfBytes_bytesOfWord, hl]

theorem decode_bytesOfWords_long (hl : wordLong w = true) (rest : List Byte) :
    decode (bytesOfWords [w, w2] ++ rest) = (decodeWords w w2).map (·, rest) := by
  simp [bytesOfWords, bytesOfWord, decode, wordOfBytes_bytesOfWord, hl]

theorem map_pair_eq_ok {r : Except DecodeError Instr} {rest rest' : List Byte} :
    r.map (·, rest') = .ok (i, rest) ↔ r = .ok i ∧ rest' = rest := by
  cases r <;> simp [Except.map]

theorem decode_eq_ok {bytes rest : List Byte} (h : decode bytes = .ok (i, rest)) :
    (∃ w, wordLong w = false ∧ decodeWords w 0 = .ok i ∧ bytes = bytesOfWords [w] ++ rest) ∨
    ∃ w w2, wordLong w = true ∧ decodeWords w w2 = .ok i ∧
      bytes = bytesOfWords [w, w2] ++ rest := by
  revert h
  fun_cases decode
  case case1 b0 b1 b2 b3 w hl c0 c1 c2 c3 rest' =>
    intro h
    obtain ⟨hd, rfl⟩ := map_pair_eq_ok.1 h
    exact .inr ⟨w, _, hl, hd, by simp only [bytesOfWords, w, bytesOfWord_wordOfBytes]; rfl⟩
  case case2 => exact nofun
  case case3 b0 b1 b2 b3 rest w hl =>
    intro h
    obtain ⟨hd, rfl⟩ := map_pair_eq_ok.1 h
    exact .inl ⟨w, Bool.eq_false_iff.2 hl, hd, by
      simp only [bytesOfWords, w, bytesOfWord_wordOfBytes]; rfl⟩
  case case4 => exact nofun

/-! ### Words that decode -/

/-- Words from which the decoder reads an instruction, whatever follows them. -/
def Decodes (ws : List Word32) (i : Instr) : Prop :=
  ∀ rest, decode (bytesOfWords ws ++ rest) = .ok (i, rest)

theorem wordLong_eq_false (hm : wordMajor w = m) (hs : m.toNat < 0x78) : wordLong w = false := by
  rw [wordLong, hm, Bool.or_eq_false_iff, beq_eq_false_iff_ne, beq_eq_false_iff_ne]
  constructor <;> rintro rfl <;> exact absurd hs (by decide)

theorem ne_fill (hm : wordMajor w = m) (hs : m.toNat < 0x7F) : (w == 0xFFFFFFFF#32) = false := by
  rw [beq_eq_false_iff_ne]
  rintro rfl
  rw [← hm] at hs
  exact absurd hs (by decide)

theorem decodes_of_decodeWords (hm : wordMajor w = m) (hs : m.toNat < 0x78)
    (h : decodeWords w 0 = .ok i) : Decodes [w] i := fun rest => by
  rw [decode_bytesOfWords_short (wordLong_eq_false hm hs), h]
  rfl

/-! ### Each format: a word that is not the fill word -/

section Formats

variable {d a b : XReg} {fn : BitVec 6} {imm : BitVec 11} {p : PReg} {s z : Bool} {off : BitVec 17}
  {vd va vb : VReg} {k : KReg} {vf : BitVec 7} {f : BitVec 4} {kc : BitVec 6}

theorem decodes_wordA (hs : m.toNat < 0x78)
    (h : (wordA q m d a b fn == 0xFFFFFFFF#32) = false →
      decodeWords (wordA q m d a b fn) 0 = .ok i) : Decodes [wordA q m d a b fn] i := by
  obtain ⟨-, hm, -⟩ := wordA_fields q m d a b fn
  exact decodes_of_decodeWords hm hs (h (ne_fill hm (by omega)))

theorem decodes_wordI (hs : m.toNat < 0x78)
    (h : (wordI q m d a imm == 0xFFFFFFFF#32) = false →
      decodeWords (wordI q m d a imm) 0 = .ok i) : Decodes [wordI q m d a imm] i := by
  obtain ⟨-, hm, -⟩ := wordI_fields q m d a imm
  exact decodes_of_decodeWords hm hs (h (ne_fill hm (by omega)))

theorem decodes_wordB (hs : m.toNat < 0x78)
    (h : (wordB q m p s off == 0xFFFFFFFF#32) = false →
      decodeWords (wordB q m p s off) 0 = .ok i) : Decodes [wordB q m p s off] i := by
  obtain ⟨-, hm, -⟩ := wordB_fields q m p s off
  exact decodes_of_decodeWords hm hs (h (ne_fill hm (by omega)))

theorem decodes_wordV (hs : m.toNat < 0x78)
    (h : (wordV q m vd va vb k vf == 0xFFFFFFFF#32) = false →
      decodeWords (wordV q m vd va vb k vf) 0 = .ok i) : Decodes [wordV q m vd va vb k vf] i := by
  obtain ⟨-, hm, -⟩ := wordV_fields q m vd va vb k vf
  exact decodes_of_decodeWords hm hs (h (ne_fill hm (by omega)))

theorem decodes_wordM (hs : m.toNat < 0x78)
    (h : (wordM q m z a b f kc == 0xFFFFFFFF#32) = false →
      decodeWords (wordM q m z a b f kc) 0 = .ok i) : Decodes [wordM q m z a b f kc] i := by
  obtain ⟨-, hm, -⟩ := wordM_fields q m z a b f kc
  exact decodes_of_decodeWords hm hs (h (ne_fill hm (by omega)))

/-! ### Each major opcode (R82) -/

theorem decodes_of_decodeReg (h : decodeReg q d a b fn = .ok i) :
    Decodes [wordA q 0x00 d a b fn] i :=
  decodes_wordA (by decide) fun hf => by
    simp only [decodeWords, wordA_fields, hf]
    exact h

theorem decodes_of_decodePred (h : decodePred q d a b fn = .ok i) :
    Decodes [wordA q 0x28 d a b fn] i :=
  decodes_wordA (by decide) fun hf => by
    simp only [decodeWords, wordA_fields, hf]
    exact h

theorem decodes_of_decodeSpec (h : decodeSpec q d a b fn = .ok i) :
    Decodes [wordA q 0x29 d a b fn] i :=
  decodes_wordA (by decide) fun hf => by
    simp only [decodeWords, wordA_fields, hf]
    exact h

theorem decodes_of_decodeWin (h : decodeWin q d a b fn = .ok i) :
    Decodes [wordA q 0x5A d a b fn] i :=
  decodes_wordA (by decide) fun hf => by
    simp only [decodeWords, wordA_fields, hf]
    exact h

theorem decodes_of_decodeTmov (h : decodeTmov q d a b fn = .ok i) :
    Decodes [wordA q 0x5B d a b fn] i :=
  decodes_wordA (by decide) fun hf => by
    simp only [decodeWords, wordA_fields, hf]
    exact h

theorem decodes_of_decodeFull (h : decodeFull q d a imm = .ok i) :
    Decodes [wordI q 0x63 d a imm] i :=
  decodes_wordI (by decide) fun hf => by
    simp only [decodeWords, wordI_fields, hf]
    exact h

theorem decodes_of_decodeUntyped (h : decodeUntyped q vd va vb k vf = .ok i) :
    Decodes [wordV q 0x38 vd va vb k vf] i :=
  decodes_wordV (by decide) fun hf => by
    simp only [decodeWords, wordV_fields, hf]
    exact h

theorem decodes_of_decodeVcvt (h : decodeVcvt q vd va vb k vf = .ok i) :
    Decodes [wordV q 0x39 vd va vb k vf] i :=
  decodes_wordV (by decide) fun hf => by
    simp only [decodeWords, wordV_fields, hf]
    exact h

theorem decodes_of_decodeVpack (h : decodeVpack q vd va vb k vf = .ok i) :
    Decodes [wordV q 0x3A vd va vb k vf] i :=
  decodes_wordV (by decide) fun hf => by
    simp only [decodeWords, wordV_fields, hf]
    exact h

theorem decodes_of_decodeVunpk (h : decodeVunpk q vd va vb k vf = .ok i) :
    Decodes [wordV q 0x3B vd va vb k vf] i :=
  decodes_wordV (by decide) fun hf => by
    simp only [decodeWords, wordV_fields, hf]
    exact h

theorem decodes_of_decodeVscale (h : decodeVscale q vd va vb k vf = .ok i) :
    Decodes [wordV q 0x3C vd va vb k vf] i :=
  decodes_wordV (by decide) fun hf => by
    simp only [decodeWords, wordV_fields, hf]
    exact h

theorem decodes_of_decodeVmem (h : decodeVmem q vd va vb k vf = .ok i) :
    Decodes [wordV q 0x3D vd va vb k vf] i :=
  decodes_wordV (by decide) fun hf => by
    simp only [decodeWords, wordV_fields, hf]
    exact h

theorem decodes_of_decodeVspec (h : decodeVspec q vd va vb k vf = .ok i) :
    Decodes [wordV q 0x3E vd va vb k vf] i :=
  decodes_wordV (by decide) fun hf => by
    simp only [decodeWords, wordV_fields, hf]
    exact h

theorem decodes_of_decodeImm (hm : 0x10 ≤ m.toNat ∧ m.toNat < 0x20 ∨ m.toNat = 0x24)
    (h : decodeImm q m.toNat d a imm = .ok i) : Decodes [wordI q m d a imm] i :=
  decodes_wordI (by omega) fun hf => by
    simp (disch := omega) only [decodeWords, wordI_fields, hf, Bool.false_eq_true, if_false, if_neg,
      if_pos, ite_self, h]

theorem decodes_of_decodeBranch (hm : 0x20 ≤ m.toNat ∧ m.toNat < 0x23)
    (h : decodeBranch q m.toNat p s off = .ok i) : Decodes [wordB q m p s off] i :=
  decodes_wordB (by omega) fun hf => by
    simp (disch := omega) only [decodeWords, wordB_fields, hf, Bool.false_eq_true, if_false, if_neg,
      if_pos, h]

theorem decodes_of_decodeMatrix (hm : 0x50 ≤ m.toNat ∧ m.toNat < 0x58)
    (h : decodeMatrix q m.toNat z a b f kc = .ok i) : Decodes [wordM q m z a b f kc] i :=
  decodes_wordM (by omega) fun hf => by
    simp (disch := omega) only [decodeWords, wordM_fields, hf, Bool.false_eq_true, if_false, if_neg,
      if_pos, h]

theorem decodes_of_decodeShared (hm : 0x5C ≤ m.toNat ∧ m.toNat < 0x5F)
    (h : decodeShared q m.toNat d a b fn = .ok i) : Decodes [wordA q m d a b fn] i :=
  decodes_wordA (by omega) fun hf => by
    simp (disch := omega) only [decodeWords, wordA_fields, hf, Bool.false_eq_true, if_false, if_neg,
      if_pos, h]

theorem decodes_of_decodeAtom (hm : 0x5F ≤ m.toNat ∧ m.toNat < 0x63)
    (h : decodeAtom q m.toNat d a b fn = .ok i) : Decodes [wordA q m d a b fn] i :=
  decodes_wordA (by omega) fun hf => by
    simp (disch := omega) only [decodeWords, wordA_fields, hf, Bool.false_eq_true, if_false, if_neg,
      if_pos, h]

theorem decodes_of_decodeQueue (hm : 0x64 ≤ m.toNat ∧ m.toNat < 0x67)
    (h : decodeQueue q m.toNat d a b fn = .ok i) : Decodes [wordA q m d a b fn] i :=
  decodes_wordA (by omega) fun hf => by
    simp (disch := omega) only [decodeWords, wordA_fields, hf, Bool.false_eq_true, if_false, if_neg,
      if_pos, h]

theorem decodes_of_decodeFiring (hm : 0x68 ≤ m.toNat ∧ m.toNat < 0x6F)
    (h : decodeFiring q m.toNat d a b fn = .ok i) : Decodes [wordA q m d a b fn] i :=
  decodes_wordA (by omega) fun hf => by
    simp (disch := omega) only [decodeWords, wordA_fields, hf, Bool.false_eq_true, if_false, if_neg,
      if_pos, h]

theorem decodes_of_decodeSystem (hm : 0x70 ≤ m.toNat ∧ m.toNat < 0x77)
    (h : decodeSystem q m.toNat d a b fn = .ok i) : Decodes [wordA q m d a b fn] i :=
  decodes_wordA (by omega) fun hf => by
    simp (disch := omega) only [decodeWords, wordA_fields, hf, Bool.false_eq_true, if_false, if_neg,
      if_pos, h]

theorem decodes_of_decodeTyped {t : VType} (h : decodeTyped q t vd va vb k vf = .ok i) :
    Decodes [wordT q t vd va vb k vf] i := by
  have hm : 0x30 ≤ (0x6#4 ++ t.code).toNat ∧ (0x6#4 ++ t.code).toNat < 0x36 := by
    cases t <;> decide
  refine decodes_wordV (by omega) fun hf => ?_
  simp (disch := omega) only [decodeWords, wordV_fields, hf, Bool.false_eq_true, if_false, if_neg,
    if_pos, extractLsb'_append_eq_right, VType.ofCode_eq_some.2 rfl]
  exact h

theorem decodes_of_decodeLong {r : BitVec 5} {lfn : BitVec 6} (hm : m = 0x78 ∨ m = 0x79)
    (h : decodeLong q m.toNat d a r lfn w2 = .ok i) : Decodes [wordA q m d a r lfn, w2] i := by
  obtain ⟨-, hmaj, -⟩ := wordA_fields q m d a r lfn
  have hl : wordLong (wordA q m d a r lfn) = true := by
    rw [wordLong, hmaj]
    rcases hm with rfl | rfl <;> rfl
  have hf := ne_fill hmaj (by rcases hm with rfl | rfl <;> decide)
  intro rest
  rw [decode_bytesOfWords_long hl, ← map_pair_eq_ok.2 ⟨h, rfl⟩]
  simp only [decodeWords, wordA_fields, hf]
  rcases hm with rfl | rfl <;> rfl

end Formats

/-! ### Predicates and masks in their fields (R79), accepted instructions -/

theorem lowP_fieldP (p : PReg) : lowP (fieldP p) = p := extractLsb'_append_eq_right

theorem highP_fieldP (p : PReg) : highP (fieldP p) = true := by
  rw [highP, fieldP, extractLsb'_append_eq_left]; rfl

theorem lowK_fieldK (k : KReg) : lowK (fieldK k) = k := extractLsb'_append_eq_right

theorem highK_fieldK (k : KReg) : highK (fieldK k) = true := by
  rw [highK, fieldK, extractLsb'_append_eq_left]; rfl

theorem rsv_of {c : Bool} (h : c = true) : rsv c i = .ok i := if_pos h

theorem asg_of {c : Bool} (h : c = true) : asg c i = .ok i := if_pos h

/-- The width and the offset of LD and ST stand in the immediate (R90). -/
theorem wordI_offset (d a : XReg) (imm : BitVec 11) :
    (wordI q m d a imm).extractLsb' 9 2 = imm.extractLsb' 9 2 ∧
    (wordI q m d a imm).extractLsb' 0 9 = imm.extractLsb' 0 9 := by
  obtain ⟨-, -, -, -, hi⟩ := wordI_fields q m d a imm
  constructor
  · rw [← BitVec.extractLsb'_extractLsb'_of_le (len' := 11) (by decide), hi]
  · rw [← BitVec.extractLsb'_extractLsb'_of_le (len' := 11) (by decide), hi]

/-! ### Every instruction decodes from its words -/

theorem decodes_encode (he : i.encoded = true) (hw : i.wf = true) : Decodes (encode i) i := by
  cases i
  case add | sub | mul | mulh | mulhu | div | divu | rem | remu | and | or | xor | andn | shl |
    shr | sra | rol | clz | ctz | popc | min | max | minu | maxu =>
    exact decodes_of_decodeReg rfl
  case sel =>
    exact decodes_wordA (by decide) fun hf => by
      simp only [decodeWords, wordA_fields, hf, extractLsb'_append_eq_left,
        extractLsb'_append_eq_right]
      rfl
  case cmp =>
    exact decodes_wordA (by decide) fun hf => by
      simp only [decodeWords, wordA_fields, hf, extractLsb'_append_eq_left,
        extractLsb'_append_eq_right, highP_fieldP, lowP_fieldP, Cond.ofCode_eq_some.2 rfl]
      rfl
  case addi | andi | ori | xori | movi | lea => exact decodes_of_decodeImm (by decide) rfl
  case cmpiEq | cmpiNe | cmpiLt | cmpiLtu | cmpiGe | cmpiGeu =>
    exact decodes_of_decodeImm (by decide)
      (by simp only [decodeImm, highP_fieldP, lowP_fieldP]; rfl)
  case shli | shri | srai =>
    exact decodes_of_decodeImm (by decide)
      (by simp only [decodeImm, extractLsb'_append_eq_left, extractLsb'_append_eq_right]; rfl)
  case loop => exact decodes_of_decodeImm (by decide) (asg_of hw)
  case br | brn | jmp | jal => exact decodes_of_decodeBranch (by decide) rfl
  case jr =>
    exact decodes_wordA (by decide) fun hf => by
      simp only [decodeWords, wordA_fields, hf]
      rfl
  case pand | por | pxor | pnot =>
    exact decodes_of_decodePred (by simp only [decodePred, highP_fieldP, lowP_fieldP]; rfl)
  case pset =>
    exact decodes_of_decodePred (by
      simp only [decodePred, highP_fieldP, lowP_fieldP, extractLsb'_append_eq_left,
        getLsbD_append_ofBool]
      rfl)
  case srd =>
    exact decodes_of_decodeSpec (by simp only [decodeSpec, SpecReg.ofCode_eq_some.2 rfl]; rfl)
  case swr =>
    exact decodes_of_decodeSpec (by
      simp only [decodeSpec, SpecReg.ofCode_eq_some.2 rfl]
      exact if_pos hw)
  case dpop => exact decodes_of_decodeSpec rfl
  case vadd | vsub | vmul | vmin | vmax | vabs | vneg | vredsum | vredmax | vredmin | vredarg =>
    exact decodes_of_decodeTyped rfl
  case vfma | vfms | vaddSat | vsubSat | vshl | vshr | vsra =>
    exact decodes_of_decodeTyped (asg_of hw)
  case vrcp | vrsq | vsqrt | vexp2 | vlog2 => exact decodes_of_decodeTyped (t := .f32) rfl
  case vcmp c _ _ _ _ =>
    cases c <;>
      exact decodes_of_decodeTyped ((rsv_of (highK_fieldK _)).trans (by rw [lowK_fieldK]))
  case vand | vor | vxor | vsel | vmov | vbcast | vext | vins | vperm | vshuf | vrot =>
    exact decodes_of_decodeUntyped rfl
  case vkand | vkor | vknot | vkpop =>
    exact decodes_of_decodeUntyped (by simp only [decodeUntyped, highK_fieldK, lowK_fieldK]; rfl)
  case vcvt m _ sat src dst =>
    simp only [Instr.wf, Bool.and_eq_true] at hw
    obtain ⟨hok, hsr⟩ := hw
    have hm : RMode.ofCode (0#1 ++ m.code.extractLsb' 0 2) = some m := by
      cases m
      case sr => exact absurd hsr (by decide)
      all_goals rfl
    refine decodes_of_decodeVcvt ?_
    simp only [decodeVcvt, highK, extractLsb'_append_eq_left, extractLsb'_append_eq_right,
      extract_append_middle, getLsbD_append_top, getLsbD_ofBool_zero, VType.ofCode_eq_some.2 rfl,
      hm]
    exact asg_of hok
  case vpack =>
    exact decodes_of_decodeVpack (by
      simp only [decodeVpack, extractLsb'_append_eq_left, extractLsb'_append_eq_right,
        RMode.ofCode_eq_some.2 rfl, PackCode.ofCode_eq_some.2 rfl]
      rfl)
  case vunpk =>
    exact decodes_of_decodeVunpk (by
      simp only [decodeVunpk, extractLsb'_append_eq_left, extractLsb'_append_eq_right,
        PackCode.ofCode_eq_some.2 rfl]
      rfl)
  case vscale e | vscaleApply e => cases e <;> exact decodes_of_decodeVscale rfl
  case vld | vst | vlds | vsts | vgath | vscat => exact decodes_of_decodeVmem rfl
  case vrng => exact decodes_of_decodeVspec rfl
  case vsamp | vsampGreedy =>
    exact decodes_of_decodeVspec (by
      simp only [decodeVspec, extractLsb'_append_eq_left, extractLsb'_append_eq_right]
      rfl)
  case vmaskld =>
    exact decodes_of_decodeVspec (by simp only [decodeVspec, highK_fieldK, lowK_fieldK]; rfl)
  case mma =>
    exact decodes_of_decodeMatrix (by decide) (by
      simp only [decodeMatrix, MFmt.ofCode_eq_some.2 rfl]
      exact asg_of hw)
  case mmas =>
    simp only [Instr.wf, Bool.and_assoc, Bool.and_eq_true (MFmt.scaled _)] at hw
    obtain ⟨hs, hab⟩ := hw
    exact decodes_of_decodeMatrix (by decide) (by
      simp only [decodeMatrix, MFmt.ofCode_eq_some.2 rfl]
      exact (if_pos hs).trans (rsv_of hab))
  case mmai | mzero | mldz | mstz | mwait | mstat => exact decodes_of_decodeMatrix (by decide) rfl
  case mrdv =>
    exact decodes_of_decodeMatrix (by decide) (by
      simp only [decodeMatrix, extractLsb'_append_eq_left, extractLsb'_append_eq_right]
      rfl)
  case ld | st =>
    exact decodes_wordI (by decide) fun hf => by
      simp only [decodeWords, wordI_fields, wordI_offset, hf, extractLsb'_append_eq_left,
        extractLsb'_append_eq_right, Width.ofCode_code]
      rfl
  case wget | wfree | wres | wput | wavail | wspace =>
    exact decodes_of_decodeWin (by
      simp only [decodeWin, extractLsb'_append_eq_left, extractLsb'_append_eq_right]
      rfl)
  case tmovIn | tmovOut => exact decodes_of_decodeTmov rfl
  case twait =>
    exact decodes_of_decodeTmov (by
      simp only [decodeTmov, extractLsb'_append_eq_left, extractLsb'_append_eq_right]
      rfl)
  case ald acq _ _ _ =>
    exact decodes_of_decodeShared (by decide) (by
      simp only [decodeShared, extract_append_top, extract_append_middle, getLsbD_append_ofBool,
        Scope.ofCode_eq_some.2 rfl]
      cases acq <;> rfl)
  case ast rel _ _ _ _ =>
    exact decodes_of_decodeShared (by decide) (by
      simp only [decodeShared, extract_append_top, extract_append_middle, getLsbD_append_ofBool,
        Scope.ofCode_eq_some.2 rfl]
      cases rel <;> rfl)
  case acas =>
    exact decodes_of_decodeShared (by decide) (by
      simp only [decodeShared, extract_append_top, extract_append_middle, getLsbD_append_ofBool,
        Scope.ofCode_eq_some.2 rfl, Order.ofCode_code]
      exact rsv_of hw)
  case atomAdd | atomSwap | atomAnd | atomOr | atomXor | atomMin | atomMax | atomMaxu =>
    exact decodes_of_decodeAtom (by decide) (by
      simp only [decodeAtom, extractLsb'_append_eq_right, extract_append_middle,
        getLsbD_append_top, Scope.ofCode_eq_some.2 rfl, Order.ofCode_code]
      rfl)
  case ldf | stf | sete =>
    exact decodes_of_decodeFull (by
      simp only [decodeFull, extractLsb'_append_eq_left, extractLsb'_append_eq_right]
      rfl)
  case fence =>
    exact decodes_of_decodeQueue (by decide) (by
      simp only [decodeQueue, extractLsb'_append_eq_left, extractLsb'_append_eq_right,
        Scope.ofCode_eq_some.2 rfl]
      rfl)
  case sstart | sstop | sbar | sstat | qclaim | qput | qstat =>
    exact decodes_of_decodeQueue (by decide) rfl
  case fend | resume | sig | brk | gopen | gstep | gmask | gclose | gqry =>
    exact decodes_of_decodeFiring (by decide) rfl
  case mode =>
    exact decodes_of_decodeFiring (by decide) (by
      simp only [decodeFiring, extractLsb'_append_eq_left, extractLsb'_append_eq_right]
      rfl)
  case trapN | trapS =>
    exact decodes_of_decodeFiring (by decide) (by
      simp only [decodeFiring, getLsbD_append_high, extractLsb'_append_eq_right]
      rfl)
  case cfgw | cfgr | cfgcrc | cfgcommit | cfgabort | rtw | sech | secv | eret | preq | frz | dmap =>
    exact decodes_of_decodeSystem (by decide) rfl
  case moviLong | lih => exact decodes_of_decodeLong (by decide) rfl
  case land =>
    exact decodes_of_decodeLong (by decide) (by
      simp only [decodeLong, extract_append_top, extract_append_middle, extractLsb'_append_eq_right]
      rfl)
  all_goals cases he

end Sys2Proof

namespace Sys2Proof.Machine

/-- Settles O51: the decoder reads the fields that the encoder sets, and its table leads back. -/
theorem decodeInvertsEncode : Obligations.DecodeInvertsEncode :=
  fun _ rest he hw => decodes_encode he hw rest

end Sys2Proof.Machine

namespace Sys2Proof

open BitVec (extractLsb'_append_eq_left extractLsb'_append_eq_right extractLsb'_append_extractLsb')

variable {i : Instr} {q : Issue} {ws : List Word32} {w w2 : Word32} {e : DecodeError} {m : Nat}

/-! ### What a decoder's answer is read from -/

/-- A well-formed encoded instruction whose words are the given ones. -/
def WrittenAs (i : Instr) (ws : List Word32) : Prop :=
  i.encoded = true ∧ i.wf = true ∧ encode i = ws

theorem writtenAs_of {w' : Word32} (he : i.encoded = true) (hw : i.wf = true)
    (hi : encode i = [w']) (h : w' = w) : WrittenAs i [w] :=
  ⟨he, hw, hi.trans (h ▸ rfl)⟩

/-- A decoder's answer gives no instruction but one that is written as the given words. -/
def ReadsOnly (ws : List Word32) (r : Except DecodeError Instr) : Prop :=
  ∀ i, r = .ok i → WrittenAs i ws

section Rules

variable {c : Bool} {r r' : Except DecodeError Instr}

theorem readsOnly_error : ReadsOnly ws (.error e) := nofun

theorem readsOnly_ok : ReadsOnly ws (.ok i) ↔ WrittenAs i ws :=
  ⟨fun h => h i rfl, fun h j hj => by cases hj; exact h⟩

theorem readsOnly_rsv : ReadsOnly ws (rsv c i) ↔ (c = true → WrittenAs i ws) := by
  cases c <;> simp [rsv, readsOnly_ok, readsOnly_error]

theorem readsOnly_asg : ReadsOnly ws (asg c i) ↔ (c = true → WrittenAs i ws) := by
  cases c <;> simp [asg, readsOnly_ok, readsOnly_error]

theorem readsOnly_sub {α : Type} {o : Option α} {f : α → Except DecodeError Instr} :
    ReadsOnly ws (sub o f) ↔ ∀ x, o = some x → ReadsOnly ws (f x) := by
  cases o <;> simp [sub, readsOnly_error]

theorem readsOnly_ite {p : Prop} [Decidable p] :
    ReadsOnly ws (if p then r else r') ↔ (p → ReadsOnly ws r) ∧ (¬p → ReadsOnly ws r') := by
  split <;> simp [*]

theorem ReadsOnly.ite {p : Prop} [Decidable p] (h : p → ReadsOnly ws r)
    (h' : ¬p → ReadsOnly ws r') : ReadsOnly ws (if p then r else r') :=
  readsOnly_ite.2 ⟨h, h'⟩

theorem ReadsOnly.congr (h : ReadsOnly (w :: ws) r) (hw : w = w2) : ReadsOnly (w2 :: ws) r := hw ▸ h

end Rules

/-! ### Each part of the decoder: its conditions pin the fields that the instruction leaves out -/

section Parts

variable {d a b : XReg} {fn : BitVec 6} {imm : BitVec 11} {p : PReg} {s z : Bool} {off : BitVec 17}
  {vd va vb : VReg} {k : KReg} {vf : BitVec 7} {f : BitVec 4} {kc : BitVec 6} {t : VType}

theorem highP_iff : highP d = true ↔ fieldP (lowP d) = d := by
  rw [highP, beq_iff_eq]
  exact extract_eq_iff

theorem highK_iff : highK vd = true ↔ fieldK (lowK vd) = vd := by
  rw [highK, beq_iff_eq]
  exact extract_eq_iff

theorem readsOnly_decodeReg : ReadsOnly [wordA q 0x00 d a b fn] (decodeReg q d a b fn) := by
  obtain ⟨n, hn, hfn⟩ := exists_ofNat fn
  rw [decodeReg, hn]
  split
  all_goals simp only [readsOnly_ok, readsOnly_error, readsOnly_rsv, beq_iff_eq]
  all_goals (intros; exact writtenAs_of rfl rfl rfl (by simp only [*, BitVec.ofNat_eq_ofNat]))

theorem readsOnly_decodePred : ReadsOnly [wordA q 0x28 d a b fn] (decodePred q d a b fn) := by
  obtain ⟨n, hn, hfn⟩ := exists_ofNat fn
  rw [decodePred, hn]
  split
  all_goals simp only [readsOnly_error, readsOnly_rsv, beq_iff_eq, Bool.and_eq_true, and_imp,
    highP_iff, extract_eq_iff, BitVec.ofNat_eq_ofNat]
  all_goals
    intros
    exact writtenAs_of rfl rfl rfl (by simp only [*, BitVec.ofNat_eq_ofNat, ofBool_getLsbD])

theorem readsOnly_decodeSpec : ReadsOnly [wordA q 0x29 d a b fn] (decodeSpec q d a b fn) := by
  obtain ⟨n, hn, hfn⟩ := exists_ofNat fn
  rw [decodeSpec, hn]
  split
  all_goals simp only [readsOnly_error, readsOnly_sub, readsOnly_ite, readsOnly_rsv, beq_iff_eq,
    Bool.and_eq_true, and_imp, SpecReg.ofCode_eq_some, implies_true, and_true]
  case h_2 =>
    intro r hr hw ha
    exact writtenAs_of rfl hw rfl (by simp only [*, BitVec.ofNat_eq_ofNat])
  all_goals (intros; exact writtenAs_of rfl rfl rfl (by simp only [*, BitVec.ofNat_eq_ofNat]))

theorem readsOnly_decodeImm :
    ReadsOnly [wordI q (BitVec.ofNat 7 m) d a imm] (decodeImm q m d a imm) := by
  unfold decodeImm
  split
  all_goals simp only [readsOnly_ok, readsOnly_error, readsOnly_asg, readsOnly_ite, readsOnly_rsv,
    beq_iff_eq, highP_iff, extract_eq_iff, BitVec.ofNat_eq_ofNat, implies_true, and_true]
  case h_16 => exact fun hd hw => writtenAs_of rfl hw rfl (by simp only [hd, BitVec.ofNat_eq_ofNat])
  all_goals (intros; exact writtenAs_of rfl rfl rfl (by simp only [*, BitVec.ofNat_eq_ofNat]))

theorem readsOnly_decodeBranch :
    ReadsOnly [wordB q (BitVec.ofNat 7 m) p s off] (decodeBranch q m p s off) := by
  unfold decodeBranch
  split
  case h_1 => cases s <;> exact readsOnly_ok.2 ⟨rfl, rfl, rfl⟩
  all_goals simp only [readsOnly_error, readsOnly_rsv, beq_iff_eq, Bool.and_eq_true,
    Bool.not_eq_true', and_imp]
  all_goals (intros; exact writtenAs_of rfl rfl rfl (by simp only [*, BitVec.ofNat_eq_ofNat]))

theorem readsOnly_decodeTyped :
    ReadsOnly [wordT q t vd va vb k vf] (decodeTyped q t vd va vb k vf) := by
  obtain ⟨n, hn, hfn⟩ := exists_ofNat vf
  rw [decodeTyped, hn]
  split
  all_goals simp only [readsOnly_ok, readsOnly_error, readsOnly_asg, readsOnly_ite, readsOnly_rsv,
    beq_iff_eq, highK_iff, BitVec.ofNat_eq_ofNat, implies_true, and_true]
  case h_4 | h_5 | h_10 | h_11 | h_17 | h_18 | h_19 =>
    exact fun hw => writtenAs_of rfl hw rfl (by simp only [hfn, BitVec.ofNat_eq_ofNat])
  all_goals
    intros
    exact writtenAs_of rfl rfl rfl (by
      simp only [*, BitVec.ofNat_eq_ofNat, wordT, VCond.code, VType.code, BitVec.reduceAppend])

theorem readsOnly_decodeUntyped :
    ReadsOnly [wordV q 0x38 vd va vb k vf] (decodeUntyped q vd va vb k vf) := by
  obtain ⟨n, hn, hfn⟩ := exists_ofNat vf
  rw [decodeUntyped, hn]
  split
  all_goals simp only [readsOnly_ok, readsOnly_error, readsOnly_rsv, beq_iff_eq, Bool.and_eq_true,
    and_imp, highK_iff]
  all_goals (intros; exact writtenAs_of rfl rfl rfl (by simp only [*, BitVec.ofNat_eq_ofNat]))

/-- The rounding mode of VCVT has a code of 2 bits, so that it is not .sr. -/
theorem rmode_ne_sr {x : RMode} {c : BitVec 2} (h : x.code = 0#1 ++ c) : x ≠ .sr := by
  rintro rfl
  revert c
  decide

theorem readsOnly_decodeVcvt :
    ReadsOnly [wordV q 0x39 vd va vb k vf] (decodeVcvt q vd va vb k vf) := by
  simp only [decodeVcvt, readsOnly_sub, readsOnly_ite, readsOnly_asg, readsOnly_error, highK_iff,
    implies_true, and_true, VType.ofCode_eq_some, RMode.ofCode_eq_some]
  intro src hs dst hd x hx hb hok
  refine writtenAs_of rfl ?_ rfl ?_
  · simp only [Instr.wf, hok, bne_iff_ne.2 (rmode_ne_sr hx), Bool.and_self]
  · have hf := extract_append_extract_three (n := 1) (k := 3) (l := 3) vf rfl
    rw [hx, hs, hd, extractLsb'_append_eq_right, ofBool_getLsbD, hf]
    exact congrArg (wordV _ _ _ _ · _ _) hb

theorem readsOnly_decodeVpack :
    ReadsOnly [wordV q 0x3A vd va vb k vf] (decodeVpack q vd va vb k vf) := by
  simp only [decodeVpack, readsOnly_sub, readsOnly_ok, PackCode.ofCode_eq_some,
    RMode.ofCode_eq_some]
  intro x hx c hc
  exact writtenAs_of rfl rfl rfl (by rw [hx, hc, extractLsb'_append_extractLsb'])

theorem readsOnly_decodeVunpk :
    ReadsOnly [wordV q 0x3B vd va vb k vf] (decodeVunpk q vd va vb k vf) := by
  simp only [decodeVunpk, readsOnly_sub, readsOnly_rsv, PackCode.ofCode_eq_some, beq_iff_eq,
    extract_eq_iff]
  intro c hc h
  exact writtenAs_of rfl rfl rfl (congrArg (wordV _ _ _ _ _ _) (by rw [hc]; exact h))

theorem readsOnly_decodeVscale :
    ReadsOnly [wordV q 0x3C vd va vb k vf] (decodeVscale q vd va vb k vf) := by
  simp only [decodeVscale, readsOnly_sub, readsOnly_rsv, ElemFmt.ofCode_eq_some, beq_iff_eq]
  intro x hx h
  have hf := extract_append_extract_three (n := 3) (k := 1) (l := 3) vf rfl
  rw [h, ← hx, ← ofBool_getLsbD] at hf
  rw [← hf]
  cases vf.getLsbD 3 <;> cases x <;> exact ⟨rfl, rfl, rfl⟩

theorem readsOnly_decodeVmem :
    ReadsOnly [wordV q 0x3D vd va vb k vf] (decodeVmem q vd va vb k vf) := by
  obtain ⟨n, hn, hfn⟩ := exists_ofNat vf
  rw [decodeVmem, hn]
  split
  all_goals simp only [readsOnly_ok, readsOnly_error]
  all_goals exact writtenAs_of rfl rfl rfl (by simp only [hfn, BitVec.ofNat_eq_ofNat])

theorem readsOnly_decodeVspec :
    ReadsOnly [wordV q 0x3E vd va vb k vf] (decodeVspec q vd va vb k vf) := by
  have hf : vf.extractLsb' 3 4 ++ vf.extractLsb' 0 3 = vf := extractLsb'_append_extractLsb'
  obtain ⟨n, hn, hfn⟩ := exists_ofNat (vf.extractLsb' 3 4)
  rw [decodeVspec, hn]
  split
  all_goals simp only [readsOnly_ok, readsOnly_error, readsOnly_ite, readsOnly_rsv, beq_iff_eq,
    Bool.and_eq_true, and_imp, highK_iff, implies_true, and_true, BitVec.ofNat_eq_ofNat]
  case h_2 | h_3 =>
    rw [hfn] at hf
    exact writtenAs_of rfl rfl rfl (congrArg (wordV _ _ _ _ _ _) hf)
  all_goals (intros; exact writtenAs_of rfl rfl rfl (by simp only [*, BitVec.ofNat_eq_ofNat]))

theorem readsOnly_decodeMatrix :
    ReadsOnly [wordM q (BitVec.ofNat 7 m) z a b f kc] (decodeMatrix q m z a b f kc) := by
  unfold decodeMatrix
  split
  case h_8 =>
    obtain ⟨n, hn, hkc⟩ := exists_ofNat kc
    rw [hn]
    split
    all_goals simp only [readsOnly_error, readsOnly_rsv, Bool.and_eq_true, beq_iff_eq,
      Bool.not_eq_true', and_imp]
    all_goals (intros; exact writtenAs_of rfl rfl rfl (by simp only [*, BitVec.ofNat_eq_ofNat]))
  all_goals simp only [readsOnly_error, readsOnly_sub, readsOnly_asg, readsOnly_rsv, readsOnly_ite,
    Bool.and_eq_true, beq_iff_eq, bne_iff_ne, and_imp, implies_true, and_true,
    MFmt.ofCode_eq_some, extract_eq_iff, BitVec.ofNat_eq_ofNat]
  case h_1 => exact fun x hx hw => writtenAs_of rfl hw rfl (congrArg (wordM _ _ _ _ _ · _) hx)
  case h_2 =>
    intro x hx hs ha hb
    refine writtenAs_of rfl ?_ rfl (congrArg (wordM _ _ _ _ _ · _) hx)
    simp only [Instr.wf, hs, bne_iff_ne.2 ha, bne_iff_ne.2 hb, Bool.and_self, BitVec.ofNat_eq_ofNat]
  all_goals (intros; exact writtenAs_of rfl rfl rfl (by simp only [*, BitVec.ofNat_eq_ofNat]))

theorem readsOnly_decodeWin : ReadsOnly [wordA q 0x5A d a b fn] (decodeWin q d a b fn) := by
  obtain ⟨n, hn, hfn⟩ := exists_ofNat fn
  rw [decodeWin, hn]
  split
  all_goals simp only [readsOnly_error, readsOnly_rsv, beq_iff_eq, Bool.and_eq_true, and_imp,
    extract_eq_iff, BitVec.ofNat_eq_ofNat]
  all_goals (intros; exact writtenAs_of rfl rfl rfl (by simp only [*, BitVec.ofNat_eq_ofNat]))

theorem readsOnly_decodeTmov : ReadsOnly [wordA q 0x5B d a b fn] (decodeTmov q d a b fn) := by
  obtain ⟨n, hn, hfn⟩ := exists_ofNat fn
  rw [decodeTmov, hn]
  split
  all_goals simp only [readsOnly_ok, readsOnly_error, readsOnly_rsv, beq_iff_eq, Bool.and_eq_true,
    and_imp, extract_eq_iff, BitVec.ofNat_eq_ofNat]
  all_goals (intros; exact writtenAs_of rfl rfl rfl (by simp only [*, BitVec.ofNat_eq_ofNat]))

theorem readsOnly_decodeShared (hm : 0x5C ≤ m ∧ m < 0x5F) :
    ReadsOnly [wordA q (BitVec.ofNat 7 m) d a b fn] (decodeShared q m d a b fn) := by
  have hf := extract_append_extract_three (n := 2) (k := 3) (l := 1) fn rfl
  simp only [decodeShared, readsOnly_sub, Scope.ofCode_eq_some]
  intro sc hs
  rw [← hs, ← ofBool_getLsbD] at hf
  generalize fn.extractLsb' 4 2 = o at *
  split
  all_goals simp only [readsOnly_ite, readsOnly_rsv, readsOnly_error, Bool.or_eq_true,
    Bool.and_eq_true, beq_iff_eq, bne_iff_ne, and_imp, implies_true, and_true]
  case h_1 =>
    rintro ho rfl rfl
    refine writtenAs_of rfl rfl rfl (congrArg (wordA _ _ _ _ _) (Eq.trans ?_ hf))
    rcases ho with rfl | rfl <;> rfl
  case h_2 =>
    rintro ho rfl
    refine writtenAs_of rfl rfl rfl (congrArg (wordA _ _ _ _ _) (Eq.trans ?_ hf))
    rcases ho with rfl | rfl <;> rfl
  case h_3 =>
    rintro rfl hb
    obtain rfl : m = 0x5E := by grind
    exact writtenAs_of rfl (bne_iff_ne.2 hb) rfl
      (congrArg (wordA _ _ _ _ _) (by rw [Order.code_ofCode, hf]))

theorem readsOnly_decodeAtom (hm : m = 0x5F ∨ m = 0x60 ∨ m = 0x61 ∨ m = 0x62) :
    ReadsOnly [wordA q (BitVec.ofNat 7 m) d a b fn] (decodeAtom q m d a b fn) := by
  have hf := extract_append_extract_three (n := 1) (k := 2) (l := 3) fn rfl
  simp only [decodeAtom, readsOnly_sub, Scope.ofCode_eq_some, readsOnly_rsv, beq_iff_eq]
  rintro sc hs rfl
  rw [← hs, ← ofBool_getLsbD, ← Order.code_ofCode (fn.extractLsb' 3 2)] at hf
  generalize fn.getLsbD 5 = second, Order.ofCode (fn.extractLsb' 3 2) = o at hf ⊢
  subst hf
  rcases hm with rfl | rfl | rfl | rfl <;> cases second <;> exact ⟨rfl, rfl, rfl⟩

theorem readsOnly_decodeFull : ReadsOnly [wordI q 0x63 d a imm] (decodeFull q d a imm) := by
  have hi : imm.extractLsb' 8 3 ++ imm.extractLsb' 0 8 = imm := extractLsb'_append_extractLsb'
  obtain ⟨n, hn, himm⟩ := exists_ofNat (imm.extractLsb' 8 3)
  rw [himm] at hi
  rw [decodeFull, hn]
  split
  all_goals simp only [readsOnly_ok, readsOnly_error, readsOnly_rsv, beq_iff_eq,
    BitVec.ofNat_eq_ofNat]
  all_goals
    intros
    exact writtenAs_of rfl rfl rfl (congrArg (wordI _ _ _ _) (by rw [← hi]; simp only [*]))

theorem readsOnly_decodeQueue (hm : 0x64 ≤ m ∧ m < 0x67) :
    ReadsOnly [wordA q (BitVec.ofNat 7 m) d a b fn] (decodeQueue q m d a b fn) := by
  unfold decodeQueue
  split
  case h_1 =>
    simp only [readsOnly_sub, Scope.ofCode_eq_some, readsOnly_rsv, beq_iff_eq, Bool.and_eq_true,
      and_imp, extract_eq_iff, BitVec.ofNat_eq_ofNat]
    rintro sc hs rfl rfl rfl hf
    exact writtenAs_of rfl rfl rfl (congrArg (wordA _ _ _ _ _) (by rw [hs, hf]))
  case' h_3 => obtain rfl : m = 0x66 := by grind
  all_goals
    obtain ⟨n, hn, hfn⟩ := exists_ofNat fn
    rw [hn]
    split
    all_goals simp only [readsOnly_error, readsOnly_rsv, beq_iff_eq, Bool.and_eq_true, and_imp]
    all_goals (intros; exact writtenAs_of rfl rfl rfl (by simp only [*, BitVec.ofNat_eq_ofNat]))

theorem readsOnly_decodeFiring (hm : 0x68 ≤ m ∧ m < 0x6F) :
    ReadsOnly [wordA q (BitVec.ofNat 7 m) d a b fn] (decodeFiring q m d a b fn) := by
  unfold decodeFiring
  extract_lets none3
  split
  case h_5 =>
    have hf : fn.extractLsb' 5 1 ++ fn.extractLsb' 0 5 = fn := extractLsb'_append_extractLsb'
    rw [← ofBool_getLsbD] at hf
    simp only [none3, readsOnly_rsv, beq_iff_eq, Bool.and_eq_true, and_imp]
    rintro rfl rfl rfl
    cases h : fn.getLsbD 5
    all_goals
      rw [h] at hf
      exact writtenAs_of rfl rfl rfl (congrArg (wordA _ _ _ _ _) hf)
  case h_7 =>
    obtain rfl : m = 0x6E := by grind
    obtain ⟨n, hn, hfn⟩ := exists_ofNat fn
    rw [hn]
    split
    all_goals simp only [readsOnly_error, readsOnly_rsv, beq_iff_eq, Bool.and_eq_true, and_imp]
    all_goals (intros; exact writtenAs_of rfl rfl rfl (by simp only [*, BitVec.ofNat_eq_ofNat]))
  all_goals simp only [none3, readsOnly_rsv, beq_iff_eq, Bool.and_eq_true, and_imp, extract_eq_iff,
    BitVec.ofNat_eq_ofNat]
  all_goals (intros; exact writtenAs_of rfl rfl rfl (by simp only [*, BitVec.ofNat_eq_ofNat]))

theorem readsOnly_decodeSystem (hm : 0x70 ≤ m ∧ m < 0x77) :
    ReadsOnly [wordA q (BitVec.ofNat 7 m) d a b fn] (decodeSystem q m d a b fn) := by
  unfold decodeSystem
  split
  case h_1 | h_3 =>
    obtain ⟨n, hn, hfn⟩ := exists_ofNat fn
    rw [hn]
    split
    all_goals simp only [readsOnly_error, readsOnly_rsv, beq_iff_eq, Bool.and_eq_true, and_imp]
    all_goals (intros; exact writtenAs_of rfl rfl rfl (by simp only [*, BitVec.ofNat_eq_ofNat]))
  case' h_7 => obtain rfl : m = 0x76 := by grind
  all_goals simp only [readsOnly_rsv, beq_iff_eq, Bool.and_eq_true, and_imp]
  all_goals (intros; exact writtenAs_of rfl rfl rfl (by simp only [*, BitVec.ofNat_eq_ofNat]))

theorem readsOnly_decodeLong {r : BitVec 5} {lfn : BitVec 6} :
    ReadsOnly [wordA q (BitVec.ofNat 7 m) d a r lfn, w2] (decodeLong q m d a r lfn w2) := by
  obtain ⟨n, hn, hfn⟩ := exists_ofNat lfn
  unfold decodeLong
  rw [hn]
  split
  all_goals simp only [readsOnly_error, readsOnly_rsv, beq_iff_eq, Bool.and_eq_true, and_imp]
  case h_3 =>
    rintro rfl rfl rfl hz
    have hf := extract_append_extract_three (n := 20) (k := 4) (l := 8) w2 rfl
    rw [hz] at hf
    subst hfn
    exact ⟨rfl, rfl, congrArg (fun v => [wordA _ _ _ _ _ _, v]) hf⟩
  all_goals
    rintro rfl rfl
    subst hfn
    exact ⟨rfl, rfl, rfl⟩

theorem readsOnly_sel : ReadsOnly [wordA q 0x01 d a b fn]
    (rsv (fn.extractLsb' 3 3 == 0) (.sel q d a b (fn.extractLsb' 0 3))) := by
  simp only [readsOnly_rsv, beq_iff_eq, extract_eq_iff]
  exact fun hf => writtenAs_of rfl rfl rfl (congrArg (wordA _ _ _ _ _) hf)

theorem readsOnly_cmp : ReadsOnly [wordA q 0x02 d a b fn]
    (sub (Cond.ofCode (fn.extractLsb' 0 3)) fun c =>
      rsv (highP d && fn.extractLsb' 3 3 == 0) (.cmp q c (lowP d) a b)) := by
  simp only [readsOnly_sub, readsOnly_rsv, Cond.ofCode_eq_some, Bool.and_eq_true, beq_iff_eq,
    and_imp, highP_iff, extract_eq_iff]
  intro c hc hd hf
  refine writtenAs_of rfl rfl rfl ?_
  rw [hd, hc]
  exact congrArg (wordA _ _ _ _ _) hf

theorem readsOnly_jr : ReadsOnly [wordA q 0x23 d a b fn]
    (rsv (d == 0 && b == 0 && fn == 0) (.jr q a)) := by
  simp only [readsOnly_rsv, Bool.and_eq_true, beq_iff_eq, and_imp]
  rintro rfl rfl rfl
  exact ⟨rfl, rfl, rfl⟩

/-- The width and the offset of LD and ST make up the immediate (R90). -/
theorem width_append_offset (w : Word32) :
    (Width.ofCode (w.extractLsb' 9 2)).code ++ w.extractLsb' 0 9 = w.extractLsb' 0 11 := by
  rw [Width.code_ofCode]
  exact BitVec.extractLsb'_append_extractLsb'_eq_extractLsb' rfl

theorem readsOnly_ld : ReadsOnly [wordI q 0x58 d a (w.extractLsb' 0 11)]
    (.ok (.ld q (Width.ofCode (w.extractLsb' 9 2)) d a (w.extractLsb' 0 9))) :=
  readsOnly_ok.2 (writtenAs_of rfl rfl rfl (congrArg (wordI _ _ _ _) (width_append_offset w)))

theorem readsOnly_st : ReadsOnly [wordI q 0x59 d a (w.extractLsb' 0 11)]
    (.ok (.st q (Width.ofCode (w.extractLsb' 9 2)) d a (w.extractLsb' 0 9))) :=
  readsOnly_ok.2 (writtenAs_of rfl rfl rfl (congrArg (wordI _ _ _ _) (width_append_offset w)))

/-- The major of a typed vector word is 0x30 above the code of its type (R82, R86). -/
theorem readsOnly_typed {maj : BitVec 7} (hlo : 0x30 ≤ maj.toNat) (hhi : maj.toNat < 0x36) :
    ReadsOnly [wordV q maj vd va vb k vf]
      (sub (VType.ofCode (maj.extractLsb' 0 3)) fun t => decodeTyped q t vd va vb k vf) := by
  have hmaj : 0x6#4 ++ maj.extractLsb' 0 3 = maj := by
    refine extract_eq_iff.1 (BitVec.eq_of_toNat_eq ?_)
    rw [BitVec.extractLsb'_toNat, Nat.shiftRight_eq_div_pow, BitVec.toNat_ofNat]
    omega
  simp only [readsOnly_sub, VType.ofCode_eq_some]
  intro t ht
  refine readsOnly_decodeTyped.congr ?_
  rw [wordT, ht, hmaj]

end Parts

/-! ### The decoder (R82) -/

/-- A word of a short format decodes to no instruction but the one that it stands for (R77). -/
theorem readsOnly_decodeWords_short (hl : wordLong w = false) :
    ReadsOnly [w] (decodeWords w w2) := by
  have hA := wordA_of_fields w
  have hI := wordI_of_fields w
  have hB := wordB_of_fields w
  have hV := wordV_of_fields w
  have hM := wordM_of_fields w
  obtain ⟨m, hm, hw⟩ := exists_ofNat (wordMajor w)
  have hl : ¬(m = 0x78 ∨ m = 0x79) := by
    rw [← hm]
    rintro (h | h) <;> simp [wordLong, ← BitVec.toNat_inj, h] at hl
  unfold decodeWords
  rw [hm]
  extract_lets q m' d a b fn vd va vb k vf
  subst m'
  rw [hw] at hA hI hB hV hM
  refine .ite (fun _ => readsOnly_error) fun _ => ?_
  refine .ite (fun h => by subst h; exact readsOnly_decodeReg.congr hA) fun _ => ?_
  refine .ite (fun h => by subst h; exact readsOnly_sel.congr hA) fun _ => ?_
  refine .ite (fun h => by subst h; exact readsOnly_cmp.congr hA) fun _ => ?_
  refine .ite (fun _ => readsOnly_error) fun _ => ?_
  refine .ite (fun _ => readsOnly_decodeImm.congr hI) fun _ => ?_
  refine .ite (fun _ => readsOnly_decodeBranch.congr hB) fun _ => ?_
  refine .ite (fun h => by subst h; exact readsOnly_jr.congr hA) fun _ => ?_
  refine .ite (fun _ => readsOnly_decodeImm.congr hI) fun _ => ?_
  refine .ite (fun h => by subst h; exact readsOnly_decodePred.congr hA) fun _ => ?_
  refine .ite (fun h => by subst h; exact readsOnly_decodeSpec.congr hA) fun _ => ?_
  refine .ite (fun _ => readsOnly_error) fun _ => ?_
  refine .ite (fun _ => (readsOnly_typed (by omega) (by omega)).congr (hw ▸ hV)) fun _ => ?_
  refine .ite (fun _ => readsOnly_error) fun _ => ?_
  refine .ite (fun h => by subst h; exact readsOnly_decodeUntyped.congr hV) fun _ => ?_
  refine .ite (fun h => by subst h; exact readsOnly_decodeVcvt.congr hV) fun _ => ?_
  refine .ite (fun h => by subst h; exact readsOnly_decodeVpack.congr hV) fun _ => ?_
  refine .ite (fun h => by subst h; exact readsOnly_decodeVunpk.congr hV) fun _ => ?_
  refine .ite (fun h => by subst h; exact readsOnly_decodeVscale.congr hV) fun _ => ?_
  refine .ite (fun h => by subst h; exact readsOnly_decodeVmem.congr hV) fun _ => ?_
  refine .ite (fun h => by subst h; exact readsOnly_decodeVspec.congr hV) fun _ => ?_
  refine .ite (fun _ => readsOnly_error) fun _ => ?_
  refine .ite (fun _ => readsOnly_decodeMatrix.congr hM) fun _ => ?_
  refine .ite (fun h => by subst h; exact readsOnly_ld.congr hI) fun _ => ?_
  refine .ite (fun h => by subst h; exact readsOnly_st.congr hI) fun _ => ?_
  refine .ite (fun h => by subst h; exact readsOnly_decodeWin.congr hA) fun _ => ?_
  refine .ite (fun h => by subst h; exact readsOnly_decodeTmov.congr hA) fun _ => ?_
  refine .ite (fun _ => (readsOnly_decodeShared (by omega)).congr hA) fun _ => ?_
  refine .ite (fun _ => (readsOnly_decodeAtom (by omega)).congr hA) fun _ => ?_
  refine .ite (fun h => by subst h; exact readsOnly_decodeFull.congr hI) fun _ => ?_
  refine .ite (fun _ => (readsOnly_decodeQueue (by omega)).congr hA) fun _ => ?_
  refine .ite (fun _ => readsOnly_error) fun _ => ?_
  refine .ite (fun _ => (readsOnly_decodeFiring (by omega)).congr hA) fun _ => ?_
  refine .ite (fun _ => readsOnly_error) fun _ => ?_
  refine .ite (fun _ => (readsOnly_decodeSystem (by omega)).congr hA) fun _ => ?_
  exact .ite (fun h => absurd h hl) fun _ => readsOnly_error

/-- A word of the long format (R77) and the next decode to no instruction but the one that they
stand for. -/
theorem readsOnly_decodeWords_long (hl : wordLong w = true) :
    ReadsOnly [w, w2] (decodeWords w w2) := by
  have hA := wordA_of_fields w
  obtain ⟨m, hm, hw⟩ := exists_ofNat (wordMajor w)
  have hl : m = 0x78 ∨ m = 0x79 := by
    rw [← hm]
    simpa [wordLong, ← BitVec.toNat_inj] using hl
  have hf := ne_fill rfl (show (wordMajor w).toNat < 0x7F by omega)
  have hd : decodeWords w w2 = decodeLong (wordQ w) m (w.extractLsb' 16 5) (w.extractLsb' 11 5)
      (w.extractLsb' 6 5) (w.extractLsb' 0 6) w2 := by
    simp only [decodeWords, hm, hf]
    rcases hl with rfl | rfl <;> rfl
  rw [hw] at hA
  rw [hd]
  exact readsOnly_decodeLong.congr hA

end Sys2Proof

namespace Sys2Proof.Machine

/-- Settles O52: the decoder reads a short word or a long pair of words, and no part of it gives an
instruction that other words encode. -/
theorem decodeIsExact : Obligations.DecodeIsExact := by
  intro bytes rest i h
  obtain ⟨w, hl, hd, rfl⟩ | ⟨w, w2, hl, hd, rfl⟩ := decode_eq_ok h
  · obtain ⟨he, hw, hi⟩ := readsOnly_decodeWords_short hl i hd
    exact ⟨he, hw, by rw [hi]⟩
  · obtain ⟨he, hw, hi⟩ := readsOnly_decodeWords_long hl i hd
    exact ⟨he, hw, by rw [hi]⟩

end Sys2Proof.Machine

namespace Sys2Proof.Machine

variable {s t : State} {q : Issue} {lat : Nat}

/-! ### What an answer is (R97, R455) -/

/-- An answer that is a next state, neither a fault nor a refusal. -/
def Answers (a : Answer) : Prop := ∃ t, a = .next t

theorem Answers.next : Answers (.next t) := ⟨t, rfl⟩

theorem issue_answers {len : Nat} {hold : Bool} {flt : Option FaultInfo} {target : Option Int}
    {eff : State → State} : Answers (issue q len hold flt target eff s) := by
  fun_cases issue <;> exact .next

theorem issueLanding_answers {len : Nat} {hold : Bool} {flt : Option FaultInfo}
    {target : Option Int} {eff post : State → State} :
    Answers (issueLanding q len hold flt target eff post s) := by
  fun_cases issueLanding <;> exact .next

theorem scalarForm_answers {len : Nat} {d : XReg} {v : State → Word64} {po : State → Bool} :
    Answers (scalarForm q len lat d v po s) :=
  issue_answers

theorem regForm_answers {d a b : XReg} {f : Word64 → Word64 → Word64} :
    Answers (regForm q lat d a b f s) :=
  scalarForm_answers

theorem immForm_answers {d a : XReg} {f : Word64 → Word64} :
    Answers (immForm q lat d a f s) :=
  scalarForm_answers

theorem divForm_answers {signed : Bool} {f : Word64 → Word64 → Word64} {a b : XReg} :
    Answers (divForm q signed f a b s) :=
  issue_answers

theorem cmpForm_answers {c : Cond} {p : PReg} {a : State → PVal} {b : State → PVal} :
    Answers (cmpForm q c p a b s) :=
  issue_answers

theorem cmpiForm_answers {c : Cond} {p : PReg} {a : XReg} {i : BitVec 11} :
    Answers (cmpiForm q c p a i s) :=
  cmpForm_answers

theorem predForm_answers {d : PReg} {v : State → Bool} {po : State → Bool} :
    Answers (predForm q d v po s) :=
  issue_answers

theorem branchForm_answers {sense : Bool} {p : PReg} {off : BitVec 17} :
    Answers (branchForm q sense p off s) :=
  issue_answers

theorem laneForm_answers {w : State → List (Nat × PVal)} :
    Answers (laneForm q lat w s) :=
  issue_answers

theorem typedForm_answers {t : VType} {d a b : VReg} {k : KReg} {f : Nat → Nat → Nat} :
    Answers (typedForm q t d a b k f s) :=
  laneForm_answers

theorem fusedForm_answers {t : VType} {d a b : VReg} {k : KReg}
    {f : Fmt → Nat → Nat → Nat → Nat} :
    Answers (fusedForm q t d a b k f s) :=
  laneForm_answers

theorem unaryForm_answers {lat : Nat} {t : VType} {d a : VReg} {k : KReg} {f : Nat → Nat} :
    Answers (unaryForm q lat t d a k f s) :=
  laneForm_answers

theorem reduceForm_answers {t : VType} {d a : VReg} {k : KReg} {ident : Nat}
    {op : Nat → Nat → Nat} :
    Answers (reduceForm q t d a k ident op s) :=
  laneForm_answers

theorem rawForm_answers {d a b : VReg} {k : KReg} {f : Word64 → Word64 → Word64} :
    Answers (rawForm q d a b k f s) :=
  laneForm_answers

theorem maskForm_answers {d : KReg} {f : State → Word64} {po : State → Bool} :
    Answers (maskForm q d f po s) :=
  laneForm_answers

theorem vloadForm_answers {d : VReg} {k : KReg} {addr : Nat → Word64}
    {po : Nat → List (Bool × FaultInfo)} :
    Answers (vloadForm q lat d k addr po s) :=
  issue_answers

theorem vstoreForm_answers {d : VReg} {k : KReg} {addr : Nat → Word64}
    {po : Nat → List (Bool × FaultInfo)} :
    Answers (vstoreForm q d k addr po s) :=
  issue_answers

theorem sampleForm_answers {greedy : Bool} {d a : VReg} {b : SReg} {k : KReg} {p : PReg} :
    Answers (sampleForm q greedy d a b k p s) :=
  issue_answers

theorem macForm_answers {i : Instr} {f : MFmt} {a b : XReg} {kc : BitVec 6} :
    Answers (macForm q i f a b kc s) :=
  issue_answers

theorem atomForm_answers {o : Order} {sc : Scope} {kind : AccKind} {a b : XReg} :
    Answers (atomForm q o sc kind a b s) :=
  issue_answers

theorem resultForm_answers {i : Instr} {group : Nat} {a b : XReg}
    {checks : State → List (Bool × FaultInfo)} {f : State → State × Word64 × Bool} :
    Answers (resultForm q i group a b checks f s) :=
  issue_answers

theorem handleForm_answers {i : Instr} {group : Nat} {a b : XReg} {mask : Nat}
    {f : Nat → Word64 → State → State × Word64} :
    Answers (handleForm q i group a b mask f s) :=
  issue_answers

theorem commandForm_answers {fn : Nat} {a b : XReg} :
    Answers (commandForm q fn a b s) :=
  issue_answers

theorem pollPreempt_answers {i : Instr} {kind : Option (List Nat) → Bool}
    {done : State → Nat → State} : Answers (s.pollPreempt i kind done) := by
  fun_cases State.pollPreempt <;> exact .next

/-! ### Each instruction and event answers a next state -/

/-- Every instruction is issued, and every event ends each of its branches in a next state. -/
theorem exec_answers {i : Instr} : Answers (exec i s) := by
  cases i <;> dsimp only [exec]
  case add | sub | mul | mulh | mulhu | and | or | xor | andn | shl | shr | sra | rol | min |
    max | minu | maxu =>
    exact regForm_answers
  case div | divu | rem | remu => exact divForm_answers
  case clz | ctz | popc | addi | andi | ori | xori | shli | shri | srai | lea =>
    exact immForm_answers
  case sel | movi | moviLong | lih | srd => exact scalarForm_answers
  case cmp => exact cmpForm_answers
  case cmpiEq | cmpiNe | cmpiLt | cmpiLtu | cmpiGe | cmpiGeu => exact cmpiForm_answers
  case br | brn => exact branchForm_answers
  case pand | por | pxor | pnot | pset => exact predForm_answers
  case vcmp | vredarg | vsel | vkpop | vmov | vbcast | vperm | vshuf | vrot | vscale |
    vscaleApply | vrng =>
    exact laneForm_answers
  case vadd | vsub | vmul | vmin | vmax | vaddSat | vsubSat | vshl | vshr | vsra =>
    exact typedForm_answers
  case vfma | vfms => exact fusedForm_answers
  case vabs | vneg | vrcp | vrsq | vsqrt | vexp2 | vlog2 => exact unaryForm_answers
  case vredsum | vredmax | vredmin => exact reduceForm_answers
  case vand | vor | vxor => exact rawForm_answers
  case vkand | vkor | vknot => exact maskForm_answers
  case vld | vlds | vgath => exact vloadForm_answers
  case vst | vsts | vscat => exact vstoreForm_answers
  case vsamp | vsampGreedy => exact sampleForm_answers
  case mma | mmas | mmai => exact macForm_answers
  case atomAdd | atomSwap | atomAnd | atomOr | atomXor | atomMin | atomMax | atomMaxu =>
    exact atomForm_answers
  case gopen | gstep | gmask | gclose => exact commandForm_answers
  case cfgr | cfgcrc | cfgabort | dmap => exact resultForm_answers
  case cfgcommit | eret | frz => exact handleForm_answers
  case jmp | jal | jr | loop | swr | dpop | vext | vins | vcvt | vpack | vunpk | vmaskld | mzero |
    mldz | mstz | mrdv | mwait | mstat | ld | st | wget | wfree | wres | wput | wavail | wspace |
    tmovIn | tmovOut | twait | ald | ast | acas | stf | sete | fence | sstart | sstop | sbar |
    sstat | qclaim | qput | qstat | mode | sig | trapN | trapS | brk | gqry | cfgw | rtw | sech |
    secv | preq =>
    exact issue_answers
  case ldf => fun_cases execLdf; exact issueLanding_answers
  case fend | resume | land => exact issueLanding_answers
  case resultWriteback | deferredResultArrival | wputReadDone | matrixCommandStart |
    matrixStreamEnd | benRestart | launchCold | launchColdResident | launchResidentRun |
    launchRelease | thermalTrip | powerTrip | cxlLinkDown | powerEnvelopeControl | balanceSample |
    balanceIntervalEnd | admissionWindowStart | candidateStart | arcTolerance | alimExpiry |
    collectiveTolerance | collectiveLimit | powerOff =>
    exact .next
  case preqComplete | pageStall | arcLate => exact pollPreempt_answers
  case firingStart => fun_cases execFiringStart <;> exact .next
  case guardPoison => fun_cases execGuardPoison <;> exact .next
  case windowClosed => fun_cases execWindowClosed <;> exact .next
  case claimRequest => fun_cases execClaimRequest <;> exact .next
  case claimDecide => fun_cases execClaimDecide <;> exact .next
  case claimAnswer => fun_cases execClaimAnswer <;> exact .next
  case queueSlotCommit => fun_cases execQueueSlotCommit <;> exact .next
  case claimCopyRetire => fun_cases execClaimCopyRetire <;> exact .next
  case queueCredit => fun_cases execQueueCredit <;> exact .next
  case queueClose => fun_cases execQueueClose <;> exact .next
  case routerForward => fun_cases execRouterForward <;> exact .next
  case tokenCommit => fun_cases execTokenCommit <;> exact .next
  case creditArrival => fun_cases execCreditArrival <;> exact .next
  case closePacketArrival => fun_cases execClosePacketArrival <;> exact .next
  case commitAck => fun_cases execCommitAck <;> exact .next
  case tmovRetire => fun_cases execTmovRetire <;> exact .next
  case matrixCommandRetire => fun_cases execMatrixCommandRetire <;> exact .next
  case resultAreaWrite => fun_cases execResultAreaWrite <;> exact .next
  case corridorArrival => fun_cases execCorridorArrival <;> exact .next
  case corridorApply => fun_cases execCorridorApply <;> exact .next
  case drainStart => fun_cases execDrainStart <;> exact .next
  case streamToken => fun_cases execStreamToken <;> exact .next
  case orderedAccessPerform => fun_cases execOrderedAccessPerform <;> exact .next
  case walkResult => fun_cases execWalkResult <;> exact .next
  case rewalk => fun_cases execRewalk <;> exact .next
  case flimExpiry => fun_cases execFlimExpiry <;> exact .next
  case invalidatePage => fun_cases execInvalidatePage <;> exact .next
  case invalidateRegion => fun_cases execInvalidateRegion <;> exact .next
  case invalidateAsn => fun_cases execInvalidateAsn <;> exact .next
  case invalidateAll => fun_cases execInvalidateAll <;> exact .next
  case preemptFlagSet => fun_cases execPreemptFlagSet <;> exact .next
  case hallWriteOut => fun_cases execHallWriteOut <;> exact .next
  case freezeArrival => fun_cases execFreezeArrival <;> exact .next
  case stopFlagArrival => fun_cases execStopFlagArrival <;> exact .next
  case hang => fun_cases execHang <;> exact .next
  case moveEntriesValid => fun_cases execMoveEntriesValid <;> exact .next
  case grammarCommandPerform => fun_cases execGrammarCommandPerform <;> exact .next
  case doorbellWrite => fun_cases execDoorbellWrite <;> exact .next
  case msixUnmask => fun_cases execMsixUnmask <;> exact .next
  case placingOutcome => fun_cases execPlacingOutcome <;> exact .next
  case bar2Write => fun_cases execBar2Write <;> exact .next
  case bar2Read => fun_cases execBar2Read <;> exact .next
  case registerWrite => fun_cases execRegisterWrite <;> exact .next
  case voltageReplan => fun_cases execVoltageReplan <;> exact .next
  case selfTestDone => fun_cases execSelfTestDone <;> exact .next
  case cxlTimeout => fun_cases execCxlTimeout <;> exact .next
  case linkFlitReceive => fun_cases execLinkFlitReceive <;> exact .next
  case linkRetry => fun_cases execLinkRetry <;> exact .next
  case linkRetrainDone => fun_cases execLinkRetrainDone <;> exact .next
  case accessReachesBank => fun_cases execAccessReachesBank <;> exact .next
  case sramError => fun_cases execSramError <;> exact .next
  case loadStopped => fun_cases execLoadStopped <;> exact .next
  case loadComplete => fun_cases execLoadComplete <;> exact .next
  case drainTargetSet => fun_cases execDrainTargetSet <;> exact .next
  case quiescentPoint => fun_cases execQuiescentPoint <;> exact .next
  case nextLoadStart => fun_cases execNextLoadStart <;> exact .next
  case completionWord => fun_cases execCompletionWord <;> exact .next
  case invalidationComplete => fun_cases execInvalidationComplete <;> exact .next
  case stageRetire => fun_cases execStageRetire <;> exact .next
  case outputQueueClose => fun_cases execOutputQueueClose <;> exact .next
  case moveBoundary => fun_cases execMoveBoundary <;> exact .next
  case collectiveRound => fun_cases execCollectiveRound <;> exact .next
  case healthRead => fun_cases execHealthRead <;> exact .next
  case enterSafeState => fun_cases execEnterSafeState <;> exact .next
  case powerOn => fun_cases execPowerOn <;> exact .next

/-! ### The step -/

theorem State.attempt_answers {c x : Nat} : Answers (s.attempt c x) := by
  unfold State.attempt
  extract_lets
  split
  · split <;> exact .next
  · exact exec_answers

theorem State.issueSlot_answers {c : Nat} : Answers (s.issueSlot c) := by
  unfold State.issueSlot
  extract_lets
  split
  · exact State.attempt_answers
  · exact .next

theorem State.fireSlot_answers {c : Nat} {rest : List Slot} : Answers (s.fireSlot c rest) := by
  fun_cases State.fireSlot
  case case1 => exact .next
  all_goals exact exec_answers

theorem State.nextSlot_answers : Answers s.nextSlot := by
  fun_cases State.nextSlot
  case case1 => exact .next
  case case2 => exact State.fireSlot_answers
  case case3 => exact State.issueSlot_answers
  case case4 => exact .next

/-- An event answers a next state unless it is none: ill-formed, or an instruction. -/
theorem State.runEvent_cases {i : Instr} : Answers (s.runEvent i) ∨
    ¬(i.encoded = false ∧ i.wf = true) ∧ s.runEvent i = .fault .illFormedEvent := by
  fun_cases State.runEvent
  case case1 h => exact .inr ⟨fun ⟨he, hw⟩ => by simp [he, hw] at h, rfl⟩
  case case2 => exact .inl .next
  case case3 => exact .inl exec_answers

/-- The one step that answers no next state is that of an agenda whose first event is none. -/
theorem step_cases : Answers (step s) ∨ ¬AgendaOk s ∧ step s = .fault .illFormedEvent := by
  unfold step
  fun_cases State.advanceMachine
  case case1 => exact .inl exec_answers
  case case2 d i rest ha _ =>
    refine State.runEvent_cases.imp_right fun ⟨hi, hf⟩ => ⟨fun ok => hi (ok (d, i) ?_), hf⟩
    exact ha ▸ List.mem_cons_self
  case case3 => exact .inl State.nextSlot_answers
  case case4 => exact .inl State.nextSlot_answers

/-- Settles O56: every instruction and event answers a next state, so that only an event which the
agenda may not hold stops a step. -/
theorem stepsAnswerANextState : Obligations.StepsAnswerANextState := by
  intro s
  obtain ⟨t, h⟩ | ⟨hbad, h⟩ := step_cases (s := s)
  · exact ⟨fun r => by rw [h]; nofun, fun _ => ⟨t, h⟩⟩
  · exact ⟨fun r => by rw [h]; nofun, fun ok => absurd ok hbad⟩

end Sys2Proof.Machine


namespace Sys2Proof.Machine

variable {s : State} {q : Issue}

/-! ### SRD (R126 to R131) -/

@[simp] theorem Core.setCtx_load (k : Core) (x : Nat) (t : Ctx) : (k.setCtx x t).load = k.load := by
  rw [Core.setCtx_units]

/-- Counting an issue leaves the load of the executing core, and with it MDE. -/
@[simp] theorem State.countIssue_modeOf (s : State) :
    s.countIssue.modeOf s.curCore = s.modeOf s.curCore := by
  have hload : (s.countIssue.core s.curCore).load = (s.core s.curCore).load := by
    change (s.setCur _).curK.load = s.curK.load
    rw [State.curK_setCur, Core.setCtx_load]
  rw [State.modeOf, State.modeOf, hload]
  rfl

/-- Of the special registers the count of an issue moves LDIST alone (R76, R129). -/
theorem State.countIssue_special (s : State) (r : SpecReg) : s.countIssue.special r =
    if r = .ldist then (s.cur.ldist + 1).setWidth 64 else s.special r := by
  cases r
  case mde => exact congrArg (BitVec.setWidth 64) s.countIssue_modeOf
  case ctx | core | cyc => rfl
  all_goals simp only [State.special, State.countIssue_cur, reduceCtorEq, if_true, if_false]

theorem srd_completes (h : s.issues) (d : XReg) (r : SpecReg) : exec (.srd q d r) s =
    .next (s.wroteX q 2 d (if r = .ldist then (s.cur.ldist + 1).setWidth 64 else s.special r) false) :=
  scalarForm_completes h (s.countIssue_special r) rfl

/-! ### SWR (R126, R132, R134) -/

/-- A check on LMAX alone does not fault where LMAX passes it. -/
theorem lmaxCheck_eq_false {r : SpecReg} {b : Bool} (h : r = .lmax → b = false) :
    (r == .lmax && b) = false := by
  by_cases hr : r = .lmax
  · rw [h hr, Bool.and_false]
  · rw [beq_eq_false_iff_ne.2 hr, Bool.false_and]

/-- Only LMAX asks for a system hall (log 64). -/
theorem lmaxHall_eq_false {r : SpecReg} (h : r = .lmax → isSystemCore s.curCore = true) :
    (r == .lmax && !isSystemCore s.curCore) = false :=
  lmaxCheck_eq_false fun hr => by rw [h hr, Bool.not_true]

theorem bits_low_half (w : Word64) : bits w 0 16 = w.toNat % 2 ^ 16 := by
  rw [bits, pow_zero, Nat.div_one]

theorem swr_writes (h : s.issues) {r : SpecReg} {b : XReg} (hw : r.writable = true)
    (hsys : r = .lmax → isSystemCore s.curCore = true) (hp : (s.x b).po = false)
    (hv : r = .lmax → 256 ≤ (s.x b).v.toNat % 2 ^ 16) : exec (.swr q r b) s =
      .next (s.complete q 1 none fun u => u.setCur (u.cur.writeSpecial r (s.x b).v)) := by
  have hbound : (r == .lmax && decide (bits (s.x b).v 0 16 < 256)) = false :=
    lmaxCheck_eq_false fun hr => decide_eq_false (Nat.not_lt.2 ((hv hr).trans_eq (bits_low_half _).symm))
  dsimp only [exec, execSwr]
  rw [hw, lmaxHall_eq_false hsys, hp, hbound]
  refine (issue_completes h).trans (congrArg _ (State.complete_congr ?_))
  simp only [State.countIssue_x]

theorem swr_poisoned (h : s.running = true) {r : SpecReg} {b : XReg} (hw : r.writable = true)
    (hsys : r = .lmax → isSystemCore s.curCore = true) (hp : (s.x b).po = true) :
    exec (.swr q r b) s = .next (s.takeFault (poisonX b)) := by
  dsimp only [exec, execSwr]
  rw [hw, lmaxHall_eq_false hsys, hp]
  exact issue_faults h

theorem swr_lmax_outside_system_hall (h : s.running = true) (b : XReg)
    (hsys : isSystemCore s.curCore = false) :
    exec (.swr q .lmax b) s = .next (s.takeFault privFault) := by
  dsimp only [exec, execSwr]
  rw [hsys]
  exact issue_faults h

theorem swr_lmax_below_bound (h : s.running = true) {b : XReg} (hsys : isSystemCore s.curCore = true)
    (hp : (s.x b).po = false) (hv : (s.x b).v.toNat % 2 ^ 16 < 256) :
    exec (.swr q .lmax b) s = .next (s.takeFault (scalarRange 5 (s.x b).v)) := by
  dsimp only [exec, execSwr]
  rw [hsys, hp, bits_low_half, decide_eq_true hv]
  exact issue_faults h

/-- Settles O6: SRD over its registers; SWR by its mark, and LMAX by the hall kind and its bound. -/
theorem specialRegistersReadAndWrite : Obligations.SpecialRegistersReadAndWrite := by
  intro s q d b h
  refine ⟨fun r => (srd_completes h d r).trans ?read, fun hp => ⟨swr_writes h rfl nofun hp nofun,
      swr_writes h rfl nofun hp nofun, swr_writes h rfl nofun hp nofun,
      fun hsys hv => swr_writes h rfl (fun _ => hsys) hp fun _ => hv,
      fun hsys hv => swr_lmax_below_bound h.1 hsys hp hv⟩,
    swr_lmax_outside_system_hall h.1 b,
    fun hp => ⟨swr_poisoned h.1 rfl nofun hp, swr_poisoned h.1 rfl nofun hp,
      swr_poisoned h.1 rfl nofun hp, fun hsys => swr_poisoned h.1 rfl (fun _ => hsys) hp⟩⟩
  case read => cases r <;> rfl

end Sys2Proof.Machine


namespace Sys2Proof.Machine

variable {s : State} {q : Issue}

/-! ### Untyped forms and lane moves (R142, R144, R145) -/

theorem rawForm_completes (h : s.issues) {d a b : VReg} {k : KReg} {f : Word64 → Word64 → Word64} :
    rawForm q d a b k f s = .next (s.wrote q 1 2 (s.laneWrites d k fun l =>
      ⟨f (s.lane a l).v (s.lane b l).v, (s.lane a l).po || (s.lane b l).po⟩)) :=
  laneForm_completes h (by simp only [State.countIssue_laneWrites, State.countIssue_lane])

theorem lane_ite (c : Prop) [Decidable c] (a b : VReg) (l : Nat) :
    s.lane (if c then a else b) l = if c then s.lane a l else s.lane b l :=
  apply_ite (s.lane · l) c a b

/-- VEXT and VINS take a lane number from 0 to 31 (R144). -/
theorem laneNumber_outside (n : Nat) : decide (31 < n) = true ↔ 32 ≤ n := decide_eq_true_iff

theorem vext_answers (h : s.issues) (x : SReg) (a : VReg) (y : SReg) :
    let n := (s.x (scalarOf y)).v
    exec (.vext q x a y) s = if 32 ≤ n.toNat then .next (s.takeFault (laneRange 17 0 n))
      else .next (s.wrote q 1 2 [(xKey (scalarOf x),
        ⟨(s.lane a n.toNat).v, (s.lane a n.toNat).po || (s.x (scalarOf y)).po⟩)]) :=
  issue_writes_unless h (laneNumber_outside _)
    (by simp only [State.countIssue_lane, State.countIssue_x])

theorem vins_answers (h : s.issues) (d : VReg) (x y : SReg) :
    let n := (s.x (scalarOf y)).v
    let po := (s.x (scalarOf y)).po
    exec (.vins q d x y) s = if 32 ≤ n.toNat then .next (s.takeFault (laneRange 17 0 n))
      else .next (s.wrote q 1 2 ((laneKey d n.toNat,
        pv32 (s.x (scalarOf x)).v.toNat ((s.x (scalarOf x)).po || po)) ::
        if po then lanes.map fun l => (1000 + laneKey d l, ⟨0, true⟩) else [])) :=
  issue_writes_unless h (laneNumber_outside _) (by simp only [State.countIssue_x])

/-- Settles O9: the lane forms write what they read before the issue; VEXT and VINS by the bound of
their lane number. -/
theorem laneMovesWriteLanes : Obligations.LaneMovesWriteLanes := by
  intro s q d a b x y k h raw vx vy
  refine ⟨rawForm_completes h, rawForm_completes h, rawForm_completes h, laneForm_completes h ?vsel,
    laneForm_completes h ?vmov, laneForm_completes h ?vbcast, laneForm_completes h ?vperm,
    laneForm_completes h ?vshuf, laneForm_completes h ?vrot,
    fun hn => ⟨(vext_answers h x a y).trans (if_neg (Nat.not_le.2 hn)),
      (vins_answers h d x y).trans (if_neg (Nat.not_le.2 hn))⟩,
    fun hn => ⟨(vext_answers h x a y).trans (if_pos hn), (vins_answers h d x y).trans (if_pos hn)⟩⟩
  case vsel => simp only [State.countIssue_active, State.countIssue_lane, State.countIssue_k]
  case vmov | vperm =>
    simp only [State.countIssue_laneWrites, State.countIssue_lane, State.countIssue_laneN]
  case vbcast | vrot =>
    simp only [State.countIssue_laneWrites, State.countIssue_lane, State.countIssue_x, scalarOf, vx, vy]
  case vshuf =>
    simp only [State.countIssue_laneWrites, State.countIssue_lane, State.countIssue_laneN, lane_ite]

/-! ### Random numbers and sampling (R154, R156 to R160) -/

@[simp] theorem State.countIssue_genAt (s : State) : s.countIssue.genAt = s.genAt := by
  funext i w
  simp only [State.genAt, State.countIssue_cur]

@[simp] theorem State.countIssue_sample (s : State) (greedy : Bool) (a : VReg) (base t : Nat)
    (ls : List Nat) (first : Nat × Nat) :
    s.countIssue.sample greedy a base t ls first = s.sample greedy a base t ls first := by
  simp only [State.sample, State.score, State.countIssue_genAt, State.countIssue_laneN]

@[simp] theorem State.countIssue_incoming (s : State) (d : VReg) :
    s.countIssue.incoming d = s.incoming d := by
  simp only [State.incoming, State.countIssue_laneN]

theorem bits_from_zero (w : Word64) (n : Nat) : bits w 0 n = w.toNat % 2 ^ n := by
  rw [bits, pow_zero, Nat.div_one]

theorem bits_high_word (w : Word64) : bits w 32 32 = w.toNat / 2 ^ 32 :=
  Nat.mod_eq_of_lt (Nat.div_lt_of_lt_mul w.isLt)

section Sampling

variable {greedy : Bool} {d a : VReg} {x : SReg} {k : KReg} {p : PReg}

theorem sampleForm_faults (h : s.running = true)
    (hbase : 0xFFFFFFDF < (s.x (scalarOf x)).v.toNat % 2 ^ 32) :
    sampleForm q greedy d a x k p s =
      .next (s.takeFault (laneRange 18 0 (s.x (scalarOf x)).v)) := by
  have hfault : decide (0xFFFFFFDF < bits (s.x (scalarOf x)).v 0 32) = true :=
    decide_eq_true ((bits_from_zero ..).symm ▸ hbase)
  rw [sampleForm, hfault]
  exact issue_faults h

theorem sampleForm_completes (h : s.issues)
    (hbase : (s.x (scalarOf x)).v.toNat % 2 ^ 32 ≤ 0xFFFFFFDF) :
    let base := (s.x (scalarOf x)).v.toNat % 2 ^ 32
    let r := s.sample greedy a base ((s.x (scalarOf x)).v.toNat / 2 ^ 32) (s.activeLanes k)
      (s.incoming d)
    let po := (s.lane d 0).po || (s.lane d 1).po || s.activePoison a k || (s.x (scalarOf x)).po
    let empty := r.1.2 == 0xFFFFFFFF
    sampleForm q greedy d a x k p s = .next (s.complete q 1 none fun u =>
      (u.sampleEvents (empty && p != 0) r.2 base).writeRegs 14
        ([(laneKey d 0, pv32 (if empty then 0xFF800000 else r.1.1) po),
          (laneKey d 1, pv32 r.1.2 po)] ++
          if p = 0 then [] else [(pKey p, ⟨if empty then 1 else 0, po⟩)])) := by
  have hclear : decide (0xFFFFFFDF < bits (s.x (scalarOf x)).v 0 32) = false :=
    decide_eq_false (Nat.not_lt.2 ((bits_from_zero ..).symm ▸ hbase))
  rw [sampleForm, hclear]
  refine (issue_completes h).trans (congrArg _ (State.complete_congr ?_))
  simp only [State.countIssue_sample, State.countIssue_activeLanes, State.countIssue_incoming,
    State.countIssue_lane, State.countIssue_activePoison, State.countIssue_x, bits_from_zero,
    bits_high_word]

end Sampling

/-- Settles O12: VRNG is a lane form; a sampling completes or faults by the bound of its base. -/
theorem samplingWritesThePair : Obligations.SamplingWritesThePair := by
  intro s q d a x k p h
  refine ⟨laneForm_completes h ?vrng,
    fun hb => ⟨sampleForm_completes h hb, sampleForm_completes h hb⟩,
    fun hb => ⟨sampleForm_faults h.1 hb, sampleForm_faults h.1 hb⟩⟩
  case vrng =>
    simp only [State.countIssue_laneWrites, State.countIssue_lane, State.countIssue_genAt]
    rfl

end Sys2Proof.Machine


namespace Sys2Proof.Machine

variable {s : State} {q : Issue} {ls : List Nat} {addr : Nat → Word64} {write : Bool}
  {po : Nat → List (Bool × FaultInfo)}

/-! ### The checks of the lanes, in ascending order (R152) -/

theorem firstFault_append (l m : List (Bool × FaultInfo)) :
    firstFault (l ++ m) = (firstFault l).or (firstFault m) := by
  induction l with
  | nil => rfl
  | cons e l ih =>
    obtain ⟨b, f⟩ := e
    cases b with
    | true => rfl
    | false => exact ih

/-- The first fault of lanes checked one after another is that of the first lane that has one. -/
theorem firstFault_flatMap (ls : List Nat) (checks : Nat → List (Bool × FaultInfo)) :
    firstFault (ls.flatMap checks) = ls.findSome? fun l => firstFault (checks l) := by
  induction ls with
  | nil => rfl
  | cons l ls ih =>
    rw [List.flatMap_cons, firstFault_append, ih, List.findSome?_cons]
    cases firstFault (checks l) <;> rfl

/-- R152: the base's mark, the other component's mark, the alignment and the range, in this order. -/
theorem firstFault_laneChecks (l : Nat) (b : Bool) (f : FaultInfo) (second : Bool × FaultInfo)
    (a : Word64) : firstFault (laneChecks l [(b, f), second] a) =
      if b then some f
      else if second.1 then some second.2
      else if a.toNat % 4 ≠ 0 then some (laneRange 0 l a)
      else if 0x1FFFC < a.toNat then some (laneRange 16 l a) else none := by
  simp only [laneChecks, List.cons_append, List.nil_append, firstFault, bne_iff_ne,
    decide_eq_true_eq]

theorem activeLanes_ascend (s : State) (k : KReg) : (s.activeLanes k).Pairwise (· < ·) := by
  refine List.Pairwise.filter _ ?_
  rw [lanes, steps_eq_range']
  exact List.pairwise_lt_range'

/-- In an ascending list the least number with a value gives the first one. -/
theorem findSome?_of_least {α : Type} {g : Nat → Option α} {j : Nat} {v : α}
    (hs : ls.Pairwise (· < ·)) (hj : j ∈ ls) (hv : g j = some v)
    (hlt : ∀ l ∈ ls, l < j → g l = none) : ls.findSome? g = some v := by
  obtain ⟨before, after, rfl⟩ := List.append_of_mem hj
  have hbefore := (List.pairwise_append.1 hs).2.2
  exact List.findSome?_eq_some_iff.2 ⟨before, j, after, rfl, hv, fun l hl =>
    hlt l (List.mem_append_left _ hl) (hbefore l hl j List.mem_cons_self)⟩

theorem addrHeld_eq_false {c : Core} {a : Word64}
    (h : a.toNat ≤ 0x1FFFC → c.rangeHeld a.toNat 4 write = false) :
    c.addrHeld a 4 write = false := by
  unfold Core.addrHeld
  by_cases ha : a.toNat ≤ 0x1FFFC
  · rw [h ha, Bool.and_false]
  · rw [decide_eq_false (show ¬ a.toNat + 4 ≤ 2 ^ 17 by omega), Bool.and_false, Bool.false_and]

theorem lanesHeld_eq_false (hm : s.memHeld = false)
    (h : ∀ l ∈ ls, (addr l).toNat ≤ 0x1FFFC → s.curK.rangeHeld (addr l).toNat 4 write = false) :
    lanesHeld ls addr write s = false := by
  rw [lanesHeld, hm, Bool.false_or, List.any_eq_false]
  exact fun l hl => Bool.not_eq_true _ ▸ addrHeld_eq_false (h l hl)

/-- An access to lanes that nothing holds meets a first fault, or none (R61, R152). -/
structure LanesMeet (s : State) (ls : List Nat) (addr : Nat → Word64) (write : Bool)
    (po : Nat → List (Bool × FaultInfo)) (o : Option FaultInfo) : Prop where
  free : lanesHeld ls addr write s = false
  first : firstFault (ls.flatMap fun l => laneChecks l (po l) (addr l)) = o

section Meet

variable {b : Bool} {f : Nat → FaultInfo} {second : Nat → Bool × FaultInfo}

theorem LanesMeet.clear (h : s.memHeld = false ∧ ∀ l ∈ ls, (b || (second l).1) = false ∧
      (addr l).toNat % 4 = 0 ∧ (addr l).toNat ≤ 0x1FFFC ∧
      s.curK.rangeHeld (addr l).toNat 4 write = false) :
    LanesMeet s ls addr write (fun l => [(b, f l), second l]) none := by
  obtain ⟨hm, hl⟩ := h
  refine ⟨lanesHeld_eq_false hm fun l h _ => (hl l h).2.2.2, ?_⟩
  rw [firstFault_flatMap, List.findSome?_eq_none_iff]
  intro l h
  obtain ⟨hpo, halign, hrange, -⟩ := hl l h
  obtain ⟨hb, hsecond⟩ := Bool.or_eq_false_iff.1 hpo
  rw [firstFault_laneChecks, if_neg (by simp [hb]), if_neg (by simp [hsecond]),
    if_neg (not_not_intro halign), if_neg (Nat.not_lt.2 hrange)]

theorem LanesMeet.fails (hs : ls.Pairwise (· < ·)) {failure : Nat → Option FaultInfo}
    (hfailure : ∀ l, firstFault (laneChecks l (po l) (addr l)) = failure l) {j : Nat}
    {v : FaultInfo}
    (h : s.memHeld = false ∧ j ∈ ls ∧ failure j = some v ∧
      (∀ l ∈ ls, l < j → failure l = none) ∧
      ∀ l ∈ ls, (addr l).toNat ≤ 0x1FFFC → s.curK.rangeHeld (addr l).toNat 4 write = false) :
    LanesMeet s ls addr write po (some v) := by
  obtain ⟨hm, hj, hv, hlt, hfree⟩ := h
  refine ⟨lanesHeld_eq_false hm hfree, ?_⟩
  simp only [firstFault_flatMap, hfailure]
  exact findSome?_of_least hs hj hv hlt

end Meet

/-! ### Vector loads and stores (R151, R153, R155) -/

section Accesses

variable {lat : Nat} {d : VReg} {m k : KReg} {x y : SReg} {f : FaultInfo}

/-- A word of the tile store of the executing core, with its mark. -/
def State.tileWord (s : State) (a : Word64) : PVal :=
  pv32 (s.load (tileKey s.curCore a.toNat) 4) (s.poisoned (tileKey s.curCore a.toNat) 4)

theorem vloadForm_completes (h : s.issues)
    (hl : LanesMeet s (s.activeLanes k) addr false po none) : vloadForm q lat d k addr po s =
      .next (s.wrote q 1 lat (s.laneWrites d k fun l => s.tileWord (addr l))) := by
  rw [vloadForm, hl.free, hl.first]
  refine issue_writes h ?_
  rw [State.countIssue_laneWrites]
  rfl

theorem vloadForm_faults (h : s.running = true)
    (hl : LanesMeet s (s.activeLanes k) addr false po (some f)) :
    vloadForm q lat d k addr po s = .next (s.takeFault f) := by
  rw [vloadForm, hl.free, hl.first]
  exact issue_faults h

theorem vstoreForm_completes (h : s.issues)
    (hl : LanesMeet s (s.activeLanes k) addr true po none) : vstoreForm q d k addr po s =
      .next (s.complete q 1 none fun u => u.storeLanes
        ((s.activeLanes k).map fun l => (tileKey s.curCore (addr l).toNat, s.lane d l))) := by
  rw [vstoreForm, hl.free, hl.first]
  refine (issue_completes h).trans (congrArg _ (State.complete_congr ?_))
  rw [State.countIssue_lane]
  rfl

theorem vstoreForm_faults (h : s.running = true)
    (hl : LanesMeet s (s.activeLanes k) addr true po (some f)) :
    vstoreForm q d k addr po s = .next (s.takeFault f) := by
  rw [vstoreForm, hl.free, hl.first]
  exact issue_faults h

theorem execVmaskld_completes (h : s.issues)
    (hl : LanesMeet s [0] (fun _ => s.maskAddr x y) false (s.pairPoison x y) none) :
    execVmaskld q m x y s =
      .next (s.wrote q 1 5 [(kKey m, s.tileWord (s.maskAddr x y))]) := by
  have hfirst := hl.first
  rw [List.flatMap_singleton] at hfirst
  rw [execVmaskld, hl.free, hfirst]
  exact issue_writes h rfl

theorem execVmaskld_faults (h : s.running = true)
    (hl : LanesMeet s [0] (fun _ => s.maskAddr x y) false (s.pairPoison x y) (some f)) :
    execVmaskld q m x y s = .next (s.takeFault f) := by
  have hfirst := hl.first
  rw [List.flatMap_singleton] at hfirst
  rw [execVmaskld, hl.free, hfirst]
  exact issue_faults h

end Accesses

/-- Settles O11: an access to clear lanes completes, and any other takes the fault of the least lane
that fails. -/
theorem vectorMemoryAccessesTileStore : Obligations.VectorMemoryAccessesTileStore := by
  intro s q d b x y k m j f h clear word ls row stride gather xy xb mask failure fails secondX secondV
    loads stores
  have hs := activeLanes_ascend s k
  have checks := fun (addr : Nat → Word64) (second : Nat → Bool × FaultInfo) (l : Nat) =>
    firstFault_laneChecks l (s.x (0#1 ++ x)).po (poisonLane 0 x.toNat l) (second l) (addr l)
  exact ⟨fun hc => vloadForm_completes h (.clear (second := secondX) hc),
    fun hc => vloadForm_completes h (.clear (second := secondX) hc),
    fun hc => vloadForm_completes h (.clear (second := secondV) hc),
    fun hc => vstoreForm_completes h (.clear (second := secondX) hc),
    fun hc => vstoreForm_completes h (.clear (second := secondX) hc),
    fun hc => vstoreForm_completes h (.clear (second := secondV) hc),
    fun hc => execVmaskld_completes h (.clear (second := secondX) hc),
    fun hf => vloadForm_faults h.1 (.fails hs (checks row secondX) hf),
    fun hf => vloadForm_faults h.1 (.fails hs (checks stride secondX) hf),
    fun hf => vloadForm_faults h.1 (.fails hs (checks gather secondV) hf),
    fun hf => vstoreForm_faults h.1 (.fails hs (checks row secondX) hf),
    fun hf => vstoreForm_faults h.1 (.fails hs (checks stride secondX) hf),
    fun hf => vstoreForm_faults h.1 (.fails hs (checks gather secondV) hf),
    fun hf => execVmaskld_faults h.1 (.fails (List.pairwise_singleton ..)
      (checks (fun _ => mask) secondX) hf)⟩

end Sys2Proof.Machine


namespace Sys2Proof.Machine

variable {s t : State}

/-! ### The frame of the tile-store stores (R151, R182) -/

/-- A state but for the bytes of memory and the marks that a store moves with them (R51, R407). -/
def State.apartFromStores (s : State) : State :=
  { s with mem := [], poison := [], dirty := [], saved := [] }

theorem State.store_apart (s : State) (key : Nat) (d : List Byte) :
    (s.store key d).apartFromStores = s.apartFromStores :=
  storeMarked_keeps State.apartFromStores (fun _ _ _ _ _ => rfl) s key d []

theorem State.storeVal_apart (s : State) (key n : Nat) (v : Word64) (po : Bool) :
    (s.storeVal key n v po).apartFromStores = s.apartFromStores :=
  s.store_apart key _

theorem State.storeLanes_apart (s : State) (ws : List (Nat × PVal)) :
    (s.storeLanes ws).apartFromStores = s.apartFromStores :=
  foldl_keeps State.apartFromStores (fun s _ => s.store_apart _ _) ws s

/-- Words stored in lanes change no byte outside them. -/
theorem State.storeLanes_memByte {ws : List (Nat × PVal)} {key : Nat}
    (h : ∀ w ∈ ws, key < w.1 ∨ w.1 + 4 ≤ key) :
    memByte (s.storeLanes ws).mem key = memByte s.mem key := by
  refine List.foldlRecOn (motive := fun u : State => memByte u.mem key = memByte s.mem key)
    ws _ rfl fun u hu w hw => ?_
  rw [State.store_mem, memByte_setBytes_outside _ _ _ (by rw [natToBytes_length]; exact h w hw), hu]

/-- What an issue whose effect only stores leaves of everything but memory. -/
theorem advance_apart {u : State} (q : Issue) (hu : u.apartFromStores = s.countIssue.apartFromStores) :
    (u.advance q 1 none).apartFromStores = (s.countIssue.advance q 1 none).apartFromStores :=
  congrArg (fun v => (v.advance q 1 none).apartFromStores) hu

theorem countIssue_advance_cur (s : State) (q : Issue) :
    (s.countIssue.advance q 1 none).cur = s.cur.movedTo (s.countIssue.advance q 1 none).cur := by
  obtain ⟨pc, wild, prev, ready, loops, hstep⟩ :=
    Ctx.stepPc_moved s.countIssue.cur q 1 none s.countIssue.cycle
  rw [State.advance_cur, hstep, State.countIssue_cur]
  rfl

/-- What an instruction that stores at the keys of a set leaves as it was: every other byte, every
register, every other context and core, the configuration words, the loads and the agenda. -/
def KeptBut (stored : Nat → Prop) (s t : State) : Prop :=
  (∀ key, ¬ stored key → memByte t.mem key = memByte s.mem key) ∧
  t.cur = s.cur.movedTo t.cur ∧ CoreKept s t ∧ (∀ c, c ≠ s.curCore → t.core c = s.core c) ∧
  t.cfg = s.cfg ∧ t.loads = s.loads ∧ t.agenda = s.agenda

/-- An issue that is held, or whose effect only stores, keeps all but the stored bytes. -/
theorem issue_keeps_but_stores {q : Issue} {hold : Bool} {flt : Option FaultInfo}
    {eff : State → State} {stored : Nat → Prop}
    (heff : ∀ u, (eff u).apartFromStores = u.apartFromStores)
    (hmem : ∀ key, ¬ stored key → memByte (eff s.countIssue).mem key = memByte s.mem key)
    (hexec : issue q 1 hold flt none eff s = .next t) (hrun : t.cur.run = s.cur.run)
    (hhalt : t.cur.halted = s.cur.halted) :
    KeptBut stored s t := by
  rcases issue_cases hexec with
    ⟨rfl, -⟩ | ⟨hr, -, ⟨f, -, rfl⟩ | ⟨-, -, rfl⟩ | ⟨-, -, rfl⟩⟩
  · exact ⟨fun _ _ => rfl, rfl, ⟨rfl, fun _ _ _ => rfl⟩, fun _ _ => rfl, rfl, rfl, rfl⟩
  · exact absurd hhalt (State.takeFault_stopped hr f hrun)
  · exact absurd hhalt (State.takeFault_stopped hr _ hrun)
  · have hapart := advance_apart q (heff s.countIssue)
    have hcur : (s.complete q 1 none eff).cur = (s.countIssue.advance q 1 none).cur :=
      (congrArg State.cur hapart :)
    have hcurK : (s.complete q 1 none eff).curK = (s.countIssue.advance q 1 none).curK :=
      (congrArg State.curK hapart :)
    have hcore : ∀ c, (s.complete q 1 none eff).core c = (s.countIssue.advance q 1 none).core c :=
      fun c => (congrArg (State.core · c) hapart :)
    obtain ⟨⟨-, hothers, -⟩, ⟨hunits, hcontexts⟩, -, -⟩ :=
      advance_registersOnly q 1 none (writesOnly_id [] s)
    refine ⟨hmem, ?_, ⟨?_, fun x hx hne => ?_⟩, fun c hc => ?_, ?_, ?_, ?_⟩
    · rw [hcur]
      exact countIssue_advance_cur s q
    · rw [hcurK]
      exact hunits
    · rw [State.ctx, hcore]
      exact hcontexts x hx hne
    · rw [hcore]
      exact hothers c hc
    · exact (congrArg State.cfg hapart :)
    · exact (congrArg State.loads hapart :)
    · exact (congrArg State.agenda hapart :)

/-- A vector store keeps all but the words at its lanes' addresses. -/
theorem vstoreForm_keeps_but_stores {q : Issue} {d : VReg} {k : KReg} {addr : Nat → Word64}
    {po : Nat → List (Bool × FaultInfo)} (hexec : vstoreForm q d k addr po s = .next t)
    (hrun : t.cur.run = s.cur.run) (hhalt : t.cur.halted = s.cur.halted) :
    KeptBut (fun key => ∃ l ∈ s.activeLanes k, tileKey s.curCore (addr l).toNat ≤ key ∧
      key < tileKey s.curCore (addr l).toNat + 4) s t := by
  refine issue_keeps_but_stores (fun u => u.storeLanes_apart _) (fun key hkey => ?_) hexec hrun hhalt
  refine State.storeLanes_memByte fun w hw => ?_
  obtain ⟨l, hl, rfl⟩ := List.mem_map.1 hw
  have hout := fun hle hlt => hkey ⟨l, hl, hle, hlt⟩
  exact (Nat.lt_or_ge key _).imp_right fun hle => Nat.not_lt.1 (hout hle)

/-- Settles O58: ST stores one value and the vector stores a word a lane, and neither touches more. -/
theorem storesKeepTheRest : Obligations.StoresKeepTheRest := by
  intro s t q wd d a o vd vb x y k i stored lane scalar hi hexec hrun hhalt
  rcases hi with ⟨rfl, rfl⟩ | ⟨rfl, rfl⟩ | ⟨rfl, rfl⟩ | ⟨rfl, rfl⟩
  · refine issue_keeps_but_stores (fun u => u.storeVal_apart _ _ _ _) (fun key hkey => ?_) hexec hrun
      hhalt
    rw [State.storeVal_mem]
    refine memByte_setBytes_outside _ _ _ ?_
    rw [natToBytes_length]
    exact (Nat.lt_or_ge key _).imp_right fun hle => Nat.not_lt.1 fun hlt => hkey ⟨hle, hlt⟩
  · exact vstoreForm_keeps_but_stores hexec hrun hhalt
  · exact vstoreForm_keeps_but_stores hexec hrun hhalt
  · exact vstoreForm_keeps_but_stores hexec hrun hhalt

end Sys2Proof.Machine

namespace Sys2Proof.Machine

variable {s : State}

/-! ### What a core's units keep, and the errors of a bank that a read meets (R162, R179) -/

@[simp] theorem Core.setCtx_zTag (k : Core) (x : Nat) (t : Ctx) (z : Bool) :
    (k.setCtx x t).zTag z = k.zTag z := by
  rw [Core.setCtx_units]
  rfl

@[simp] theorem Core.setCtx_zPoison (k : Core) (x : Nat) (t : Ctx) (z : Bool) :
    (k.setCtx x t).zPoison z = k.zPoison z := by
  rw [Core.setCtx_units]
  rfl

@[simp] theorem Core.setCtx_zErr (k : Core) (x : Nat) (t : Ctx) (z : Bool) :
    (k.setCtx x t).zErr z = k.zErr z := by
  rw [Core.setCtx_units]
  rfl

@[simp] theorem Core.setCtx_zAt (k : Core) (x : Nat) (t : Ctx) (z : Bool) (i j : Nat) :
    (k.setCtx x t).zAt z i j = k.zAt z i j := by
  rw [Core.setCtx_units]
  rfl

/-- Counting an issue leaves the banks of the executing core (R76). -/
@[simp] theorem State.countIssue_zTag (s : State) (z : Bool) :
    s.countIssue.curK.zTag z = s.curK.zTag z := by
  rw [State.countIssue, State.curK_setCur, Core.setCtx_zTag]

@[simp] theorem State.countIssue_zPoison (s : State) (z : Bool) :
    s.countIssue.curK.zPoison z = s.curK.zPoison z := by
  rw [State.countIssue, State.curK_setCur, Core.setCtx_zPoison]

@[simp] theorem State.countIssue_zErr (s : State) (z : Bool) :
    s.countIssue.curK.zErr z = s.curK.zErr z := by
  rw [State.countIssue, State.curK_setCur, Core.setCtx_zErr]

@[simp] theorem State.countIssue_zAt (s : State) (z : Bool) (i j : Nat) :
    s.countIssue.curK.zAt z i j = s.curK.zAt z i j := by
  rw [State.countIssue, State.curK_setCur, Core.setCtx_zAt]

theorem Core.zPoison_detect (k : Core) (z : Bool) (rows : BitVec 32) :
    (k.detect z rows).zPoison z = k.zPoison z ||| (k.zErr z &&& rows) := by
  cases z <;> rfl

theorem Core.zErr_detect (k : Core) (z : Bool) (rows : BitVec 32) :
    (k.detect z rows).zErr z = k.zErr z &&& ~~~rows := by
  cases z <;> rfl

@[simp] theorem Core.detect_z (k : Core) (z : Bool) (rows : BitVec 32) : (k.detect z rows).z = k.z := by
  cases z <;> rfl

@[simp] theorem Core.detect_zAt (k : Core) (z y : Bool) (rows : BitVec 32) (i j : Nat) :
    (k.detect z rows).zAt y i j = k.zAt y i j := by
  rw [Core.zAt, Core.detect_z, Core.zAt]

@[simp] theorem Core.detect_score (k : Core) (z : Bool) (rows : BitVec 32) :
    (k.detect z rows).score = k.score := by
  cases z <;> rfl

@[simp] theorem Core.detect_ctx (k : Core) (z : Bool) (rows : BitVec 32) (x : Nat) :
    (k.detect z rows).ctx x = k.ctx x := by
  cases z <;> rfl

/-- A core replaced by one with the same contexts leaves the registers that the executing context reads. -/
theorem State.x_setCurK {k : Core} (h : ∀ x, k.ctx x = s.curK.ctx x) (r : XReg) :
    (s.setCurK k).x r = s.x r :=
  congrArg (Ctx.reg · (xKey r)) (State.ctx_setCore_keeps h s.curCore s.curCtx)

/-! ### The forms that read a bank (R172, R176 to R178) -/

theorem bankBusy_eq_true {z : Bool} (h : ∃ c ∈ s.curK.mq, c.bank = some z) : bankBusy z s = true := by
  obtain ⟨c, hc, hz⟩ := h
  exact List.any_eq_true.2 ⟨c, hc, beq_iff_eq.2 hz⟩

theorem bankBusy_eq_false {z : Bool} (h : ∀ c ∈ s.curK.mq, c.bank ≠ some z) : bankBusy z s = false :=
  List.any_eq_false.2 fun c hc => by simpa using h c hc

theorem mstat_completes (h : s.issues) (hown : s.ownsMatrix s.curCore s.curCtx = true) {z : Bool}
    (hfree : ∀ c ∈ s.curK.mq, c.bank ≠ some z) (q : Issue) (d : XReg) :
    exec (.mstat q z d) s = .next (s.wroteX q 2 d
      (BitVec.ofNat 64 ((s.curK.zTag z).toNat * 2 ^ 32 + (s.curK.zPoison z).toNat)) false) := by
  have hcheck : firstFault [s.matrixFaultOf] = none :=
    firstFault_eq_none fun e he => List.mem_singleton.1 he ▸ matrixFaultOf_of_owner hown
  dsimp only [exec, execMstat]
  rw [bankBusy_eq_false hfree, hcheck]
  refine issue_writes h ?_
  rw [State.countIssue_zTag, State.countIssue_zPoison]

/-- MRDV meets the errors of the row that it reads before it gives the row's mark (R179). -/
theorem mrdv_completes (h : s.issues) (hown : s.ownsMatrix s.curCore s.curCtx = true) {z : Bool}
    (hfree : ∀ c ∈ s.curK.mq, c.bank ≠ some z) {a : XReg} {n : Nat} (hn : (s.x a).v.toNat = n)
    (hlt : n < 64) (q : Issue) (d : VReg) :
    exec (.mrdv q z a d) s = .next (s.complete q 1 none fun u =>
      (u.setCurK (u.curK.detect z (BitVec.ofNat 32 (2 ^ (n % 32))))).writeRegs 6 (lanes.map fun l =>
        (laneKey d l, pv32 (s.curK.zAt z (n % 32) (32 * (n / 32) + l)).toNat
          (((s.curK.detect z (BitVec.ofNat 32 (2 ^ (n % 32)))).zPoison z).getLsbD (n % 32) ||
            (s.x a).po)))) := by
  have hcheck : firstFault [s.matrixFaultOf, (decide (64 ≤ n), matrixRange 37 (s.x a).v)] = none := by
    refine firstFault_eq_none fun e he => ?_
    rcases List.mem_cons.1 he with rfl | he
    · exact matrixFaultOf_of_owner hown
    · rw [List.mem_singleton.1 he]
      exact decide_eq_false (Nat.not_le.2 hlt)
  have hx : ∀ rows, (s.countIssue.setCurK (s.countIssue.curK.detect z rows)).x a = s.x a := fun rows =>
    (State.x_setCurK (Core.detect_ctx _ z rows) a).trans (s.countIssue_x a)
  have hhalf : n / 32 % 2 = n / 32 := Nat.mod_eq_of_lt (by omega)
  dsimp only [exec, execMrdv]
  rw [bankBusy_eq_false hfree, hn, hcheck]
  refine (issue_completes h).trans (congrArg _ (State.complete_congr ?_))
  simp only [hx, hhalf, State.curK_setCurK, Core.detect_zAt,
    Core.zPoison_detect, State.countIssue_zAt, State.countIssue_zPoison, State.countIssue_zErr]

theorem mrdv_out_of_range (h : s.running = true) (hown : s.ownsMatrix s.curCore s.curCtx = true)
    {z : Bool} (hfree : ∀ c ∈ s.curK.mq, c.bank ≠ some z) {a : XReg} (hn : 64 ≤ (s.x a).v.toNat)
    (q : Issue) (d : VReg) :
    exec (.mrdv q z a d) s = .next (s.takeFault (matrixRange 37 (s.x a).v)) := by
  have hcheck : firstFault [s.matrixFaultOf, (decide (64 ≤ (s.x a).v.toNat), matrixRange 37 (s.x a).v)] =
      some (matrixRange 37 (s.x a).v) := by
    rw [firstFault, State.matrixFaultOf, hown, decide_eq_true hn]
    rfl
  dsimp only [exec, execMrdv]
  rw [bankBusy_eq_false hfree, hcheck]
  exact issue_faults h

theorem mwait_completes (h : s.issues) (hown : s.ownsMatrix s.curCore s.curCtx = true)
    (hq : s.curK.mq = []) (q : Issue) : exec (.mwait q) s = .next (s.moved q none) := by
  have hcheck : firstFault [s.matrixFaultOf] = none :=
    firstFault_eq_none fun e he => List.mem_singleton.1 he ▸ matrixFaultOf_of_owner hown
  dsimp only [exec, execMwait]
  rw [mwaitHeld, hq, hcheck]
  exact issue_completes h

theorem mwaitHeld_eq_true (hq : s.curK.mq ≠ []) : mwaitHeld s = true := by
  rw [mwaitHeld, List.isEmpty_eq_false_iff.2 hq, Bool.not_false]

/-- Settles O21: the bank is free, or a queued command names it; the row number is in range or not. -/
theorem matrixReadsWaitForTheBank : Obligations.MatrixReadsWaitForTheBank := by
  intro s q z a x d h hown n k
  exact ⟨fun hfree => ⟨mstat_completes h hown hfree q x, fun hn => mrdv_completes h hown hfree rfl hn q d,
      fun hn => mrdv_out_of_range h.1 hown hfree hn q d⟩,
    fun hbusy => ⟨issue_of_hold (bankBusy_eq_true hbusy), issue_of_hold (bankBusy_eq_true hbusy)⟩,
    fun hq => mwait_completes h hown hq q, fun hq => issue_of_hold (mwaitHeld_eq_true hq)⟩

end Sys2Proof.Machine

namespace Sys2Proof.Machine

variable {s : State}

/-! ### Banks written, and the errors of a bank met (R162, R179) -/

@[simp] theorem Core.zAt_setBankInfo (k : Core) (z y : Bool) (po : BitVec 32) (tag : BitVec 2) (i j : Nat) :
    (k.setBankInfo z po tag).zAt y i j = k.zAt y i j := by
  cases z <;> rfl

@[simp] theorem Core.zPoison_setBankInfo (k : Core) (z : Bool) (po : BitVec 32) (tag : BitVec 2) :
    (k.setBankInfo z po tag).zPoison z = po := by
  cases z <;> rfl

@[simp] theorem Core.zTag_setBankInfo (k : Core) (z : Bool) (po : BitVec 32) (tag : BitVec 2) :
    (k.setBankInfo z po tag).zTag z = tag := by
  cases z <;> rfl

@[simp] theorem Core.zErr_setBankInfo (k : Core) (z : Bool) (po : BitVec 32) (tag : BitVec 2) :
    (k.setBankInfo z po tag).zErr z = k.zErr z := by
  cases z <;> rfl

@[simp] theorem Core.zErr_setBank (k : Core) (z : Bool) (f : Nat → Nat → Word32) :
    (k.setBank z f).zErr z = k.zErr z := by
  cases z <;> rfl

@[simp] theorem Core.zAt_clearErr (k : Core) (z y : Bool) (i j : Nat) :
    (k.clearErr z).zAt y i j = k.zAt y i j := by
  cases z <;> rfl

@[simp] theorem Core.zPoison_clearErr (k : Core) (z : Bool) : (k.clearErr z).zPoison z = k.zPoison z := by
  cases z <;> rfl

@[simp] theorem Core.zTag_clearErr (k : Core) (z : Bool) : (k.clearErr z).zTag z = k.zTag z := by
  cases z <;> rfl

/-- The entries of the written bank are those of its elements that are not +0. -/
theorem Core.mem_z_setBank (k : Core) (z : Bool) (f : Nat → Nat → Word32) {i j : Nat} (hi : i < 32)
    (hj : j < 64) (w : Word32) :
    ((if z then 2048 else 0) + 64 * i + j, w) ∈ (k.setBank z f).z ↔ f i j ≠ 0 ∧ w = f i j := by
  let o := if z then 2048 else 0
  let new := (steps 0 1 32).flatMap fun i => (steps 0 1 64).filterMap fun j =>
    if f i j = 0 then none else some (o + 64 * i + j, f i j)
  have hnew : (o + 64 * i + j, w) ∈ new ↔ f i j ≠ 0 ∧ w = f i j := by
    simp only [new, List.mem_flatMap, List.mem_filterMap, mem_steps]
    constructor
    · rintro ⟨i', hi', j', hj', he⟩
      split at he
      · exact nomatch he
      · next hf =>
        obtain ⟨hk, rfl⟩ := Prod.mk.inj (Option.some.inj he)
        obtain ⟨rfl, rfl⟩ : i' = i ∧ j' = j := by omega
        exact ⟨hf, rfl⟩
    · rintro ⟨hf, rfl⟩
      exact ⟨i, by omega, j, by omega, if_neg hf⟩
  rw [← hnew]
  cases z with
  | false => simp [Core.setBank, new, o]; omega
  | true => simp [Core.setBank, new, o]; omega

/-- A bank that is written reads back. -/
@[simp] theorem Core.zAt_setBank_same (k : Core) (z : Bool) (f : Nat → Nat → Word32) {i j : Nat}
    (hi : i < 32) (hj : j < 64) : (k.setBank z f).zAt z i j = f i j := by
  refine mapGet_eq_of_mem (fun w hw => ((k.mem_z_setBank z f hi hj w).1 hw).2) ?_
  by_cases hf : f i j = 0
  · exact .inl hf
  · exact .inr ((k.mem_z_setBank z f hi hj _).2 ⟨hf, rfl⟩)

/-- A command that is met moves no more of a core than the row marks and errors of its banks (R179). -/
theorem Core.meet_keeps {β : Type} (g : Core → β) (hg : ∀ (k : Core) z rows, g (k.detect z rows) = g k)
    (k : Core) (c : MCmd) : g (k.meet c) = g k := by
  unfold Core.meet
  split
  · exact hg k _ _
  · rfl

@[simp] theorem Core.meet_z (k : Core) (c : MCmd) : (k.meet c).z = k.z :=
  Core.meet_keeps (·.z) Core.detect_z k c

@[simp] theorem Core.meet_zAt (k : Core) (c : MCmd) (z : Bool) (i j : Nat) :
    (k.meet c).zAt z i j = k.zAt z i j :=
  Core.meet_keeps (·.zAt z i j) (fun k y rows => k.detect_zAt y z rows i j) k c

@[simp] theorem Core.meet_score (k : Core) (c : MCmd) : (k.meet c).score = k.score :=
  Core.meet_keeps (·.score) Core.detect_score k c

/-- The command's bank is read whole: every row with an error is marked, and no error is left. -/
theorem Core.meet_of_reads {k : Core} {c : MCmd} {z : Bool} (h : c.readsBank = some z) :
    (k.meet c).zPoison z = k.zPoison z ||| k.zErr z ∧ (k.meet c).zErr z = 0 := by
  rw [Core.meet, h]
  dsimp only
  rw [Core.zPoison_detect, Core.zErr_detect, BitVec.and_allOnes, BitVec.not_allOnes, BitVec.and_zero]
  exact ⟨rfl, rfl⟩

/-! ### A command starts, and stops streaming (R169, R173, R180) -/

/-- A fold that replaces entries of a list one by one keeps what no step moves. -/
theorem Core.foldl_meet_z (l : List MCmd) (k : Core) : (l.foldl Core.meet k).z = k.z := by
  induction l generalizing k with
  | nil => rfl
  | cons c l ih => rw [List.foldl_cons, ih, Core.meet_z]

theorem matrixCommandStart_starts (s : State) (c : Nat) :
    ∃ t, exec (.matrixCommandStart c) s = .next t ∧ t.mem = s.mem ∧ (t.core c).z = (s.core c).z ∧
      (t.core c).mq =
        (s.core c).mq.map fun m => if m.start ≤ s.cycle then { m with started := true } else m := by
  refine ⟨_, rfl, rfl, ?_, ?_⟩
  · rw [State.core_setCore]
    exact Core.foldl_meet_z _ _
  · rw [State.core_setCore]

theorem matrixStreamEnd_frees (s : State) (c : Nat) :
    ∃ t, exec (.matrixStreamEnd c) s = .next t ∧ t.mem = s.mem ∧ (t.core c).z = (s.core c).z ∧
      ∀ m ∈ (s.core c).mq, m.stop ≤ s.cycle → m.writesTile = false →
        ∀ e ∈ (t.core c).score, e.id ≠ m.id := by
  refine ⟨_, rfl, rfl, ?_, fun m hm hstop hwrites e he hid => ?_⟩
  · rw [State.core_setCore]
  · rw [State.core_setCore] at he
    have hended : m.id ∈ ((s.core c).mq.filter fun c => decide (c.stop ≤ s.cycle) && !c.writesTile).map
        (·.id) :=
      List.mem_map_of_mem (List.mem_filter.2 ⟨hm, by rw [decide_eq_true hstop, hwrites]; rfl⟩)
    have hkept := (List.mem_filter.1 he).2
    rw [hid, List.contains_iff_mem.2 hended] at hkept
    exact Bool.false_ne_true hkept

/-! ### The oldest command retires (R167, R168, R175) -/

theorem matrixCommandRetire_waits {c : Nat} {m : MCmd} {rest : List MCmd} (hq : (s.core c).mq = m :: rest)
    (hr : s.cycle < m.retire) : exec (.matrixCommandRetire c) s = .next s := by
  dsimp only [exec, execMatrixCommandRetire]
  rw [hq]
  exact if_pos hr

/-- A core that a command has left, its ranges free. -/
def Core.retired (k : Core) (rest : List MCmd) (id : Nat) : Core :=
  { k with mq := rest, score := k.score.filter fun e => e.id != id }

theorem matrixCommandRetire_retires {c : Nat} {m : MCmd} {rest : List MCmd}
    (hq : (s.core c).mq = m :: rest) (hr : m.retire ≤ s.cycle) :
    exec (.matrixCommandRetire c) s =
      .next ((s.runMatrix c m).setCore c (((s.runMatrix c m).core c).retired rest m.id)) := by
  dsimp only [exec, execMatrixCommandRetire]
  rw [hq]
  exact if_neg (Nat.not_lt.2 hr)

theorem Core.retired_score {k : Core} {rest : List MCmd} {id : Nat} :
    ∀ e ∈ (k.retired rest id).score, e.id ≠ id :=
  fun _ he => by simpa using (List.mem_filter.1 he).2

/-- A bank holds what a multiply-accumulate leaves, with a type tag (R163, R167, R179). -/
theorem accumulated_bank {k : Core} {m : MCmd} {z : Bool} (h : m.readsBank = some z) (tag : BitVec 2)
    (f : Nat → Nat → Word32) {i j : Nat} (hi : i < 32) (hj : j < 64) :
    let b := ((k.meet m).setBank z f).setBankInfo z ((k.meet m).zPoison z ||| m.rowPoison) tag
    b.zAt z i j = f i j ∧ b.zPoison z = k.zPoison z ||| k.zErr z ||| m.rowPoison ∧ b.zErr z = 0 ∧
      b.zTag z = tag := by
  obtain ⟨hpoison, herr⟩ := k.meet_of_reads h
  simp only [Core.zAt_setBankInfo, Core.zAt_setBank_same _ _ _ hi hj, Core.zPoison_setBankInfo,
    Core.zErr_setBankInfo, Core.zErr_setBank, Core.zTag_setBankInfo, hpoison, herr, and_self]

end Sys2Proof.Machine

namespace Sys2Proof.Machine

variable {s : State}

/-! ### Parts of what memory holds -/

theorem drop_memBytes (m : List Host.Cell) (key n len : Nat) :
    (memBytes m key (n + len)).drop n = memBytes m (key + n) len := by
  induction n generalizing key with
  | zero => rw [Nat.zero_add, List.drop_zero, Nat.add_zero]
  | succ n ih =>
    rw [Nat.add_right_comm, memBytes, List.drop_succ_cons, ih, Nat.add_right_comm key 1, Nat.add_assoc]

theorem take_memBytes (m : List Host.Cell) (key n len : Nat) :
    (memBytes m key (n + len)).take n = memBytes m key n := by
  induction n generalizing key with
  | zero => rfl
  | succ n ih => rw [Nat.add_right_comm, memBytes, List.take_succ_cons, ih, memBytes]

/-- A part of a range reads as that part of what the range reads as. -/
theorem memBytes_part {m : List Host.Cell} {key n len tot : Nat} {d : List Byte}
    (h : memBytes m key tot = d) (hn : n + len ≤ tot) :
    memBytes m (key + n) len = (d.drop n).take len := by
  obtain ⟨rest, rfl⟩ := Nat.exists_eq_add_of_le hn
  rw [← h, Nat.add_assoc, drop_memBytes, take_memBytes]

/-- Of pieces of one length laid end to end, each stands in its place. -/
theorem take_drop_flatMap_steps {α : Type} {f : Nat → List α} {w : Nat} (hf : ∀ j, (f j).length = w)
    {n j : Nat} (hj : j < n) (m : Nat) :
    (((steps m 1 n).flatMap f).drop (w * j)).take w = f (m + j) := by
  induction n generalizing m j with
  | zero => exact absurd hj (Nat.not_lt_zero j)
  | succ n ih =>
    rw [steps, List.flatMap_cons]
    cases j with
    | zero => rw [Nat.mul_zero, List.drop_zero, List.take_left' (hf m), Nat.add_zero]
    | succ j =>
      rw [Nat.mul_succ, Nat.add_comm (w * j), ← List.drop_drop, List.drop_left' (hf m),
        ih (Nat.lt_of_succ_lt_succ hj), Nat.add_right_comm, Nat.add_assoc]

theorem length_flatMap_steps {α : Type} {f : Nat → List α} {w : Nat} (hf : ∀ j, (f j).length = w)
    (m n : Nat) : ((steps m 1 n).flatMap f).length = w * n := by
  induction n generalizing m with
  | zero => rfl
  | succ n ih => rw [steps, List.flatMap_cons, List.length_append, hf, ih, Nat.mul_succ, Nat.add_comm]

/-- Rows that are written one behind the other leave what stands before them. -/
theorem memBytes_rows_before (d : Nat → List Byte) (w key n a b len : Nat) (m : List Host.Cell)
    (h : b + len ≤ key + w * a) :
    memBytes ((steps a 1 n).foldl (fun m i => memSetBytes m (key + w * i) (d i)) m) b len =
      memBytes m b len := by
  induction n generalizing a m with
  | zero => rfl
  | succ n ih =>
    rw [steps, List.foldl_cons, ih (a + 1) _ (by rw [Nat.mul_succ]; omega)]
    exact memBytes_congr _ _ fun k _ hk => memByte_setBytes_outside _ _ _ (.inl (by omega))

/-- Of rows of one length that are written one behind the other, each stands there. -/
theorem memBytes_rows {d : Nat → List Byte} {w : Nat} (hd : ∀ i, (d i).length = w) (key : Nat)
    {n i : Nat} (hi : i < n) (a : Nat) {m : List Host.Cell} (hm : memWf m = true) :
    memBytes ((steps a 1 n).foldl (fun m i => memSetBytes m (key + w * i) (d i)) m)
      (key + w * (a + i)) w = d (a + i) := by
  induction n generalizing a i m with
  | zero => exact absurd hi (Nat.not_lt_zero i)
  | succ n ih =>
    rw [steps, List.foldl_cons]
    cases i with
    | zero =>
      have hself := memBytes_setBytes hm (key + w * a) (d a)
      rw [hd] at hself
      have hle : key + w * a + w ≤ key + w * (a + 1) := by rw [Nat.mul_succ, Nat.add_assoc]
      exact (memBytes_rows_before d w key n (a + 1) _ _ _ hle).trans hself
    | succ i =>
      rw [show a + (i + 1) = a + 1 + i by omega]
      exact ih (Nat.lt_of_succ_lt_succ hi) (a + 1) (memWf_setBytes hm _ _)

/-! ### What each command leaves when it retires (R167, R175, R179) -/

theorem Core.rowBytes_length (k : Core) (z : Bool) (i : Nat) : (k.rowBytes z i).length = 256 :=
  length_flatMap_steps (fun _ => natToBytes_length 4 _) 0 64

/-- The rows of a bank as MSTZ stores them. -/
def State.storeRows (s : State) (c base : Nat) (k : Core) (z : Bool) : State :=
  (steps 0 1 32).foldl (fun s i => s.storeMarked (tileKey c (base + 256 * i)) (k.rowBytes z i)
    (if (k.zPoison z).getLsbD i then steps 0 1 32 else [])) s

theorem State.storeRows_core (s : State) (c base : Nat) (k : Core) (z : Bool) (n : Nat) :
    (s.storeRows c base k z).core n = s.core n :=
  foldl_keeps (·.core n) (fun s _ => storeMarked_keeps (·.core n) (fun _ _ _ _ _ => rfl) s _ _ _) _ s

theorem State.storeRows_mem (s : State) (c base : Nat) (k : Core) (z : Bool) :
    (s.storeRows c base k z).mem = (steps 0 1 32).foldl
      (fun m i => memSetBytes m (tileKey c base + 256 * i) (k.rowBytes z i)) s.mem := by
  refine (List.foldl_hom State.mem fun u i => ?_).symm
  rw [State.storeMarked_mem]
  exact congrArg (memSetBytes u.mem · _) (Nat.add_assoc ..)

/-- Each element of the bank stands in its word. -/
theorem State.load32_storeRows (h : Tidy s) (c base : Nat) (k : Core) (z : Bool) {i j : Nat} (hi : i < 32)
    (hj : j < 64) :
    (s.storeRows c base k z).load32 (tileKey c (base + 256 * i + 4 * j)) = k.zAt z i j := by
  have hrow := memBytes_rows (k.rowBytes_length z) (tileKey c base) hi 0 h.memWf
  rw [← State.storeRows_mem, Nat.zero_add] at hrow
  have hword := memBytes_part (n := 4 * j) (len := 4) hrow (by omega)
  have hkey : tileKey c (base + 256 * i + 4 * j) = tileKey c base + 256 * i + 4 * j := by
    simp only [tileKey]
    omega
  rw [State.load32, State.load, hkey, hword, Core.rowBytes,
    take_drop_flatMap_steps (fun _ => natToBytes_length 4 _) hj, bytesToNat_natToBytes, Nat.zero_add]
  exact BitVec.eq_of_toNat_eq ((BitVec.toNat_ofNat ..).trans (by have := (k.zAt z i j).isLt; omega))

section Retire

variable {c : Nat} {m : MCmd} {q : Issue} {z : Bool} {a b : XReg} {kc : BitVec 6}

theorem State.runMatrix_mac {f : MFmt} (h : m.instr = .mma q z a b f kc ∨ m.instr = .mmas q z a b f kc) :
    s.runMatrix c m = s.setCore c ((((s.core c).meet m).setBank z fun i j =>
      m.accumulate f (kc.toNat + 1) i j ((s.core c).zAt z i j)).setBankInfo z
        (((s.core c).meet m).zPoison z ||| m.rowPoison) 1) := by
  unfold State.runMatrix
  simp only [Core.meet_zAt]
  rcases h with h | h <;> rw [h]

theorem State.runMatrix_mmai (h : m.instr = .mmai q z a b kc) :
    s.runMatrix c m = s.setCore c ((((s.core c).meet m).setBank z fun i j =>
      m.accumulateInt (kc.toNat + 1) i j ((s.core c).zAt z i j)).setBankInfo z
        (((s.core c).meet m).zPoison z ||| m.rowPoison) 2) := by
  unfold State.runMatrix
  simp only [Core.meet_zAt]
  rw [h]

theorem State.runMatrix_mzero (h : m.instr = .mzero q z) :
    s.runMatrix c m = s.setCore c (((((s.core c).meet m).setBank z fun _ _ => 0).setBankInfo z 0
      0).clearErr z) := by
  unfold State.runMatrix
  rw [h]

theorem State.runMatrix_mldz (h : m.instr = .mldz q z a) :
    s.runMatrix c m = s.setCore c (((((s.core c).meet m).setBank z fun i j =>
      BitVec.ofNat 32 (bytesToNat ((m.aElems.drop (256 * i + 4 * j)).take 4))).setBankInfo z
        m.rowPoison 0).clearErr z) := by
  unfold State.runMatrix
  rw [h]

theorem State.runMatrix_mstz (h : m.instr = .mstz q z a) :
    s.runMatrix c m =
      (s.setCore c ((s.core c).meet m)).storeRows c m.base ((s.core c).meet m) z := by
  unfold State.runMatrix
  rw [h]
  rfl

/-- A command that reads its bank, by its instruction. -/
theorem MCmd.readsBank_of_mac {f : MFmt}
    (h : m.instr = .mma q z a b f kc ∨ m.instr = .mmas q z a b f kc) : m.readsBank = some z := by
  unfold MCmd.readsBank
  rcases h with h | h <;> rw [h]

theorem MCmd.readsBank_of_mmai (h : m.instr = .mmai q z a b kc) : m.readsBank = some z := by
  rw [MCmd.readsBank, h]

theorem MCmd.readsBank_of_mstz (h : m.instr = .mstz q z a) : m.readsBank = some z := by
  rw [MCmd.readsBank, h]

/-- A state that a command has left, once its own effect is done. -/
def State.afterCommand (s : State) (c : Nat) (rest : List MCmd) (id : Nat) : State :=
  s.setCore c ((s.core c).retired rest id)

@[simp] theorem State.afterCommand_setCore (s : State) (c : Nat) (k : Core) (rest : List MCmd) (id : Nat) :
    ((s.setCore c k).afterCommand c rest id).core c = k.retired rest id := by
  rw [State.afterCommand, State.core_setCore, State.core_setCore]

variable {i j : Nat} {f : Nat → Nat → Word32} {po : BitVec 32} {tag : BitVec 2} (rest : List MCmd) (id : Nat)

/-- A multiply-accumulate has left its sums in its bank, and marked the rows of poisoned operands. -/
theorem accumulating_retires (hread : m.readsBank = some z)
    (hrun : s.runMatrix c m = s.setCore c ((((s.core c).meet m).setBank z f).setBankInfo z
      (((s.core c).meet m).zPoison z ||| m.rowPoison) tag)) (hi : i < 32) (hj : j < 64) :
    let t := (s.runMatrix c m).afterCommand c rest id
    (t.core c).zAt z i j = f i j ∧
      (t.core c).zPoison z = (s.core c).zPoison z ||| (s.core c).zErr z ||| m.rowPoison ∧
      (t.core c).zErr z = 0 ∧ (t.core c).zTag z = tag ∧ t.mem = s.mem := by
  dsimp only
  rw [hrun, State.afterCommand_setCore]
  obtain ⟨hz, hpoison, herr, htag⟩ := accumulated_bank (k := s.core c) hread tag f hi hj
  exact ⟨hz, hpoison, herr, htag, rfl⟩

/-- A command that writes its bank whole has left what it wrote there, and no error. -/
theorem writing_retires (hrun : s.runMatrix c m = s.setCore c
      (((((s.core c).meet m).setBank z f).setBankInfo z po tag).clearErr z)) (hi : i < 32) (hj : j < 64) :
    let t := (s.runMatrix c m).afterCommand c rest id
    (t.core c).zAt z i j = f i j ∧ (t.core c).zPoison z = po ∧ (t.core c).zTag z = tag ∧
      t.mem = s.mem := by
  dsimp only
  rw [hrun, State.afterCommand_setCore]
  refine ⟨?_, ?_, ?_, rfl⟩
  · refine (Core.zAt_clearErr ..).trans ((Core.zAt_setBankInfo ..).trans ?_)
    exact Core.zAt_setBank_same _ z f hi hj
  · exact (Core.zPoison_clearErr ..).trans (Core.zPoison_setBankInfo ..)
  · exact (Core.zTag_clearErr ..).trans (Core.zTag_setBankInfo ..)

@[simp] theorem State.load32_afterCommand (key : Nat) :
    (s.afterCommand c rest id).load32 key = s.load32 key := rfl

theorem mstz_retires (h : m.instr = .mstz q z a) (ht : Tidy s) (hi : i < 32) (hj : j < 64) :
    let t := (s.runMatrix c m).afterCommand c rest id
    t.load32 (tileKey c (m.base + 256 * i + 4 * j)) = (s.core c).zAt z i j ∧
      (t.core c).z = (s.core c).z ∧ (t.core c).zPoison z = (s.core c).zPoison z ||| (s.core c).zErr z ∧
      (t.core c).zErr z = 0 := by
  dsimp only
  rw [State.load32_afterCommand, State.runMatrix_mstz h, State.afterCommand, State.core_setCore,
    State.storeRows_core, State.core_setCore, ← Core.meet_z (s.core c) m, ← Core.meet_zAt (s.core c) m z i j]
  obtain ⟨hpoison, herr⟩ := (s.core c).meet_of_reads (MCmd.readsBank_of_mstz h)
  exact ⟨State.load32_storeRows ht.setCore c m.base _ z hi hj, rfl, hpoison, herr⟩

end Retire

/-- Settles O36: the two events of a command, and what each kind of command leaves when it retires. -/
theorem matrixCommandsTakeEffect : Obligations.MatrixCommandsTakeEffect := by
  intro s c k
  refine ⟨matrixCommandStart_starts s c, matrixStreamEnd_frees s c,
    fun m rest hq hr => matrixCommandRetire_waits hq hr, fun m rest hq hr =>
    ⟨(s.runMatrix c m).afterCommand c rest m.id, matrixCommandRetire_retires hq hr, ?_, ?_,
      fun q z a b f kc i j hi hj => ⟨fun h =>
          accumulating_retires rest m.id (MCmd.readsBank_of_mac h) (State.runMatrix_mac h) hi hj,
        fun h => accumulating_retires rest m.id (MCmd.readsBank_of_mmai h) (State.runMatrix_mmai h) hi hj,
        fun h => writing_retires rest m.id (State.runMatrix_mzero h) hi hj,
        fun h => writing_retires rest m.id (State.runMatrix_mldz h) hi hj,
        fun h ht => mstz_retires rest m.id h ht hi hj⟩⟩⟩
  · rw [State.afterCommand, State.core_setCore]
    rfl
  · rw [State.afterCommand, State.core_setCore]
    exact Core.retired_score

end Sys2Proof.Machine

/-! ### What a write-out leaves as it was

The hall slot and the area header are bytes of the physical map: the writes into them change the memory, its marks
and its line bits only. -/

namespace Sys2Proof.Machine

section slots

variable {β : Type} (g : State → β)
  (hg : ∀ (s : State) mem poison dirty saved,
    g { s with mem := mem, poison := poison, dirty := dirty, saved := saved } = g s)
include hg

theorem State.putPhys_keeps (s : State) (pa : Nat) (b : List Byte) : g (s.putPhys pa b) = g s :=
  storeMarked_keeps g hg ..

theorem State.zeroPhys_keeps (s : State) (pa n : Nat) : g (s.zeroPhys pa n) = g s :=
  hg s _ _ s.dirty s.saved

theorem State.putBits_keeps (s : State) (pa : Nat) (ids : List Nat) : g (s.putBits pa ids) = g s :=
  foldl_keeps g (fun s _ => hg s _ s.poison s.dirty s.saved) ids s

theorem State.writeItem_keeps (s : State) (c x rb : Nat) (m : Word64) (it : Nat × Nat) :
    g (s.writeItem c x rb m it) = g s := by
  have put := State.putPhys_keeps g hg
  unfold State.writeItem
  extract_lets t k pa bank lanes marks
  split_ifs
  · exact (put ..).trans (put ..)
  · exact (put ..).trans (put ..)
  · exact put ..
  · exact put ..
  · exact (put ..).trans (put ..)

theorem State.writeCtx_keeps (s : State) (c x rb : Nat) (freeze : Bool) :
    g (s.writeCtx c x rb freeze) = g s := by
  unfold State.writeCtx
  extract_lets t live moved due s'
  split_ifs
  · rfl
  · exact (State.putPhys_keeps g hg ..).trans
      (foldl_keeps g (fun s it => State.writeItem_keeps g hg s c x rb live it) due s)

theorem State.writeLines_keeps (s : State) (key n pa : Nat) (freeze : Bool) :
    g (s.writeLines key n pa freeze) = g s :=
  foldl_keeps g (fun _ _ => State.putPhys_keeps g hg ..) _ s

/-- The core record of a suspended load. -/
theorem State.writeCore_keeps (s : State) (c base : Nat) : g (s.writeCore c base false) = g s := by
  have put := State.putPhys_keeps g hg
  have zero := State.zeroPhys_keeps g hg
  have bits := State.putBits_keeps g hg
  unfold State.writeCore
  extract_lets s1 s2 s3 s4 s5 s6 s7 s8
  calc g s8 = g s7 := State.writeLines_keeps g hg ..
    _ = g s6 := foldl_keeps g (fun _ _ => State.writeCtx_keeps g hg ..) _ s6
    _ = g s5 := bits ..
    _ = g s4 := bits ..
    _ = g s3 := put ..
    _ = g s2 := put ..
    _ = g s1 := foldl_keeps g (fun _ _ => (put ..).trans (bits ..)) _ s1
    _ = g s := (zero ..).trans (zero ..)

/-- The hall slot of a suspended load. -/
theorem State.writeHall_keeps (s : State) (h i hk base : Nat) : g (s.writeHall h i hk base false) = g s := by
  have put := State.putPhys_keeps g hg
  have zero := State.zeroPhys_keeps g hg
  have bits := State.putBits_keeps g hg
  unfold State.writeHall
  extract_lets s1 s2 s3 s4 s5 s6 s7 s8 s9
  calc g s9 = g s8 := zero ..
    _ = g s7 := foldl_keeps g (fun _ _ => State.writeCore_keeps g hg ..) _ s7
    _ = g s6 := State.writeLines_keeps g hg ..
    _ = g s5 := foldl_keeps g (fun _ _ => put ..) _ s5
    _ = g s4 := bits ..
    _ = g s3 := bits ..
    _ = g s2 := bits ..
    _ = g s1 := put ..
    _ = g s := zero ..

end slots

/-- A core with no move under way has none to settle. -/
theorem State.settleMove_none {s : State} {c : Nat} (h : (s.core c).move = none) : s.settleMove c = s := by
  simp [State.settleMove, h]

theorem State.settleMoves_none {s : State} (h : ∀ c, (s.core c).move = none) (hk : Nat) (l : List Nat) :
    l.foldl (fun s p => s.settleMove (32 * hk + p)) s = s :=
  List.foldl_fixed' (f := fun (s : State) p => s.settleMove (32 * hk + p)) (fun _ => State.settleMove_none (h _)) l

/-! ### The area header over the slots

The record of determinism causes (R467) ends the header of a save area. It is written whole, whatever its length. -/

/-- Load h with hall i written to its slot, before the area header is. -/
def State.slotWritten (s : State) (h i : Nat) (e : LoadHall) (base : Nat) : State :=
  let u := ((steps 0 1 17).foldl (fun s p => s.settleMove (32 * e.phys + p)) s).writeHall h i e.phys base false
  u.setLoad h { u.loadAt h with
    halls := (u.loadAt h).halls.set i
      { s.noteHall (s.loadAt h) i e with inPlace := false, writtenOut := true, restored := false } }

theorem Tidy.slotWritten {s : State} (ht : Tidy s) (h i : Nat) (e : LoadHall) (base : Nat) :
    Tidy (s.slotWritten h i e base) := by
  have hu : Tidy (((steps 0 1 17).foldl (fun s p => s.settleMove (32 * e.phys + p)) s).writeHall h i
    e.phys base false) := (ht.foldl fun _ _ ht => ht.settleMove).writeHall
  unfold State.slotWritten
  exact hu.setLoad

theorem State.loadAt_setLoad (s : State) (h : Nat) (l : Load) : (s.setLoad h l).loadAt h = l := by
  simp [State.loadAt, mapGet, mapFind_put]

/-- The load's save areas and its determinism record stand as they did. -/
theorem State.slotWritten_loadAt {s : State} (hm : ∀ c, (s.core c).move = none) (h i : Nat) (e : LoadHall)
    (base : Nat) : ((s.slotWritten h i e base).loadAt h).areas = (s.loadAt h).areas ∧
      ((s.slotWritten h i e base).loadAt h).det = (s.loadAt h).det := by
  have hl : (s.writeHall h i e.phys base false).loadAt h = s.loadAt h :=
    State.writeHall_keeps (fun s => s.loadAt h) (fun _ _ _ _ _ => rfl) s h i e.phys base
  rw [State.slotWritten, State.settleMoves_none hm, State.loadAt_setLoad, hl]
  exact ⟨rfl, rfl⟩

theorem State.clearShare_physByte {hk : Nat} (hs : isSystemHall hk = false) (hb : hk < 512) (s : State)
    (l : Load) (pa : Nat) :
    memByte (s.clearShare l hk).mem (physKey pa) = memByte s.mem (physKey pa) := by
  simp only [State.clearShare, hs, Bool.false_eq_true, if_false, State.clearHall, State.setIdentity,
    State.setHallCfg, State.setCfg_mem, State.fillCode]
  refine memByte_delRange (.inr ?_)
  simp only [codeKey, physKey]
  omega

theorem State.purgeChannels_mem (s : State) (h : Nat) : (s.purgeChannels h).mem = s.mem := rfl

theorem State.writeOut_mem {s : State} {h i base : Nat} {e : LoadHall}
    (hi : (s.loadAt h).halls[i]? = some e) (hb : (s.loadAt h).slotBase e = some base) :
    let t := (s.slotWritten h i e base).writeAreaHeader h (e.phys / 128) 1
    (s.writeOut h i).mem = (t.clearShare (t.loadAt h) e.phys).mem := by
  intro t
  simp only [State.writeOut, hi, hb]
  simp only [apply_ite State.mem, State.setLoad_mem, State.purgeChannels_mem, ite_self]
  rfl

/-- Nothing that follows the area header writes to the physical map. -/
theorem State.writeOut_physByte {s : State} {h i base : Nat} {e : LoadHall}
    (hi : (s.loadAt h).halls[i]? = some e) (hb : (s.loadAt h).slotBase e = some base)
    (hs : isSystemHall e.phys = false) (hp : e.phys < 512) (pa : Nat) :
    memByte (s.writeOut h i).mem (physKey pa) =
      memByte ((s.slotWritten h i e base).writeAreaHeader h (e.phys / 128) 1).mem (physKey pa) := by
  rw [State.writeOut_mem hi hb]
  exact State.clearShare_physByte hs hp ..

theorem exec_hallWriteOut {s : State} {h i : Nat} {e : LoadHall} (hi : (s.loadAt h).halls[i]? = some e)
    (hs : (s.loadAt h).state = .suspended) (hp : e.inPlace = true) :
    exec (.hallWriteOut h i) s = .next ((s.writeOut h i).later 1 .candidateStart) := by
  change execHallWriteOut h i s = _
  simp [execHallWriteOut, hi, hs, hp]

theorem State.writeAreaHeader_detByte {s : State} (ht : Tidy s) {h wing a : Nat} (kind : Nat)
    (ha : mapFind wing (s.loadAt h).areas = some a) {j : Nat} {b : Byte}
    (hj : (detRecord (s.loadAt h).det (s.loadAt h).overflow)[j]? = some b) :
    memByte (s.writeAreaHeader h wing kind).mem (physKey (a + 528 + j)) = b := by
  obtain ⟨lt, rfl⟩ := List.getElem?_eq_some_iff.1 hj
  simp only [State.writeAreaHeader, ha, State.putPhys_mem (State.putPhys _ _ _)]
  have : physKey (a + 528 + j) = physKey (a + 528) + j := by simp [physKey, Nat.add_assoc]
  rw [this]
  exact memByte_setBytes ht.zeroPhys.putPhys.memWf _ _ _ lt

/-- Entries that no order tells apart are kept as they are. -/
theorem foldl_detInsert_replicate {e : DetEntry} (he : e.before e = false) (n : Nat) (k : Nat) :
    (List.replicate n e).foldl (fun l e => detInsert e l) (List.replicate k e) = List.replicate (k + n) e := by
  induction n generalizing k with
  | zero => rfl
  | succ n ih =>
    have hi : detInsert e (List.replicate k e) = List.replicate (k + 1) e := by
      cases k <;> simp [detInsert, List.replicate_succ, he]
    rw [List.replicate_succ, List.foldl_cons, hi, ih, Nat.add_assoc, Nat.add_comm 1]

/-- An entry of the record begins with its code. -/
theorem getElem?_flatMap_detBytes (e : DetEntry) {n k : Nat} (h : k < n) :
    ((List.replicate n e).flatMap DetEntry.bytes)[16 * k]? = some (BitVec.ofNat 8 e.code.toNat) := by
  have hl : e.bytes.length = 16 := by simp [DetEntry.bytes, natToBytes_length]
  induction k generalizing n with
  | zero =>
    obtain ⟨n, rfl⟩ := Nat.exists_eq_add_one.2 h
    simp [List.replicate_succ, DetEntry.bytes, natToBytes]
  | succ k ih =>
    obtain ⟨n, rfl⟩ := Nat.exists_eq_add_one.2 (Nat.zero_lt_of_lt h)
    rw [List.replicate_succ, List.flatMap_cons, List.getElem?_append_right (by omega), hl]
    exact ih (by omega)

theorem getElem?_detRecord_replicate {e : DetEntry} (he : e.before e = false) (o : BitVec 32) {n k : Nat}
    (h : k < n) : (detRecord (List.replicate n e) o)[16 * k]? = some (BitVec.ofNat 8 e.code.toNat) := by
  have hb := getElem?_flatMap_detBytes e h
  have hl := (List.getElem?_eq_some_iff.1 hb).1
  have hr := foldl_detInsert_replicate he n 0
  rw [Nat.zero_add, List.replicate_zero] at hr
  simp only [detRecord, hr, List.append_assoc]
  rw [List.getElem?_append_left hl, hb]

/-! ### The counterexample -/

/-- A cause of the determinism record. -/
def loggedCause : DetEntry := { code := 1, ctx := 0, core := 0, pc := 0, count := 1, first := 0 }

/-- A hall of a load that stands in place. -/
def hallInPlace : LoadHall := { logical := 0, phys := 0, user := 0 }

/-- A suspended load whose determinism record holds 4064 entries: the record has 512 bytes for 16 (R467), and
nothing that is said of the load bounds it. -/
def overLogged : Load :=
  { state := .suspended, halls := [hallInPlace], areas := [(0, 0)], det := List.replicate 4064 loggedCause }

/-- The machine of reset with that load. -/
def overLoggedState : State := { State.reset with loads := [(0, overLogged)] }

theorem tidy_overLoggedState : Tidy overLoggedState := ⟨rfl, rfl⟩

theorem overLoggedState_move (c : Nat) : (overLoggedState.core c).move = none := rfl

theorem overLoggedState_loadAt : overLoggedState.loadAt 0 = overLogged := rfl

/-- The record reaches the slot, which begins at 0x10000: its entry 4063 stands over the slot's first word. -/
theorem overLoggedState_slot :
    memByte (overLoggedState.writeOut 0 0).mem (physKey 0x10000) = 1 := by
  obtain ⟨ha, hd⟩ := State.slotWritten_loadAt overLoggedState_move 0 0 hallInPlace 0x10000
  rw [State.writeOut_physByte (e := hallInPlace) (base := 0x10000) rfl rfl rfl (by decide)]
  refine State.writeAreaHeader_detByte (tidy_overLoggedState.slotWritten 0 0 hallInPlace 0x10000) (a := 0)
    (j := 16 * 4063) 1 ?_ ?_
  · rw [ha]; rfl
  · rw [hd, overLoggedState_loadAt, overLogged]
    exact getElem?_detRecord_replicate rfl _ (by decide)

/-- Refutes O43: the statement bounds the load's halls and cores, but not its determinism record. One of 4064
entries runs from the area header (R403) into the slot that the write-out has laid, so that the slot's first word
is not the hall's (R404). -/
theorem not_hallsAreWrittenOut : ¬ Obligations.HallsAreWrittenOut := by
  unfold Obligations.HallsAreWrittenOut
  intro h
  obtain ⟨written, -, -⟩ :=
    h overLoggedState 0 0 0 0x10000 0 false none { queue := 0, kind := 0 } hallInPlace
  obtain ⟨t, ht, -, -, laid, -⟩ := written rfl rfl rfl rfl
  rw [exec_hallWriteOut (e := hallInPlace) rfl rfl rfl] at ht
  injection ht with ht
  have slot : memByte t.mem (physKey 0x10000) = 1 := by
    rw [← ht, State.later_mem, overLoggedState_slot]
  rw [State.settleMoves_none overLoggedState_move] at laid
  have words := (laid ⟨tidy_overLoggedState, by decide, fun _ hc => absurd hc List.not_mem_nil⟩).1.words
  have first : memByte t.mem (physKey 0x10000) = 0 := Option.some.inj (congrArg List.head? words)
  rw [slot] at first
  exact absurd first (by decide)

end Sys2Proof.Machine

/-! ### What an issue reads of its effect

An issue that completes hands its state to `State.advance`, which reads the cycle, the executing context, and of that
its landing distance, its run state and its halt. The forms that hand work to a unit leave these as they stand. -/

namespace Sys2Proof.Machine

/-- The cycle, the executing core and context, and that context's landing distance, run state and halt. -/
def State.standing (s : State) : Nat × Nat × Nat × BitVec 16 × RunState × Bool :=
  (s.cycle, s.curCore, s.curCtx, s.cur.ldist, s.cur.run, s.cur.halted)

/-- Instruction i runs: it answers a state in which it has issued (R60 to R64). -/
def Runs (s : State) (q : Issue) (i : Instr) : Prop :=
  ∃ t, exec i s = .next t ∧ t.cur.ldist = s.cur.ldist + 1 ∧ t.cur.ready = s.cycle + 1 + q.g.toNat ∧
    t.cur.run = s.cur.run ∧ t.cur.halted = s.cur.halted ∧ t.curK.last = BitVec.ofNat 2 s.curCtx

theorem Ctx.stepPc_ready (t : Ctx) (q : Issue) (len now : Nat) :
    (t.stepPc q len none now).ready = now + 1 + q.g.toNat := by
  simp only [Ctx.stepPc]
  cases t.loops with
  | nil => rfl
  | cons e es => dsimp only; split_ifs <;> rfl

theorem State.advance_last (s : State) (q : Issue) (len : Nat) (target : Option Int) :
    (s.advance q len target).curK.last = BitVec.ofNat 2 s.curCtx := by
  rw [State.advance, State.curK_setCurK]

theorem runs_of_issue {s : State} (h : s.issues) {q : Issue} {i : Instr} {hold : Bool} {flt : Option FaultInfo}
    {eff : State → State} (he : exec i s = issue q 1 hold flt none eff s) (hhold : hold = false)
    (hflt : flt = none) (heff : (eff s.countIssue).standing = s.countIssue.standing) : Runs s q i := by
  subst hhold hflt
  simp only [State.standing, State.countIssue_cur, State.countIssue_cycle, State.countIssue_curCtx,
    Prod.mk.injEq] at heff
  obtain ⟨hcycle, -, hctx, hldist, hrun, hhalted⟩ := heff
  obtain ⟨_, _, _, _, _, hmoved⟩ :=
    (eff s.countIssue).cur.stepPc_moved q 1 none (eff s.countIssue).cycle
  have hready := (eff s.countIssue).cur.stepPc_ready q 1 (eff s.countIssue).cycle
  refine ⟨_, he.trans (issue_completes h), ?_⟩
  rw [hmoved] at hready
  rw [State.complete, State.advance_last, State.advance_cur, hmoved, hctx]
  exact ⟨hldist, hready.trans (by rw [hcycle]), hrun, hhalted, rfl⟩

/-! ### The operations of the state that keep it -/

theorem State.standing_congr {s t : State} (hcycle : t.cycle = s.cycle) (hcore : t.curCore = s.curCore)
    (hctx : t.curCtx = s.curCtx) (hcores : t.cores = s.cores) : t.standing = s.standing := by
  simp only [State.standing, State.cur, State.ctx, State.core, hcycle, hcore, hctx, hcores]

theorem State.standing_setCur {s : State} {t : Ctx} (hldist : t.ldist = s.cur.ldist)
    (hrun : t.run = s.cur.run) (hhalted : t.halted = s.cur.halted) : (s.setCur t).standing = s.standing := by
  simp only [State.standing, State.cur_setCur, hldist, hrun, hhalted]
  rfl

theorem State.standing_setCore {s : State} {c : Nat} {k : Core} (h : ∀ x, k.ctx x = (s.core c).ctx x) :
    (s.setCore c k).standing = s.standing := by
  have hcur : (s.setCore c k).cur = s.cur := by
    change ((s.setCore c k).core s.curCore).ctx s.curCtx = (s.core s.curCore).ctx s.curCtx
    by_cases hc : s.curCore = c
    · rw [hc, State.core_setCore, h]
    · rw [State.core_setCore_ne _ _ hc]
  simp only [State.standing, hcur]
  rfl

@[simp] theorem State.standing_later (s : State) (n : Nat) (i : Instr) :
    (s.later n i).standing = s.standing := rfl

@[simp] theorem State.standing_at (s : State) (n : Nat) (i : Instr) : (s.at n i).standing = s.standing := rfl

@[simp] theorem State.standing_newId (s : State) : s.newId.standing = s.standing := rfl

@[simp] theorem State.standing_setLoad (s : State) (h : Nat) (l : Load) :
    (s.setLoad h l).standing = s.standing := rfl

@[simp] theorem State.standing_setCfg (s : State) (u sp o : Nat) (v : Word64) :
    (s.setCfg u sp o v).standing = s.standing := rfl

@[simp] theorem State.standing_setStream (s : State) (hk n : Nat) (t : Stream) :
    (s.setStream hk n t).standing = s.standing := rfl

theorem State.standing_storeVal (s : State) (key n : Nat) (v : Word64) (po : Bool) :
    (s.storeVal key n v po).standing = s.standing :=
  storeMarked_keeps State.standing (fun _ _ _ _ _ => rfl) s key (natToBytes n v.toNat) []

@[simp] theorem State.standing_pushEntry (s : State) (id : Nat) (mem : Bool) :
    (s.pushEntry id mem).standing = s.standing := State.standing_setCur rfl rfl rfl

@[simp] theorem State.standing_deferEntry (s : State) (mem : Bool) :
    (s.deferEntry mem).standing = s.standing := s.standing_pushEntry ..

@[simp] theorem State.standing_holdAcquire (s : State) (acq : Bool) :
    (s.holdAcquire acq).standing = s.standing := by
  unfold State.holdAcquire
  split
  · exact State.standing_setCur rfl rfl rfl
  · rfl

@[simp] theorem State.standing_elasticEffect (s : State) : s.elasticEffect.standing = s.standing := by
  unfold State.elasticEffect
  dsimp only
  split
  · split
    · obtain ⟨d, n, hd⟩ := (s.setCur { s.cur with elastic := true }).detEvent_eq _ 3 _ _ _ _
      rw [hd, State.standing_setLoad]
      exact State.standing_setCur rfl rfl rfl
    · rfl
  · rfl

@[simp] theorem State.standing_mergeOwn (s : State) (c x : Nat) (sc : Scope) :
    (s.mergeOwn c x sc).standing = s.standing := by
  cases sc <;> rfl

@[simp] theorem State.standing_addRange (s : State) (id lo len : Nat) (write slot : Bool) :
    (s.addRange id lo len write slot).standing = s.standing := State.standing_setCore fun _ => rfl

@[simp] theorem State.standing_kickStream (s : State) (hk n : Nat) :
    (s.kickStream hk n).standing = s.standing := by
  unfold State.kickStream
  split <;> rfl

@[simp] theorem State.standing_sendPacket (s : State) (p : Packet) :
    (s.sendPacket p).standing = s.standing := rfl

@[simp] theorem State.standing_sendSignal (s : State) (target n : Nat) :
    (s.sendSignal target n).standing = s.standing := rfl

@[simp] theorem State.standing_sendAccess (s : State) (a : Access) (release : Option Scope) :
    (s.sendAccess a release).standing = s.standing := by
  unfold State.sendAccess
  rw [State.standing_later]
  cases release with
  | none => rfl
  | some sc => exact s.standing_mergeOwn ..

@[simp] theorem State.standing_sendAtomic (s : State) (o : Order) (sc : Scope) (kind : AccKind) (n : Nat)
    (addr a b : Word64) : (s.sendAtomic o sc kind n addr a b).standing = s.standing := by
  simp [State.sendAtomic]

@[simp] theorem State.standing_startCopy (s : State) (c : Copy) (write : Bool) :
    (s.startCopy c write).standing = s.standing := by
  unfold State.startCopy
  extract_lets id copy s1 t1 s2 s3
  have h2 : s2.standing = s1.standing := by
    unfold s2
    split
    · exact State.standing_setCur rfl rfl rfl
    · rfl
  exact (s2.standing_addRange ..).trans h2

@[simp] theorem State.standing_startResult (s : State) (group : Nat) (i : Instr) (a area : Word64) (len : Nat)
    (block : List Byte) (po : Bool) : (s.startResult group i a area len block po).standing = s.standing := by
  unfold State.startResult
  extract_lets id r s1 s2 t2 s3
  have h3 : s3.standing = s2.standing := State.standing_setCur rfl rfl rfl
  exact h3.trans (s1.standing_addRange ..)

@[simp] theorem State.standing_sendResult (s : State) (group : Nat) (i : Instr) (a area v : Word64) (po : Bool) :
    (s.sendResult group i a area v po).standing = s.standing := State.standing_startResult s group i a area 8
    (natToBytes 8 v.toNat) po

@[simp] theorem State.standing_sendCommand (s : State) (fn : Nat) (xa xb : Word64) :
    (s.sendCommand fn xa xb).standing = s.standing := rfl

@[simp] theorem State.standing_startStream (s : State) (hk n : Nat) :
    (s.startStream hk n).standing = s.standing := by
  simp only [State.startStream]
  split
  · simp
  · rfl

@[simp] theorem State.standing_stopStream (s : State) (hk n : Nat) :
    (s.stopStream hk n).standing = s.standing := by
  simp only [State.stopStream]
  split_ifs <;> simp

@[simp] theorem State.standing_barStreams (s : State) (named : List Nat) :
    (s.barStreams named).standing = s.standing := by
  unfold State.barStreams
  extract_lets under
  rw [foldl_keeps State.standing]
  intro t n
  split
  · dsimp only
    split <;> rfl
  · rfl

@[simp] theorem State.standing_sendCredit (s : State) (w : Nat) (holders : List Nat) :
    (s.sendCredit w holders).standing = s.standing := rfl

@[simp] theorem State.standing_putToken (s : State) (n lo : Nat) : (s.putToken n lo).standing = s.standing := by
  unfold State.putToken
  extract_lets c x size sc op p s1 s2 s3 s4 t s5
  have h1 : s1.standing = s.standing := s.standing_mergeOwn ..
  have h3 : s3.standing = s2.standing := s2.standing_addRange op lo size false false
  have h4 : s4.standing = s3.standing := rfl
  have h5 : s5.standing = s4.standing := State.standing_setCur rfl rfl rfl
  rw [State.setWin, State.standing_setCfg, h5, h4, h3, State.standing_sendPacket, h1]

@[simp] theorem State.standing_startPut (s : State) (z lo home : Nat) :
    (s.startPut z lo home).standing = s.standing := by
  unfold State.startPut
  extract_lets c x hk size f id sc key cp s1 s2 t2 s3 k3 s4
  have h1 : s1.standing = s.standing := s.standing_mergeOwn ..
  have h3 : s3.standing = s1.standing := State.standing_setCur rfl rfl rfl
  have h4 : s4.standing = s3.standing := by
    unfold s4
    split
    · rfl
    · exact State.standing_setCore fun _ => rfl
  rw [State.standing_later, State.standing_later, State.standing_addRange, h4, h3, h1]

@[simp] theorem State.standing_cfgStore (s : State) (u sp o : Nat) (v : Word64) :
    (s.cfgStore u sp o v).standing = s.standing := by
  unfold State.cfgStore
  split
  · exact s.standing_storeVal ..
  · rfl

@[simp] theorem State.standing_systemWordWritten (s : State) (wing off : Nat) (v : Word64) :
    (s.systemWordWritten wing off v).standing = s.standing := by
  unfold State.systemWordWritten
  split_ifs
  · refine foldl_keeps State.standing (fun t e => ?_) _ s
    rfl
  · simp only [State.startInvalidation]
    split <;> rfl
  all_goals rfl

@[simp] theorem State.standing_setHallState (s : State) (hk st : Nat) :
    (s.setHallState hk st).standing = s.standing := by
  unfold State.setHallState
  split <;> rfl

@[simp] theorem State.standing_writeConfig (s : State) (unit space off : Nat) (a v : Word64) :
    (s.writeConfig unit space off a v).standing = s.standing := by
  unfold State.writeConfig
  extract_lets usable s1 back w t t1 s2 hk k2 s3
  have h1 : s1.standing = s.standing := by
    unfold s1
    split
    · simp
    · rfl
  have h2 : s2.standing = s1.standing := State.standing_setCur rfl rfl rfl
  have h3 : s3.standing = s2.standing := by
    unfold s3
    split
    · rfl
    · exact State.standing_setCore fun _ => rfl
  split_ifs
  · rw [State.standing_systemWordWritten, h2, h1]
  · rw [h2, h1]
  · rw [State.standing_setHallState, h3, h2, h1]

@[simp] theorem State.standing_writeRoute (s : State) (hk rc : Nat) (v : Word64) :
    (s.writeRoute hk rc v).standing = s.standing := by
  unfold State.writeRoute
  extract_lets k t old routes t0 s1
  have h1 : s1.standing = s.standing := State.standing_setCur rfl rfl rfl
  exact h1

@[simp] theorem State.standing_enqueue (s : State) (c : MCmd) (mac : Bool) (stream drain : Nat)
    (ranges : List MRange) (write : Bool) :
    (s.enqueue c mac stream drain ranges write).standing = s.standing := by
  unfold State.enqueue
  extract_lets id start c' s1 k1 s2
  have h1 : s1.standing = s.standing := foldl_keeps State.standing (fun s _ => s.standing_addRange ..) ranges s.newId
  have h2 : s2.standing = s1.standing := State.standing_setCore fun _ => rfl
  rw [State.standing_at, State.standing_at, State.standing_at, h2, h1]

end Sys2Proof.Machine

/-! ### Each form of the units runs under its rules' conditions -/

namespace Sys2Proof.Machine

variable {s : State} {q : Issue}

theorem Ctx.rqFull_eq_false {t : Ctx} (h : t.rq.length < 8) : t.rqFull = false :=
  decide_eq_false (Nat.not_le.2 h)

theorem Core.noEntry_eq_false {k : Core} (h : (k.score.filter (·.slot)).length < 8) : k.noEntry = false :=
  decide_eq_false (Nat.not_le.2 h)

theorem Core.addrHeld_eq_false {k : Core} {a : Word64} {len : Nat} {write : Bool}
    (h : k.rangeHeld a.toNat len write = false) : k.addrHeld a len write = false := by
  rw [Core.addrHeld, h, Bool.and_false]

/-- A tag that no copy holds can be taken (R192). -/
theorem Ctx.freeTag_isNone {t : Ctx} (h : ∃ g, g < 4 ∧ ∀ e ∈ t.tags, e.1 ≠ g) : t.freeTag.isNone = false := by
  obtain ⟨g, hg, hfree⟩ := h
  rw [← Bool.not_eq_true, Option.isNone_iff_eq_none, Ctx.freeTag, List.head?_eq_none_iff]
  refine List.ne_nil_of_mem (a := g) (List.mem_filter.2 ⟨mem_steps.2 ⟨g.zero_le, by omega⟩, ?_⟩)
  simpa using fun a b hab => hfree (a, b) hab

theorem exportPoison_eq_false {lo len : Nat} (h : s.firstPoison s.curCore lo len = none) :
    (s.exportPoison lo len).1 = false := by
  rw [State.exportPoison, h]

/-! #### Accesses to shared words, and tile moves (R191, R192, R197 to R205) -/

section accesses

variable (h : s.issues) (hm : s.memHeld = false) (hstub : s.inStub = false)
  (hroom : s.cur.rq.length < 8) {a b d : XReg} (ha : (s.x a).po = false)
include ha

theorem wordChecks_pass {n : Nat} (hk : (s.sharedKey (s.x a).v n).isSome = true)
    (hal : (s.x a).v.toNat % n = 0) : ∀ e ∈ s.wordChecks a n, e.1 = false := by
  simp [State.wordChecks, ha, Option.isNone_eq_false_iff, hk, hal]

omit ha
include h hm

theorem fence_runs (sc : Scope) : Runs s q (.fence q sc) := by
  refine runs_of_issue h rfl hm rfl ?_
  rw [State.standing_mergeOwn]
  exact State.standing_setCur rfl rfl rfl

theorem ald_runs {dw : Bool} (acq : Bool) (sc : Scope)
    (hchecks : ∀ e ∈ s.wordChecks a (wordSize dw), e.1 = false) (hroom : s.cur.rq.length < 8) :
    Runs s q (.ald q acq sc dw a) :=
  runs_of_issue h rfl (by rw [hm, Ctx.rqFull_eq_false hroom]; rfl) (firstFault_eq_none hchecks) (by simp)

include hstub

theorem ast_runs {dw : Bool} (rel : Bool) (sc : Scope)
    (hchecks : ∀ e ∈ s.wordChecks a (wordSize dw), e.1 = false) (hb : (s.x b).po = false) :
    Runs s q (.ast q rel sc dw a b) := by
  refine runs_of_issue h rfl (by rw [hm, Bool.and_false]) (firstFault_eq_none ?_) (by simp)
  simpa [hstub, hb] using hchecks

theorem stf_runs (ha : (s.x a).po = false) (hd : (s.x d).po = false) (hal : (s.x a).v.toNat % 8 = 0)
    (hk : (s.sharedKey (s.x a).v 8).isSome = true) : Runs s q (.stf q d a) := by
  refine runs_of_issue h rfl (by rw [hm, Bool.and_false]) (firstFault_eq_none ?_) (by simp)
  simp [hstub, ha, hd, hal, Option.isNone_eq_false_iff, hk]

theorem sete_runs (ha : (s.x a).po = false) (hd : (s.x d).po = false) (hal : (s.x a).v.toNat % 8 = 0)
    (hlo : 1 ≤ (s.x d).v.toNat) (hhi : (s.x d).v.toNat ≤ 131072)
    (hk : (s.sharedKey (s.x a).v (8 * (s.x d).v.toNat)).isSome = true) : Runs s q (.sete q d a) := by
  refine runs_of_issue h rfl (by rw [hm, Bool.and_false]) (firstFault_eq_none ?_) (by simp)
  simp only [List.forall_mem_cons, hal]
  refine ⟨hstub, ha, hd, rfl, ?_, Option.isNone_eq_false_iff.2 hk, fun _ he => absurd he List.not_mem_nil⟩
  simp only [Bool.or_eq_false_iff, decide_eq_false_iff_not]
  omega

include hroom

theorem acas_runs {dw : Bool} (o : Order) (sc : Scope)
    (hchecks : ∀ e ∈ s.wordChecks a (wordSize dw), e.1 = false) (hb : (s.x b).po = false)
    (hb' : (s.x (b + 1)).po = false) : Runs s q (.acas q o sc dw a b) := by
  refine runs_of_issue h rfl (by rw [hm, Ctx.rqFull_eq_false hroom, Bool.or_false, Bool.and_false])
    (firstFault_eq_none ?_) (by simp)
  simp only [List.cons_append, List.forall_mem_cons, List.forall_mem_append]
  exact ⟨hstub, hchecks, hb, hb', fun _ he => absurd he List.not_mem_nil⟩

theorem atomForm_runs {i : Instr} {o : Order} {sc : Scope} {kind : AccKind}
    (he : exec i s = atomForm q o sc kind a b s) (hchecks : ∀ e ∈ s.wordChecks a 8, e.1 = false)
    (hb : (s.x b).po = false) : Runs s q i := by
  refine runs_of_issue h he (by rw [hm, Ctx.rqFull_eq_false hroom, Bool.or_false, Bool.and_false])
    (firstFault_eq_none ?_) (by simp)
  simpa [hstub, hb] using hchecks

end accesses

/-- The conditions that both tile moves share: clean operands, a tag and an entry, a range of whole words in the
tile store and a shared one (R191, R192). -/
structure MoveReady (s : State) (a b d : XReg) : Prop where
  clean : (s.x a).po = false ∧ (s.x b).po = false ∧ (s.x d).po = false
  tag : ∃ g, g < 4 ∧ ∀ e ∈ s.cur.tags, e.1 ≠ g
  slot : (s.curK.score.filter (·.slot)).length < 8
  aligned : (s.x a).v.toNat % 8 = 0 ∧ (s.x b).v.toNat % 8 = 0 ∧ (s.x d).v.toNat % 8 = 0
  length : 8 ≤ (s.x d).v.toNat ∧ (s.x d).v.toNat ≤ 65536
  tile : (s.x a).v.toNat + (s.x d).v.toNat ≤ 2 ^ 17
  shared : (s.sharedKey (s.x b).v (s.x d).v.toNat).isSome = true

section moves

variable (h : s.issues) (hm : s.memHeld = false) {a b d : XReg}
include hm

theorem moveHeld_eq_false {v : Word64} {len : Nat} {write : Bool}
    (htag : ∃ g, g < 4 ∧ ∀ e ∈ s.cur.tags, e.1 ≠ g)
    (hslot : (s.curK.score.filter (·.slot)).length < 8) (hfree : s.curK.rangeHeld v.toNat len write = false) :
    moveHeld v len write s = false := by
  rw [moveHeld, hm, Ctx.freeTag_isNone htag, Core.noEntry_eq_false hslot, Core.addrHeld_eq_false hfree]
  rfl

omit hm

theorem moveChecks_eq_none (hr : MoveReady s a b d) {out : Bool} (hstub : (out && s.inStub) = false)
    (hp : (out && (s.exportPoison (s.x a).v.toNat (s.x d).v.toNat).1) = false) :
    s.moveChecks out a b d = none := by
  obtain ⟨⟨ha, hb, hd⟩, -, -, ⟨hal, hbl, hdl⟩, ⟨hlo, hhi⟩, htile, hk⟩ := hr
  refine firstFault_eq_none ?_
  simp only [List.forall_mem_cons, hal, hbl, hdl]
  refine ⟨hstub, ha, hb, hd, rfl, rfl, ?_, decide_eq_false (Nat.not_lt.2 htile),
    Option.isNone_eq_false_iff.2 hk, hp, fun _ he => absurd he List.not_mem_nil⟩
  simp only [bne_self_eq_false, Bool.false_or, Bool.or_eq_false_iff, decide_eq_false_iff_not]
  omega

include h hm

theorem tmovIn_runs (hr : MoveReady s a b d)
    (hfree : s.curK.rangeHeld (s.x a).v.toNat (s.x d).v.toNat true = false) : Runs s q (.tmovIn q d a b) :=
  runs_of_issue h rfl (moveHeld_eq_false hm hr.tag hr.slot hfree) (moveChecks_eq_none hr rfl rfl) (by simp)

theorem tmovOut_runs (hr : MoveReady s a b d) (hstub : s.inStub = false)
    (hfree : s.curK.rangeHeld (s.x a).v.toNat (s.x d).v.toNat false = false)
    (hp : s.firstPoison s.curCore (s.x a).v.toNat (s.x d).v.toNat = none) : Runs s q (.tmovOut q d a b) :=
  runs_of_issue h rfl (by rw [moveHeld_eq_false hm hr.tag hr.slot hfree, Bool.and_false])
    (moveChecks_eq_none hr hstub (exportPoison_eq_false hp)) (by simp)

end moves

/-! #### Streams and stage queues (R206 to R211) -/

section streams

variable (h : s.issues) (hm : s.memHeld = false) (hstub : s.inStub = false) {n : BitVec 5}
  (hn : (s.myStream n.toNat).isSome = true)
include h hm

theorem sstat_runs (hn : (s.myStream n.toNat).isSome = true) (hroom : s.cur.rq.length < 8) :
    Runs s q (.sstat q n) := by
  refine runs_of_issue h rfl (by rw [hm, Ctx.rqFull_eq_false hroom]; rfl) (firstFault_eq_none ?_) (by simp)
  simpa [State.noStream] using hn

include hstub

theorem sbar_runs {b : XReg} (hb : (s.x b).po = false)
    (hset : ∀ m ∈ maskBits (s.x b).v, m < 32 ∧ (s.myStream m).isSome = true) : Runs s q (.sbar q b) := by
  have hbad : ((maskBits (s.x b).v).filter fun n => 31 < n || (s.myStream n).isNone) = [] := by
    refine List.filter_eq_nil_iff.2 fun m hmem => ?_
    obtain ⟨hlt, hsome⟩ := hset m hmem
    simp only [Option.isNone_eq_false_iff.2 hsome, Bool.or_false, decide_eq_true_eq]
    omega
  refine runs_of_issue h rfl (by rw [hm, Bool.and_false]) (firstFault_eq_none ?_) (by simp)
  simp [hstub, hb, hbad]

include hn

theorem sstart_runs : Runs s q (.sstart q n) := by
  refine runs_of_issue h rfl (by rw [hm, Bool.and_false]) (firstFault_eq_none ?_) ?_
  · simpa [hstub, State.noStream] using hn
  · split <;> simp

theorem sstop_runs : Runs s q (.sstop q n) := by
  refine runs_of_issue h rfl (by rw [hm, Bool.and_false]) (firstFault_eq_none ?_) ?_
  · simpa [hstub, State.noStream] using hn
  · split <;> simp

end streams

section queues

variable (h : s.issues) (hm : s.memHeld = false) {n : BitVec 5} {home : Nat}
  (hhome : s.queueHome (hallOfCore s.curCore) n.toNat = some home)
include hhome

/-- A queue whose home is found is in use, and its bytes are well formed (R210). -/
theorem queueFaults_eq_false : (s.queueFault n.toNat).1 = false ∧ (s.homeFault n.toNat).1 = false := by
  have hvalid : bitAt (s.queueWord (hallOfCore s.curCore) n.toNat 0) 63 = true := by
    by_contra hv
    rw [State.queueHome, if_neg hv] at hhome
    cases hhome
  simp [State.queueFault, State.homeFault, hvalid, hhome]

include h hm

theorem qstat_runs (hroom : s.cur.rq.length < 8) : Runs s q (.qstat q n) := by
  obtain ⟨hq, hh⟩ := queueFaults_eq_false hhome
  refine runs_of_issue h rfl (by rw [hm, Ctx.rqFull_eq_false hroom]; rfl) (firstFault_eq_none ?_) (by simp)
  simp [hq, hh]

theorem qclaim_runs (hstub : s.inStub = false) (hin : s.queueIn s.curCore s.cur.actor = some n.toNat)
    (huses : s.usesQueues s.curCore s.cur.actor s.cur.phase.toNat = true) (hmade : s.cur.claimMade = false)
    (htag : ∃ g, g < 4 ∧ ∀ e ∈ s.cur.tags, e.1 ≠ g) (hslot : (s.curK.score.filter (·.slot)).length < 8)
    (hfree : s.curK.rangeHeld (s.claimBuffer (hallOfCore s.curCore) n.toNat)
      (s.queueSize (hallOfCore s.curCore) n.toNat) true = false) : Runs s q (.qclaim q n) := by
  obtain ⟨hq, hh⟩ := queueFaults_eq_false hhome
  have hbuf : (BitVec.ofNat 64 (s.claimBuffer (hallOfCore s.curCore) n.toNat)).toNat =
      s.claimBuffer (hallOfCore s.curCore) n.toNat := by
    have : s.claimBuffer (hallOfCore s.curCore) n.toNat < 2 ^ 17 := Nat.mod_lt _ (by decide)
    exact Nat.mod_eq_of_lt (by omega)
  refine runs_of_issue h rfl ?_ (firstFault_eq_none ?_) ?_
  · rw [qclaimHeld, hm, moveHeld_eq_false hm htag hslot (by rw [hbuf]; exact hfree)]
    simp
  · simp [hstub, hq, hh, State.claimFault, hin, huses, hmade]
  · dsimp only
    split
    · rfl
    · rw [State.standing_later, State.standing_startCopy]
      exact State.standing_setCur rfl rfl rfl

theorem qput_runs {b : XReg} (hstub : s.inStub = false) (hout : s.queueOut s.curCore s.cur.actor = some n.toNat)
    (huses : s.usesQueues s.curCore s.cur.actor s.cur.phase.toNat = true) (hmade : s.cur.putMade = false)
    (hb : (s.x b).po = false) (hal : (s.x b).v.toNat % 32 = 0)
    (hin : (s.x b).v.toNat + s.queueSize (hallOfCore s.curCore) n.toNat ≤ 2 ^ 17)
    (hp : s.firstPoison s.curCore (s.x b).v.toNat (s.queueSize (hallOfCore s.curCore) n.toNat) = none)
    (hfree : s.curK.rangeHeld (s.x b).v.toNat (s.queueSize (hallOfCore s.curCore) n.toNat) false = false) :
    Runs s q (.qput q n b) := by
  obtain ⟨hq, hh⟩ := queueFaults_eq_false hhome
  refine runs_of_issue h rfl ?_ (firstFault_eq_none ?_) ?_
  · rw [qputHeld, hm, Core.addrHeld_eq_false hfree]
    simp
  · simp only [List.forall_mem_cons, hal]
    exact ⟨hstub, hq, by simp [State.claimFault, hout, huses], hb, rfl, decide_eq_false (Nat.not_lt.2 hin), hh,
      exportPoison_eq_false hp, hmade, fun _ he => absurd he List.not_mem_nil⟩
  · split <;> simp

end queues

/-! #### Modes, signals and windows (R185 to R187, R220, R221) -/

section windows

variable (h : s.issues) (hm : s.memHeld = false) (hstub : s.inStub = false)
include h hm hstub

theorem mode_runs {m : BitVec 3} {l : Nat} (hl : s.curK.load = some l)
    (hbit : bitAt (s.actorWord s.curCore s.cur.actor 0) 58 = true) (hmode : m.toNat ∈ (s.loadAt l).modes) :
    Runs s q (.mode q m) := by
  refine runs_of_issue h rfl (by rw [hm, Bool.and_false]) (firstFault_eq_none ?_) ?_
  · simp [hstub, hbit, hl, hmode]
  · simp [hl]

theorem sig_runs {g : BitVec 6} {l : Nat} (hl : s.curK.load = some l) (hsig : g.toNat ∈ (s.loadAt l).signals) :
    Runs s q (.sig q g) := by
  refine runs_of_issue h rfl (by rw [hm, Bool.and_false]) (firstFault_eq_none ?_) ?_
  · simp [hstub, hl, hsig]
  · simp only [hl]
    rw [foldl_keeps State.standing (fun t c => t.standing_sendSignal c g.toNat), State.standing_elasticEffect]

variable {w : BitVec 4} {b : XReg} (hb : (s.x b).po = false)
include hb

theorem wfree_runs (hend : s.isConsumer s.curCore w.toNat = true)
    (hcount : s.freedCount w.toNat + (s.x b).v.toNat ≤ s.declared w.toNat) : Runs s q (.wfree q w b) := by
  refine runs_of_issue h rfl (by rw [hm, Bool.and_false]) (firstFault_eq_none ?_) ?_
  · simp [hstub, State.endFault, hend, hb, hcount]
  · dsimp only
    split
    · rfl
    · rw [State.standing_sendCredit, State.setWin, State.standing_setCfg]
      exact State.standing_setCur rfl rfl rfl

theorem wput_runs (hend : s.isProducer s.curCore w.toNat = true) (hal : (s.x b).v.toNat % 32 = 0)
    (hin : (s.x b).v.toNat + s.winSize s.curCore w.toNat ≤ 2 ^ 17)
    (hp : s.firstPoison s.curCore (s.x b).v.toNat (s.winSize s.curCore w.toNat) = none)
    (hcount : s.sentCount w.toNat < s.declared w.toNat)
    (hfree : s.curK.rangeHeld (s.x b).v.toNat (s.winSize s.curCore w.toNat) false = false) :
    Runs s q (.wput q w b) := by
  refine runs_of_issue h rfl ?_ (firstFault_eq_none ?_) (by simp)
  · rw [wputHeld, hm, Core.addrHeld_eq_false hfree]
    simp
  · simp only [List.forall_mem_cons, hal]
    exact ⟨hstub, by simp [State.endFault, hend], hb, rfl, decide_eq_false (Nat.not_lt.2 hin),
      exportPoison_eq_false hp, decide_eq_false (Nat.not_lt.2 hcount), fun _ he => absurd he List.not_mem_nil⟩

end windows

/-! #### Commands of the grammar engines (R224, R225) -/

section grammar

variable (h : s.issues) (hm : s.memHeld = false) {a b : XReg}
include h hm

theorem commandForm_runs {i : Instr} {fn : Nat} (hstub : s.inStub = false) (he : exec i s = commandForm q fn a b s)
    (hchecks : ∀ e ∈ s.commandChecks fn a b, e.1 = false) : Runs s q i := by
  refine runs_of_issue h he (by rw [hm, Bool.and_false]) (firstFault_eq_none ?_) (by simp)
  simpa [hstub] using hchecks

theorem gqry_runs (hroom : s.cur.rq.length < 8) (hchecks : ∀ e ∈ s.commandChecks 4 a b, e.1 = false) :
    Runs s q (.gqry q a b) :=
  runs_of_issue h rfl (by rw [hm, Ctx.rqFull_eq_false hroom]; rfl) (firstFault_eq_none hchecks) (by simp)

end grammar

end Sys2Proof.Machine

namespace Sys2Proof.Machine

variable {s : State} {q : Issue}

/-! #### The checks of a grammar command (R225) -/

section commandChecks

variable {a b : XReg} (ha : (s.x a).po = false) (hb : (s.x b).po = false) (hhigh : bits (s.x a).v 13 51 = 0)
include ha hb hhigh

theorem gopenChecks_pass (hlow : bits (s.x b).v 32 32 = 0)
    (hslot : ∃ h, s.curK.load = some h ∧
      bitAt (s.slotWord (wingOfCore s.curCore) h (bits (s.x a).v 10 3)) 63 = true) :
    ∀ e ∈ s.commandChecks 0 a b, e.1 = false := by
  obtain ⟨l, hl, hdeclared⟩ := hslot
  simp [State.commandChecks, State.commandRange, ha, hb, hhigh, hlow, hl, hdeclared]

/-- A command other than GOPEN names no slot (R224). -/
theorem commandChecks_pass {fn : Nat} (hfn : fn ≠ 0) (hslot : bits (s.x a).v 10 3 = 0)
    (hstep : fn = 1 → bits (s.x b).v 32 32 = 0) (hqry : fn = 4 → bits (s.x b).v 2 62 = 0)
    (hmask : fn = 2 → (s.x b).v.toNat % 8 = 0 ∧ (s.sharedKey (s.x b).v 32768).isSome = true) :
    ∀ e ∈ s.commandChecks fn a b, e.1 = false := by
  simpa [State.commandChecks, State.commandRange, ha, hb, hhigh, hslot, hfn] using
    ⟨⟨hstep, hqry⟩, fun h2 => (hmask h2).1, fun h2 => (hmask h2).2⟩

end commandChecks

/-- x0 is clean (R57). -/
theorem State.x_zero_clean (s : State) : (s.x 0).po = false := rfl

/-! #### System forms (R226 to R235) -/

theorem privFaultOf_eq_false (hsys : isSystemCore s.curCore = true) : s.privFaultOf.1 = false := by
  rw [State.privFaultOf, hsys]
  rfl

theorem areaHeld_eq_false {b : XReg} {len : Nat} (harea : AreaFree s b len) : areaHeld (s.x b).v len s = false := by
  obtain ⟨-, -, -, hfree, hslot⟩ := harea
  rw [areaHeld, Core.noEntry_eq_false hslot, Core.addrHeld_eq_false hfree]
  rfl

theorem areaChecks_pass {b : XReg} {len : Nat} (harea : AreaFree s b len) :
    ∀ e ∈ s.areaChecks b len, e.1 = false := by
  obtain ⟨hb, hal, hin, -, -⟩ := harea
  simp only [State.areaChecks, List.forall_mem_cons, hal]
  exact ⟨hb, rfl, decide_eq_false (Nat.not_lt.2 hin), fun _ he => absurd he List.not_mem_nil⟩

theorem addressChecks_pass {α : Type} {a : XReg} (ha : (s.x a).po = false) {f : Word64 → Option α}
    (hf : (f (s.x a).v).isSome = true) :
    ∀ e ∈ addressChecks f a s, e.1 = false := by
  simp [addressChecks, ha, Option.isNone_eq_false_iff, hf]

section system

variable (h : s.issues) (hsys : isSystemCore s.curCore = true) {a b : XReg} (ha : (s.x a).po = false)
include h hsys

theorem resultForm_runs {i : Instr} {group : Nat} {checks : State → List (Bool × FaultInfo)}
    {f : State → State × Word64 × Bool} (he : exec i s = resultForm q i group a b checks f s)
    (hchecks : ∀ e ∈ checks s, e.1 = false) (harea : AreaFree s b 8)
    (hf : (f s.countIssue).1.standing = s.countIssue.standing) : Runs s q i := by
  refine runs_of_issue h he (areaHeld_eq_false harea) (firstFault_eq_none ?_) ?_
  · simp only [List.cons_append, List.forall_mem_cons, List.forall_mem_append]
    exact ⟨privFaultOf_eq_false hsys, hchecks, areaChecks_pass harea⟩
  · simp [hf]

include ha

theorem cfgw_runs {e : Nat × Nat × Nat} (he : cfgTarget (s.x a).v = some e)
    (hfree : (s.targetFault e.1 e.2.1 e.2.2 (s.x a).v).1 = false) (hb : (s.x b).po = false) :
    Runs s q (.cfgw q a b) := by
  refine runs_of_issue h rfl rfl (firstFault_eq_none ?_) ?_
  · simp [privFaultOf_eq_false hsys, ha, hb, he, hfree]
  · dsimp only
    split <;> simp

theorem rtw_runs {e : Nat × Nat} (he : routeTarget (s.x a).v = some e) (hfree : s.routeHeld e.1 e.2 = false)
    (hb : (s.x b).po = false) : Runs s q (.rtw q a b) := by
  refine runs_of_issue h rfl rfl (firstFault_eq_none ?_) (by simp)
  simp [privFaultOf_eq_false hsys, ha, hb, he, hfree]

theorem cfgr_runs (harea : AreaFree s b 8) (ht : (cfgTarget (s.x a).v).isSome = true) :
    Runs s q (.cfgr q a b) := by
  refine resultForm_runs h hsys rfl (addressChecks_pass ha ht) harea ?_
  split <;> rfl

theorem cfgcrc_runs (harea : AreaFree s b 8) (ht : (crcTarget (s.x a).v).isSome = true) :
    Runs s q (.cfgcrc q a b) :=
  resultForm_runs h hsys rfl (addressChecks_pass ha ht) harea rfl

theorem dmap_runs (harea : AreaFree s b 8) (ht : (dmapTarget (s.x a).v).isSome = true) :
    Runs s q (.dmap q a b) := by
  refine resultForm_runs h hsys rfl (addressChecks_pass ha ht) harea ?_
  split <;> rfl

/-- SECH and SECV: the block and the area are free (R234). -/
theorem security_runs {i : Instr} (block : Nat) (area : State → Nat)
    (he : exec i s = issue q 1 (securityHeld a b block (area s) s) (s.securityChecks a b block (area s)) none
      (fun u => u.startSecurity i a b block (area u)) s) (harea : AreaFree s b (area s))
    (hal : (s.x a).v.toNat % 8 = 0) (hin : (s.x a).v.toNat + block ≤ 2 ^ 17)
    (hfree : s.curK.rangeHeld (s.x a).v.toNat block false = false) : Runs s q i := by
  refine runs_of_issue h he ?_ (firstFault_eq_none ?_) (by simp [State.startSecurity])
  · rw [securityHeld, areaHeld_eq_false harea, Core.addrHeld_eq_false hfree]
    rfl
  · simp only [List.forall_mem_append, List.forall_mem_cons, hal]
    exact ⟨⟨privFaultOf_eq_false hsys, ha, rfl, decide_eq_false (Nat.not_lt.2 hin),
      fun _ he => absurd he List.not_mem_nil⟩, areaChecks_pass harea⟩

end system

/-! #### Commands of the matrix queue (R165) -/

section matrix

variable (h : s.issues) (hown : s.ownsMatrix s.curCore s.curCtx = true) (hq : s.curK.mq.length < 4) {a b : XReg}
include h hown hq

theorem mzero_runs (z : Bool) : Runs s q (.mzero q z) := by
  refine runs_of_issue h rfl (queueHeld_eq_false hq fun _ hr => absurd hr List.not_mem_nil)
    (firstFault_eq_none ?_) (by simp)
  simp [matrixFaultOf_of_owner hown]

theorem macForm_runs {i : Instr} {f : MFmt} {kc : BitVec 6} (he : exec i s = macForm q i f a b kc s)
    (ha : (s.x a).v.toNat % 8 = 0) (hb : (s.x b).v.toNat % 8 = 0)
    (hp : ∀ r ∈ macRegs f a b, (s.x r).po = false)
    (hr : RangesFree s false (spans (s.macRanges f a b (kc.toNat + 1)))) : Runs s q i := by
  refine runs_of_issue h he (queueHeld_eq_false hq hr) (firstFault_eq_none ?_) (by simp)
  simp only [State.macChecks, List.forall_mem_cons, List.forall_mem_append, List.forall_mem_map, ha, hb]
  refine ⟨matrixFaultOf_of_owner hown, ⟨hp, rfl, rfl, fun _ he => absurd he List.not_mem_nil⟩, fun r hrange => ?_⟩
  exact decide_eq_false (Nat.not_lt.2 (hr _ (List.mem_map_of_mem hrange)).1)

variable (hm : s.memHeld = false) (hp : (s.x a).po = false) (ha : (s.x a).v.toNat % 256 = 0)
include hm hp ha

theorem mldz_runs (z : Bool) (hr : RangesFree s false [((s.x a).v.toNat, 8192)]) : Runs s q (.mldz q z a) := by
  refine runs_of_issue h rfl ?_ (bankChecks_eq_none hown hp ha hr) (by simp)
  rw [hm, queueHeld_eq_false hq hr]
  rfl

theorem mstz_runs (z : Bool) (hr : RangesFree s true [((s.x a).v.toNat, 8192)]) : Runs s q (.mstz q z a) := by
  refine runs_of_issue h rfl ?_ (bankChecks_eq_none hown hp ha hr) (by simp)
  rw [hm, queueHeld_eq_false hq hr]
  rfl

end matrix

/-- Settles O29: the forms by the unit that they hand their work to. -/
theorem formsOfTheUnitsComplete : Obligations.FormsOfTheUnitsComplete := by
  intro s q acq dw z o sc a b d n w m g f kc home l h runs clean at' xa xb c t room tag slot free
  refine ⟨fun hm ha => ⟨?words, ?atomics, ?flags, ?moves⟩, fun hm => fence_runs h hm sc, ?streams, ?queues, ?modes,
    ?grammar, ?system, ?windows, ?matrix⟩
  case words =>
    intro k hk hal
    have hchecks := wordChecks_pass ha hk hal
    exact ⟨ald_runs h hm acq sc hchecks, fun hstub hb =>
      ⟨ast_runs h hm hstub acq sc hchecks hb, fun hroom => acas_runs h hm hstub hroom o sc hchecks hb⟩⟩
  case atomics =>
    intro hk hal hroom hstub hb
    have hchecks := wordChecks_pass ha hk hal
    have run := fun {i : Instr} {kind : AccKind} (he : exec i s = atomForm q o sc kind a b s) =>
      atomForm_runs h hm hstub hroom he hchecks hb
    exact ⟨run rfl, run rfl, run rfl, run rfl, run rfl, run rfl, run rfl, run rfl⟩
  case flags =>
    intro hstub hd hal
    exact ⟨stf_runs h hm hstub ha hd hal, sete_runs h hm hstub ha hd hal⟩
  case moves =>
    intro hb hd htag hslot hal hbl hdl hlo hhi htile hk
    have hr : MoveReady s a b d := ⟨⟨ha, hb, hd⟩, htag, hslot, ⟨hal, hbl, hdl⟩, ⟨hlo, hhi⟩, htile, hk⟩
    exact ⟨tmovIn_runs h hm hr, fun hfree hstub hp => tmovOut_runs h hm hr hstub hfree hp⟩
  case streams =>
    intro hm hn
    exact ⟨fun hstub => ⟨sstart_runs h hm hstub hn, sstop_runs h hm hstub hn, sbar_runs h hm hstub⟩,
      sstat_runs h hm hn⟩
  case queues =>
    intro hk size uses hm hhome
    exact ⟨qstat_runs h hm hhome, qclaim_runs h hm hhome, qput_runs h hm hhome⟩
  case modes =>
    intro hm hstub hl
    exact ⟨mode_runs h hm hstub hl, sig_runs h hm hstub hl⟩
  case grammar =>
    intro noSlot hm ha hhigh
    refine ⟨fun hstub => ⟨fun hb hlow => ⟨fun hslot => ?gopen, fun hslot => ?gstep⟩,
      fun hb hslot hal hk => ?gmask, fun hslot => ?gclose⟩, fun hb hslot hlow hroom => ?gqry⟩
    case gopen => exact commandForm_runs h hm hstub rfl (gopenChecks_pass ha hb hhigh hlow hslot)
    case gstep =>
      exact commandForm_runs h hm hstub (fn := 1) rfl
        (commandChecks_pass ha hb hhigh (by decide) hslot (fun _ => hlow) nofun nofun)
    case gmask =>
      exact commandForm_runs h hm hstub (fn := 2) rfl
        (commandChecks_pass ha hb hhigh (by decide) hslot nofun nofun fun _ => ⟨hal, hk⟩)
    case gclose =>
      exact commandForm_runs h hm hstub (fn := 3) rfl
        (commandChecks_pass ha s.x_zero_clean hhigh (by decide) hslot nofun nofun nofun)
    case gqry =>
      exact gqry_runs h hm hroom
        (commandChecks_pass ha hb hhigh (by decide) hslot nofun (fun _ => hlow) nofun)
  case system =>
    intro hsys ha
    exact ⟨fun e he => cfgw_runs h hsys ha he, fun e he => rtw_runs h hsys ha he,
      fun harea => ⟨cfgr_runs h hsys ha harea, cfgcrc_runs h hsys ha harea, dmap_runs h hsys ha harea,
        security_runs h hsys ha 208 (fun _ => 8) rfl harea⟩,
      security_runs h hsys ha 32 (·.sechArea a) rfl⟩
  case windows =>
    intro hm hb
    exact ⟨fun hend hstub => wfree_runs h hm hstub hb hend,
      fun hend hstub => wput_runs h hm hstub hb hend⟩
  case matrix =>
    intro hown hq gr ab scales
    refine ⟨mzero_runs h hown hq z, fun hpa ha hpb hb => ⟨fun hf hr => ?mma, fun hr => ?mmai,
      fun hf hpa' hpb' hr => ?mmas⟩,
      fun hp ha hm => ⟨mldz_runs h hown hq hm hp ha z, mstz_runs h hown hq hm hp ha z⟩⟩
    case mma =>
      refine macForm_runs h hown hq rfl ha hb (macRegs_clean (scaled_of_plain hf) hpa hpb) ?_
      rw [spans_macRanges_plain (scaled_of_plain hf)]
      exact hr
    case mmai =>
      refine macForm_runs h hown hq rfl ha hb (macRegs_clean rfl hpa hpb) ?_
      rw [spans_macRanges_plain rfl]
      exact hr
    case mmas =>
      refine macForm_runs h hown hq rfl ha hb (macRegs_clean_scaled hf hpa hpb hpa' hpb') ?_
      rw [spans_macRanges_scaled hf]
      exact hr

end Sys2Proof.Machine

namespace Sys2Proof.Machine

variable {s u v w : State} {q : Issue} {i : Instr}

/-! ### An instruction that runs has completed (R61, R97) -/

/-- Neither a hold nor a fault counts an issue and leaves its context running. -/
theorem complete_of_runs {hold : Bool} {flt : Option FaultInfo} {eff : State → State} (hr : Runs s q i)
    (he : exec i s = issue q 1 hold flt none eff s) : exec i s = .next (s.complete q 1 none eff) := by
  obtain ⟨t, ht, hcount, -, hrun, hhalt, -⟩ := hr
  rcases issue_cases (he ▸ ht) with ⟨rfl, -⟩ | ⟨hr, -, ⟨f, -, rfl⟩ | ⟨-, -, rfl⟩ | ⟨-, -, rfl⟩⟩
  · exact absurd hcount (by bv_omega)
  · exact absurd hhalt (State.takeFault_stopped hr f hrun)
  · exact absurd hhalt (State.takeFault_stopped hr _ hrun)
  · exact ht

/-! ### States within an issue (R76, R97)

The effect of a form that hands work to a unit passes from the state whose issue has counted to the one that the
issue leaves, one operation of the state after another. None of them writes anything yet. -/

/-- State u stands within an issue of s that has counted: nothing is written, and the same context executes. -/
structure InIssue (s u : State) : Prop where
  place : u.cycle = s.cycle ∧ u.curCore = s.curCore ∧ u.curCtx = s.curCtx
  counted : u.cur.ldist = s.cur.ldist + 1
  unwritten : NothingWritten s u

theorem completesWith_of_runs {hold : Bool} {flt : Option FaultInfo} {eff : State → State}
    {P : State → Prop} (hr : Runs s q i) (he : exec i s = issue q 1 hold flt none eff s)
    (hu : InIssue s (eff s.countIssue)) (hP : P (eff s.countIssue)) : CompletesWith i s q P :=
  ⟨_, complete_of_runs hr he, hu.counted, hP⟩

/-- What a state within an issue is told by: its place, and what is written. -/
def State.setting (s : State) : (Nat × Nat × Nat) × List Host.Cell × List Nat × List Nat × List (Nat × Core) :=
  ((s.cycle, s.curCore, s.curCtx), s.mem, s.poison, s.full, s.cores)

theorem InIssue.congr (h : InIssue s v) (e : u.setting = v.setting) : InIssue s u := by
  simp only [State.setting, Prod.mk.injEq] at e
  obtain ⟨⟨hcycle, hcore, hctx⟩, hmem, hpoison, hfull, hcores⟩ := e
  obtain ⟨⟨pcycle, pcore, pctx⟩, hcount, hnone⟩ := h
  have hk : ∀ c, u.core c = v.core c := fun c => by rw [State.core, hcores, State.core]
  have hx : ∀ c x, u.ctx c x = v.ctx c x := fun c x => by rw [State.ctx, hk, State.ctx]
  have hcur : u.cur = v.cur := by rw [State.cur, hcore, hctx, hx, State.cur]
  have hcurK : u.curK = v.curK := by rw [State.curK, hcore, hk, State.curK]
  refine ⟨⟨hcycle.trans pcycle, hcore.trans pcore, hctx.trans pctx⟩, hcur ▸ hcount,
    ⟨hmem.trans hnone.mem, hpoison.trans hnone.poison, hfull.trans hnone.full, hcur ▸ hnone.own,
      hcurK ▸ hnone.units, fun x hx3 hne => (hx _ x).trans (hnone.contexts x hx3 hne),
      fun c hc => (hk c).trans (hnone.others c hc)⟩⟩

theorem State.cur_setCurK (s : State) (k : Core) : (s.setCurK k).cur = k.ctx s.curCtx := by
  rw [State.cur_eq, State.curK_setCurK]
  rfl

/-- What counts and orders the operations of the executing context may be set. -/
theorem InIssue.setCur (h : InIssue s v) {t : Ctx} (hl : t.ldist = v.cur.ldist)
    (ht : t = { v.cur with
      ldist := t.ldist, rq := t.rq, tags := t.tags, acq := t.acq, fence := t.fence, areas := t.areas,
      claimMade := t.claimMade, putMade := t.putMade, freed := t.freed, reserved := t.reserved,
      sent := t.sent, elastic := t.elastic, txn := t.txn }) : InIssue s (v.setCur t) := by
  obtain ⟨⟨pcycle, pcore, pctx⟩, hcount, hnone⟩ := h
  refine ⟨⟨pcycle, pcore, pctx⟩, by rw [State.cur_setCur, hl, hcount],
    ⟨hnone.mem, hnone.poison, hnone.full, ?own, ?units, fun x hx hne => ?contexts, fun c hc => ?others⟩⟩
  case own =>
    rw [State.cur_setCur]
    exact ht.trans (by rw [hnone.own])
  case units =>
    rw [State.curK_setCur, Core.setCtx_units, hnone.units]
  case contexts =>
    refine Eq.trans ?_ (hnone.contexts x hx hne)
    rw [State.ctx, ← pcore]
    refine (congrArg (Core.ctx · x) (v.curK_setCur t)).trans (Core.ctx_setCtx_ne _ _ ?_)
    rw [pctx]
    omega
  case others =>
    exact (State.core_setCore_ne _ _ (pcore ▸ hc)).trans (hnone.others c hc)

/-- And the scoreboard, the matrix queue and the put counts of its core. -/
theorem InIssue.setCurK (h : InIssue s v) {k : Core}
    (hk : k = { v.curK with score := k.score, mq := k.mq, puts := k.puts }) : InIssue s (v.setCurK k) := by
  have hctx : ∀ x, k.ctx x = v.curK.ctx x := fun x => by
    rw [hk]
    rfl
  obtain ⟨⟨pcycle, pcore, pctx⟩, hcount, hnone⟩ := h
  have hcur : (v.setCurK k).cur = v.cur := (v.cur_setCurK k).trans (hctx _)
  refine ⟨⟨pcycle, pcore, pctx⟩, by rw [hcur, hcount],
    ⟨hnone.mem, hnone.poison, hnone.full, hcur ▸ hnone.own, ?units, fun x hx hne => ?contexts,
      fun c hc => ?others⟩⟩
  case units =>
    rw [State.curK_setCurK, hk, hnone.units]
  case contexts =>
    refine Eq.trans ?_ (hnone.contexts x hx hne)
    exact State.ctx_setCore_keeps hctx _ x
  case others =>
    exact (State.core_setCore_ne _ _ (pcore ▸ hc)).trans (hnone.others c hc)

theorem InIssue.countIssue (s : State) : InIssue s s.countIssue := by
  refine ⟨⟨rfl, rfl, rfl⟩, by rw [State.countIssue_cur], ⟨rfl, rfl, rfl, ?_, ?_, fun x hx hne => ?_, fun c hc => ?_⟩⟩
  · rw [State.countIssue_cur]
  · rw [State.countIssue, State.curK_setCur, Core.setCtx_units]
  · exact (congrArg (Core.ctx · x) (s.curK_setCur _)).trans (Core.ctx_setCtx_ne _ _ (by omega))
  · exact State.core_setCore_ne _ _ hc

end Sys2Proof.Machine

namespace Sys2Proof.Machine

variable {s u v w : State} {q : Issue} {i j : Instr}

/-! ### Events that stand in the agenda -/

theorem Scheduled.later (h : Scheduled s u i) (n : Nat) (j : Instr) : Scheduled s (u.later n j) i := by
  obtain ⟨due, hlt, hmem⟩ := h
  exact ⟨due, hlt, mem_agendaInsert_of_mem hmem _ _⟩

theorem scheduled_later (h : u.cycle = s.cycle) {n : Nat} (hn : 0 < n) (i : Instr) :
    Scheduled s (u.later n i) i :=
  ⟨_, by omega, mem_agendaInsert ..⟩

theorem Scheduled.of_agenda (h : Scheduled s v i) (hu : u.agenda = v.agenda) : Scheduled s u i := by
  obtain ⟨due, hlt, hmem⟩ := h
  exact ⟨due, hlt, hu ▸ hmem⟩

/-! ### Operations of the state within an issue -/

theorem InIssue.later (h : InIssue s v) (n : Nat) (i : Instr) : InIssue s (v.later n i) := h.congr rfl

theorem InIssue.newId (h : InIssue s v) : InIssue s v.newId := h.congr rfl

theorem InIssue.sendPacket (h : InIssue s v) (p : Packet) : InIssue s (v.sendPacket p) := h.congr rfl

theorem InIssue.setWin (h : InIssue s v) (c n k : Nat) (x : Word64) : InIssue s (v.setWin c n k x) :=
  h.congr rfl

theorem InIssue.setStream (h : InIssue s v) (hk n : Nat) (t : Stream) : InIssue s (v.setStream hk n t) :=
  h.congr rfl

theorem InIssue.mergeOwn (h : InIssue s v) (c x : Nat) (sc : Scope) : InIssue s (v.mergeOwn c x sc) :=
  h.congr (by cases sc <;> rfl)

theorem InIssue.addRange (h : InIssue s v) (id lo len : Nat) (write slot : Bool) :
    InIssue s (v.addRange id lo len write slot) := h.setCurK rfl

theorem InIssue.pushEntry (h : InIssue s v) (id : Nat) (mem : Bool) : InIssue s (v.pushEntry id mem) :=
  h.setCur rfl rfl

theorem InIssue.deferEntry (h : InIssue s v) (mem : Bool) : InIssue s (v.deferEntry mem) :=
  (h.pushEntry _ mem).newId

theorem InIssue.holdAcquire (h : InIssue s v) (acq : Bool) : InIssue s (v.holdAcquire acq) := by
  unfold State.holdAcquire
  split
  · exact h.setCur rfl rfl
  · exact h

theorem InIssue.elasticEffect (h : InIssue s v) : InIssue s v.elasticEffect := by
  unfold State.elasticEffect
  dsimp only
  split
  · split
    · obtain ⟨d, n, hd⟩ := (v.setCur { v.cur with elastic := true }).detEvent_eq _ 3 _ _ _ _
      rw [hd]
      exact (h.setCur (t := { v.cur with elastic := true }) rfl rfl).congr rfl
    · exact h
  · exact h

/-! ### Before an operation leaves

What precedes the departure of an operation touches no more of the state than the executing context and the
determinism records of loads. -/

/-- State v stands within an issue of s, and only cores and loads differ. -/
structure Prepared (s v : State) : Prop extends InIssue s v where
  rest : v = { s with cores := v.cores, loads := v.loads }

theorem Prepared.of_rest (h : Prepared s v) (hi : InIssue s w)
    (hw : w = { v with cores := w.cores, loads := w.loads }) : Prepared s w :=
  ⟨hi, hw.trans (congrArg (fun u => { u with cores := w.cores, loads := w.loads }) h.rest)⟩

/-- What does not rest on cores and loads is what it was. -/
theorem Prepared.keeps {β : Type} (h : Prepared s v) (g : State → β)
    (hg : ∀ cores loads, g { s with cores := cores, loads := loads } = g s) : g v = g s := by
  rw [h.rest, hg]

theorem Prepared.countIssue (s : State) : Prepared s s.countIssue := ⟨.countIssue s, rfl⟩

theorem Prepared.pushEntry (h : Prepared s v) (id : Nat) (mem : Bool) : Prepared s (v.pushEntry id mem) :=
  h.of_rest (h.toInIssue.pushEntry id mem) rfl

theorem Prepared.holdAcquire (h : Prepared s v) (acq : Bool) : Prepared s (v.holdAcquire acq) :=
  h.of_rest (h.toInIssue.holdAcquire acq) (by unfold State.holdAcquire; split <;> rfl)

theorem State.elasticEffect_rest (s : State) :
    s.elasticEffect = { s with cores := s.elasticEffect.cores, loads := s.elasticEffect.loads } := by
  unfold State.elasticEffect
  dsimp only
  split
  · split
    · obtain ⟨d, n, hd⟩ := (s.setCur { s.cur with elastic := true }).detEvent_eq _ 3 _ _ _ _
      rw [hd]
      rfl
    · rfl
  · rfl

theorem Prepared.elasticEffect (h : Prepared s v) : Prepared s v.elasticEffect :=
  h.of_rest h.toInIssue.elasticEffect v.elasticEffect_rest

theorem Prepared.nextId (h : Prepared s v) : v.nextId = s.nextId := h.keeps (·.nextId) fun _ _ => rfl

theorem Prepared.sharedAt (h : Prepared s v) {a : Word64} {n key : Nat} (hk : s.sharedKey a n = some key) :
    v.sharedAt a n = key := by
  rw [h.keeps (State.sharedAt · a n) fun _ _ => rfl, State.sharedAt, hk]
  rfl

/-! ### The executing context and its core after each -/

@[simp] theorem State.cur_pushEntry (s : State) (id : Nat) (mem : Bool) :
    (s.pushEntry id mem).cur = { s.cur with rq := s.cur.rq ++ [⟨id, false, {}, mem⟩] } := State.cur_setCur ..

@[simp] theorem State.cur_deferEntry (s : State) (mem : Bool) :
    (s.deferEntry mem).cur = { s.cur with rq := s.cur.rq ++ [⟨s.nextId, false, {}, mem⟩] } :=
  s.cur_pushEntry s.nextId mem

theorem State.cur_holdAcquire (s : State) (acq : Bool) : (s.holdAcquire acq).cur =
    { s.cur with acq := if acq = true then setAdd s.nextId s.cur.acq else s.cur.acq } := by
  unfold State.holdAcquire
  split
  · exact State.cur_setCur ..
  · rfl

@[simp] theorem State.cur_mergeOwn (s : State) (c x : Nat) (sc : Scope) : (s.mergeOwn c x sc).cur = s.cur := by
  cases sc <;> rfl

@[simp] theorem State.curK_mergeOwn (s : State) (c x : Nat) (sc : Scope) :
    (s.mergeOwn c x sc).curK = s.curK := by
  cases sc <;> rfl

@[simp] theorem State.curK_addRange (s : State) (id lo len : Nat) (write slot : Bool) :
    (s.addRange id lo len write slot).curK =
      { s.curK with score := s.curK.score ++ [⟨id, lo, len, write, slot⟩] } := State.curK_setCurK ..

@[simp] theorem State.cur_addRange (s : State) (id lo len : Nat) (write slot : Bool) :
    (s.addRange id lo len write slot).cur = s.cur := State.cur_setCurK ..

/-- An elastic side effect sets one bit of its context (R301). -/
theorem State.elasticEffect_keeps {β : Type} (g : State → β)
    (hcur : ∀ s b, g (s.setCur { s.cur with elastic := b }) = g s)
    (hload : ∀ s h l, g (State.setLoad s h l) = g s) (s : State) : g s.elasticEffect = g s := by
  unfold State.elasticEffect
  dsimp only
  split
  · split
    · obtain ⟨d, n, hd⟩ := (s.setCur { s.cur with elastic := true }).detEvent_eq _ 3 _ _ _ _
      rw [hd, hload, hcur]
    · rfl
  · rfl

@[simp] theorem State.elasticEffect_rq (s : State) : s.elasticEffect.cur.rq = s.cur.rq :=
  State.elasticEffect_keeps (·.cur.rq) (fun s b => by rw [State.cur_setCur]) (fun _ _ _ => rfl) s

@[simp] theorem State.elasticEffect_tags (s : State) : s.elasticEffect.cur.tags = s.cur.tags :=
  State.elasticEffect_keeps (·.cur.tags) (fun s b => by rw [State.cur_setCur]) (fun _ _ _ => rfl) s

@[simp] theorem State.elasticEffect_score (s : State) : s.elasticEffect.curK.score = s.curK.score :=
  State.elasticEffect_keeps (·.curK.score) (fun s b => by rw [State.curK_setCur, Core.setCtx_score])
    (fun _ _ _ => rfl) s

@[simp] theorem State.countIssue_score (s : State) : s.countIssue.curK.score = s.curK.score := by
  rw [State.countIssue, State.curK_setCur, Core.setCtx_score]

end Sys2Proof.Machine

namespace Sys2Proof.Machine

variable {s u v w : State} {q : Issue} {i j : Instr}

/-- A form that writes one x register of what it reads once its issue has counted. -/
theorem issue_wroteX (h : s.issues) {hold : Bool} {flt : Option FaultInfo} {lat : Nat} {d : XReg}
    {f : State → Word64} {po : State → Bool} {x : Word64} {b : Bool} (hhold : hold = false)
    (hflt : flt = none) (hx : f s.countIssue = x) (hb : po s.countIssue = b) :
    issue q 1 hold flt none (fun u => u.writeX lat d (f u) (po u)) s = .next (s.wroteX q lat d x b) := by
  subst hhold hflt hx hb
  exact issue_writes h rfl

/-! ### LD and ST (R182 to R184) -/

@[simp] theorem State.countIssue_load (s : State) (key n : Nat) : s.countIssue.load key n = s.load key n :=
  rfl

@[simp] theorem State.countIssue_poisoned (s : State) (key n : Nat) :
    s.countIssue.poisoned key n = s.poisoned key n := rfl

/-- The checks of R183, in their order. -/
theorem tileChecks_eq (s : State) (a : XReg) (addr : Word64) (len : Nat) : s.tileChecks a addr len =
    if (s.x a).po then some (poisonX a) else if addr.toNat % len ≠ 0 then some (alignFault addr)
    else if 2 ^ 17 < addr.toNat + len then some (rangeFault 48 0 addr) else none := by
  simp only [State.tileChecks, firstFault, bne_iff_ne, decide_eq_true_eq]

section tile

variable {wd : Width} {d a : XReg} {o : BitVec 9} {f : FaultInfo} (h : s.issues) (hm : s.memHeld = false)
include h hm

section load

variable (hfree : (s.ldAddr wd a o).toNat + Width.size wd ≤ 2 ^ 17 →
  s.curK.rangeHeld (s.ldAddr wd a o).toNat (Width.size wd) false = false)
include hfree

theorem execLd_completes (hc : s.tileChecks a (s.ldAddr wd a o) (Width.size wd) = none) :
    execLd q wd d a o s = .next (s.wroteX q 4 d
      (BitVec.ofNat 64 (s.load (tileKey s.curCore (s.ldAddr wd a o).toNat) (Width.size wd)))
      (s.poisoned (tileKey s.curCore (s.ldAddr wd a o).toNat) (Width.size wd))) := by
  rw [execLd]
  refine issue_wroteX h (tileHeld_eq_false hm hfree) hc ?_ ?_
  · rw [State.countIssue_load]
    rfl
  · rw [State.countIssue_poisoned]
    rfl

theorem execLd_faults (hc : s.tileChecks a (s.ldAddr wd a o) (Width.size wd) = some f) :
    execLd q wd d a o s = .next (s.takeFault f) := by
  rw [execLd, tileHeld_eq_false hm hfree, hc]
  exact issue_faults h.1

end load

variable (hfree : (s.ldAddr wd a o).toNat + Width.size wd ≤ 2 ^ 17 →
  s.curK.rangeHeld (s.ldAddr wd a o).toNat (Width.size wd) true = false)
include hfree

theorem execSt_completes (hc : s.tileChecks a (s.ldAddr wd a o) (Width.size wd) = none) :
    execSt q wd d a o s = .next (s.complete q 1 none fun u =>
      u.storeVal (tileKey s.curCore (s.ldAddr wd a o).toNat) (Width.size wd) (s.x d).v (s.x d).po) := by
  rw [execSt, tileHeld_eq_false hm hfree, hc]
  refine (issue_completes h).trans (congrArg _ (State.complete_congr ?_))
  rw [State.countIssue_x]
  rfl

theorem execSt_faults (hc : s.tileChecks a (s.ldAddr wd a o) (Width.size wd) = some f) :
    execSt q wd d a o s = .next (s.takeFault f) := by
  rw [execSt, tileHeld_eq_false hm hfree, hc]
  exact issue_faults h.1

end tile

/-- Settles O13: the checks of R183 decide between the access and its first failure. -/
theorem tileLoadsAndStores : Obligations.TileLoadsAndStores := by
  intro s q wd d a o h hm n addr key free fault
  have hc : s.tileChecks a addr n = fault := tileChecks_eq s a addr n
  exact ⟨fun hf hfree => execLd_completes h hm hfree (hc.trans hf),
    fun hf hfree => execSt_completes h hm hfree (hc.trans hf),
    fun f hf => ⟨fun hfree => execLd_faults h hm hfree (hc.trans hf),
      fun hfree => execSt_faults h hm hfree (hc.trans hf)⟩⟩

/-! ### Window descriptors -/

theorem State.win_setWin (ht : Tidy s) (c n k : Nat) (x : Word64) : (s.setWin c n k x).win c n k = x :=
  mapGet_putD _ _ _ ht.cfgSorted

/-- Another word of the descriptor stands as it was. -/
theorem State.win_setWin_ne (s : State) (c n : Nat) {k l : Nat} (h : l ≠ k) (x : Word64) :
    (s.setWin c n k x).win c n l = s.win c n l :=
  mapGet_putD_ne _ _ (by unfold cfgKey; omega) _ _

/-- The high half of a word, whose low half is replaced. -/
theorem bits_high_withBits_low (w : Word64) (v : Nat) : bits (withBits w 0 32 v) 32 32 = bits w 32 32 := by
  have := w.isLt
  simp only [bits, withBits, BitVec.toNat_ofNat]
  omega

theorem State.heldTokens_eq (s : State) (c n : Nat) :
    s.heldTokens c n = (s.cmt c n + 2 ^ 32 - s.rd c n) % 2 ^ 32 := by
  have hrd : s.rd c n < 2 ^ 32 := bits_lt _ 0 32
  rw [State.heldTokens, seqDiff, Nat.mod_eq_of_lt hrd]

@[simp] theorem State.countIssue_reservedCount (s : State) (n : Nat) :
    s.countIssue.reservedCount n = s.reservedCount n := by
  rw [State.reservedCount, State.countIssue_cur, State.reservedCount]

@[simp] theorem State.countIssue_sentCount (s : State) (n : Nat) :
    s.countIssue.sentCount n = s.sentCount n := by
  rw [State.sentCount, State.countIssue_cur, State.sentCount]

@[simp] theorem State.countIssue_freedCount (s : State) (n : Nat) :
    s.countIssue.freedCount n = s.freedCount n := by
  rw [State.freedCount, State.countIssue_cur, State.freedCount]

@[simp] theorem State.countIssue_rd (s : State) (c n : Nat) : s.countIssue.rd c n = s.rd c n := rfl

@[simp] theorem State.countIssue_cmt (s : State) (c n : Nat) : s.countIssue.cmt c n = s.cmt c n := rfl

/-! ### WGET, WAVAIL, WSPACE and WRES (R185, R186, R190) -/

section windowForms

variable (h : s.issues) (hm : s.memHeld = false) {n : BitVec 4} {d b : XReg}
include h hm

theorem wavail_completes (hend : s.isConsumer s.curCore n.toNat = true) : exec (.wavail q d n) s =
    .next (s.wroteX q 2 d (BitVec.ofNat 64 (s.heldTokens s.curCore n.toNat)) false) := by
  refine issue_wroteX h hm (firstFault_eq_none ?_) rfl rfl
  simp [State.endFault, hend]

theorem wget_completes (hend : s.isConsumer s.curCore n.toNat = true) (hb : (s.x b).po = false)
    (hcount : s.freedCount n.toNat + (s.x b).v.toNat < s.declared n.toNat) : exec (.wget q d n b) s =
    .next (s.wroteX q 2 d (BitVec.ofNat 64 (s.tokenAddr n.toNat (s.x b).v.toNat)) false) := by
  refine issue_wroteX h hm (firstFault_eq_none ?_) ?_ rfl
  · simp [State.endFault, hend, hb, hcount]
  · rw [State.countIssue_x]
    rfl

theorem wspace_completes (hend : s.isProducer s.curCore n.toNat = true) : exec (.wspace q d n) s =
    .next (s.wroteX q 2 d
      (BitVec.ofInt 64 ((s.freeSlots s.curCore n.toNat : Int) - s.reservedCount n.toNat)) false) := by
  refine issue_wroteX h hm (firstFault_eq_none ?_) ?_ rfl
  · simp [State.endFault, hend]
  · rw [State.countIssue_reservedCount]
    rfl

theorem wres_completes (hend : s.isProducer s.curCore n.toNat = true) (hb : (s.x b).po = false)
    (hstub : s.inStub = false) (hcount : s.reservedCount n.toNat + (s.x b).v.toNat ≤
      s.declared n.toNat - s.sentCount n.toNat) :
    exec (.wres q n b) s = .next (s.complete q 1 none fun u => u.setCur { u.cur with
      reserved := mapPut n.toNat (s.reservedCount n.toNat + (s.x b).v.toNat) u.cur.reserved }) := by
  have hc : firstFault [(s.inStub, stubFault s.word), s.endFault false n.toNat, ((s.x b).po, poisonX b),
      (decide (s.declared n.toNat - s.sentCount n.toNat < s.reservedCount n.toNat + (s.x b).v.toNat),
        rateFault 2 1 n.toNat (s.sentOf s.curCore n.toNat) (s.reservedCount n.toNat)
          (s.declared n.toNat - s.sentCount n.toNat))] = none := by
    refine firstFault_eq_none ?_
    simp [State.endFault, hend, hb, hstub, hcount]
  dsimp only [exec, execWres]
  rw [hc, hm, Bool.and_false, issue_completes h]
  refine congrArg _ (State.complete_congr ?_)
  rw [State.countIssue_reservedCount]

end windowForms

/-! ### Packets that leave their hall's router (R251, R254) -/

theorem sendPacket_sent (hid : v.nextId = s.nextId) (hcycle : v.cycle = s.cycle) (p : Packet) :
    mapFind s.nextId (v.sendPacket p).packets =
        some { p with id := s.nextId, stamp := s.nextId, poison := halfMarks p.poison } ∧
      Scheduled s (v.sendPacket p) (.routerForward s.nextId) := by
  rw [← hid]
  exact ⟨mapFind_put .., scheduled_later hcycle Nat.one_pos _⟩

/-- A credit carries RD as it stands (R251). -/
theorem sendCredit_sent (hid : v.nextId = s.nextId) (hcycle : v.cycle = s.cycle) (n : Nat) (l : List Nat) :
    (∃ p, mapFind s.nextId (v.sendCredit n l).packets = some p ∧ p.kind = 1 ∧
        p.seq.toNat = v.rd v.curCore n) ∧
      Scheduled s (v.sendCredit n l) (.routerForward s.nextId) := by
  unfold State.sendCredit
  dsimp only
  obtain ⟨hp, hdue⟩ := sendPacket_sent hid hcycle _
  exact ⟨⟨_, hp, rfl, Nat.mod_eq_of_lt (bits_lt _ 0 32)⟩, hdue⟩

@[simp] theorem State.rd_sendCredit (s : State) (k : Nat) (l : List Nat) (c n : Nat) :
    (s.sendCredit k l).rd c n = s.rd c n := rfl

@[simp] theorem State.cmt_sendCredit (s : State) (k : Nat) (l : List Nat) (c n : Nat) :
    (s.sendCredit k l).cmt c n = s.cmt c n := rfl

@[simp] theorem State.freedCount_sendCredit (s : State) (k : Nat) (l : List Nat) (n : Nat) :
    (s.sendCredit k l).freedCount n = s.freedCount n := rfl

/-- RD and the freed count after slots of a consumer end are freed (R186, R251). -/
def State.withFreed (s : State) (n v : Nat) : State :=
  let t := s.setCur { s.cur with freed := mapPut n (s.freedCount n + v) s.cur.freed }
  t.setWin s.curCore n 1 (withBits (t.win s.curCore n 1) 0 32 (t.rd s.curCore n + v))

theorem State.win_withFreed (ht : Tidy s) (n v : Nat) : (s.withFreed n v).win s.curCore n 1 =
    withBits (s.win s.curCore n 1) 0 32 (s.rd s.curCore n + v) :=
  State.win_setWin (Tidy.setCur ht) ..

theorem State.rd_withFreed (ht : Tidy s) (n v : Nat) :
    (s.withFreed n v).rd s.curCore n = (s.rd s.curCore n + v) % 2 ^ 32 := by
  rw [State.rd, State.win_withFreed ht, bits_withBits _ (by decide)]

theorem State.cmt_withFreed (ht : Tidy s) (n v : Nat) :
    (s.withFreed n v).cmt s.curCore n = s.cmt s.curCore n := by
  rw [State.cmt, State.win_withFreed ht, bits_high_withBits_low, State.cmt]

theorem State.freedCount_withFreed (s : State) (n v : Nat) :
    (s.withFreed n v).freedCount n = s.freedCount n + v := by
  refine (congrArg (fun t : Ctx => mapGet 0 n t.freed) (s.cur_setCur _)).trans ?_
  exact mapGet_put ..

theorem InIssue.withFreed (h : InIssue s u) (n v : Nat) : InIssue s (u.withFreed n v) :=
  (h.setCur (t := { u.cur with freed := mapPut n (u.freedCount n + v) u.cur.freed }) rfl rfl).setWin ..

/-- WFREE frees nothing, or frees slots and sends their credit. -/
theorem wfree_counts (h : s.issues) (hm : s.memHeld = false) {n : BitVec 4} {b : XReg}
    (hend : s.isConsumer s.curCore n.toNat = true) (hb : (s.x b).po = false) (hstub : s.inStub = false)
    (hcount : s.freedCount n.toNat + (s.x b).v.toNat ≤ s.declared n.toNat) :
    CompletesWith (.wfree q n b) s q fun u => NothingWritten s u ∧
      ((s.x b).v.toNat = 0 → u = s.countIssue) ∧
      (0 < (s.x b).v.toNat → ∃ holders,
        u = (s.countIssue.withFreed n.toNat (s.x b).v.toNat).sendCredit n.toNat holders) := by
  by_cases hv : (s.x b).v.toNat = 0
  · refine completesWith_of_runs (wfree_runs h hm hstub hb hend hcount) rfl ?_ ?_
    · rw [if_pos hv]
      exact .countIssue s
    · rw [if_pos hv]
      exact ⟨(InIssue.countIssue s).unwritten, fun _ => rfl, fun hpos => absurd hv (Nat.ne_of_gt hpos)⟩
  · have hu : InIssue s ((s.countIssue.withFreed n.toNat (s.x b).v.toNat).sendCredit n.toNat
        (s.countIssue.slotHolders n.toNat (s.x b).v.toNat)) :=
      ((InIssue.countIssue s).withFreed ..).sendPacket _
    refine completesWith_of_runs (wfree_runs h hm hstub hb hend hcount) rfl ?_ ?_
    · rw [if_neg hv]
      exact hu
    · rw [if_neg hv]
      exact ⟨hu.unwritten, fun h0 => absurd h0 hv, fun _ => ⟨_, rfl⟩⟩

/-- Settles O14: each form's own equation, and what WFREE leaves of its descriptor. -/
theorem windowFormsCount : Obligations.WindowFormsCount := by
  intro s q d b w h hm c n v
  refine ⟨fun hend => ⟨?wavail, wget_completes h hm hend, fun hb hstub hcount => ?wfree⟩,
    fun hend => ⟨wspace_completes h hm hend, wres_completes h hm hend⟩⟩
  case wavail => exact (wavail_completes h hm hend).trans (by rw [State.heldTokens_eq])
  case wfree =>
    obtain ⟨u, hu, hl, hnone, hzero, hpos⟩ := wfree_counts (q := q) h hm hend hb hstub hcount
    refine ⟨u, hu, hl, hnone, hzero, fun hv ht => ?_⟩
    obtain ⟨holders, rfl⟩ := hpos hv
    have ht' : Tidy s.countIssue := Tidy.setCur ht
    have hfreed := s.countIssue.freedCount_withFreed n v
    have hrd := State.rd_withFreed ht' n v
    have hcmt := State.cmt_withFreed ht' n v
    obtain ⟨⟨p, hp, hkind, hseq⟩, hdue⟩ :=
      sendCredit_sent (s := s) (v := s.countIssue.withFreed n v) rfl rfl n holders
    rw [State.countIssue_freedCount] at hfreed
    rw [State.countIssue_rd] at hrd
    rw [State.countIssue_cmt] at hcmt
    rw [State.freedCount_sendCredit, State.rd_sendCredit, State.cmt_sendCredit]
    exact ⟨hfreed, hrd, hcmt, p, hp, hkind, hseq, hdue⟩

end Sys2Proof.Machine

namespace Sys2Proof.Machine

variable {s u v w : State} {q : Issue} {i j : Instr}

/-! ### WPUT (R185 to R187, R254) -/

/-- What a release at a scope lets reach an egress are accesses and copies (R280). -/
theorem State.mergeOwn_keeps {β : Type} (g : State → β)
    (hg : ∀ (s : State) accs copies, g { s with accs := accs, copies := copies } = g s) (s : State) (c x : Nat)
    (sc : Scope) : g (s.mergeOwn c x sc) = g s := by
  cases sc
  case c | h => exact hg ..
  case w | p | s => rfl

@[simp] theorem State.mergeOwn_nextId (s : State) (c x : Nat) (sc : Scope) :
    (s.mergeOwn c x sc).nextId = s.nextId := s.mergeOwn_keeps (·.nextId) (fun _ _ _ => rfl) c x sc

@[simp] theorem State.mergeOwn_cycle (s : State) (c x : Nat) (sc : Scope) :
    (s.mergeOwn c x sc).cycle = s.cycle := s.mergeOwn_keeps (·.cycle) (fun _ _ _ => rfl) c x sc

/-- The packet of a WPUT (R187, R254). -/
def State.tokenPacket (s : State) (n lo : Nat) : Packet :=
  { id := 0, load := s.curK.load.getD 31, rc := BitVec.ofNat 8 (bits (s.win s.curCore n 0) 42 8), kind := 0,
    fan := 0, size := BitVec.ofNat 8 (bits (s.win s.curCore n 0) 29 8),
    seq := BitVec.ofNat 32 (s.sentOf s.curCore n),
    data := memBytes s.mem (tileKey s.curCore lo) (s.winSize s.curCore n), poison := [],
    hall := hallOfCore s.curCore, src := some (s.curCore, s.curCtx), op := s.nextId,
    covers := s.covered s.curCore s.curCtx (s.winScope s.curCore n) }

/-- A token's packet on its way, its bytes held until they are read, and its acknowledgements due. -/
def State.withToken (s : State) (sc : Scope) (p : Packet) (n lo size : Nat) : State :=
  let t := (((s.mergeOwn s.curCore s.curCtx sc).sendPacket p).addRange s.nextId lo size false false).later 1
    (.wputReadDone s.nextId)
  { t with acks := mapPut s.nextId ((t.winFan s.curCore n + 1) * 2 ^ 16 + 4 * s.curCore + s.curCtx) t.acks }

@[simp] theorem State.cur_setWin (s : State) (c n k : Nat) (x : Word64) : (s.setWin c n k x).cur = s.cur := rfl

@[simp] theorem State.curK_setWin (s : State) (c n k : Nat) (x : Word64) : (s.setWin c n k x).curK = s.curK :=
  rfl

/-- The counts of a firing after a token more (R186). -/
def State.countToken (s : State) (n : Nat) : State :=
  s.setCur { s.cur with sent := mapPut n (s.sentCount n + 1) s.cur.sent,
                        reserved := mapPut n (s.reservedCount n - 1) s.cur.reserved }

theorem State.putToken_eq (s : State) (n lo : Nat) : s.putToken n lo =
    let t := (s.withToken (s.winScope s.curCore n) (s.tokenPacket n lo) n lo (s.winSize s.curCore n)).countToken n
    t.setWin s.curCore n 1 (withBits (t.win s.curCore n 1) 32 32 (t.sentOf s.curCore n + 1)) := rfl

section withToken

variable (s : State) (sc : Scope) (p : Packet) (n lo size : Nat)

theorem State.cur_withToken : (s.withToken sc p n lo size).cur = s.cur := by
  have h : (s.withToken sc p n lo size).cur =
    (((s.mergeOwn s.curCore s.curCtx sc).sendPacket p).addRange s.nextId lo size false false).cur := rfl
  rw [h, State.cur_addRange]
  exact s.cur_mergeOwn ..

theorem State.curK_withToken : (s.withToken sc p n lo size).curK =
    { s.curK with score := s.curK.score ++ [⟨s.nextId, lo, size, false, false⟩] } := by
  have h : (s.withToken sc p n lo size).curK =
    (((s.mergeOwn s.curCore s.curCtx sc).sendPacket p).addRange s.nextId lo size false false).curK := rfl
  have h' : ((s.mergeOwn s.curCore s.curCtx sc).sendPacket p).curK = s.curK := s.curK_mergeOwn ..
  rw [h, State.curK_addRange, h']

theorem State.withToken_cfg : (s.withToken sc p n lo size).cfg = s.cfg := by
  simp [State.withToken, State.addRange, State.sendPacket, s.mergeOwn_keeps (·.cfg) fun _ _ _ => rfl]

theorem State.withToken_packets :
    (s.withToken sc p n lo size).packets = ((s.mergeOwn s.curCore s.curCtx sc).sendPacket p).packets := by
  simp [State.withToken, State.addRange]

theorem State.withToken_agenda : (s.withToken sc p n lo size).agenda =
    (((s.mergeOwn s.curCore s.curCtx sc).sendPacket p).later 1 (.wputReadDone s.nextId)).agenda := by
  simp [State.withToken, State.addRange]

theorem State.sentOf_withToken (c k : Nat) :
    ((s.withToken sc p n lo size).countToken n).sentOf c k = s.sentOf c k := by
  simp only [State.sentOf, State.win, State.cfgAt, State.countToken, State.setCur_cfg, State.withToken_cfg]

theorem Tidy.withToken (ht : Tidy s) : Tidy (s.withToken sc p n lo size) :=
  ht.mergeOwn.sendPacket.addRange.later.update

theorem InIssue.withToken (h : InIssue s v) : InIssue s (v.withToken sc p n lo size) :=
  ((((h.mergeOwn v.curCore v.curCtx sc).sendPacket p).addRange v.nextId lo size false false).later 1
    (.wputReadDone v.nextId)).congr rfl

theorem withToken_sent (hid : v.nextId = s.nextId) (hcycle : v.cycle = s.cycle) :
    mapFind s.nextId (v.withToken sc p n lo size).packets =
        some { p with id := s.nextId, stamp := s.nextId, poison := halfMarks p.poison } ∧
      Scheduled s (v.withToken sc p n lo size) (.routerForward s.nextId) ∧
      Scheduled s (v.withToken sc p n lo size) (.wputReadDone s.nextId) := by
  have hcycle' := (v.mergeOwn_cycle v.curCore v.curCtx sc).trans hcycle
  obtain ⟨hp, hdue⟩ := sendPacket_sent ((v.mergeOwn_nextId v.curCore v.curCtx sc).trans hid) hcycle' p
  rw [State.withToken_packets]
  refine ⟨hp, (hdue.later 1 _).of_agenda (v.withToken_agenda ..), ?_⟩
  rw [← hid]
  exact (scheduled_later (u := (v.mergeOwn v.curCore v.curCtx sc).sendPacket p) hcycle' Nat.one_pos
    (.wputReadDone v.nextId)).of_agenda (v.withToken_agenda ..)

end withToken

theorem InIssue.countToken (h : InIssue s v) (n : Nat) : InIssue s (v.countToken n) :=
  h.setCur (t := { v.cur with sent := mapPut n (v.sentCount n + 1) v.cur.sent,
                              reserved := mapPut n (v.reservedCount n - 1) v.cur.reserved }) rfl rfl

theorem InIssue.putToken (h : InIssue s v) (n lo : Nat) : InIssue s (v.putToken n lo) :=
  ((h.withToken ..).countToken n).setWin ..

theorem State.score_putToken (s : State) (n lo : Nat) : (s.putToken n lo).curK.score =
    s.curK.score ++ [⟨s.nextId, lo, s.winSize s.curCore n, false, false⟩] := by
  rw [State.putToken_eq]
  dsimp only
  rw [State.curK_setWin, State.countToken, State.curK_setCur, Core.setCtx_score, State.curK_withToken]

theorem State.cur_putToken (s : State) (n lo : Nat) : (s.putToken n lo).cur = { s.cur with
    sent := mapPut n (s.sentCount n + 1) s.cur.sent,
    reserved := mapPut n (s.reservedCount n - 1) s.cur.reserved } := by
  rw [State.putToken_eq]
  dsimp only
  rw [State.cur_setWin, State.countToken, State.cur_setCur]
  simp only [State.sentCount, State.reservedCount, State.cur_withToken]

theorem State.sentOf_putToken (ht : Tidy s) (n lo : Nat) :
    (s.putToken n lo).sentOf s.curCore n = (s.sentOf s.curCore n + 1) % 2 ^ 32 := by
  have htidy : Tidy ((s.withToken (s.winScope s.curCore n) (s.tokenPacket n lo) n lo
    (s.winSize s.curCore n)).countToken n) := Tidy.setCur (Tidy.withToken s _ _ n lo _ ht)
  rw [State.putToken_eq, State.sentOf, State.win_setWin htidy, bits_withBits _ (by decide),
    State.sentOf_withToken]

/-- Settles O15: the packet, the counts and the read range of a token that leaves. -/
theorem wputSendsTheToken : Obligations.WputSendsTheToken := by
  intro s q b w h hm hstub c n a size hend hb hal hin hp hcount hfree
  have hu : InIssue s (s.countIssue.putToken n a) := (InIssue.countIssue s).putToken n a
  obtain ⟨hpacket, hforward, hread⟩ := withToken_sent (s := s) (v := s.countIssue)
    (s.winScope c n) (s.countIssue.tokenPacket n a) n a size rfl rfl
  refine completesWith_of_runs (wput_runs h hm hstub hb hend hal hin hp hcount hfree) rfl hu
    ⟨hu.unwritten, ?sent, ?reserved, ?range, ⟨_, hpacket, rfl, rfl, ?seq, ?route, rfl⟩, ?next, hforward, hread⟩
  case sent =>
    rw [State.sentCount, State.cur_putToken, mapGet_put, State.countIssue_sentCount]
  case reserved =>
    rw [State.reservedCount, State.cur_putToken, mapGet_put, State.countIssue_reservedCount]
  case range =>
    exact (State.score_putToken ..).trans (by rw [State.countIssue_score]; rfl)
  case seq => exact Nat.mod_eq_of_lt (bits_lt _ 32 32)
  case route => exact Nat.mod_eq_of_lt (bits_lt _ 42 8)
  case next => exact fun ht => State.sentOf_putToken (s := s.countIssue) (Tidy.setCur ht) n a

end Sys2Proof.Machine

namespace Sys2Proof.Machine

variable {s u v w : State} {q : Issue} {i j : Instr}

/-! ### Accesses that leave for their bank (R197 to R205) -/

section sendAccess

variable (a : Access) (r : Option Scope)

/-- The access in flight is the operation itself behind its sets, which hold what a release covers (log 9). -/
theorem State.sendAccess_entry (s : State) : ∃ l,
    mapFind s.nextId (s.sendAccess a r).accs = some
      { a with id := s.nextId, core := s.curCore, ctx := s.curCtx, pc := s.cur.pc, fix := s.cur.fix, after := l } ∧
    ∀ sc, r = some sc → ∀ k ∈ s.covered s.curCore s.curCtx sc, k ∈ l := by
  cases r with
  | none => exact ⟨_, mapFind_put .., fun sc h => by cases h⟩
  | some sc =>
    refine ⟨_, mapFind_put .., fun sc' h k hk => ?_⟩
    cases h
    exact List.mem_append_right _ hk

@[simp] theorem State.cur_sendAccess (s : State) : (s.sendAccess a r).cur = s.cur := by
  cases r with
  | none => rfl
  | some sc => exact s.cur_mergeOwn s.curCore s.curCtx sc

theorem InIssue.sendAccess (h : InIssue s v) : InIssue s (v.sendAccess a r) := by
  cases r with
  | none => exact h.congr rfl
  | some sc => exact (h.mergeOwn v.curCore v.curCtx sc).congr rfl

theorem scheduled_sendAccess (hid : v.nextId = s.nextId) (hcycle : v.cycle = s.cycle) :
    Scheduled s (v.sendAccess a r) (.accessReachesBank s.nextId) := by
  rw [← hid]
  cases r with
  | none => exact scheduled_later (u := { v.newId with accs := _ }) hcycle Nat.one_pos _
  | some sc =>
    exact scheduled_later (u := { (v.mergeOwn v.curCore v.curCtx sc).newId with accs := _ })
      ((v.mergeOwn_cycle v.curCore v.curCtx sc).trans hcycle) Nat.one_pos _

theorem sendAccess_sent (h : Prepared s v) :
    AccessSent s (v.sendAccess a r) a.kind a.key a.bytes a.a a.b ∧
      ∀ sc, r = some sc → AccessReleases s (v.sendAccess a r) sc := by
  obtain ⟨hcycle, hcore, hctx⟩ := h.place
  obtain ⟨l, hentry, hcov⟩ := v.sendAccess_entry a r
  rw [h.nextId] at hentry
  refine ⟨⟨⟨_, hentry, hcore, hctx, rfl, rfl, rfl, rfl, rfl⟩, scheduled_sendAccess a r h.nextId hcycle,
    (h.toInIssue.sendAccess a r).unwritten⟩, fun sc hr => ⟨_, hentry, fun k hk => hcov sc hr k ?_⟩⟩
  rw [hcore, hctx, h.keeps (·.covered s.curCore s.curCtx sc) fun _ _ => rfl]
  exact hk

/-- An access whose value returns: its entry in the return queue, and its acquire. -/
def State.sendDeferred (s : State) (acq : Bool) : State :=
  ((s.pushEntry s.nextId true).holdAcquire acq).sendAccess a r

theorem InIssue.sendDeferred (h : InIssue s v) (acq : Bool) : InIssue s (v.sendDeferred a r acq) :=
  ((h.pushEntry ..).holdAcquire acq).sendAccess a r

theorem sendDeferred_sent (h : Prepared s v) (hrq : v.cur.rq = s.cur.rq) (acq : Bool) :
    AccessSent s (v.sendDeferred a r acq) a.kind a.key a.bytes a.a a.b ∧
      Deferred s (v.sendDeferred a r acq) ∧
      (∀ sc, r = some sc → AccessReleases s (v.sendDeferred a r acq) sc) ∧
      (acq = true → setHas s.nextId (v.sendDeferred a r acq).cur.acq = true) := by
  have hcur := (State.cur_sendAccess a r _).trans ((v.pushEntry v.nextId true).cur_holdAcquire acq)
  rw [State.cur_pushEntry] at hcur
  obtain ⟨hsent, hrel⟩ := sendAccess_sent a r ((h.pushEntry v.nextId true).holdAcquire acq)
  refine ⟨hsent, ?_, hrel, fun hacq => ?_⟩
  · rw [Deferred, State.sendDeferred, hcur, ← hrq, ← h.nextId]
  · rw [State.sendDeferred, hcur, if_pos hacq, ← h.nextId]
    exact (setHas_add _ _ _).2 (.inl rfl)

end sendAccess

theorem State.countIssue_rq (s : State) : s.countIssue.cur.rq = s.cur.rq := by rw [State.countIssue_cur]

/-- What leaves is past an elastic side effect. -/
theorem Prepared.effect (s : State) : Prepared s s.countIssue.elasticEffect :=
  (Prepared.countIssue s).elasticEffect

theorem State.effect_rq (s : State) : s.countIssue.elasticEffect.cur.rq = s.cur.rq :=
  (State.elasticEffect_rq _).trans s.countIssue_rq

theorem Order.releases_iff {o : Order} : Order.releases o = true ↔ o = .rel ∨ o = .ar := by
  cases o <;> simp [Order.releases]

theorem Order.acquires_iff {o : Order} : Order.acquires o = true ↔ o = .acq ∨ o = .ar := by
  cases o <;> simp [Order.acquires]

/-! ### ALD, AST, ATOM and ACAS (R197 to R200) -/

section shared

variable (h : s.issues) (hm : s.memHeld = false) {a b : XReg} {o : Order} {sc : Scope} {key : Nat}
include h hm

theorem ald_sends {dw : Bool} (acq : Bool) (hchecks : ∀ e ∈ s.wordChecks a (wordSize dw), e.1 = false)
    (hk : s.sharedKey (s.x a).v (wordSize dw) = some key) (hroom : s.cur.rq.length < 8) :
    CompletesWith (.ald q acq sc dw a) s q fun u =>
      AccessSent s u .load key (wordSize dw) 0 0 ∧ Deferred s u ∧ (acq = true → setHas s.nextId u.cur.acq = true) := by
  have hp := Prepared.countIssue s
  let e : Access := { id := 0, core := 0, ctx := 0, kind := .load, bytes := wordSize dw,
                      key := s.countIssue.sharedAt (s.countIssue.x a).v (wordSize dw) }
  refine completesWith_of_runs (ald_runs h hm acq sc hchecks hroom) rfl (hp.toInIssue.sendDeferred e none acq) ?_
  obtain ⟨hsent, hdef, -, hacq⟩ := sendDeferred_sent e none hp s.countIssue_rq acq
  have hkey : e.key = key := by rw [← hp.sharedAt hk, ← s.countIssue_x a]
  exact ⟨hkey ▸ hsent, hdef, hacq⟩

theorem ast_sends {dw : Bool} (rel : Bool) (hchecks : ∀ e ∈ s.wordChecks a (wordSize dw), e.1 = false)
    (hk : s.sharedKey (s.x a).v (wordSize dw) = some key) (hstub : s.inStub = false) (hb : (s.x b).po = false) :
    CompletesWith (.ast q rel sc dw a b) s q fun u =>
      AccessSent s u .store key (wordSize dw) (s.x b).v 0 ∧ u.cur.rq = s.cur.rq ∧
        (rel = true → AccessReleases s u sc) := by
  have hp := Prepared.effect s
  let e : Access := { id := 0, core := 0, ctx := 0, kind := .store, bytes := wordSize dw,
                      key := s.countIssue.sharedAt (s.countIssue.x a).v (wordSize dw), a := (s.countIssue.x b).v }
  refine completesWith_of_runs (ast_runs h hm hstub rel sc hchecks hb) rfl
    (hp.toInIssue.sendAccess e (if rel then some sc else none)) ?_
  obtain ⟨hsent, hrel⟩ := sendAccess_sent e (if rel then some sc else none) hp
  have hkey : e.key = key := by rw [← (Prepared.countIssue s).sharedAt hk, ← s.countIssue_x a]
  have hval : e.a = (s.x b).v := by rw [← s.countIssue_x b]
  refine ⟨hkey ▸ hval ▸ hsent, ?_, fun hr => hrel sc (if_pos hr)⟩
  exact (congrArg Ctx.rq (State.cur_sendAccess ..)).trans s.effect_rq

omit h hm in
/-- Every atomic operation leaves with its operands, its entry, its release and its acquire (R198 to R200). -/
theorem atomic_sends {n : Nat} {kind : AccKind} {c : State → Word64} {x : Word64} {hold : Bool}
    {flt : Option FaultInfo} (hr : Runs s q i)
    (he : exec i s = issue q 1 hold flt none
      (fun u => u.sendAtomic o sc kind n (u.x a).v (u.x b).v (c u)) s)
    (hk : s.sharedKey (s.x a).v n = some key) (hc : c s.countIssue = x) : CompletesWith i s q fun u =>
      AccessSent s u kind key n (s.x b).v x ∧ Deferred s u ∧ (o = .rel ∨ o = .ar → AccessReleases s u sc) ∧
        (o = .acq ∨ o = .ar → setHas s.nextId u.cur.acq = true) := by
  have hp := Prepared.effect s
  let r := if Order.releases o then some sc else none
  let e : Access := { id := 0, core := 0, ctx := 0, kind := kind, bytes := n,
                      key := s.countIssue.elasticEffect.sharedAt (s.countIssue.x a).v n,
                      a := (s.countIssue.x b).v, b := c s.countIssue }
  refine completesWith_of_runs hr he (hp.toInIssue.sendDeferred e r (Order.acquires o)) ?_
  obtain ⟨hsent, hdef, hrel, hacq⟩ := sendDeferred_sent e r hp s.effect_rq (Order.acquires o)
  have hkey : e.key = key := by rw [← hp.sharedAt hk, ← s.countIssue_x a]
  have hval : e.a = (s.x b).v := by rw [← s.countIssue_x b]
  exact ⟨hkey ▸ hval ▸ hc ▸ hsent, hdef, fun ho => hrel sc (if_pos (Order.releases_iff.2 ho)),
    fun ho => hacq (Order.acquires_iff.2 ho)⟩

end shared

/-- Settles O17: loads, stores and atomics each send their access with its sets. -/
theorem sharedAccessesAreSent : Obligations.SharedAccessesAreSent := by
  intro s q acq dw o sc a b key h hm ha xa xb n atom
  refine ⟨fun hk hal => ?words, fun hk hal hroom hstub hb => ?atoms⟩
  case words =>
    have hchecks := wordChecks_pass ha (Option.isSome_of_eq_some hk) hal
    refine ⟨ald_sends h hm acq hchecks hk, fun hstub hb => ⟨ast_sends h hm acq hchecks hk hstub hb, ?_⟩⟩
    exact fun hroom hb' => atomic_sends (acas_runs h hm hstub hroom o sc hchecks hb hb') rfl hk
      (congrArg PVal.v (s.countIssue_x (b + 1)))
  case atoms =>
    have hatom : ∀ (i : Instr) (kind : AccKind), exec i s = atomForm q o sc kind a b s → atom i kind :=
      fun i kind he => atomic_sends
        (atomForm_runs h hm hstub hroom he (wordChecks_pass ha (Option.isSome_of_eq_some hk) hal) hb) he hk rfl
    exact ⟨hatom _ _ rfl, hatom _ _ rfl, hatom _ _ rfl, hatom _ _ rfl, hatom _ _ rfl, hatom _ _ rfl,
      hatom _ _ rfl, hatom _ _ rfl⟩

end Sys2Proof.Machine

namespace Sys2Proof.Machine

variable {s u v w : State} {q : Issue} {i j : Instr}

/-! ### STF, SETE, LDF and FENCE (R202 to R205, R396) -/

@[simp] theorem State.sharedAt_setCur (s : State) (t : Ctx) (a : Word64) (n : Nat) :
    (s.setCur t).sharedAt a n = s.sharedAt a n := rfl

@[simp] theorem State.load64_setCur (s : State) (t : Ctx) (key : Nat) : (s.setCur t).load64 key = s.load64 key :=
  rfl

@[simp] theorem State.poisoned_setCur (s : State) (t : Ctx) (key n : Nat) :
    (s.setCur t).poisoned key n = s.poisoned key n := rfl

theorem State.sharedAt_of_sharedKey {a : Word64} {n key : Nat} (hk : s.sharedKey a n = some key) :
    s.sharedAt a n = key := by
  rw [State.sharedAt, hk]
  rfl

/-- A FENCE stands in its context, and merges what its scope does not hold (R205, R280). -/
def State.setFence (s : State) (sc : Scope) : State :=
  (s.setCur { s.cur with fence := some (s.nextId, sc) }).mergeOwn s.curCore s.curCtx sc

theorem State.fence_setFence (s : State) (sc : Scope) : (s.setFence sc).cur.fence = some (s.nextId, sc) := by
  rw [State.setFence, State.cur_mergeOwn, State.cur_setCur]

theorem InIssue.setFence (h : InIssue s v) (sc : Scope) : InIssue s (v.setFence sc) :=
  (h.setCur (t := { v.cur with fence := some (v.nextId, sc) }) rfl rfl).mergeOwn ..

section fullEmpty

variable (h : s.issues) (hm : s.memHeld = false) {a d : XReg} {e : BitVec 8} {sc : Scope} {key : Nat}
include h hm

theorem stf_sends (hstub : s.inStub = false) (ha : (s.x a).po = false) (hd : (s.x d).po = false)
    (hal : (s.x a).v.toNat % 8 = 0) (hk : s.sharedKey (s.x a).v 8 = some key) :
    CompletesWith (.stf q d a) s q fun u =>
      AccessSent s u .storeFull key 8 (s.x d).v 0 ∧ u.cur.rq = s.cur.rq := by
  have hp := Prepared.effect s
  let r := some (smallestScope s.curCore (s.countIssue.sharedAt (s.x a).v 8))
  let acc : Access := { id := 0, core := 0, ctx := 0, kind := .storeFull, bytes := 8,
                        key := s.countIssue.sharedAt (s.x a).v 8, a := (s.countIssue.x d).v }
  refine completesWith_of_runs (stf_runs h hm hstub ha hd hal (Option.isSome_of_eq_some hk)) rfl
    (hp.toInIssue.sendAccess acc r) ⟨?_, (congrArg Ctx.rq (State.cur_sendAccess ..)).trans s.effect_rq⟩
  have hkey : acc.key = key := (Prepared.countIssue s).sharedAt hk
  have hval : acc.a = (s.x d).v := by rw [← s.countIssue_x d]
  exact hkey ▸ hval ▸ (sendAccess_sent acc r hp).1

theorem sete_sends (hstub : s.inStub = false) (ha : (s.x a).po = false) (hd : (s.x d).po = false)
    (hal : (s.x a).v.toNat % 8 = 0) (hlo : 1 ≤ (s.x d).v.toNat) (hhi : (s.x d).v.toNat ≤ 131072)
    (hk : s.sharedKey (s.x a).v (8 * (s.x d).v.toNat) = some key) :
    CompletesWith (.sete q d a) s q fun u =>
      AccessSent s u .setEmpty key (8 * (s.x d).v.toNat) 0 0 ∧ u.cur.rq = s.cur.rq := by
  have hp := Prepared.effect s
  let acc : Access := { id := 0, core := 0, ctx := 0, kind := .setEmpty, bytes := 8 * (s.x d).v.toNat,
                        key := s.countIssue.sharedAt (s.x a).v (8 * (s.x d).v.toNat) }
  refine completesWith_of_runs (sete_runs h hm hstub ha hd hal hlo hhi (Option.isSome_of_eq_some hk)) rfl
    (hp.toInIssue.sendAccess acc none) ⟨?_, (congrArg Ctx.rq (State.cur_sendAccess ..)).trans s.effect_rq⟩
  have hkey : acc.key = key := (Prepared.countIssue s).sharedAt hk
  exact hkey ▸ (sendAccess_sent acc none hp).1

/-- An LDF that neither waits nor parks reads its word, whatever it does to the landing distance. -/
theorem ldf_reads (ha : (s.x a).po = false) (hal : (s.x a).v.toNat % 8 = 0)
    (hk : s.sharedKey (s.x a).v 8 = some key) (hfull : setHas (key / 8) s.full = true)
    (hprior : s.allPerformed (s.priorOn s.curCore s.curCtx key 8) = true)
    (hentry : e.toNat < s.landings s.curCore s.cur.actor) (hpark : s.parkAsked = false)
    (hwaits : s.inStub = true ∨ s.ldfWaits = true ∧ s.cur.rq = []) {t : Ctx}
    (ht : (if s.inStub = true then s.countIssue else s.setCur { s.cur with ldist := 0 }) = s.setCur t) :
    exec (.ldf q d a e) s =
      .next (((s.setCur t).writeX 4 d (s.load64 key) (s.poisoned key 8)).advance q 1 none) := by
  have hheld : ldfHeld a s = false := by
    rcases hwaits with hstub | ⟨hwaits, -⟩ <;>
      simp [ldfHeld, State.wordHeld, *]
  have hchecks : firstFault [((s.x a).po, poisonX a), ((s.x a).v.toNat % 8 != 0, alignFault (s.x a).v),
      ((s.sharedKey (s.x a).v 8).isNone, rangeFault 49 0 (s.x a).v), s.entryRange e,
      (!s.inStub && s.pendingFault.1, s.pendingFault.2), (s.inStub && s.overrun, s.overrunFault)] = none := by
    refine firstFault_eq_none ?_
    rcases hwaits with hstub | ⟨-, hrq⟩ <;> simp [State.entryRange, State.pendingFault, h.2, *]
  dsimp only [exec, execLdf]
  rw [hheld, hchecks, issueLanding_completes h.1, hpark, ht]
  simp [State.sharedAt_of_sharedKey hk]

theorem fence_holds : CompletesWith (.fence q sc) s q fun u =>
    u.cur.fence = some (s.nextId, sc) ∧ NothingWritten s u := by
  have he : exec (.fence q sc) s = issue q 1 s.memHeld none none (State.setFence · sc) s := rfl
  have hu : InIssue s (s.countIssue.setFence sc) := (InIssue.countIssue s).setFence sc
  exact completesWith_of_runs (fence_runs h hm sc) he hu ⟨s.countIssue.fence_setFence sc, hu.unwritten⟩

end fullEmpty

/-- Settles O18: STF and SETE send, LDF reads past its waits, FENCE stands in its context. -/
theorem fullEmptyFormsComplete : Obligations.FullEmptyFormsComplete := by
  intro s q d a e sc key h hm ha xa n
  refine ⟨fun hstub hd hal => ⟨stf_sends h hm hstub ha hd hal, sete_sends h hm hstub ha hd hal⟩,
    fun hal hk hfull hprior hentry => ⟨fun hstub hpark hrq htags hpend hmq => ?firing, fun hstub => ?stub⟩,
    fence_holds h hm⟩
  case firing =>
    have hwaits : s.ldfWaits = true := by simp [State.ldfWaits, Ctx.allArrived, hrq, htags, hpend, hmq]
    exact ldf_reads h hm ha hal hk hfull hprior hentry hpark (.inr ⟨hwaits, hrq⟩) (if_neg (by simp [hstub]))
  case stub =>
    have hpark : s.parkAsked = false := by simp [State.parkAsked, hstub]
    exact ldf_reads h hm ha hal hk hfull hprior hentry hpark (.inl hstub) (if_pos hstub)

end Sys2Proof.Machine

namespace Sys2Proof.Machine

variable {s u v w : State} {q : Issue} {i j : Instr}

/-! ### Copies that a context starts (R191, R192, R209) -/

/-- The tag that a copy takes is the least that no copy holds (R192). -/
theorem Ctx.freeTag_spec {t : Ctx} (h : ∃ g, g < 4 ∧ ∀ e ∈ t.tags, e.1 ≠ g) : ∃ g, t.freeTag = some g ∧
    g < 4 ∧ (∀ e ∈ t.tags, e.1 ≠ g) ∧ ∀ k, k < g → ∃ e ∈ t.tags, e.1 = k := by
  obtain ⟨g, hg⟩ := Option.isSome_iff_exists.1 (Option.isNone_eq_false_iff.1 (Ctx.freeTag_isNone h))
  refine ⟨g, hg, ?_⟩
  rw [Ctx.freeTag, List.head?_filter, steps_eq_range', ← List.range_eq_range', List.find?_range_eq_some] at hg
  obtain ⟨hfree, hlt, hleast⟩ := hg
  exact ⟨List.mem_range.1 hlt, by simpa using hfree, fun k hk => by simpa using hleast k hk⟩

section startCopy

variable (c : Copy) (write : Bool)

theorem State.startCopy_entry (s : State) : ∃ l, mapFind s.nextId (s.startCopy c write).copies =
    some { c with id := s.nextId, core := s.curCore, ctx := s.curCtx, after := l } := ⟨_, mapFind_put ..⟩

variable {g : Nat}

/-- The context and the core of a copy that starts, before it is in flight. -/
def State.tagged (s : State) (g : Nat) (c : Copy) (write : Bool) : State :=
  (s.newId.setCur { s.cur with tags := s.cur.tags ++ [(g, s.nextId)] }).addRange s.nextId c.tile c.len write true

theorem State.startCopy_eq (s : State) (hg : s.cur.freeTag = some g) : s.startCopy c write =
    { s.tagged g c write with copies := (s.startCopy c write).copies } := by
  have hg' : s.newId.cur.freeTag = some g := hg
  unfold State.startCopy
  dsimp only
  rw [hg']
  rfl

theorem InIssue.tagged (h : InIssue s v) : InIssue s (v.tagged g c write) :=
  (h.newId.setCur (t := { v.cur with tags := v.cur.tags ++ [(g, v.nextId)] }) rfl rfl).addRange ..

theorem State.cur_tagged (s : State) :
    (s.tagged g c write).cur = { s.cur with tags := s.cur.tags ++ [(g, s.nextId)] } := by
  rw [State.tagged, State.cur_addRange, State.cur_setCur]

theorem State.score_tagged (s : State) :
    (s.tagged g c write).curK.score = s.curK.score ++ [⟨s.nextId, c.tile, c.len, write, true⟩] := by
  rw [State.tagged, State.curK_addRange, State.curK_setCur, Core.setCtx_score]
  rfl

variable (hg : v.cur.freeTag = some g)
include hg

theorem InIssue.startCopy (h : InIssue s v) : InIssue s (v.startCopy c write) := by
  rw [v.startCopy_eq c write hg]
  exact (h.tagged c write).congr rfl

theorem State.cur_startCopy :
    (v.startCopy c write).cur = { v.cur with tags := v.cur.tags ++ [(g, v.nextId)] } := by
  rw [v.startCopy_eq c write hg]
  exact v.cur_tagged c write

theorem State.score_startCopy :
    (v.startCopy c write).curK.score = v.curK.score ++ [⟨v.nextId, c.tile, c.len, write, true⟩] := by
  rw [v.startCopy_eq c write hg]
  exact v.score_tagged c write

omit hg

/-- A copy that starts with a free tag: its entry, its tag, its range and its end. -/
theorem startCopy_started (h : Prepared s v) (htags : v.cur.tags = s.cur.tags)
    (hscore : v.curK.score = s.curK.score) (htag : ∃ g, g < 4 ∧ ∀ e ∈ s.cur.tags, e.1 ≠ g) (e : Instr) :
    InIssue s ((v.startCopy c write).later 1 e) ∧
      CopyStarted s ((v.startCopy c write).later 1 e) c.kind c.tile c.key c.len e ∧
      TagTaken s ((v.startCopy c write).later 1 e) ∧
      RangeTaken s ((v.startCopy c write).later 1 e) c.tile c.len write true ∧
      (∃ d, mapFind s.nextId ((v.startCopy c write).later 1 e).copies = some d ∧ d.data = c.data) ∧
      ((v.startCopy c write).later 1 e).cur.claimMade = v.cur.claimMade := by
  obtain ⟨g, hg, hlt, hfree, hleast⟩ := Ctx.freeTag_spec (t := v.cur) (htags ▸ htag)
  rw [htags] at hfree hleast
  have hu := (h.toInIssue.startCopy c write hg).later 1 e
  obtain ⟨hcycle, hcore, hctx⟩ := h.place
  obtain ⟨l, hentry⟩ := v.startCopy_entry c write
  have hcur := State.cur_startCopy c write hg
  have hrange := State.score_startCopy c write hg
  rw [h.nextId] at hentry hcur hrange
  have hclaim := congrArg Ctx.claimMade hcur
  refine ⟨hu, ⟨⟨_, hentry, hcore, hctx, rfl, rfl, rfl, rfl⟩,
      scheduled_later (h.toInIssue.startCopy c write hg).place.1 Nat.one_pos e, hu.unwritten⟩,
    ⟨g, hlt, hfree, hleast, ?tag⟩, ?range, ⟨_, hentry, rfl⟩, hclaim⟩
  case tag => exact (congrArg Ctx.tags hcur).trans (by rw [htags])
  case range => exact hrange.trans (by rw [hscore])

end startCopy

theorem CopyStarted.of_eq {kind : CopyKind} {tile key key' len : Nat} {e e' : Instr}
    (h : CopyStarted s u kind tile key len e) (hkey : key = key') (he : e = e') :
    CopyStarted s u kind tile key' len e' := by
  subst hkey he
  exact h

/-! ### TMOV and TWAIT (R191 to R193) -/

/-- Registers are none of what an issue sets before it advances. -/
theorem InIssue.x (h : InIssue s v) (r : XReg) : v.x r = s.x r := by
  rw [State.x, h.unwritten.own]
  rfl

theorem tmovIn_starts (h : s.issues) (hm : s.memHeld = false) {a b d : XReg} {key : Nat} (hr : MoveReady s a b d)
    (hk : s.sharedKey (s.x b).v (s.x d).v.toNat = some key)
    (hfree : s.curK.rangeHeld (s.x a).v.toNat (s.x d).v.toNat true = false) :
    CompletesWith (.tmovIn q d a b) s q fun u =>
      CopyStarted s u .tmovIn (s.x a).v.toNat key (s.x d).v.toNat (.tmovRetire s.nextId) ∧ TagTaken s u ∧
      RangeTaken s u (s.x a).v.toNat (s.x d).v.toNat true true := by
  have hp := Prepared.countIssue s
  let c : Copy := { id := 0, core := 0, ctx := 0, kind := .tmovIn, tile := (s.x a).v.toNat, len := (s.x d).v.toNat,
                    key := s.countIssue.sharedAt (s.countIssue.x b).v (s.x d).v.toNat }
  obtain ⟨hu, hstart, htag, hrange, -⟩ := startCopy_started c true hp (by rw [State.countIssue_cur])
    s.countIssue_score hr.tag (.tmovRetire s.nextId)
  have hkey : c.key = key := by rw [← hp.sharedAt hk, ← s.countIssue_x b]
  exact completesWith_of_runs (tmovIn_runs h hm hr hfree) rfl hu ⟨hstart.of_eq hkey rfl, htag, hrange⟩

theorem tmovOut_starts (h : s.issues) (hm : s.memHeld = false) {a b d : XReg} {key : Nat} (hr : MoveReady s a b d)
    (hk : s.sharedKey (s.x b).v (s.x d).v.toNat = some key) (hstub : s.inStub = false)
    (hfree : s.curK.rangeHeld (s.x a).v.toNat (s.x d).v.toNat false = false)
    (hpoison : s.firstPoison s.curCore (s.x a).v.toNat (s.x d).v.toNat = none) :
    CompletesWith (.tmovOut q d a b) s q fun u =>
      CopyStarted s u .tmovOut (s.x a).v.toNat key (s.x d).v.toNat (.tmovRetire s.nextId) ∧ TagTaken s u ∧
      RangeTaken s u (s.x a).v.toNat (s.x d).v.toNat false true ∧
      ∃ c, mapFind s.nextId u.copies = some c ∧
        c.data = memBytes s.mem (tileKey s.curCore (s.x a).v.toNat) (s.x d).v.toNat := by
  have hp := Prepared.effect s
  let v := s.countIssue.elasticEffect
  let c : Copy := { id := 0, core := 0, ctx := 0, kind := .tmovOut, tile := (s.x a).v.toNat, len := (s.x d).v.toNat,
                    key := v.sharedAt (v.x b).v (s.x d).v.toNat,
                    data := memBytes v.mem (tileKey v.curCore (s.x a).v.toNat) (s.x d).v.toNat }
  obtain ⟨hu, hstart, htag, hrange, ⟨e, he, hdata⟩, -⟩ := startCopy_started c false hp
    ((State.elasticEffect_tags _).trans (by rw [State.countIssue_cur]))
    ((State.elasticEffect_score _).trans s.countIssue_score) hr.tag (.tmovRetire v.nextId)
  have hkey : c.key = key := by rw [← hp.sharedAt hk, ← hp.toInIssue.x b]
  obtain ⟨-, hcore, -⟩ := hp.place
  refine completesWith_of_runs (tmovOut_runs h hm hr hstub hfree hpoison) rfl hu
    ⟨hstart.of_eq hkey (congrArg Instr.tmovRetire hp.nextId), htag, hrange, e, he, ?_⟩
  rw [hdata, ← hcore, ← hp.unwritten.mem]

theorem twait_waits {n : BitVec 2} (hlt : n.toNat < s.cur.tags.length) :
    exec (.twait q n) s = .next s := by
  have hheld : twaitHeld n s = true := by simp [twaitHeld, hlt]
  dsimp only [exec, execTwait]
  rw [hheld, issue_held]

theorem twait_passes (h : s.issues) (hm : s.memHeld = false) {n : BitVec 2} (hle : s.cur.tags.length ≤ n.toNat) :
    exec (.twait q n) s = .next (s.moved q none) := by
  have hheld : twaitHeld n s = false := by simp [twaitHeld, hm, hle]
  dsimp only [exec, execTwait]
  rw [hheld, issue_completes h, State.moved]

/-- Settles O16: TWAIT by its bound, and both moves by the copy that they start. -/
theorem tileMovesStart : Obligations.TileMovesStart := by
  intro s q d a b n key h hm lo len
  refine ⟨twait_waits, twait_passes h hm, fun ha hb hd hal hbl hdl hlo hhi htile hk htag hslot => ?_⟩
  have hr : MoveReady s a b d :=
    ⟨⟨ha, hb, hd⟩, htag, hslot, ⟨hal, hbl, hdl⟩, ⟨hlo, hhi⟩, htile, Option.isSome_of_eq_some hk⟩
  exact ⟨tmovIn_starts h hm hr hk, fun hfree hstub => tmovOut_starts h hm hr hk hstub hfree⟩

end Sys2Proof.Machine

namespace Sys2Proof.Machine

variable {s u v w : State} {q : Issue} {i j : Instr}

/-! ### QSTAT and QCLAIM (R209, R211) -/

section stageQueues

variable (h : s.issues) (hm : s.memHeld = false) {n : BitVec 5} {home : Nat}
  (hhome : s.queueHome (hallOfCore s.curCore) n.toNat = some home)
include h hm hhome

theorem qstat_defers (hroom : s.cur.rq.length < 8) : CompletesWith (.qstat q n) s q fun u =>
    Deferred s u ∧ NothingWritten s u ∧ Scheduled s u (.deferredResultArrival s.curCore s.curCtx s.nextId
      (BitVec.ofNat 64 (s.qFill home (s.queueSlots (hallOfCore s.curCore) n.toNat) * 2 ^ 32 + s.qNext home))
      false) := by
  have hword : s.countIssue.qstatWord (hallOfCore s.curCore) n.toNat = BitVec.ofNat 64
      (s.qFill home (s.queueSlots (hallOfCore s.curCore) n.toNat) * 2 ^ 32 + s.qNext home) := by
    rw [(Prepared.countIssue s).keeps (·.qstatWord (hallOfCore s.curCore) n.toNat) fun _ _ => rfl,
      State.qstatWord, hhome]
  have hu := ((InIssue.countIssue s).deferEntry true).later 1 (.deferredResultArrival s.curCore s.curCtx s.nextId
    (s.countIssue.qstatWord (hallOfCore s.curCore) n.toNat) false)
  refine completesWith_of_runs (qstat_runs h hm hhome hroom) rfl hu ⟨?_, hu.unwritten, ?_⟩
  · refine (congrArg Ctx.rq (s.countIssue.cur_deferEntry true)).trans ?_
    rw [s.countIssue_rq]
    rfl
  · rw [← hword]
    exact scheduled_later (u := s.countIssue.deferEntry true) rfl Nat.one_pos _

end stageQueues

/-- The claim mark of the executing context (R209). -/
theorem Prepared.claimMade (h : Prepared s v) (b : Bool) : Prepared s (v.setCur { v.cur with claimMade := b }) :=
  h.of_rest (h.toInIssue.setCur (t := { v.cur with claimMade := b }) rfl rfl) rfl

@[simp] theorem State.countIssue_indexIn (s : State) : s.countIssue.indexIn = s.indexIn := by
  rw [State.indexIn, State.countIssue_cur]
  rfl

@[simp] theorem State.countIssue_indexOut (s : State) (z : Nat) : s.countIssue.indexOut z = s.indexOut z := by
  have hputs : s.countIssue.curK.puts = s.curK.puts := by
    rw [State.countIssue, State.curK_setCur, Core.setCtx_units]
  rw [State.indexOut, State.countIssue_cur, hputs]
  rfl

/-- The copy of a claimed slot, and the mark that the firing has claimed (R209). -/
def State.claimCopy (s : State) (z home : Nat) : State :=
  let hk := hallOfCore s.curCore
  ((s.setCur { s.cur with claimMade := true }).startCopy
    { id := 0, core := 0, ctx := 0, kind := .qclaim, tile := s.claimBuffer hk z,
      key := tokenKey home (s.queueSlots hk z) (s.queueSize hk z) (s.indexIn % s.queueSlots hk z),
      len := s.queueSize hk z, load := s.curK.load.getD 31, queue := z,
      index := BitVec.ofNat 32 s.indexIn } true).later 1 (.claimCopyRetire s.nextId)

theorem claimCopy_started (htag : ∃ g, g < 4 ∧ ∀ e ∈ s.cur.tags, e.1 ≠ g) (z home : Nat) :
    let hk := hallOfCore s.curCore
    let u := s.countIssue.claimCopy z home
    InIssue s u ∧ CopyStarted s u .qclaim (s.claimBuffer hk z)
      (tokenKey home (s.queueSlots hk z) (s.queueSize hk z) (s.indexIn % s.queueSlots hk z)) (s.queueSize hk z)
      (.claimCopyRetire s.nextId) ∧ TagTaken s u ∧ u.cur.claimMade = true := by
  have hp := (Prepared.countIssue s).claimMade true
  have htags : (s.countIssue.setCur { s.countIssue.cur with claimMade := true }).cur.tags = s.cur.tags := by
    rw [State.cur_setCur, State.countIssue_cur]
  have hscore : (s.countIssue.setCur { s.countIssue.cur with claimMade := true }).curK.score = s.curK.score := by
    rw [State.curK_setCur, Core.setCtx_score, State.countIssue_score]
  obtain ⟨hu, hstart, htaken, -, -, hmade⟩ := startCopy_started
    { id := 0, core := 0, ctx := 0, kind := .qclaim, tile := s.claimBuffer (hallOfCore s.curCore) z,
      key := tokenKey home (s.queueSlots (hallOfCore s.curCore) z) (s.queueSize (hallOfCore s.curCore) z)
        (s.countIssue.indexIn % s.queueSlots (hallOfCore s.curCore) z),
      len := s.queueSize (hallOfCore s.curCore) z, load := s.countIssue.curK.load.getD 31, queue := z,
      index := BitVec.ofNat 32 s.countIssue.indexIn } true hp htags hscore htag (.claimCopyRetire s.nextId)
  rw [State.cur_setCur] at hmade
  exact ⟨hu, hstart.of_eq (by rw [State.countIssue_indexIn]) rfl, htaken, hmade⟩

/-! ### QPUT (R210) -/

/-- The copy of a put (R210). -/
def State.putCopy (s : State) (z lo home : Nat) : Copy :=
  let hk := hallOfCore s.curCore
  let size := s.queueSize hk z
  let key := tokenKey home (s.queueSlots hk z) size (s.indexOut z % s.queueSlots hk z)
  { id := s.nextId, core := s.curCore, ctx := s.curCtx, kind := .qput, tile := lo, key := key, len := size,
    load := s.curK.load.getD 31, queue := z, index := BitVec.ofNat 32 (s.indexOut z),
    data := memBytes s.mem (tileKey s.curCore lo) size, covers := s.covered s.curCore s.curCtx (putScope home),
    after := s.priorOn s.curCore s.curCtx key size }

/-- A put up to the bytes that it reads: its copy, its acknowledgement, its mark and its put count. -/
def State.putMarked (s : State) (sc : Scope) (cp : Copy) (z n ack : Nat) (counts : Bool) : State :=
  let id := s.nextId
  let s := (s.mergeOwn s.curCore s.curCtx sc).newId
  let s := { s with copies := mapPut id cp s.copies, acks := mapPut id ack s.acks }
  let s := s.setCur { s.cur with putMade := true }
  if counts then s else s.setCurK { s.curK with puts := mapPut z n s.curK.puts }

/-- The bytes that an operation reads until its copy of them is made, and its own event (R210). -/
def State.readBytes (s : State) (id lo size : Nat) (e : Instr) : State :=
  ((s.addRange id lo size false false).later 1 (.wputReadDone id)).later 1 e

theorem State.cur_readBytes (s : State) (id lo size : Nat) (e : Instr) :
    (s.readBytes id lo size e).cur = s.cur := s.cur_addRange ..

theorem State.score_readBytes (s : State) (id lo size : Nat) (e : Instr) :
    (s.readBytes id lo size e).curK.score = s.curK.score ++ [⟨id, lo, size, false, false⟩] :=
  congrArg Core.score (s.curK_addRange id lo size false false)

theorem State.copies_readBytes (s : State) (id lo size : Nat) (e : Instr) :
    (s.readBytes id lo size e).copies = s.copies := rfl

theorem InIssue.readBytes (h : InIssue s v) (id lo size : Nat) (e : Instr) :
    InIssue s (v.readBytes id lo size e) := ((h.addRange id lo size false false).later ..).later ..

theorem scheduled_readBytes (h : InIssue s v) (id lo size : Nat) (e : Instr) :
    Scheduled s (v.readBytes id lo size e) e :=
  scheduled_later ((h.addRange id lo size false false).later 1 (.wputReadDone id)).place.1 Nat.one_pos e

/-- Whether the put counts is for the marks of its actor to say. -/
theorem State.startPut_eq (s : State) (z lo home : Nat) : ∃ counts, s.startPut z lo home =
    (s.putMarked (putScope home) (s.putCopy z lo home) z ((s.indexOut z + 1) % 2 ^ 32)
      (2 ^ 16 + 4 * s.curCore + s.curCtx) counts).readBytes s.nextId lo (s.queueSize (hallOfCore s.curCore) z)
      (.queueSlotCommit s.nextId) := ⟨_, rfl⟩

section putMarked

variable {sc : Scope} {cp : Copy} {z n ack lo size : Nat} {counts : Bool}

theorem InIssue.putMarked (h : InIssue s v) : InIssue s (v.putMarked sc cp z n ack counts) := by
  unfold State.putMarked
  dsimp only
  have hm := h.mergeOwn v.curCore v.curCtx sc
  have hput := (hm.congr (u := { (v.mergeOwn v.curCore v.curCtx sc).newId with
      copies := mapPut v.nextId cp (v.mergeOwn v.curCore v.curCtx sc).newId.copies,
      acks := mapPut v.nextId ack (v.mergeOwn v.curCore v.curCtx sc).newId.acks }) rfl).setCur
    (t := { (v.mergeOwn v.curCore v.curCtx sc).cur with putMade := true }) rfl rfl
  split
  · exact hput
  · exact hput.setCurK rfl

theorem State.putMarked_copies (s : State) :
    mapFind s.nextId (s.putMarked sc cp z n ack counts).copies = some cp := by
  cases counts <;> exact mapFind_put ..

theorem State.putMarked_putMade (s : State) : (s.putMarked sc cp z n ack counts).cur.putMade = true := by
  cases counts
  · exact (congrArg Ctx.putMade (State.cur_setCurK ..)).trans (congrArg Ctx.putMade (State.cur_setCur ..))
  · exact congrArg Ctx.putMade (State.cur_setCur ..)

theorem State.putMarked_score (s : State) : (s.putMarked sc cp z n ack counts).curK.score = s.curK.score := by
  have hset := fun (t : State) (c : Ctx) => (congrArg Core.score (t.curK_setCur c)).trans (Core.setCtx_score ..)
  have hmerge := congrArg Core.score (s.curK_mergeOwn s.curCore s.curCtx sc)
  cases counts
  · exact (congrArg Core.score (State.curK_setCurK ..)).trans ((hset ..).trans hmerge)
  · exact (hset ..).trans hmerge

theorem putMarked_started (h : InIssue s v) (hid : v.nextId = s.nextId) (hscore : v.curK.score = s.curK.score) :
    let u := (v.putMarked sc cp z n ack counts).readBytes v.nextId lo size (.queueSlotCommit v.nextId)
    InIssue s u ∧ mapFind s.nextId u.copies = some cp ∧ Scheduled s u (.queueSlotCommit s.nextId) ∧
      RangeTaken s u lo size false false ∧ u.cur.putMade = true := by
  have hp := h.putMarked (sc := sc) (cp := cp) (z := z) (n := n) (ack := ack) (counts := counts)
  rw [← hid]
  refine ⟨hp.readBytes .., ?_, scheduled_readBytes hp .., ?_, ?_⟩
  · rw [State.copies_readBytes, v.putMarked_copies]
  · rw [RangeTaken, State.score_readBytes, v.putMarked_score, hscore, hid]
  · rw [State.cur_readBytes, v.putMarked_putMade]

end putMarked

theorem put_started (s : State) (z lo home : Nat) :
    let hk := hallOfCore s.curCore
    let size := s.queueSize hk z
    let u := s.countIssue.startPut z lo home
    InIssue s u ∧ CopyStarted s u .qput lo
        (tokenKey home (s.queueSlots hk z) size (s.indexOut z % s.queueSlots hk z)) size
        (.queueSlotCommit s.nextId) ∧
      (∃ e, mapFind s.nextId u.copies = some e ∧ e.data = memBytes s.mem (tileKey s.curCore lo) size ∧
        e.covers = s.covered s.curCore s.curCtx (putScope home)) ∧
      RangeTaken s u lo size false false ∧ u.cur.putMade = true := by
  intro hk size u
  obtain ⟨counts, heq⟩ := s.countIssue.startPut_eq z lo home
  obtain ⟨hu, hcopy, hcommit, hrange, hmade⟩ :=
    putMarked_started (sc := putScope home) (cp := s.countIssue.putCopy z lo home) (z := z)
      (n := (s.countIssue.indexOut z + 1) % 2 ^ 32) (ack := 2 ^ 16 + 4 * s.curCore + s.curCtx) (lo := lo)
      (size := size) (counts := counts) (InIssue.countIssue s) rfl s.countIssue_score
  have hkey : (s.countIssue.putCopy z lo home).key =
      tokenKey home (s.queueSlots hk z) size (s.indexOut z % s.queueSlots hk z) := by
    rw [← s.countIssue_indexOut]
    rfl
  have hu' : u = _ := heq
  rw [hu']
  exact ⟨hu, ⟨⟨_, hcopy, rfl, rfl, rfl, rfl, hkey, rfl⟩, hcommit, hu.unwritten⟩, ⟨_, hcopy, rfl, rfl⟩, hrange, hmade⟩

/-- Settles O19: the word that QSTAT defers, and the copies that QCLAIM and QPUT start. -/
theorem queueFormsComplete : Obligations.QueueFormsComplete := by
  intro s q n b home h hm c hk z size slots a t hhome
  have hhome' : s.countIssue.queueHome (hallOfCore s.curCore) n.toNat = some home :=
    ((Prepared.countIssue s).keeps (·.queueHome (hallOfCore s.curCore) n.toNat) fun _ _ => rfl).trans hhome
  refine ⟨qstat_defers h hm hhome, fun hstub hin huses hmade htag hslot hfree => ?claim,
    fun hstub hout huses hmade hb hal hin hp hfree => ?put⟩
  case claim =>
    obtain ⟨hu, hstart, htaken, hclaim⟩ := claimCopy_started htag z home
    refine completesWith_of_runs (qclaim_runs h hm hhome hstub hin huses hmade htag hslot hfree) rfl ?_ ?_
    · rw [hhome']
      exact hu
    · rw [hhome']
      exact ⟨hstart, htaken, hclaim⟩
  case put =>
    obtain ⟨hu, hstart, hcopy, hrange, hput⟩ := put_started s z a home
    refine completesWith_of_runs (qput_runs h hm hhome hstub hout huses hmade hb hal hin hp hfree) rfl ?_ ?_
    · rw [hhome']
      exact hu
    · rw [hhome']
      exact ⟨hstart, hcopy, hrange, hput⟩

end Sys2Proof.Machine

namespace Sys2Proof.Machine

variable {s u v w : State} {q : Issue} {i j : Instr}

/-! ### Streams as they stand -/

@[simp] theorem State.stream_setStream (s : State) (hk n : Nat) (t : Stream) :
    (s.setStream hk n t).stream hk n = t := mapGet_put ..

/-- A stream of another number stands, whatever its hall. -/
theorem State.stream_setStream_ne (s : State) {hk hm n m : Nat} (hn : n < 64) (hm64 : m < 64) (h : m ≠ n)
    (t : Stream) : (s.setStream hk n t).stream hm m = s.stream hm m :=
  mapGet_put_ne _ (by omega) ..

@[simp] theorem State.stream_kickStream (s : State) (hk n hm m : Nat) :
    (s.kickStream hk n).stream hm m = s.stream hm m := by
  unfold State.kickStream
  split <;> rfl

/-- A stream that is kicked has an event of its own ahead. -/
theorem State.mem_kickStream (s : State) (hk n : Nat) :
    ∃ due, (due, Instr.streamToken hk n) ∈ (s.kickStream hk n).agenda := by
  unfold State.kickStream
  split
  · next hany =>
    obtain ⟨⟨due, e⟩, he, heq⟩ := List.any_eq_true.1 hany
    exact ⟨due, by simpa using (beq_iff_eq.1 heq) ▸ he⟩
  · exact ⟨_, mem_agendaInsert ..⟩

theorem InIssue.kickStream (h : InIssue s v) (hk n : Nat) : InIssue s (v.kickStream hk n) := by
  unfold State.kickStream
  split
  · exact h
  · exact h.later ..

theorem Prepared.stream (h : Prepared s v) (hk n : Nat) : v.stream hk n = s.stream hk n :=
  h.keeps (·.stream hk n) fun _ _ => rfl

/-- An elastic side effect notes a determinism event, and leaves the rest of its load. -/
theorem State.loadAt_elasticEffect (s : State) (h : Nat) : ∃ d n,
    s.elasticEffect.loadAt h = { s.loadAt h with det := d, overflow := n } := by
  unfold State.elasticEffect
  dsimp only
  split
  · next l _ =>
    split
    · obtain ⟨d, n, hd⟩ := (s.setCur { s.cur with elastic := true }).detEvent_eq l 3 (BitVec.ofNat 8 s.curCtx)
        ((s.visibleCore s.curCore).setWidth 16) (s.cur.pc.setWidth 16) (s.cur.fix.setWidth 32)
      rw [hd]
      by_cases hl : h = l
      · subst hl
        exact ⟨d, n, State.loadAt_setLoad ..⟩
      · exact ⟨_, _, mapGet_put_ne _ hl ..⟩
    · exact ⟨_, _, rfl⟩
  · exact ⟨_, _, rfl⟩

@[simp] theorem State.load_elasticEffect (s : State) : s.elasticEffect.curK.load = s.curK.load :=
  State.elasticEffect_keeps (·.curK.load) (fun s b => by rw [State.curK_setCur, Core.setCtx_load])
    (fun _ _ _ => rfl) s

/-- The streams that the executing context can name are not moved by an elastic side effect. -/
@[simp] theorem State.myStream_elasticEffect (s : State) (n : Nat) : s.elasticEffect.myStream n = s.myStream n := by
  have hcfg : ∀ hk w, s.elasticEffect.hallCfg hk w = s.hallCfg hk w := fun hk w => by
    rw [s.elasticEffect_rest]
    rfl
  have hhall : ∀ h, s.elasticEffect.streamHall h n = s.streamHall h n := fun h => by
    obtain ⟨d, o, hl⟩ := s.loadAt_elasticEffect h
    simp only [State.streamHall, hl, hcfg]
    rfl
  simp only [State.myStream, State.load_elasticEffect, hhall]

@[simp] theorem State.countIssue_myStream (s : State) (n : Nat) : s.countIssue.myStream n = s.myStream n := by
  have hload : s.countIssue.curK.load = s.curK.load := by rw [State.countIssue, State.curK_setCur, Core.setCtx_load]
  simp only [State.myStream, hload]
  rfl

/-! ### SSTART and SSTOP (R206) -/

section startStop

variable (hk n : Nat)

theorem InIssue.startStream (h : InIssue s v) : InIssue s (v.startStream hk n) := by
  unfold State.startStream
  dsimp only
  split
  · exact (h.setStream ..).kickStream ..
  · exact h

theorem InIssue.stopStream (h : InIssue s v) : InIssue s (v.stopStream hk n) := by
  unfold State.stopStream
  dsimp only
  split
  · exact h
  · split
    · exact (h.setStream ..).kickStream ..
    · exact (h.setStream ..).later ..

variable {hk n}

theorem startStream_starts (hmode : (s.stream hk n).mode = .idle ∨ (s.stream hk n).mode = .finished) :
    (s.startStream hk n).stream hk n = { s.stream hk n with
      mode := if (s.stream hk n).bar = [] then .running else .held, pos := 0, done := 0, ahead := 0, line := 0,
      busy := false } ∧ ∃ due, (due, Instr.streamToken hk n) ∈ (s.startStream hk n).agenda := by
  have hcond : ((s.stream hk n).mode == .idle || (s.stream hk n).mode == .finished) = true := by simpa using hmode
  unfold State.startStream
  dsimp only
  rw [if_pos hcond]
  exact ⟨by rw [State.stream_kickStream, State.stream_setStream], State.mem_kickStream ..⟩

theorem startStream_stands (hidle : (s.stream hk n).mode ≠ .idle) (hfin : (s.stream hk n).mode ≠ .finished) :
    s.startStream hk n = s := by
  unfold State.startStream
  simp [hidle, hfin]

theorem stopStream_mode (s : State) (hk n : Nat) : ((s.stopStream hk n).stream hk n).mode =
    if (s.stream hk n).mode = .idle then .idle
    else if (s.stream hk n).mode = .stopping ∨ (s.stream hk n).busy = true ∨ 0 < (s.stream hk n).ahead then .stopping
    else .idle := by
  unfold State.stopStream
  dsimp only
  by_cases hidle : (s.stream hk n).mode = .idle
  · simp [hidle]
  · by_cases hstop : (s.stream hk n).mode = .stopping
    · simp [hstop]
    · by_cases hhand : (s.stream hk n).busy = true ∨ 0 < (s.stream hk n).ahead
      · have hcond : ((s.stream hk n).busy || decide (0 < (s.stream hk n).ahead)) = true := by simpa using hhand
        simp [hidle, hstop, hhand, hcond]
      · have hcond : ((s.stream hk n).busy || decide (0 < (s.stream hk n).ahead)) = false := by simpa using hhand
        simp only [hidle, hstop, hhand, hcond, or_self, if_false, beq_iff_eq, Bool.or_eq_true, Bool.false_eq_true]
        exact congrArg Stream.mode (State.stream_setStream ..)

end startStop

/-! ### SBAR (R206, R284) -/

/-- A stream behind the tokens in hand of others; one that runs is held. -/
def Stream.barred (t : Stream) (under : List Nat) : Stream :=
  { t with bar := under.foldl (fun b m => setAdd m b) t.bar,
           mode := if t.mode == .running then .held else t.mode }

/-- What an SBAR leaves of a stream that it names. -/
def Stream.IsBarred (under : List Nat) (t0 t : Stream) : Prop :=
  t.mode = (if t0.mode = .running then .held else t0.mode) ∧ ∀ k ∈ under, setHas k t.bar = true

theorem Stream.isBarred_barred (t : Stream) (under : List Nat) : Stream.IsBarred under t (t.barred under) :=
  ⟨by simp [Stream.barred], fun _ hk => (setHas_foldl_add ..).2 (.inl hk)⟩

theorem Stream.IsBarred.barred {under : List Nat} {t0 t : Stream} (h : Stream.IsBarred under t0 t) :
    Stream.IsBarred under t0 (t.barred under) := by
  obtain ⟨hmode, -⟩ := h
  refine ⟨?_, (t.isBarred_barred under).2⟩
  simp only [Stream.barred, hmode, beq_iff_eq]
  split <;> simp_all

/-- One stream that an SBAR names. -/
def State.barOne (under : List Nat) (s : State) (n : Nat) : State :=
  match s.myStream n with
  | some hk => if under = [] then s else s.setStream hk n ((s.stream hk n).barred under)
  | none => s

/-- The named streams whose token is in hand. -/
def State.tokensInHand (s : State) (named : List Nat) : List Nat :=
  named.filter fun n =>
    match s.myStream n with
    | some hk => (s.stream hk n).busy
    | none => false

theorem State.barStreams_eq (s : State) (named : List Nat) :
    s.barStreams named = named.foldl (State.barOne (s.tokensInHand named)) s := rfl

theorem State.mem_tokensInHand {named : List Nat} {n hk : Nat} (h : s.myStream n = some hk) :
    n ∈ s.tokensInHand named ↔ n ∈ named ∧ (s.stream hk n).busy = true := by
  rw [State.tokensInHand, List.mem_filter, h]

section barOne

variable {under : List Nat}

theorem InIssue.barOne (h : InIssue s v) (n : Nat) : InIssue s (v.barOne under n) := by
  unfold State.barOne
  split
  · split
    · exact h
    · exact h.setStream ..
  · exact h

theorem InIssue.barStreams (h : InIssue s v) (named : List Nat) : InIssue s (v.barStreams named) := by
  rw [State.barStreams_eq]
  generalize v.tokensInHand named = under
  induction named generalizing v with
  | nil => exact h
  | cons n named ih => exact ih (h.barOne n)

theorem State.myStream_barOne (s : State) (n m : Nat) : (s.barOne under n).myStream m = s.myStream m := by
  unfold State.barOne
  split
  · split <;> rfl
  · rfl

theorem State.stream_barOne_same {hk n : Nat} (hne : under ≠ []) (h : s.myStream n = some hk) :
    (s.barOne under n).stream hk n = (s.stream hk n).barred under := by
  rw [State.barOne, h]
  simp only [if_neg hne, State.stream_setStream]

theorem State.stream_barOne_ne (s : State) {n m : Nat} (hk : Nat) (hn : n < 64) (hm : m < 64) (hne : m ≠ n) :
    (s.barOne under n).stream hk m = s.stream hk m := by
  unfold State.barOne
  split
  · split
    · rfl
    · exact s.stream_setStream_ne hn hm hne _
  · rfl

/-- A stream is barred if it was before, or if it is among those named. -/
theorem isBarred_foldl {t0 : Stream} {m hm : Nat} (hne : under ≠ []) (hm64 : m < 64) (named : List Nat)
    (hnamed : ∀ n ∈ named, n < 64) (s : State) (hmine : s.myStream m = some hm)
    (h : Stream.IsBarred under t0 (s.stream hm m) ∨ m ∈ named ∧ s.stream hm m = t0) :
    Stream.IsBarred under t0 ((named.foldl (State.barOne under) s).stream hm m) := by
  induction named generalizing s with
  | nil => exact h.resolve_right fun hmem => absurd hmem.1 List.not_mem_nil
  | cons n named ih =>
    obtain ⟨hn, htail⟩ := List.forall_mem_cons.1 hnamed
    refine ih htail (s.barOne under n) ((s.myStream_barOne n m).trans hmine) ?_
    by_cases hnm : m = n
    · subst hnm
      rw [State.stream_barOne_same hne hmine]
      rcases h with h | ⟨-, rfl⟩
      · exact .inl h.barred
      · exact .inl (Stream.isBarred_barred ..)
    · rw [s.stream_barOne_ne hm hn hm64 hnm]
      exact h.imp_right fun ⟨hmem, heq⟩ => ⟨(List.mem_cons.1 hmem).resolve_left hnm, heq⟩

end barOne

/-- Each named stream is behind every token in hand of those named, if there is one. -/
theorem barStreams_bars {named : List Nat} (hnamed : ∀ n ∈ named, n < 64) {m hm : Nat} (hmem : m ∈ named)
    (hmine : s.myStream m = some hm) (hbusy : s.tokensInHand named ≠ []) :
    Stream.IsBarred (s.tokensInHand named) (s.stream hm m) ((s.barStreams named).stream hm m) := by
  rw [State.barStreams_eq]
  exact isBarred_foldl hbusy (hnamed m hmem) named hnamed s hmine (.inr ⟨hmem, rfl⟩)

/-! ### The stream forms (R206, R208) -/

section streamForms

variable (h : s.issues) (hm : s.memHeld = false) {n : BitVec 5} {hk : Nat}
include h hm

theorem sstart_acts (hstub : s.inStub = false) (hmine : s.myStream n.toNat = some hk) :
    CompletesWith (.sstart q n) s q fun u =>
      NothingWritten s u ∧ u = s.countIssue.elasticEffect.startStream hk n.toNat := by
  have hmine' : s.countIssue.myStream n.toNat = some hk := (s.countIssue_myStream _).trans hmine
  have hu : InIssue s (s.countIssue.elasticEffect.startStream hk n.toNat) :=
    (Prepared.effect s).toInIssue.startStream ..
  refine completesWith_of_runs (sstart_runs h hm hstub (Option.isSome_of_eq_some hmine)) rfl ?_ ?_
  · rw [hmine']
    exact hu
  · rw [hmine']
    exact ⟨hu.unwritten, rfl⟩

theorem sstop_acts (hstub : s.inStub = false) (hmine : s.myStream n.toNat = some hk) :
    CompletesWith (.sstop q n) s q fun u =>
      NothingWritten s u ∧ u = s.countIssue.elasticEffect.stopStream hk n.toNat := by
  have hmine' : s.countIssue.myStream n.toNat = some hk := (s.countIssue_myStream _).trans hmine
  have hu : InIssue s (s.countIssue.elasticEffect.stopStream hk n.toNat) :=
    (Prepared.effect s).toInIssue.stopStream ..
  refine completesWith_of_runs (sstop_runs h hm hstub (Option.isSome_of_eq_some hmine)) rfl ?_ ?_
  · rw [hmine']
    exact hu
  · rw [hmine']
    exact ⟨hu.unwritten, rfl⟩

theorem sbar_acts (hstub : s.inStub = false) {b : XReg} (hb : (s.x b).po = false)
    (hset : ∀ m ∈ maskBits (s.x b).v, m < 32 ∧ (s.myStream m).isSome = true) :
    CompletesWith (.sbar q b) s q fun u =>
      NothingWritten s u ∧ u = s.countIssue.elasticEffect.barStreams (maskBits (s.x b).v) := by
  have hu : InIssue s (s.countIssue.elasticEffect.barStreams (maskBits (s.x b).v)) :=
    (Prepared.effect s).toInIssue.barStreams _
  refine completesWith_of_runs (sbar_runs h hm hstub hb hset) rfl ?_ ?_
  · rw [State.countIssue_x]
    exact hu
  · rw [State.countIssue_x]
    exact ⟨hu.unwritten, rfl⟩

theorem sstat_acts (hmine : s.myStream n.toNat = some hk) (hroom : s.cur.rq.length < 8) :
    CompletesWith (.sstat q n) s q fun u => NothingWritten s u ∧ Deferred s u ∧
      setHas s.nextId u.cur.acq = true ∧
      Scheduled s u (.deferredResultArrival s.curCore s.curCtx s.nextId (s.sstatWord hk n.toNat) false) := by
  have hmine' : s.countIssue.myStream n.toNat = some hk := (s.countIssue_myStream _).trans hmine
  have hu := (((Prepared.countIssue s).holdAcquire true).toInIssue.deferEntry true).later 1
    (.deferredResultArrival s.curCore s.curCtx s.nextId (s.sstatWord hk n.toNat) false)
  have hcur := ((s.countIssue.holdAcquire true).cur_deferEntry true)
  rw [State.cur_holdAcquire, State.countIssue_cur] at hcur
  refine completesWith_of_runs (sstat_runs h hm (Option.isSome_of_eq_some hmine) hroom) rfl ?_ ?_
  · rw [hmine']
    exact hu
  · rw [hmine']
    exact ⟨hu.unwritten, congrArg Ctx.rq hcur,
      (congrArg (setHas s.nextId ·.acq) hcur).trans ((setHas_add _ _ _).2 (.inl rfl)),
      scheduled_later (u := (s.countIssue.holdAcquire true).deferEntry true) rfl Nat.one_pos _⟩

end streamForms

/-- Settles O24: SSTART and SSTOP by their stream's mode, SBAR over the set that it names, SSTAT by its word. -/
theorem streamFormsAct : Obligations.StreamFormsAct := by
  intro s q n b hk h hm hmine z t
  have ht : s.countIssue.elasticEffect.stream hk z = t := (Prepared.effect s).stream hk z
  refine ⟨fun hstub => ⟨fun hmode => ?starts, fun hidle hfin => ?stands, ?stops, fun hb hset => ?bars⟩,
    fun hroom => ?word⟩
  case starts =>
    obtain ⟨u, hu, hl, hnone, rfl⟩ := sstart_acts (q := q) h hm hstub hmine
    obtain ⟨hstream, hdue⟩ := startStream_starts (s := s.countIssue.elasticEffect) (ht ▸ hmode)
    rw [ht] at hstream
    refine ⟨_, hu, hl, hnone, ?_⟩
    rw [hstream]
    exact ⟨rfl, rfl, rfl, rfl, hdue⟩
  case stands =>
    obtain ⟨u, hu, hl, hnone, rfl⟩ := sstart_acts (q := q) h hm hstub hmine
    refine ⟨_, hu, hl, hnone, ?_⟩
    rw [startStream_stands (ht ▸ hidle) (ht ▸ hfin), ht]
  case stops =>
    obtain ⟨u, hu, hl, hnone, rfl⟩ := sstop_acts (q := q) h hm hstub hmine
    refine ⟨_, hu, hl, hnone, ?_⟩
    rw [stopStream_mode, ht]
  case bars =>
    obtain ⟨u, hu, hl, hnone, rfl⟩ := sbar_acts (q := q) h hm hstub hb hset
    refine ⟨_, hu, hl, hnone, fun m hmem hm' hmine' ⟨k, hk, hk', hkmine, hkbusy⟩ => ?_⟩
    have hmy : ∀ m, s.countIssue.elasticEffect.myStream m = s.myStream m := fun m => by simp
    have hst := (Prepared.effect s).stream
    have hhand : ∀ k ∈ maskBits (s.x b).v, ∀ hk', s.myStream k = some hk' → (s.stream hk' k).busy = true →
        k ∈ s.countIssue.elasticEffect.tokensInHand (maskBits (s.x b).v) := fun k hk hk' hkmine hkbusy =>
      (State.mem_tokensInHand ((hmy k).trans hkmine)).2 ⟨hk, (hst hk' k).symm ▸ hkbusy⟩
    obtain ⟨hmode, hbar⟩ := barStreams_bars (s := s.countIssue.elasticEffect)
      (fun m hm => Nat.lt_of_lt_of_le (hset m hm).1 (by decide)) hmem ((hmy m).trans hmine')
      (List.ne_nil_of_mem (hhand k hk hk' hkmine hkbusy))
    rw [hst] at hmode
    exact ⟨hmode, fun k hk hk' hkmine hkbusy => hbar k (hhand k hk hk' hkmine hkbusy)⟩
  case word => exact sstat_acts h hm hmine hroom

end Sys2Proof.Machine

namespace Sys2Proof.Machine

variable {s t u v w : State} {q : Issue} {i j : Instr} {id : Nat}

/-! ### Accesses that are performed at their bank (R197, R198, R202, R273) -/

/-- Who last accessed a word, and the determinism record of its load, are no part of memory (R279). -/
theorem State.atomIdentity_eq (s : State) (a : Access) : ∃ l m,
    s.atomIdentity a = { s with loads := l, atoms := m } := by
  unfold State.atomIdentity
  dsimp only
  split
  · split
    · exact ⟨_, _, rfl⟩
    · next h _ _ _ _ =>
      obtain ⟨d, n, hd⟩ := s.detEvent_eq h 2 (BitVec.ofNat 8 a.ctx) ((s.visibleCore a.core).setWidth 16)
        (a.pc.setWidth 16) (a.fix.setWidth 32)
      rw [hd]
      exact ⟨_, _, rfl⟩
  · exact ⟨_, _, rfl⟩

@[simp] theorem State.atomIdentity_mem (s : State) (a : Access) : (s.atomIdentity a).mem = s.mem := by
  obtain ⟨l, m, h⟩ := s.atomIdentity_eq a
  rw [h]

@[simp] theorem State.atomIdentity_cycle (s : State) (a : Access) : (s.atomIdentity a).cycle = s.cycle := by
  obtain ⟨l, m, h⟩ := s.atomIdentity_eq a
  rw [h]

@[simp] theorem State.cycle_storeVal (s : State) (key n : Nat) (v : Word64) (po : Bool) :
    (s.storeVal key n v po).cycle = s.cycle := by
  have h := congrArg State.cycle (s.storeVal_apart key n v po)
  exact h

@[simp] theorem State.cycle_storeFull (s : State) (key : Nat) (v : Word64) : (s.storeFull key v).cycle = s.cycle :=
  s.cycle_storeVal key 8 v false

@[simp] theorem State.cycle_performAccess (s : State) (a : Access) : (s.performAccess a).cycle = s.cycle := by
  unfold State.performAccess
  dsimp only
  split
  case h_1 | h_4 => rfl
  case h_3 => exact s.cycle_storeFull ..
  case h_5 => split <;> simp
  all_goals simp

/-- Each kind's bytes in memory, with the value at its word before. -/
def Access.memAfter (a : Access) (m : List Host.Cell) (old : Word64) (po : Bool) : List Host.Cell :=
  let writes := fun (n : Nat) (v : Word64) => memSetBytes m a.key (natToBytes n v.toNat)
  match a.kind with
  | .load | .setEmpty => m
  | .store => writes a.bytes a.a
  | .storeFull => writes 8 a.a
  | .cas => if !po && old.toNat == a.a.toNat % 2 ^ (8 * a.bytes) then writes a.bytes a.b else m
  | .add => writes 8 (old + a.a)
  | .swap => writes 8 a.a
  | .and => writes 8 (old &&& a.a)
  | .or => writes 8 (old ||| a.a)
  | .xor => writes 8 (old ^^^ a.a)
  | .min => writes 8 (if a.a.toInt < old.toInt then a.a else old)
  | .max => writes 8 (if old.toInt < a.a.toInt then a.a else old)
  | .maxu => writes 8 (if old.toNat < a.a.toNat then a.a else old)

theorem State.performAccess_mem (s : State) (a : Access) : (s.performAccess a).mem =
    a.memAfter s.mem (BitVec.ofNat 64 (s.load a.key a.bytes)) (s.poisoned a.key a.bytes) := by
  unfold State.performAccess Access.memAfter
  dsimp only
  cases a.kind
  case load | setEmpty => rfl
  case store => exact s.storeVal_mem ..
  case storeFull => exact s.storeFull_mem ..
  case cas =>
    dsimp only
    split <;> simp
  all_goals simp [atomNew, BitVec.slt, BitVec.ult]

section accessReachesBank

variable {a : Access} (ha : mapFind id s.accs = some a)
include ha

theorem execAccessReachesBank_gated (hg : s.bankGated a.core a.key = true) :
    exec (.accessReachesBank id) s = .next s := by
  dsimp only [exec, execAccessReachesBank]
  rw [ha]
  exact if_pos hg

variable (hg : s.bankGated a.core a.key = false)
include hg

theorem execAccessReachesBank_waits (hprior : s.allPerformed a.after = false) :
    exec (.accessReachesBank id) s = .next (s.retry (.accessReachesBank id)) := by
  dsimp only [exec, execAccessReachesBank]
  rw [ha]
  simp [hg, hprior]

theorem execAccessReachesBank_performs (hprior : s.allPerformed a.after = true) :
    exec (.accessReachesBank id) s =
      if AccKind.deferred a.kind then .next (({ s.performAccess a with accs := mapDel id s.accs }).later 1
        (.deferredResultArrival a.core a.ctx id (BitVec.ofNat 64 (s.load a.key a.bytes)) (s.poisoned a.key a.bytes)))
      else .next { s.performAccess a with accs := mapDel id s.accs } := by
  dsimp only [exec, execAccessReachesBank]
  rw [ha]
  simp [hg, hprior]

theorem accessReachesBank_performs (hprior : s.allPerformed a.after = true) :
    ∃ t, exec (.accessReachesBank id) s = .next t ∧ t.accs = mapDel id s.accs ∧
      (AccKind.deferred a.kind = true → Scheduled s t (.deferredResultArrival a.core a.ctx id
        (BitVec.ofNat 64 (s.load a.key a.bytes)) (s.poisoned a.key a.bytes))) ∧
      t.mem = a.memAfter s.mem (BitVec.ofNat 64 (s.load a.key a.bytes)) (s.poisoned a.key a.bytes) := by
  rw [execAccessReachesBank_performs ha hg hprior]
  by_cases hd : AccKind.deferred a.kind = true
  · rw [if_pos hd]
    exact ⟨_, rfl, rfl, fun _ => scheduled_later (u := { s.performAccess a with accs := mapDel id s.accs })
      (s.cycle_performAccess a) Nat.one_pos _, s.performAccess_mem a⟩
  · rw [if_neg hd]
    exact ⟨_, rfl, rfl, fun h => absurd h hd, s.performAccess_mem a⟩

end accessReachesBank

/-! ### Tile moves step by step (R192) -/

/-- A move's next words are at least one, and no more than are left. -/
theorem moveCount_spec {c : Copy} (s : State) (hlt : c.moved < c.len) (hlen : c.len % 8 = 0)
    (hmoved : c.moved % 8 = 0) :
    8 ≤ s.moveCount c ∧ s.moveCount c % 8 = 0 ∧ c.moved + s.moveCount c ≤ c.len := by
  unfold State.moveCount
  dsimp only
  generalize (Config.freeBits s.fresh).toNat % ((c.len - c.moved) / 8) = r
  omega

/-- Words that move leave what is no part of the stores and of FULL. -/
theorem moveBytes_keeps {β : Type} (g : State → β)
    (hg : ∀ (s : State) mem poison dirty saved full,
      g { s with mem := mem, poison := poison, dirty := dirty, saved := saved, full := full } = g s)
    (s : State) (c : Copy) (n : Nat) : g (s.moveBytes c n) = g s := by
  have hstore := storeMarked_keeps g fun s mem poison dirty saved => hg s mem poison dirty saved s.full
  unfold State.moveBytes
  dsimp only
  split
  · exact hstore ..
  · exact (hg (s.storeMarked (c.key + c.moved) ((c.data.drop c.moved).take n) []) _ _ _ _ _).trans (hstore ..)

theorem State.moveBytes_mem (s : State) (c : Copy) (n : Nat) : (s.moveBytes c n).mem =
    if c.kind = .tmovIn then
      memSetBytes s.mem (tileKey c.core (c.tile + c.moved)) (memBytes s.mem (c.key + c.moved) n)
    else memSetBytes s.mem (c.key + c.moved) ((c.data.drop c.moved).take n) := by
  unfold State.moveBytes
  simp only [beq_iff_eq]
  split
  · exact s.storeMarked_mem ..
  · exact s.storeMarked_mem _ _ []

/-- What a copy that ends leaves: its range and its tag are free (R192). -/
theorem endCopy_frees (s : State) (c : Copy) : (s.endCopy c).copies = mapDel c.id s.copies ∧
    (s.endCopy c).mem = s.mem ∧ (∀ e ∈ ((s.endCopy c).core c.core).score, e.id ≠ c.id) ∧
    ∀ e ∈ ((s.endCopy c).ctx c.core c.ctx).tags, e.2 ≠ c.id := by
  refine ⟨rfl, rfl, fun e he => ?_, fun e he => ?_⟩
  · have hscore : ((s.endCopy c).core c.core).score = (s.core c.core).score.filter (·.id != c.id) := by
      refine (congrArg Core.score (State.core_setCore ..)).trans ((Core.setCtx_score ..).trans ?_)
      exact congrArg Core.score (State.core_setCore ..)
    rw [hscore, List.mem_filter] at he
    simpa using he.2
  · have htags : ((s.endCopy c).ctx c.core c.ctx).tags = (s.ctx c.core c.ctx).tags.filter (·.2 != c.id) := by
      refine (congrArg Ctx.tags (State.ctx_setCtx ..)).trans ?_
      rw [State.dropRanges_ctx]
    rw [htags, List.mem_filter] at he
    simpa using he.2

section tmovRetire

variable {c : Copy} (hc : mapFind id s.copies = some c)
include hc

theorem execTmovRetire_gated (hg : s.coreGated c.core = true) : exec (.tmovRetire id) s = .next s := by
  dsimp only [exec, execTmovRetire]
  rw [hc]
  simp [hg]

/-- The words of a move that are behind nothing. -/
theorem execTmovRetire_moves (hg : s.coreGated c.core = false) (hbehind : s.copyBehind c = false)
    (hprior : s.allPerformed c.after = true) (hkind : c.kind = .tmovIn ∨ c.kind = .tmovOut) :
    exec (.tmovRetire id) s =
      if c.len ≤ c.moved + s.moveCount c then
        .next ({ s.moveBytes c (s.moveCount c) with fresh := s.fresh + 1 }.endCopy c)
      else .next ({ s.moveBytes c (s.moveCount c) with
        fresh := s.fresh + 1,
        copies := mapPut id { c with moved := c.moved + s.moveCount c } (s.moveBytes c (s.moveCount c)).copies }.later 1
          (.tmovRetire id)) := by
  dsimp only [exec, execTmovRetire]
  rw [hc]
  rcases hkind with hkind | hkind <;> simp [hg, hbehind, hprior, hkind]

theorem tmovRetire_moves (hid : c.id = id) (hg : s.coreGated c.core = false) (hbehind : s.copyBehind c = false)
    (hprior : s.allPerformed c.after = true) (hlt : c.moved < c.len) (hlen : c.len % 8 = 0)
    (hmoved : c.moved % 8 = 0) (hkind : c.kind = .tmovIn ∨ c.kind = .tmovOut) :
    ∃ n t, 8 ≤ n ∧ n % 8 = 0 ∧ c.moved + n ≤ c.len ∧ exec (.tmovRetire id) s = .next t ∧
      t.mem = (s.moveBytes c n).mem ∧
      (c.moved + n < c.len → mapFind id t.copies = some { c with moved := c.moved + n } ∧
        Scheduled s t (.tmovRetire id)) ∧
      (c.moved + n = c.len → t.copies = mapDel id s.copies ∧
        (∀ e ∈ (t.core c.core).score, e.id ≠ id) ∧ ∀ e ∈ (t.ctx c.core c.ctx).tags, e.2 ≠ id) := by
  obtain ⟨hmin, hwords, hmax⟩ := moveCount_spec s hlt hlen hmoved
  have hcopies : (s.moveBytes c (s.moveCount c)).copies = s.copies :=
    moveBytes_keeps (·.copies) (fun _ _ _ _ _ _ => rfl) ..
  have hcycle : (s.moveBytes c (s.moveCount c)).cycle = s.cycle :=
    moveBytes_keeps (·.cycle) (fun _ _ _ _ _ _ => rfl) ..
  have hexec := execTmovRetire_moves hc hg hbehind hprior hkind
  by_cases hend : c.len ≤ c.moved + s.moveCount c
  · rw [if_pos hend] at hexec
    obtain ⟨hdel, hmem, hscore, htags⟩ :=
      endCopy_frees { s.moveBytes c (s.moveCount c) with fresh := s.fresh + 1 } c
    rw [hid] at hdel hscore htags
    exact ⟨_, _, hmin, hwords, hmax, hexec, hmem, fun hmore => absurd hend (Nat.not_le.2 hmore),
      fun _ => ⟨hdel.trans (congrArg (mapDel id) hcopies), hscore, htags⟩⟩
  · rw [if_neg hend] at hexec
    refine ⟨_, _, hmin, hwords, hmax, hexec, rfl, fun _ => ⟨mapFind_put .., ?_⟩,
      fun heq => absurd heq.ge hend⟩
    exact scheduled_later (u := { s.moveBytes c (s.moveCount c) with
      fresh := s.fresh + 1, copies := _ }) hcycle Nat.one_pos _

end tmovRetire

/-- Settles O35: the access by its sets and its kind, and the move by the words that it moves. -/
theorem accessesPerform : Obligations.AccessesPerform := by
  intro s id a c old po
  refine ⟨fun ha hg => execAccessReachesBank_gated ha hg, fun hc hg => execTmovRetire_gated hc hg,
    fun ha hg hprior => accessReachesBank_performs ha hg hprior,
    fun ha hg hprior => execAccessReachesBank_waits ha hg hprior,
    fun hc hid hg hbehind hprior hlt hlen hmoved hkind => ?_⟩
  obtain ⟨n, t, hmin, hwords, hmax, hexec, hmem, hmore, hend⟩ :=
    tmovRetire_moves hc hid hg hbehind hprior hlt hlen hmoved hkind
  exact ⟨n, t, hmin, hwords, hmax, hexec, hmem.trans (s.moveBytes_mem c n), hmore, hend⟩

end Sys2Proof.Machine

namespace Sys2Proof.Machine

variable {s t u v w : State} {q : Issue} {i j : Instr} {id : Nat} {p : Packet}

/-! ### Window descriptors that packets change (R251, R255, R256) -/

/-- A consumer end that a token more counts for: its data stands where the token lands (R255). -/
theorem commitWindow_counts (ht : Tidy s) (p : Packet) (c n : Nat) :
    (s.commitWindow p c n).cmt c n = (s.cmt c n + 1) % 2 ^ 32 ∧
      memBytes (s.commitWindow p c n).mem (s.windowSlot p c n) p.data.length = p.data := by
  have hcmt : (s.commitWindow p c n).cmt c n = bits ((s.commitWindow p c n).win c n 1) 32 32 := rfl
  have hmem : (s.commitWindow p c n).mem = memSetBytes s.mem (s.windowSlot p c n) p.data := by
    rw [State.commitWindow, State.setWin, State.setCfg_mem, State.storeMarked_mem]
  refine ⟨?_, ?_⟩
  · rw [hcmt, State.commitWindow, State.win_setWin ht.storeMarked, bits_withBits _ (by decide)]
  · rw [hmem]
    exact memBytes_setBytes ht.1 ..

@[simp] theorem State.commitWindow_packets (s : State) (p : Packet) (c n : Nat) :
    (s.commitWindow p c n).packets = s.packets := by
  rw [State.commitWindow, State.setWin, State.setCfg_packets]
  exact storeMarked_keeps (·.packets) (fun _ _ _ _ _ => rfl) ..

/-- An acknowledgement that leaves is an event or a flit (R205). -/
theorem sendAck_keeps {β : Type} (g : State → β)
    (hg : ∀ (s : State) agenda fresh out, g { s with agenda := agenda, fresh := fresh, hostOut := out } = g s)
    (s : State) (p : Packet) : g (s.sendAck p) = g s := by
  unfold State.sendAck
  split
  · exact hg s _ _ s.hostOut
  · exact hg s s.agenda s.fresh _
  · rfl

theorem State.setCred_mem (s : State) (c n k x : Nat) : (s.setCred c n k x).mem = s.mem := by
  unfold State.setCred
  split_ifs <;> rfl

theorem State.setCred_packets (s : State) (c n k x : Nat) : (s.setCred c n k x).packets = s.packets := by
  unfold State.setCred
  split_ifs <;> rfl

/-- The credit of one consumer end, as it is set (R251). -/
theorem State.cred_setCred (ht : Tidy s) (c n k : Nat) {x : Nat} (hx : x < 2 ^ 32) :
    (s.setCred c n k x).cred c n k = x := by
  unfold State.setCred State.cred
  split_ifs <;> rw [State.win_setWin ht, bits_withBits _ (by decide), Nat.mod_eq_of_lt hx]

/-- The sequence numbers of a descriptor are in another word than its credits. -/
theorem State.cred_setWin_counts (s : State) (c n k : Nat) (x : Word64) :
    (s.setWin c n 1 x).cred c n k = s.cred c n k := by
  have hne := fun l (h : l ≠ 1) => s.win_setWin_ne c n h x
  simp only [State.cred, hne 2 (by decide), hne 3 (by decide)]

/-- CLOSED is set with its bit (R256). -/
theorem State.winClosed_setWin (ht : Tidy s) (c n : Nat) :
    (s.setWin c n 0 (withBits (s.win c n 0) 53 1 1)).winClosed c n = true := by
  rw [State.winClosed, State.win_setWin ht, bitAt_eq_bits, bits_withBits _ (by decide)]
  rfl

theorem State.mem_setWin (s : State) (c n k : Nat) (x : Word64) : (s.setWin c n k x).mem = s.mem := rfl

theorem State.packets_setWin (s : State) (c n k : Nat) (x : Word64) : (s.setWin c n k x).packets = s.packets := rfl

/-! ### A packet at a router (R253, R309, R411) -/

section router

variable (hp : mapFind id s.packets = some p)
include hp

/-- A packet whose hall a freeze has reached does not commit (R412). -/
theorem packet_gone (hg : (s.loadAt p.load).gated p.hall = true)
    (hi : i = Instr.tokenCommit id ∨ i = .creditArrival id ∨ i = .closePacketArrival id) :
    exec i s = .next { s with packets := mapDel id s.packets } := by
  have hgone : s.packetGone p = true := (s.packetGone_iff p).2 (.inr hg)
  rcases hi with rfl | rfl | rfl
  · dsimp only [exec, execTokenCommit]
    rw [hp]
    exact if_pos hgone
  · dsimp only [exec, execCreditArrival]
    rw [hp]
    exact if_pos hgone
  · dsimp only [exec, execClosePacketArrival]
    rw [hp]
    exact if_pos hgone

variable (hload : (s.loadAt p.load).state ≠ .free) (hport : p.atPort = none) (hdest : p.dest = none)
include hload hport hdest

theorem routerForward_purged (hf : s.frozenAt p = .purged) :
    exec (.routerForward id) s = .next { s with packets := mapDel id s.packets } := by
  dsimp only [exec, execRouterForward]
  rw [hp]
  simp [hport, hdest, Load.committed, hload, hf]

theorem routerForward_waits (hf : s.frozenAt p = .waits) :
    exec (.routerForward id) s = .next (s.retry (.routerForward id)) := by
  dsimp only [exec, execRouterForward]
  rw [hp]
  simp [hport, hdest, Load.committed, hload, hf]

/-- What waits for nothing goes on with the flits that its hall admits. -/
theorem routerForward_passes (hf : s.frozenAt p = .no) (hbehind : s.routeBehind p = false)
    (hcredit : s.creditSettled p = true)
    (hout : bitAt (s.route p.hall p.rc.toNat) 63 = true → bitAt (s.route p.hall p.rc.toNat) 12 = true →
      s.allPerformed p.covers = true ∧ s.portHolds (4 * (p.hall / 128) +
        bits (s.route p.hall p.rc.toNat) 10 2) (bits (s.route p.hall p.rc.toNat) 60 3) = false) :
    exec (.routerForward id) s = if (s.admitFlits p).2.owed = 0 then
        .next ((s.admitFlits p).1.routePacket (s.admitFlits p).2)
      else .next ({ (s.admitFlits p).1 with
        packets := mapPut id (s.admitFlits p).2 (s.admitFlits p).1.packets }.retry (.routerForward id)) := by
  have hheld : (bitAt (s.route p.hall p.rc.toNat) 63 && bitAt (s.route p.hall p.rc.toNat) 12 &&
      (s.portHolds (4 * (p.hall / 128) + bits (s.route p.hall p.rc.toNat) 10 2)
        (bits (s.route p.hall p.rc.toNat) 60 3) || !s.allPerformed p.covers)) = false := by
    by_cases h63 : bitAt (s.route p.hall p.rc.toNat) 63 = true
    · by_cases h12 : bitAt (s.route p.hall p.rc.toNat) 12 = true
      · obtain ⟨hcov, hfree⟩ := hout h63 h12
        rw [hcov, hfree]
        simp
      · simp [h12]
    · simp [h63]
  dsimp only [exec, execRouterForward]
  rw [hp]
  simp only [hport, hdest, Option.isSome_none, Bool.false_eq_true, if_false, Load.committed, bne_iff_ne.2 hload,
    Bool.not_true, hf, hbehind, hcredit, hheld, Bool.or_self]

end router

/-! ### A packet at its destination (R187, R251, R255, R256) -/

section delivery

variable {c n : Nat} (hp : mapFind id s.packets = some p) (hgone : s.packetGone p = false)
  (hbehind : s.deliveryBehind p = false) (hengine : p.engineDest = none) (hcore : p.coreDest = some (c, n))
include hp hgone hbehind hengine hcore

theorem execTokenCommit_commits (hcovers : s.allPerformed p.covers = true) (hend : s.isConsumer c n = true) :
    exec (.tokenCommit id) s =
      .next (({ s with packets := mapDel id s.packets }.commitWindow p c n).sendAck p) := by
  dsimp only [exec, execTokenCommit]
  rw [hp]
  simp [hgone, hbehind, hengine, hcore, hcovers, hend]

theorem execCreditArrival_credits (hend : s.isProducer c n = true) :
    let u := { s with packets := mapDel id s.packets }.setCred c n p.fan.toNat p.seq.toNat
    exec (.creditArrival id) s =
      .next (u.setWin c n 1 (withBits (u.win c n 1) 0 32 (u.shadow c n))) := by
  dsimp only [exec, execCreditArrival]
  rw [hp]
  simp [hgone, hbehind, hengine, hcore, hend]

theorem execClosePacketArrival_closes (hend : s.isConsumer c n = true ∨ s.isProducer c n = true) :
    let u := { s with packets := mapDel id s.packets }
    exec (.closePacketArrival id) s = .next (u.setWin c n 0 (withBits (u.win c n 0) 53 1 1)) := by
  have hend' : (s.isConsumer c n || s.isProducer c n) = true := by simpa using hend
  dsimp only [exec, execClosePacketArrival]
  rw [hp]
  simp [hgone, hbehind, hengine, hcore, hend']

theorem execClosePacketArrival_badRoute (hcons : s.isConsumer c n = false) (hprod : s.isProducer c n = false) :
    exec (.closePacketArrival id) s = .next (s.badRoute p) := by
  dsimp only [exec, execClosePacketArrival]
  rw [hp]
  simp [hgone, hbehind, hengine, hcore, hcons, hprod]

theorem tokenCommit_commits (hcovers : s.allPerformed p.covers = true) (hend : s.isConsumer c n = true) :
    ∃ t, exec (.tokenCommit id) s = .next t ∧ t.packets = mapDel id s.packets ∧
      (Tidy s → t.cmt c n = (s.cmt c n + 1) % 2 ^ 32 ∧
        memBytes t.mem (s.windowSlot p c n) p.data.length = p.data) := by
  have hkeeps : ∀ {β : Type} (g : State → β) (hg : ∀ (s : State) agenda fresh out,
      g { s with agenda := agenda, fresh := fresh, hostOut := out } = g s) (u : State), g (u.sendAck p) = g u :=
    fun g hg u => sendAck_keeps g hg u p
  refine ⟨_, execTokenCommit_commits hp hgone hbehind hengine hcore hcovers hend, ?_, fun ht => ?_⟩
  · rw [hkeeps (·.packets) fun _ _ _ _ => rfl, State.commitWindow_packets]
  · rw [hkeeps (·.cmt c n) fun _ _ _ _ => rfl, hkeeps (·.mem) fun _ _ _ _ => rfl]
    exact commitWindow_counts (s := { s with packets := mapDel id s.packets }) ht p c n

theorem creditArrival_credits (hend : s.isProducer c n = true) :
    ∃ t, exec (.creditArrival id) s = .next t ∧ t.mem = s.mem ∧ t.packets = mapDel id s.packets ∧
      (Tidy s → t.cred c n p.fan.toNat = p.seq.toNat) := by
  refine ⟨_, execCreditArrival_credits hp hgone hbehind hengine hcore hend, ?_, ?_, fun ht => ?_⟩
  · rw [State.mem_setWin, State.setCred_mem]
  · rw [State.packets_setWin, State.setCred_packets]
  · rw [State.cred_setWin_counts]
    exact State.cred_setCred (s := { s with packets := mapDel id s.packets }) ht c n _ p.seq.isLt

theorem closePacketArrival_closes (hend : s.isConsumer c n = true ∨ s.isProducer c n = true) :
    ∃ t, exec (.closePacketArrival id) s = .next t ∧ t.mem = s.mem ∧ t.packets = mapDel id s.packets ∧
      (Tidy s → t.winClosed c n = true) :=
  ⟨_, execClosePacketArrival_closes hp hgone hbehind hengine hcore hend, rfl, rfl,
    fun ht => State.winClosed_setWin (s := { s with packets := mapDel id s.packets }) ht c n⟩

end delivery

/-! ### Reads that are done, and acknowledgements (R187, R205) -/

/-- A core without the ranges of an operation. -/
def Core.dropReads (id : Nat) (k : Core) : Core := { k with score := k.score.filter (·.id != id) }

theorem wputReadDone_drops (s : State) (id : Nat) : ∃ t, exec (.wputReadDone id) s = .next t ∧ t.mem = s.mem ∧
    ∀ d, (t.core d).score = (s.core d).score.filter fun e => e.id != id := by
  refine ⟨_, rfl, rfl, fun d => ?_⟩
  have hfind := mapFind_map (Core.dropReads id) d s.cores
  refine (congrArg (fun k => (Option.getD k {}).score) hfind).trans ?_
  rw [State.core, mapGet]
  cases mapFind d s.cores <;> rfl

theorem commitAck_counts {c x n : Nat} (hn : 0 < n) (hacks : mapGet 0 id s.acks = n * 2 ^ 16 + 4 * c + x)
    (hctx : 4 * c + x < 2 ^ 16) : exec (.commitAck c x id) s = .next { s with
      acks := if n = 1 then mapDel id s.acks else mapPut id ((n - 1) * 2 ^ 16 + 4 * c + x) s.acks } := by
  have hlow : (n * 2 ^ 16 + 4 * c + x) % 2 ^ 16 = 4 * c + x := by omega
  have hhigh : (n * 2 ^ 16 + 4 * c + x) / 2 ^ 16 = n := by omega
  have hless : n * 2 ^ 16 + 4 * c + x - 2 ^ 16 = (n - 1) * 2 ^ 16 + 4 * c + x := by omega
  dsimp only [exec, execCommitAck]
  rw [hacks, hlow, hhigh, hless, if_neg (by simp; omega)]
  split <;> rfl

/-- Settles O34: a packet by where it stands and what a freeze makes of it, and what each kind leaves. -/
theorem packetsMoveAndLand : Obligations.PacketsMoveAndLand := by
  intro s id p c x w
  refine ⟨fun hp hload => ⟨fun hport hdest => ⟨routerForward_purged hp hload hport hdest,
      routerForward_waits hp hload hport hdest⟩, fun hg i => packet_gone hp hg,
    fun hf hport hdest => routerForward_passes hp hload hport hdest hf, fun hg hbehind hengine hcore => ?_⟩,
    wputReadDone_drops s id, fun n => commitAck_counts⟩
  have hgone : s.packetGone p = false := by
    rw [← Bool.not_eq_true, State.packetGone_iff]
    simp [hload, hg]
  exact ⟨tokenCommit_commits hp hgone hbehind hengine hcore, creditArrival_credits hp hgone hbehind hengine hcore,
    closePacketArrival_closes hp hgone hbehind hengine hcore,
    execClosePacketArrival_badRoute hp hgone hbehind hengine hcore⟩

end Sys2Proof.Machine

namespace Sys2Proof.Machine

variable {s t u v w : State} {q : Issue} {i j : Instr} {id : Nat}

/-! ### Words of a queue's header and of its slots (R295 to R297) -/

theorem natToBytes_drop (len n v : Nat) : (natToBytes len v).drop n = natToBytes (len - n) (v / 256 ^ n) := by
  induction n generalizing len v with
  | zero => simp
  | succ n ih =>
    cases len with
    | zero => simp [natToBytes]
    | succ len =>
      rw [natToBytes, List.drop_succ_cons, ih, Nat.div_div_eq_div_mul, ← pow_succ', Nat.add_sub_add_right]

theorem natToBytes_take {len n : Nat} (h : n ≤ len) (v : Nat) : (natToBytes len v).take n = natToBytes n v := by
  induction n generalizing len v with
  | zero => rfl
  | succ n ih =>
    obtain ⟨len, rfl⟩ := Nat.exists_eq_add_of_le' (Nat.zero_lt_of_lt h)
    rw [natToBytes, natToBytes, List.take_succ_cons, ih (by omega)]

/-- A part of a word that was written. -/
theorem State.load_setWord_part (ht : Tidy s) (key v : Nat) {n len : Nat} (hn : n + len ≤ 8) :
    (s.setWord key v).load (key + n) len = v % 2 ^ 64 / 256 ^ n % 256 ^ len := by
  have hpart := memBytes_setBytes_field ht.1 key (natToBytes 8 (BitVec.ofNat 64 v).toNat) (n := n) (len := len)
    (by rw [natToBytes_length]; exact hn)
  rw [State.load, State.setWord, State.storeVal_mem, hpart, natToBytes_drop, natToBytes_take (by omega),
    bytesToNat_natToBytes, BitVec.toNat_ofNat]

/-- Bytes that a word does not reach. -/
theorem State.memBytes_setWord (s : State) {key v lo n : Nat} (h : lo + n ≤ key ∨ key + 8 ≤ lo) :
    memBytes (s.setWord key v).mem lo n = memBytes s.mem lo n := by
  rw [State.setWord, State.storeVal_mem]
  exact memBytes_congr _ _ fun k hlo hhi =>
    memByte_setBytes_outside _ _ _ (by rw [natToBytes_length]; omega)

theorem State.load_setWord_ne (s : State) {key v lo n : Nat} (h : lo + n ≤ key ∨ key + 8 ≤ lo) :
    (s.setWord key v).load lo n = s.load lo n := by
  rw [State.load, s.memBytes_setWord h, State.load]

/-- A slot's state word: its state, and its index (R296). -/
theorem State.slot_setSlot (ht : Tidy s) (home j : Nat) {st f : Nat} (hst : st < 4) (hf : f < 2 ^ 32) :
    (s.setSlot home j st f).slotSt home j = st ∧ (s.setSlot home j st f).slotIdx home j = f := by
  rw [State.slotSt, State.slotIdx, State.setSlot, State.load_setWord_part ht _ _ (by decide)]
  have hidx := State.load_setWord_part ht (slotKey home j) (st * 2 ^ 34 + f % 2 ^ 32) (n := 0) (len := 4) (by decide)
  rw [Nat.add_zero] at hidx
  rw [hidx]
  omega

theorem setWord_keeps {β : Type} (g : State → β)
    (hg : ∀ (s : State) mem poison dirty saved,
      g { s with mem := mem, poison := poison, dirty := dirty, saved := saved } = g s)
    (s : State) (key v : Nat) : g (s.setWord key v) = g s := by
  have hstore : ∀ d, g (s.store key d) = g s := fun d =>
    (hg (s.store key d) _ _ _ _).symm.trans (storeMarked_keeps g hg s key d [])
  exact (hg (s.store key _) _ _ _ _).trans (hstore _)

/-- A queue that is closed, with the index that ends it (R299). -/
theorem State.closed_closeQueue (ht : Tidy s) (home : Nat) {f : Nat} (hf : f < 2 ^ 32) :
    (s.closeQueue home f).qClosed home = true ∧ (s.closeQueue home f).qFinal home = f := by
  have hclosed := State.load_setWord_part ht (home + 24) (2 ^ 32 + f % 2 ^ 32) (n := 4) (len := 1) (by decide)
  have hfinal := State.load_setWord_part ht (home + 24) (2 ^ 32 + f % 2 ^ 32) (n := 0) (len := 4) (by decide)
  rw [Nat.add_zero] at hfinal
  rw [State.qClosed, State.qFinal, State.closeQueue, hclosed, hfinal, beq_iff_eq]
  omega

/-! ### QUEUE_SLOT_COMMIT and CLAIM_COPY_RETIRE (R209, R210, R296, R411) -/

theorem commitSlot_keeps {β : Type} (g : State → β)
    (hg : ∀ (s : State) mem poison dirty saved full,
      g { s with mem := mem, poison := poison, dirty := dirty, saved := saved, full := full } = g s)
    (s : State) (home slots size f : Nat) (pne : Bool) (d : List Byte) (po : List Nat) :
    g (s.commitSlot home slots size f pne d po) = g s := by
  have hword := setWord_keeps g fun s mem poison dirty saved => hg s mem poison dirty saved s.full
  have hstore := storeMarked_keeps g fun s mem poison dirty saved => hg s mem poison dirty saved s.full
  have hslot : ∀ key, g (((s.storeMarked key d po).setFull key size).setSlot home (f % slots) 2 f) = g s := fun key =>
    (hword ..).trans ((hg (s.storeMarked key d po) _ _ _ _ _).trans (hstore ..))
  unfold State.commitSlot
  dsimp only
  split
  · exact (hword ..).trans (hslot _)
  · exact hslot _

/-- A slot that commits holds its index and its token: the header, the state words and the tokens of a queue are
apart. -/
theorem commitSlot_commits (ht : Tidy s) (home size : Nat) {slots f : Nat} (hslots : 0 < slots) (hf : f < 2 ^ 32)
    (pne : Bool) (d : List Byte) (po : List Nat) :
    let t := s.commitSlot home slots size f pne d po
    t.slotSt home (f % slots) = 2 ∧ t.slotIdx home (f % slots) = f ∧
      memBytes t.mem (tokenKey home slots size (f % slots)) d.length = d := by
  have hj := Nat.mod_lt f hslots
  let key := tokenKey home slots size (f % slots)
  let v := (s.storeMarked key d po).setFull key size
  have hkey : home + 64 + 8 * slots ≤ key := by
    unfold key tokenKey
    omega
  have htv : Tidy v := ht.storeMarked.update
  obtain ⟨hst, hidx⟩ := State.slot_setSlot htv home (f % slots) (st := 2) (by decide) hf
  have hdata : memBytes (v.setSlot home (f % slots) 2 f).mem key d.length = d := by
    rw [State.setSlot, v.memBytes_setWord (by unfold slotKey; omega)]
    exact (congrArg (memBytes · key d.length) (s.storeMarked_mem key d po)).trans (memBytes_setBytes ht.1 key d)
  have heq : s.commitSlot home slots size f pne d po = if pne then (v.setSlot home (f % slots) 2 f).setWord (home + 8)
      (((v.setSlot home (f % slots) 2 f).qPseq home + 1) % 2 ^ 32) else v.setSlot home (f % slots) 2 f := rfl
  dsimp only
  rw [heq]
  split
  · rw [State.slotSt, State.slotIdx, State.load_setWord_ne _ (.inr (by unfold slotKey; omega)),
      State.load_setWord_ne _ (.inr (by unfold slotKey; omega)), State.memBytes_setWord _ (.inr (by omega))]
    exact ⟨hst, hidx, hdata⟩
  · exact ⟨hst, hidx, hdata⟩

/-- A copy that ends leaves all but its core and itself. -/
theorem endCopy_keeps {β : Type} (g : State → β)
    (hg : ∀ (s : State) cores copies, g { s with cores := cores, copies := copies } = g s) (s : State) (c : Copy) :
    g (s.endCopy c) = g s := hg s _ _

section copies

variable {cp : Copy} (hcp : mapFind id s.copies = some cp)
include hcp

theorem queueCopies_gated (hg : s.coreGated cp.core = true) :
    exec (.queueSlotCommit id) s = .next s ∧ exec (.claimCopyRetire id) s = .next s := by
  refine ⟨?_, ?_⟩
  · dsimp only [exec, execQueueSlotCommit]
    rw [hcp]
    simp [hg]
  · dsimp only [exec, execClaimCopyRetire]
    rw [hcp]
    simp [hg]

variable (hg : s.coreGated cp.core = false) {home : Nat}
  (hhome : s.queueHome (hallOfCore cp.core) cp.queue = some home)
include hg hhome

theorem execQueueSlotCommit_waits (hkind : cp.kind = .qput) (hcovers : s.allPerformed cp.covers = false) :
    exec (.queueSlotCommit id) s = .next (s.retry (.queueSlotCommit id)) := by
  dsimp only [exec, execQueueSlotCommit]
  rw [hcp]
  dsimp only
  rw [hhome]
  simp [hg, hkind, hcovers]

theorem execQueueSlotCommit_commits (hkind : cp.kind = .qput) (hcovers : s.allPerformed cp.covers = true)
    (hafter : s.allPerformed cp.after = true)
    (horder : s.queuePne (hallOfCore cp.core) cp.queue = true → cp.index.toNat = s.qPseq home) :
    let v := s.commitSlot home (s.queueSlots (hallOfCore cp.core) cp.queue) cp.len cp.index.toNat
      (s.queuePne (hallOfCore cp.core) cp.queue) cp.data []
    exec (.queueSlotCommit id) s = .next (({ v with copies := mapDel id v.copies }.later 1
      (.commitAck cp.core cp.ctx id)).later 1 .outputQueueClose) := by
  have hturn : (s.queuePne (hallOfCore cp.core) cp.queue && cp.index.toNat != s.qPseq home) = false := by
    cases hp : s.queuePne (hallOfCore cp.core) cp.queue
    · rfl
    · simp [horder hp]
  dsimp only [exec, execQueueSlotCommit]
  rw [hcp]
  dsimp only
  rw [hhome]
  simp only [hg, hkind, hcovers, hafter, hturn, bne_self_eq_false, Bool.or_self, Bool.not_true, Bool.false_eq_true,
    if_false]

theorem queueSlotCommit_commits (hkind : cp.kind = .qput) (hcovers : s.allPerformed cp.covers = true)
    (hafter : s.allPerformed cp.after = true)
    (horder : s.queuePne (hallOfCore cp.core) cp.queue = true → cp.index.toNat = s.qPseq home) :
    let slots := s.queueSlots (hallOfCore cp.core) cp.queue
    let f := cp.index.toNat
    ∃ t, exec (.queueSlotCommit id) s = .next t ∧ Scheduled s t (.commitAck cp.core cp.ctx id) ∧
      t.copies = mapDel id s.copies ∧
      (Tidy s → t.slotSt home (f % slots) = 2 ∧ t.slotIdx home (f % slots) = f ∧
        memBytes t.mem (tokenKey home slots cp.len (f % slots)) cp.data.length = cp.data) := by
  intro slots f
  have hcopies : (s.commitSlot home slots cp.len f (s.queuePne (hallOfCore cp.core) cp.queue) cp.data []).copies =
      s.copies := commitSlot_keeps (·.copies) (fun _ _ _ _ _ _ => rfl) ..
  have hcycle : (s.commitSlot home slots cp.len f (s.queuePne (hallOfCore cp.core) cp.queue) cp.data []).cycle =
      s.cycle := commitSlot_keeps (·.cycle) (fun _ _ _ _ _ _ => rfl) ..
  have hcommits := fun ht : Tidy s => commitSlot_commits ht home cp.len (slots := slots) (Nat.succ_pos _)
    cp.index.isLt (s.queuePne (hallOfCore cp.core) cp.queue) cp.data []
  have hexec := execQueueSlotCommit_commits hcp hg hhome hkind hcovers hafter horder
  dsimp only at hexec hcommits
  generalize s.commitSlot home slots cp.len f (s.queuePne (hallOfCore cp.core) cp.queue) cp.data [] = v at *
  refine ⟨_, hexec, ?_, congrArg (mapDel id) hcopies, hcommits⟩
  exact (scheduled_later (u := { v with copies := _ }) hcycle Nat.one_pos _).later ..

theorem execClaimCopyRetire_retires (hkind : cp.kind = .qclaim) (hbehind : s.copyBehind cp = false)
    (hafter : s.allPerformed cp.after = true) :
    exec (.claimCopyRetire id) s = .next (((s.storeMarked (tileKey cp.core cp.tile)
      (memBytes s.mem cp.key cp.len) (s.poisonOf cp.key cp.len)).endCopy cp).retireIndex cp.load cp.queue home
        (s.queueSlots (hallOfCore cp.core) cp.queue) cp.index.toNat) := by
  let v := s.storeMarked (tileKey cp.core cp.tile) (memBytes s.mem cp.key cp.len) (s.poisonOf cp.key cp.len)
  have hhome' : (v.endCopy cp).queueHome (hallOfCore cp.core) cp.queue = some home :=
    (endCopy_keeps (·.queueHome (hallOfCore cp.core) cp.queue) (fun _ _ _ => rfl) v cp).trans
      ((storeMarked_keeps (·.queueHome (hallOfCore cp.core) cp.queue) (fun _ _ _ _ _ => rfl) ..).trans hhome)
  have hslots : (v.endCopy cp).queueSlots (hallOfCore cp.core) cp.queue =
      s.queueSlots (hallOfCore cp.core) cp.queue :=
    (endCopy_keeps (·.queueSlots (hallOfCore cp.core) cp.queue) (fun _ _ _ => rfl) v cp).trans
      <| storeMarked_keeps (·.queueSlots (hallOfCore cp.core) cp.queue) (fun _ _ _ _ _ => rfl) ..
  dsimp only [exec, execClaimCopyRetire]
  rw [hcp]
  dsimp only
  rw [hhome']
  dsimp only
  rw [hslots]
  simp [hg, hkind, hbehind, hafter]

end copies

/-! ### QUEUE_CREDIT and QUEUE_CLOSE (R296, R299) -/

/-- Of a credit that a core holds and one that arrives, the later (R296). -/
def laterCredit (n old : Word32) : Word32 := BitVec.ofNat 32 (laterCount old.toNat n.toNat)

theorem laterCredit_eq (n old : Word32) : laterCredit n old = if (n - old).toNat < 2 ^ 31 then n else old := by
  have hdiff : seqDiff n.toNat old.toNat = (n - old).toNat := by
    rw [seqDiff, BitVec.toNat_sub, Nat.mod_eq_of_lt old.isLt]
    have := old.isLt
    congr 1
    omega
  rw [laterCredit, laterCount, hdiff]
  split <;> exact BitVec.ofNat_toNat ..

/-- A credit that a core has taken changes nothing again. -/
theorem laterCredit_laterCredit (n old : Word32) : laterCredit n (laterCredit n old) = laterCredit n old := by
  simp only [laterCredit_eq]
  split <;> simp_all

/-- The credit of a queue that a core holds. -/
def State.creditOf (s : State) (c q : Nat) : Word32 := mapGet 0 q (s.core c).credited

/-- One actor of the producer side takes a credit. -/
def State.creditOne (h q : Nat) (freed : Word32) (s : State) (e : Nat × Nat) : State :=
  if s.elastic e.1 e.2 then
    match s.queueIn e.1 e.2 with
    | some i =>
      match s.homeOf h i with
      | some (home, _) => s.setWord (home + 32) (laterCount (s.qDcred home) freed.toNat)
      | none => s
    | none => s
  else
    let k := s.core e.1
    s.setCore e.1 { k with credited := mapPut q (laterCredit freed (mapGet 0 q k.credited)) k.credited }

theorem State.creditLoad_eq (s : State) (h q : Nat) (freed : Word32) :
    s.creditLoad h q freed = (s.putters h q).foldl (State.creditOne h q freed) s := rfl

section credits

variable {h q' : Nat} {n : Word32} {e : Nat × Nat} {c z : Nat}

theorem State.creditOne_eq_setCore (he : s.elastic e.1 e.2 = false) : s.creditOne h z n e =
    s.setCore e.1 { s.core e.1 with
      credited := mapPut z (laterCredit n (s.creditOf e.1 z)) (s.core e.1).credited } := by
  rw [State.creditOne, if_neg (by simp [he])]
  rfl

/-- An elastic producer's credit is a word of a home. -/
theorem State.creditOne_of_elastic (he : s.elastic e.1 e.2 = true) :
    s.creditOne h z n e = s ∨ ∃ key x, s.creditOne h z n e = s.setWord key x := by
  rw [State.creditOne, if_pos he]
  split
  · split
    · exact .inr ⟨_, _, rfl⟩
    · exact .inl rfl
  · exact .inl rfl

theorem State.creditOf_setWord (s : State) (key x c z : Nat) : (s.setWord key x).creditOf c z = s.creditOf c z :=
  setWord_keeps (·.creditOf c z) (fun _ _ _ _ _ => rfl) s key x

theorem State.elastic_creditOne (s : State) (e : Nat × Nat) (c a : Nat) :
    (s.creditOne h z n e).elastic c a = s.elastic c a := by
  cases he : s.elastic e.1 e.2
  · rw [State.creditOne_eq_setCore he]
    rfl
  · rcases State.creditOne_of_elastic (h := h) (z := z) (n := n) he with heq | ⟨key, x, heq⟩
    · rw [heq]
    · rw [heq]
      exact setWord_keeps (·.elastic c a) (fun _ _ _ _ _ => rfl) s key x

/-- An actor that is not elastic has its core take the credit. -/
theorem State.creditOf_creditOne (he : s.elastic e.1 e.2 = false) :
    (s.creditOne h z n e).creditOf e.1 z = laterCredit n (s.creditOf e.1 z) := by
  rw [State.creditOne_eq_setCore he, State.creditOf, State.core_setCore]
  exact mapGet_put ..

/-- What any actor takes leaves a credit as it was, or as it arrives. -/
theorem State.creditOf_creditOne_or (s : State) (e : Nat × Nat) (c q : Nat) :
    (s.creditOne h z n e).creditOf c q = s.creditOf c q ∨
      (s.creditOne h z n e).creditOf c q = laterCredit n (s.creditOf c q) := by
  cases he : s.elastic e.1 e.2
  · by_cases hc : c = e.1
    · subst hc
      by_cases hq : q = z
      · subst hq
        exact .inr (State.creditOf_creditOne he)
      · refine .inl ?_
        rw [State.creditOne_eq_setCore he, State.creditOf, State.core_setCore]
        exact mapGet_put_ne _ hq ..
    · refine .inl ?_
      rw [State.creditOne_eq_setCore he, State.creditOf, State.core_setCore_ne _ _ hc, State.creditOf]
  · rcases State.creditOne_of_elastic (h := h) (z := z) (n := n) he with heq | ⟨key, x, heq⟩
    · exact .inl (by rw [heq])
    · exact .inl (by rw [heq, State.creditOf_setWord])

theorem creditOf_foldl_or (l : List (Nat × Nat)) (s : State) (c q : Nat) :
    (l.foldl (State.creditOne h z n) s).creditOf c q = s.creditOf c q ∨
      (l.foldl (State.creditOne h z n) s).creditOf c q = laterCredit n (s.creditOf c q) := by
  induction l generalizing s with
  | nil => exact .inl rfl
  | cons e l ih =>
    rcases s.creditOf_creditOne_or (h := h) (z := z) (n := n) e c q with hone | hone <;>
      rcases ih (s.creditOne h z n e) with htail | htail <;> rw [hone] at htail
    · exact .inl htail
    · exact .inr htail
    · exact .inr htail
    · exact .inr (htail.trans (laterCredit_laterCredit ..))

theorem creditOf_foldl (l : List (Nat × Nat)) (s : State) (hmem : e ∈ l) (he : s.elastic e.1 e.2 = false) :
    (l.foldl (State.creditOne h z n) s).creditOf e.1 z = laterCredit n (s.creditOf e.1 z) := by
  induction l generalizing s with
  | nil => exact absurd hmem List.not_mem_nil
  | cons a l ih =>
    rcases List.mem_cons.1 hmem with rfl | htail
    · rcases creditOf_foldl_or (h := h) (z := z) (n := n) l (s.creditOne h z n e) e.1 z with hrest | hrest
      · exact hrest.trans (State.creditOf_creditOne he)
      · exact hrest.trans (by rw [State.creditOf_creditOne he, laterCredit_laterCredit])
    · refine (ih (s.creditOne h z n a) htail ((s.elastic_creditOne a ..).trans he)).trans ?_
      rcases s.creditOf_creditOne_or (h := h) (z := z) (n := n) a e.1 z with hone | hone <;> rw [hone]
      exact laterCredit_laterCredit ..

end credits

/-- A credit reaches the cores of its producer side, once or with those of a bound queue (R296, R368). -/
theorem queueCredit_credits (s : State) (h q : Nat) (n : Word32) : ∃ t, exec (.queueCredit h q n) s = .next t ∧
    ∀ e ∈ s.putters h q, s.elastic e.1 e.2 = false → t.creditOf e.1 q = laterCredit n (s.creditOf e.1 q) := by
  have hfirst : ∀ e ∈ s.putters h q, s.elastic e.1 e.2 = false →
      (s.creditLoad h q n).creditOf e.1 q = laterCredit n (s.creditOf e.1 q) := fun e hmem he => by
    rw [State.creditLoad_eq]
    exact creditOf_foldl _ s hmem he
  dsimp only [exec, execQueueCredit]
  split
  · next p _ =>
    refine ⟨_, rfl, fun e hmem he => ?_⟩
    rw [State.creditLoad_eq _ (p / 32)]
    rcases creditOf_foldl_or (h := p / 32) (z := p % 32) (n := n)
      ((s.creditLoad h q n).putters (p / 32) (p % 32)) (s.creditLoad h q n) e.1 q with hrest | hrest
    · exact hrest.trans (hfirst e hmem he)
    · exact hrest.trans (by rw [hfirst e hmem he, laterCredit_laterCredit])
  · exact ⟨_, rfl, hfirst⟩

theorem queueClose_closes {h q k home : Nat} (n : Word32) (hhome : s.homeOf h q = some (home, k)) :
    ∃ t, exec (.queueClose h q n) s = .next t ∧ Scheduled s t .stageRetire ∧ Scheduled s t .outputQueueClose ∧
      (Tidy s → t.qClosed home = true ∧ t.qFinal home = n.toNat) := by
  have hcycle : (s.closeQueue home n.toNat).cycle = s.cycle := s.cycle_storeVal ..
  have hclosed := fun ht : Tidy s => State.closed_closeQueue ht home n.isLt
  have hexec : exec (.queueClose h q n) s =
      .next (((s.closeQueue home n.toNat).later 1 .stageRetire).later 1 .outputQueueClose) := by
    dsimp only [exec, execQueueClose]
    rw [hhome]
  generalize s.closeQueue home n.toNat = v at *
  exact ⟨_, hexec, (scheduled_later hcycle Nat.one_pos _).later ..,
    scheduled_later (u := v.later 1 .stageRetire) hcycle Nat.one_pos _, hclosed⟩

/-- Settles O33: the slot of a put, the copy of a claim, a credit and a close. -/
theorem queueEventsMoveSlots : Obligations.QueueEventsMoveSlots := by
  intro s id cp home h q n hk z slots f
  refine ⟨queueCopies_gated, fun hcp hg hhome hkind =>
      ⟨queueSlotCommit_commits hcp hg hhome hkind, execQueueSlotCommit_waits hcp hg hhome hkind⟩,
    fun hcp hg hhome hkind => execClaimCopyRetire_retires hcp hg hhome hkind, ?_, fun k => queueClose_closes n⟩
  obtain ⟨t, hexec, hcredit⟩ := queueCredit_credits s h q n
  exact ⟨t, hexec, fun e hmem he => (hcredit e hmem he).trans (laterCredit_eq ..)⟩

end Sys2Proof.Machine

namespace Sys2Proof.Machine

variable {s t u v w : State} {q : Issue} {i j : Instr}

/-! ### What moves streams (R206, R272)

Each operation below replaces streams and little else. -/

section keeps

variable {β : Type} (g : State → β)

theorem settleStream_keeps (hg : ∀ (s : State) streams agenda fresh,
    g { s with streams := streams, agenda := agenda, fresh := fresh } = g s) (s : State) (h hk n : Nat) :
    g (s.settleStream h hk n) = g s := by
  have hlater : ∀ (s : State) k e, g (s.later k e) = g s := fun s k e => hg s s.streams _ _
  have hset : ∀ (s : State) t, g (s.setStream hk n t) = g s := fun s t => hg s _ s.agenda s.fresh
  unfold State.settleStream State.finishStream
  dsimp only
  split_ifs
  · exact (hlater ..).trans (hset ..)
  · rfl
  · split
    · exact (hlater ..).trans ((hlater ..).trans (hset ..))
    · exact (hlater ..).trans (hset ..)
  · exact (hlater ..).trans (hset ..)
  · rfl

theorem raceEvents_keeps (hg : ∀ (s : State) loads saccs, g { s with loads := loads, saccs := saccs } = g s)
    (s : State) (h hk n : Nat) : g (s.raceEvents h hk n) = g s := by
  have hdet : ∀ (s : State) a b c d e, g (s.detEvent h a b c d e) = g s := fun s a b c d e => by
    obtain ⟨det, o, heq⟩ := s.detEvent_eq h a b c d e
    rw [heq]
    exact hg s _ s.saccs
  unfold State.raceEvents
  split
  · exact (hg _ _ _).trans (foldl_keeps g (fun s e => hdet s ..) _ s)
  · rfl

/-- One stream that an access which is performed releases. -/
def State.releaseOne (n : Nat) (s : State) (e : Nat × Nat) : State :=
  let t := s.stream e.1 e.2
  if t.bar.contains n then
    let bar := setDel n t.bar
    s.setStream e.1 e.2 { t with bar := bar, mode := if bar = [] && t.mode == .held then .running else t.mode }
  else s

theorem State.releaseBar_eq (s : State) (h n : Nat) :
    s.releaseBar h n = (s.streamsOf h).foldl (State.releaseOne n) s := rfl

theorem releaseBar_keeps (hg : ∀ (s : State) streams, g { s with streams := streams } = g s) (s : State)
    (h n : Nat) : g (s.releaseBar h n) = g s := by
  rw [State.releaseBar_eq]
  refine foldl_keeps g (fun s e => ?_) _ s
  unfold State.releaseOne
  dsimp only
  split
  · exact hg s _
  · rfl

end keeps

/-- Streams apart from the modes that an SBAR changes. -/
def Stream.SameWalk (a b : Stream) : Prop := a = { b with bar := a.bar, mode := a.mode }

theorem stream_releaseOne (s : State) (n : Nat) (e : Nat × Nat) (hk m : Nat) :
    Stream.SameWalk ((s.releaseOne n e).stream hk m) (s.stream hk m) := by
  unfold State.releaseOne
  dsimp only
  split
  · by_cases hkey : 64 * hk + m = 64 * e.1 + e.2
    · have hsame : s.stream hk m = s.stream e.1 e.2 := congrArg (fun k => mapGet ({} : Stream) k s.streams) hkey
      have hset : ∀ t, (s.setStream e.1 e.2 t).stream hk m = t := fun t =>
        (congrArg (fun k => mapGet ({} : Stream) k (s.setStream e.1 e.2 t).streams) hkey).trans
          (s.stream_setStream e.1 e.2 t)
      rw [hset, hsame]
      rfl
    · have hset : ∀ t, (s.setStream e.1 e.2 t).stream hk m = s.stream hk m := fun t => mapGet_put_ne _ hkey ..
      rw [hset]
      rfl
  · rfl

/-- A stream that is released is where it was in its walk. -/
theorem stream_releaseBar (s : State) (h n hk m : Nat) :
    Stream.SameWalk ((s.releaseBar h n).stream hk m) (s.stream hk m) := by
  rw [State.releaseBar_eq]
  refine List.foldlRecOn (motive := fun u : State => Stream.SameWalk (u.stream hk m) (s.stream hk m))
    _ _ rfl fun u hu e _ => ?_
  have hone := stream_releaseOne u n e hk m
  rw [Stream.SameWalk] at hu hone ⊢
  rw [hone]
  conv_lhs => rw [hu]

theorem stream_finishStream (s : State) (h hk n : Nat) :
    (s.finishStream h hk n).stream hk n = { s.stream hk n with mode := .finished, busy := false } := by
  have hlater : ∀ (s : State) k e, (s.later k e).stream hk n = s.stream hk n := fun _ _ _ => rfl
  unfold State.finishStream
  dsimp only
  split
  · split <;> simp [hlater]
  · simp [hlater]

/-- The mode of a stream between tokens: one that stops is idle when nothing is read ahead, and one at the end of
its walk is finished (R206, R272). -/
def Stream.settledMode (t : Stream) (total : Nat) : StreamMode :=
  if t.mode = .stopping then if t.ahead = 0 then .idle else .stopping
  else if total ≤ t.pos ∧ t.ahead = 0 then .finished else t.mode

theorem settleStream_stream (s : State) (h hk n : Nat) : ∃ b, (s.settleStream h hk n).stream hk n =
    { s.stream hk n with mode := (s.stream hk n).settledMode (s.walkTotal hk n), busy := b } ∧
    ((s.stream hk n).busy = false → b = false) := by
  unfold State.settleStream Stream.settledMode
  simp only [beq_iff_eq, Bool.and_eq_true, decide_eq_true_eq]
  split_ifs with hstop hahead hend
  · exact ⟨_, s.stream_setStream .., id⟩
  · exact ⟨_, by rw [← hstop], id⟩
  · exact ⟨false, stream_finishStream .., fun _ => rfl⟩
  · exact ⟨_, rfl, id⟩

end Sys2Proof.Machine

namespace Sys2Proof.Machine

variable {s t u v w : State} {q : Issue} {i j : Instr}

/-! ### A token that is sent (R251, R271, R431) -/

/-- A token read ahead leaves: into the slot of a stage queue, or as a packet. -/
def State.passToken (s : State) (h hk n size : Nat) (data : List Byte) (po : List Nat) : State :=
  if s.isQueue hk n then
    match s.homeOf h (s.streamUnit hk n) with
    | some (home, slots) => s.commitSlot home slots size (s.qPseq home) true data (halfMarks po)
    | none => s
  else
    let seq := s.streamCnt hk n
    let s := s.sendPacket
      { id := 0, load := h, rc := BitVec.ofNat 8 (bits (s.streamWord hk n 0) 47 8), kind := 0, fan := 0,
        size := BitVec.ofNat 8 (bits (s.streamWord hk n 0) 39 8), seq := BitVec.ofNat 32 seq,
        data := data, poison := po, hall := hk }
    s.setHallWord hk n 7 (withBits (s.streamWord hk n 7) 32 32 (seq + 1))

/-- The oldest token read ahead is in hand no more. -/
def State.readOut (s : State) (hk n : Nat) : State :=
  s.setStream hk n { s.stream hk n with ahead := (s.stream hk n).ahead - 1, done := (s.stream hk n).done + 1 }

/-- Where the oldest token read ahead lies. -/
def State.aheadKey (s : State) (hk n : Nat) : Nat := s.ringKey hk n ((s.stream hk n).pos - (s.stream hk n).ahead)

theorem State.sendToken_eq (s : State) (h hk n : Nat) : s.sendToken h hk n =
    (((s.readOut hk n).passToken h hk n (s.streamSize hk n) (memBytes s.mem (s.aheadKey hk n) (s.streamSize hk n))
      (s.poisonOf (s.aheadKey hk n) (s.streamSize hk n))).progress (some h)).settleStream h hk n := rfl

theorem State.stream_readOut (s : State) (hk n : Nat) : (s.readOut hk n).stream hk n =
    { s.stream hk n with ahead := (s.stream hk n).ahead - 1, done := (s.stream hk n).done + 1 } :=
  s.stream_setStream ..

/-- The last word of a descriptor is none of its bounds. -/
theorem State.streamWord_setHallWord_ne (s : State) (hk n : Nat) {k l : Nat} (h : l ≠ k) (x : Word64) :
    (s.setHallWord hk n k x).streamWord hk n l = s.streamWord hk n l :=
  mapGet_putD_ne _ _ (by unfold cfgKey; omega) _ _

theorem State.walkTotal_congr {hk n : Nat} (h : ∀ d < 4, u.streamWord hk n (3 + d) = s.streamWord hk n (3 + d)) :
    u.walkTotal hk n = s.walkTotal hk n := by
  have hbound : ∀ d < 4, u.bound hk n d = s.bound hk n d := fun d hd => by rw [State.bound, h d hd, State.bound]
  simp only [State.walkTotal, hbound 0 (by decide), hbound 1 (by decide), hbound 2 (by decide), hbound 3 (by decide)]

section passToken

variable (h hk n size : Nat) (data : List Byte) (po : List Nat)

theorem passToken_keeps {β : Type} (g : State → β)
    (hg : ∀ (s : State) mem poison dirty saved full,
      g { s with mem := mem, poison := poison, dirty := dirty, saved := saved, full := full } = g s)
    (hp : ∀ (s : State) packets agenda fresh nextId cfg,
      g { s with packets := packets, agenda := agenda, fresh := fresh, nextId := nextId, cfg := cfg } = g s)
    (s : State) : g (s.passToken h hk n size data po) = g s := by
  unfold State.passToken
  split
  · split
    · exact commitSlot_keeps g hg ..
    · rfl
  · exact hp s ..

@[simp] theorem State.stream_passToken (s : State) (k m : Nat) :
    (s.passToken h hk n size data po).stream k m = s.stream k m :=
  passToken_keeps h hk n size data po (·.stream k m) (fun _ _ _ _ _ _ => rfl) (fun _ _ _ _ _ _ => rfl) s

@[simp] theorem State.cycle_passToken (s : State) : (s.passToken h hk n size data po).cycle = s.cycle :=
  passToken_keeps h hk n size data po (·.cycle) (fun _ _ _ _ _ _ => rfl) (fun _ _ _ _ _ _ => rfl) s

theorem State.walkTotal_passToken (s : State) :
    (s.passToken h hk n size data po).walkTotal hk n = s.walkTotal hk n := by
  unfold State.passToken
  split
  · split
    · exact commitSlot_keeps (·.walkTotal hk n) (fun _ _ _ _ _ _ => rfl) ..
    · rfl
  · exact State.walkTotal_congr fun d _ => State.streamWord_setHallWord_ne _ _ _ (by omega) _

/-- The packet of a token that goes to no queue. -/
theorem State.packet_passToken (s : State) (hqueue : s.isQueue hk n = false) :
    ∃ p, mapFind s.nextId (s.passToken h hk n size data po).packets = some p ∧ p.kind = 0 ∧ p.hall = hk ∧
      p.data = data := by
  rw [State.passToken, if_neg (by simp [hqueue])]
  exact ⟨_, mapFind_put .., rfl, rfl, rfl⟩

end passToken

@[simp] theorem State.stream_progress (s : State) (h : Option Nat) (hk n : Nat) :
    (s.progress h).stream hk n = s.stream hk n := by cases h <;> rfl

@[simp] theorem State.cycle_progress (s : State) (h : Option Nat) : (s.progress h).cycle = s.cycle := by
  cases h <;> rfl

theorem State.mem_progress (s : State) (h : Option Nat) : (s.progress h).mem = s.mem := by cases h <;> rfl

theorem State.packets_progress (s : State) (h : Option Nat) : (s.progress h).packets = s.packets := by
  cases h <;> rfl

theorem State.walkTotal_progress (s : State) (h : Option Nat) (hk n : Nat) :
    (s.progress h).walkTotal hk n = s.walkTotal hk n := by cases h <;> rfl

/-- A stream that sends: one token less ahead, one more done, and the mode of what is left. -/
theorem stream_sendToken (s : State) (h hk n : Nat) : ∃ b, (s.sendToken h hk n).stream hk n = { s.stream hk n with
    ahead := (s.stream hk n).ahead - 1, done := (s.stream hk n).done + 1,
    mode := Stream.settledMode { s.stream hk n with ahead := (s.stream hk n).ahead - 1 } (s.walkTotal hk n),
    busy := b } := by
  have hread : (s.readOut hk n).walkTotal hk n = s.walkTotal hk n := rfl
  rw [State.sendToken_eq]
  obtain ⟨b, hsettle, -⟩ := settleStream_stream (((s.readOut hk n).passToken h hk n (s.streamSize hk n)
    (memBytes s.mem (s.aheadKey hk n) (s.streamSize hk n)) (s.poisonOf (s.aheadKey hk n) (s.streamSize hk n))).progress
      (some h)) h hk n
  rw [State.stream_progress, State.stream_passToken, State.stream_readOut, State.walkTotal_progress,
    State.walkTotal_passToken, hread] at hsettle
  exact ⟨b, hsettle⟩

theorem cycle_sendToken (s : State) (h hk n : Nat) : (s.sendToken h hk n).cycle = s.cycle := by
  rw [State.sendToken_eq, settleStream_keeps (·.cycle) fun _ _ _ _ => rfl, State.cycle_progress,
    State.cycle_passToken]
  rfl

theorem packet_sendToken (s : State) (h hk n : Nat) (hqueue : s.isQueue hk n = false) :
    ∃ p, mapFind s.nextId (s.sendToken h hk n).packets = some p ∧ p.kind = 0 ∧ p.hall = hk ∧
      p.data = memBytes s.mem (s.aheadKey hk n) (s.streamSize hk n) := by
  have hid : (s.readOut hk n).nextId = s.nextId := rfl
  rw [State.sendToken_eq, settleStream_keeps (·.packets) fun _ _ _ _ => rfl, State.packets_progress, ← hid]
  exact State.packet_passToken (hqueue := hqueue) ..

/-! ### A token that is begun (R285, R296) -/

/-- The slot of a stage queue that a sink's token is taken from (R296). -/
def State.claimNext (s : State) (h hk n : Nat) : State :=
  if s.isSink hk n && s.isQueue hk n then
    match s.homeOf h (s.streamUnit hk n) with
    | some (home, slots) =>
      (s.setSlot home (s.qNext home % slots) 3 (s.qNext home)).setWord home ((s.qNext home + 1) % 2 ^ 32)
    | none => s
  else s

theorem claimNext_keeps {β : Type} (g : State → β)
    (hg : ∀ (s : State) mem poison dirty saved,
      g { s with mem := mem, poison := poison, dirty := dirty, saved := saved } = g s)
    (s : State) (h hk n : Nat) : g (s.claimNext h hk n) = g s := by
  have hword := setWord_keeps g hg
  unfold State.claimNext
  split
  · split
    · exact (hword ..).trans (hword ..)
    · rfl
  · rfl

/-- The access of a token in hand, before its conflicts are noted. -/
def State.registered (s : State) (h hk n : Nat) : State :=
  let v := s.setStream hk n { s.stream hk n with
    busy := true, cumulative := (s.stream hk n).cumulative + 1, fcnt := (s.stream hk n).fcnt + 1, issued := s.cycle }
  let a : StreamAcc :=
    { load := h, hall := hk, stream := n, seq := (s.stream hk n).pos, write := v.isSink hk n, lines := [] }
  { v with saccs := mapPut (streamKey hk n) a v.saccs }

theorem State.beginToken_eq (s : State) (h hk n : Nat) : s.beginToken h hk n =
    (((s.registered h hk n).raceEvents h hk n).claimNext h hk n).later 1
      (if (s.loadAt h).ordered then .orderedAccessPerform hk n else .streamToken hk n) := rfl

theorem beginToken_begins (s : State) (h hk n : Nat) : (s.beginToken h hk n).stream hk n = { s.stream hk n with
      busy := true, cumulative := (s.stream hk n).cumulative + 1, fcnt := (s.stream hk n).fcnt + 1,
      issued := s.cycle } ∧
    Scheduled s (s.beginToken h hk n)
      (if (s.loadAt h).ordered then .orderedAccessPerform hk n else .streamToken hk n) := by
  have hstream : (((s.registered h hk n).raceEvents h hk n).claimNext h hk n).stream hk n =
      (s.registered h hk n).stream hk n :=
    (claimNext_keeps (·.stream hk n) (fun _ _ _ _ _ => rfl) ..).trans
      (raceEvents_keeps (·.stream hk n) (fun _ _ _ => rfl) ..)
  have hcycle : (((s.registered h hk n).raceEvents h hk n).claimNext h hk n).cycle = s.cycle :=
    (claimNext_keeps (·.cycle) (fun _ _ _ _ _ => rfl) ..).trans (raceEvents_keeps (·.cycle) (fun _ _ _ => rfl) ..)
  rw [State.beginToken_eq]
  exact ⟨hstream.trans (s.stream_setStream ..), scheduled_later hcycle Nat.one_pos _⟩

end Sys2Proof.Machine

namespace Sys2Proof.Machine

variable {s t u v w : State} {q : Issue} {i j : Instr}

/-! ### A token of a shared address that is performed (R272, R273, R282) -/

/-- The ring slot of the token in hand: a sink's next to write, a source's next to read into. -/
def State.handKey (s : State) (hk n : Nat) : Nat :=
  if s.isSink hk n then s.ringKey hk n (s.streamPtr hk n) else s.ringKey hk n (s.stream hk n).pos

theorem State.tokenPlace_eq {hk n : Nat} (hqueue : s.isQueue hk n = false) (h : Nat) :
    s.tokenPlace h hk n = s.handKey hk n := by
  unfold State.tokenPlace State.handKey
  dsimp only
  split
  · exact if_neg (by simp [hqueue])
  · rfl

theorem State.tokenPoisoned_eq {hk n : Nat} (hqueue : s.isQueue hk n = false) (h : Nat) : s.tokenPoisoned h hk n =
    (s.isSink hk n && s.poisoned (s.handKey hk n) (s.streamSize hk n)) := by
  rw [State.tokenPoisoned, State.tokenPlace_eq hqueue]

/-- The bytes of a token move between its ring slot and its address. -/
def State.moveToken (s : State) (hk n key : Nat) : State :=
  let size := s.streamSize hk n
  if s.isSink hk n then (s.storeMarked key (memBytes s.mem (s.handKey hk n) size) []).setFull key size
  else s.storeMarked (s.handKey hk n) (memBytes s.mem key size) (s.poisonOf key size)

theorem State.mem_moveToken (s : State) (hk n key : Nat) : (s.moveToken hk n key).mem =
    if s.isSink hk n = true then memSetBytes s.mem key (memBytes s.mem (s.handKey hk n) (s.streamSize hk n))
    else memSetBytes s.mem (s.handKey hk n) (memBytes s.mem key (s.streamSize hk n)) := by
  unfold State.moveToken
  dsimp only
  split
  · exact s.storeMarked_mem key _ []
  · exact s.storeMarked_mem ..

theorem moveToken_keeps {β : Type} (g : State → β)
    (hg : ∀ (s : State) mem poison dirty saved full,
      g { s with mem := mem, poison := poison, dirty := dirty, saved := saved, full := full } = g s)
    (s : State) (hk n key : Nat) : g (s.moveToken hk n key) = g s := by
  have hstore := storeMarked_keeps g fun s mem poison dirty saved => hg s mem poison dirty saved s.full
  unfold State.moveToken
  dsimp only
  split
  · exact (hg (s.storeMarked key _ []) _ _ _ _ _).trans (hstore ..)
  · exact hstore ..

theorem performToken_shared {h hk n key : Nat} (hv : s.raceEvents h hk n = v) (hqueue : v.isQueue hk n = false)
    (hpoison : v.tokenPoisoned h hk n = false) (hshared : v.isShared hk n = true)
    (hkey : v.sharedKey (BitVec.ofNat 64 (v.tokenVa hk n (v.stream hk n).pos)) (v.streamSize hk n) = some key)
    (hmerged : v.mergedOn hk key (v.streamSize hk n) = false) :
    s.performToken h hk n = ((v.moveToken hk n key).tokenPerformed h hk n).later 1 (.streamToken hk n) := by
  unfold State.performToken
  rw [hv]
  dsimp only
  rw [if_neg (by simp [hpoison]), if_pos hshared, hkey]
  dsimp only
  rw [if_neg (by simp [hmerged]), State.tokenPlace_eq hqueue]
  rfl

/-! ### The end of a token (R206, R285) -/

/-- A sink's token that is performed, and its credit (R251, R271). -/
def State.sinkDone (s : State) (h hk n : Nat) : State :=
  let t := s.stream hk n
  let s := s.setStream hk n { t with busy := false, line := 0, pos := t.pos + 1, done := t.done + 1 }
  (s.setHallWord hk n 7 (withBits (s.streamWord hk n 7) 0 32 (s.streamPtr hk n + 1))).sinkCredit h hk n

/-- A source's token that is performed is read ahead. -/
def State.sourceDone (s : State) (hk n : Nat) : State :=
  let t := s.stream hk n
  s.setStream hk n { t with busy := false, line := 0, pos := t.pos + 1, ahead := t.ahead + 1 }

/-- What a performed access releases. -/
def State.released (s : State) (h hk n : Nat) : State :=
  { s with saccs := mapDel (streamKey hk n) s.saccs }.releaseBar h n

theorem released_keeps {β : Type} (g : State → β)
    (hg : ∀ (s : State) streams saccs, g { s with streams := streams, saccs := saccs } = g s) (s : State)
    (h hk n : Nat) : g (s.released h hk n) = g s :=
  (releaseBar_keeps g (fun s streams => hg s streams s.saccs) ..).trans (hg s s.streams _)

/-- What a token that is performed makes of its stream, once it has released what it must. -/
def State.endToken (s : State) (h hk n : Nat) : State :=
  let t := s.stream hk n
  if s.isSink hk n then
    let s := s.setStream hk n { t with busy := false, line := 0, pos := t.pos + 1, done := t.done + 1 }
    let s := if s.isQueue hk n then
        match s.homeOf h (s.streamUnit hk n) with
        | some (home, slots) =>
          s.retireIndex h (s.streamUnit hk n) home slots ((s.qNext home + 2 ^ 32 - 1) % 2 ^ 32)
        | none => s
      else (s.setHallWord hk n 7 (withBits (s.streamWord hk n 7) 0 32 (s.streamPtr hk n + 1))).sinkCredit h hk n
    (s.progress (some h)).settleStream h hk n
  else (s.sourceDone hk n).settleStream h hk n

theorem State.tokenPerformed_eq (s : State) (h hk n : Nat) :
    s.tokenPerformed h hk n = (s.released h hk n).endToken h hk n := rfl

theorem State.endToken_eq {hk n : Nat} (hqueue : s.isQueue hk n = false) (h : Nat) : s.endToken h hk n =
    if s.isSink hk n = true then ((s.sinkDone h hk n).progress (some h)).settleStream h hk n
    else (s.sourceDone hk n).settleStream h hk n := by
  have hset : ∀ t, ((s.setStream hk n t).isQueue hk n) = false := fun _ => hqueue
  unfold State.endToken
  dsimp only
  split
  · rw [if_neg (by simp [hset])]
    rfl
  · rfl

theorem sinkDone_keeps {β : Type} (g : State → β)
    (hg : ∀ (s : State) streams cfg packets agenda fresh nextId, g { s with
      streams := streams, cfg := cfg, packets := packets, agenda := agenda, fresh := fresh, nextId := nextId } = g s)
    (s : State) (h hk n : Nat) : g (s.sinkDone h hk n) = g s := by
  have hsend : ∀ (s : State) p, g (s.sendPacket p) = g s := fun s p => hg s s.streams s.cfg _ _ _ _
  have hword : ∀ (s : State) x, g (s.setHallWord hk n 7 x) = g s := fun s x =>
    hg s s.streams _ s.packets s.agenda s.fresh s.nextId
  have hset : ∀ (s : State) t, g (s.setStream hk n t) = g s := fun s t =>
    hg s _ s.cfg s.packets s.agenda s.fresh s.nextId
  exact (hsend ..).trans ((hword ..).trans (hset ..))

theorem Stream.SameWalk.pos {a b : Stream} (h : Stream.SameWalk a b) : a.pos = b.pos := by
  rw [Stream.SameWalk] at h
  rw [h]

/-- Its own end puts a stream past its token, with none in hand. -/
def Stream.Past (a b : Stream) : Prop := a.busy = false ∧ a.pos = b.pos + 1

theorem stream_sinkDone (s : State) (h hk n : Nat) :
    Stream.Past ((s.sinkDone h hk n).stream hk n) (s.stream hk n) := by
  have hset : (s.sinkDone h hk n).stream hk n = { s.stream hk n with
      busy := false, line := 0, pos := (s.stream hk n).pos + 1, done := (s.stream hk n).done + 1 } :=
    s.stream_setStream ..
  rw [hset]
  exact ⟨rfl, rfl⟩

theorem stream_sourceDone (s : State) (hk n : Nat) :
    Stream.Past ((s.sourceDone hk n).stream hk n) (s.stream hk n) := by
  rw [State.sourceDone, State.stream_setStream]
  exact ⟨rfl, rfl⟩

theorem Stream.Past.settle {t0 : Stream} {hk n : Nat} (hp : Stream.Past (s.stream hk n) t0) (h : Nat) :
    Stream.Past ((s.settleStream h hk n).stream hk n) t0 := by
  obtain ⟨b, hsettle, hb⟩ := settleStream_stream s h hk n
  obtain ⟨hbusy, hpos⟩ := hp
  rw [hsettle]
  exact ⟨hb hbusy, hpos⟩

/-- A token that is performed ends in its stream, and in no store (R206, R285). -/
theorem tokenPerformed_ends {hk n : Nat} (hqueue : s.isQueue hk n = false) (h : Nat) :
    Stream.Past ((s.tokenPerformed h hk n).stream hk n) (s.stream hk n) ∧
      (s.tokenPerformed h hk n).mem = s.mem ∧ (s.tokenPerformed h hk n).cycle = s.cycle := by
  have hpos : ((s.released h hk n).stream hk n).pos = (s.stream hk n).pos :=
    (stream_releaseBar { s with saccs := mapDel (streamKey hk n) s.saccs } h n hk n).pos
  have hmem : (s.released h hk n).mem = s.mem := released_keeps (·.mem) (fun _ _ _ => rfl) ..
  have hcycle : (s.released h hk n).cycle = s.cycle := released_keeps (·.cycle) (fun _ _ _ => rfl) ..
  have hsettle : ∀ v : State, (v.settleStream h hk n).mem = v.mem ∧ (v.settleStream h hk n).cycle = v.cycle :=
    fun v => ⟨settleStream_keeps (·.mem) (fun _ _ _ _ => rfl) .., settleStream_keeps (·.cycle) (fun _ _ _ _ => rfl) ..⟩
  have hqueue' : (s.released h hk n).isQueue hk n = false :=
    (released_keeps (·.isQueue hk n) (fun _ _ _ => rfl) ..).trans hqueue
  rw [State.tokenPerformed_eq, State.endToken_eq hqueue', ← hmem, ← hcycle]
  simp only [Stream.Past, ← hpos]
  generalize s.released h hk n = v
  split
  · have hpast : Stream.Past (((v.sinkDone h hk n).progress (some h)).stream hk n) (v.stream hk n) := by
      rw [State.stream_progress]
      exact stream_sinkDone v h hk n
    obtain ⟨hmem', hcycle'⟩ := hsettle ((v.sinkDone h hk n).progress (some h))
    rw [hmem', hcycle', State.mem_progress, State.cycle_progress]
    exact ⟨hpast.settle h, sinkDone_keeps (·.mem) (fun _ _ _ _ _ _ _ => rfl) v h hk n,
      sinkDone_keeps (·.cycle) (fun _ _ _ _ _ _ _ => rfl) v h hk n⟩
  · exact ⟨(stream_sourceDone v hk n).settle h, (hsettle _).1, (hsettle _).2⟩

/-- The access of a token of a shared address, its end and the next event of its stream. -/
theorem performToken_performs {h hk n key : Nat} (hqueue : s.isQueue hk n = false)
    (hpoison : s.tokenPoisoned h hk n = false) (hshared : s.isShared hk n = true)
    (hkey : s.sharedKey (BitVec.ofNat 64 (s.tokenVa hk n (s.stream hk n).pos)) (s.streamSize hk n) = some key)
    (hmerged : s.mergedOn hk key (s.streamSize hk n) = false) :
    Scheduled s (s.performToken h hk n) (.streamToken hk n) ∧
      Stream.Past ((s.performToken h hk n).stream hk n) (s.stream hk n) ∧
      (s.performToken h hk n).mem = (s.moveToken hk n key).mem := by
  have hrace : ∀ {β : Type} (g : State → β) (_ : ∀ (s : State) loads saccs,
      g { s with loads := loads, saccs := saccs } = g s), g (s.raceEvents h hk n) = g s :=
    fun g hg => raceEvents_keeps g hg s h hk n
  have hstream := hrace (·.stream hk n) fun _ _ _ => rfl
  have hsize := hrace (·.streamSize hk n) fun _ _ _ => rfl
  have hva := hrace (·.tokenVa hk n (s.stream hk n).pos) fun _ _ _ => rfl
  have hshare := hrace (fun v => v.sharedKey (BitVec.ofNat 64 (s.tokenVa hk n (s.stream hk n).pos)) (s.streamSize hk n))
    fun _ _ _ => rfl
  have hmerge := hrace (·.mergedOn hk key (s.streamSize hk n)) fun _ _ _ => rfl
  have hqueue' := (hrace (·.isQueue hk n) fun _ _ _ => rfl).trans hqueue
  have hshared' := (hrace (·.isShared hk n) fun _ _ _ => rfl).trans hshared
  have hcycle := hrace (·.cycle) fun _ _ _ => rfl
  have hmove := hrace (fun v => (v.moveToken hk n key).mem) fun s loads saccs => by
    rw [State.mem_moveToken, State.mem_moveToken]
    rfl
  have hpoison' : (s.raceEvents h hk n).tokenPoisoned h hk n = false := by
    rw [State.tokenPoisoned_eq hqueue', ← hpoison, State.tokenPoisoned_eq hqueue]
    exact hrace (fun v => v.isSink hk n && v.poisoned (v.handKey hk n) (v.streamSize hk n)) fun _ _ _ => rfl
  rw [performToken_shared (s := s) (key := key) rfl hqueue' hpoison' hshared'
    (by rw [hstream, hsize, hva, hshare, hkey]) (by rw [hsize, hmerge, hmerged]), ← hmove, ← hstream]
  generalize s.raceEvents h hk n = v at *
  have hqueueMoved := (moveToken_keeps (·.isQueue hk n) (fun _ _ _ _ _ _ => rfl) v hk n key).trans hqueue'
  have hstreamMoved := moveToken_keeps (·.stream hk n) (fun _ _ _ _ _ _ => rfl) v hk n key
  have hcycleMoved := (moveToken_keeps (·.cycle) (fun _ _ _ _ _ _ => rfl) v hk n key).trans hcycle
  generalize v.moveToken hk n key = m at *
  obtain ⟨hpast, hmem, hcycleEnd⟩ := tokenPerformed_ends hqueueMoved h
  exact ⟨scheduled_later (hcycleEnd.trans hcycleMoved) Nat.one_pos _, hstreamMoved ▸ hpast, hmem⟩

end Sys2Proof.Machine

namespace Sys2Proof.Machine

variable {s t u v w : State} {q : Issue} {i j : Instr}

/-! ### STREAM_TOKEN and ORDERED_ACCESS_PERFORM (R206, R272, R285 to R289) -/

/-- Only a stream with a token read ahead sends. -/
theorem ahead_of_maySend {hk n h : Nat} (hsend : s.maySend h hk n = true) : 0 < (s.stream hk n).ahead := by
  unfold State.maySend at hsend
  simp only [Bool.and_eq_true, decide_eq_true_eq] at hsend
  exact hsend.1.1.1.1

section streamEvents

variable {hk n h : Nat} (howner : s.streamOwner hk n = some h) (hlive : s.streamsLive h hk = true)
include howner hlive

/-- An ordered access waits for its conflicts, and is performed behind them. -/
theorem execOrderedAccessPerform_busy (hbusy : (s.stream hk n).busy = true) (hwalk : s.waitsWalk hk n = false) :
    exec (.orderedAccessPerform hk n) s =
      if s.orderedBehind h hk n = true then .next (s.retry (.orderedAccessPerform hk n))
      else .next (s.performToken h hk n) := by
  dsimp only [exec, execOrderedAccessPerform]
  rw [howner]
  simp [hbusy, hlive, hwalk]

variable (hidle : (s.stream hk n).mode ≠ .idle) (hfin : (s.stream hk n).mode ≠ .finished)
include hidle hfin

theorem execStreamToken_busy (hbusy : (s.stream hk n).busy = true) (hwalk : s.waitsWalk hk n = false)
    (hord : (s.loadAt h).ordered = false) :
    exec (.streamToken hk n) s = .next (s.performToken h hk n) := by
  dsimp only [exec, execStreamToken]
  rw [howner]
  simp [hidle, hfin, hbusy, hlive, hwalk, hord]

/-- What a stream does between tokens, in its order. -/
theorem execStreamToken_between (hbusy : (s.stream hk n).busy = false) : exec (.streamToken hk n) s =
    if (s.stream hk n).mode = .stopping ∧ (s.stream hk n).ahead = 0 then .next (s.settleStream h hk n)
    else if s.maySend h hk n = true then .next ((s.sendToken h hk n).later 1 (.streamToken hk n))
    else if s.sinkClosed h hk n = true then .next (s.sinkClosedFault h hk n)
    else if s.homeAstray h hk n = true then .next (s.homeAstrayFault h hk n)
    else if s.mayBegin h hk n = true then .next (s.beginToken h hk n)
    else .next (s.retry (.streamToken hk n)) := by
  dsimp only [exec, execStreamToken]
  rw [howner]
  simp [hidle, hfin, hbusy, hlive]

theorem streamToken_stops (hbusy : (s.stream hk n).busy = false) (hstop : (s.stream hk n).mode = .stopping)
    (hahead : (s.stream hk n).ahead = 0) : ∃ u, exec (.streamToken hk n) s = .next u ∧
      u.stream hk n = { s.stream hk n with mode := .idle } ∧ Scheduled s u .loadComplete := by
  have hsettle : s.settleStream h hk n =
      (s.setStream hk n { s.stream hk n with mode := .idle }).later 1 .loadComplete := by
    unfold State.settleStream
    simp [hstop, hahead]
  rw [execStreamToken_between howner hlive hidle hfin hbusy, if_pos ⟨hstop, hahead⟩, hsettle]
  exact ⟨_, rfl, s.stream_setStream .., scheduled_later rfl Nat.one_pos _⟩

theorem streamToken_sends (hbusy : (s.stream hk n).busy = false) (hsend : s.maySend h hk n = true) :
    exec (.streamToken hk n) s = .next ((s.sendToken h hk n).later 1 (.streamToken hk n)) := by
  have hahead := ahead_of_maySend hsend
  rw [execStreamToken_between howner hlive hidle hfin hbusy, if_neg (by omega), if_pos hsend]

theorem streamToken_begins (hbusy : (s.stream hk n).busy = false)
    (hstop : (s.stream hk n).mode = .stopping → 0 < (s.stream hk n).ahead) (hsend : s.maySend h hk n = false)
    (hclosed : s.sinkClosed h hk n = false) (hastray : s.homeAstray h hk n = false) :
    exec (.streamToken hk n) s = if s.mayBegin h hk n = true then .next (s.beginToken h hk n)
      else .next (s.retry (.streamToken hk n)) := by
  have hnot : ¬((s.stream hk n).mode = .stopping ∧ (s.stream hk n).ahead = 0) := fun ⟨hmode, hzero⟩ => by
    have := hstop hmode
    omega
  rw [execStreamToken_between howner hlive hidle hfin hbusy, if_neg hnot, if_neg (by simp [hsend]),
    if_neg (by simp [hclosed]), if_neg (by simp [hastray])]

/-- Either event performs the token in hand. -/
theorem streamEvent_performs (hbusy : (s.stream hk n).busy = true) (hwalk : s.waitsWalk hk n = false)
    (hi : i = .streamToken hk n ∧ (s.loadAt h).ordered = false ∨
      i = .orderedAccessPerform hk n ∧ s.orderedBehind h hk n = false) :
    exec i s = .next (s.performToken h hk n) := by
  rcases hi with ⟨rfl, hord⟩ | ⟨rfl, hbehind⟩
  · exact execStreamToken_busy howner hlive hidle hfin hbusy hwalk hord
  · rw [execOrderedAccessPerform_busy howner hlive hbusy hwalk, if_neg (by simp [hbehind])]

end streamEvents

/-- What a stream that sends leaves: its counts, its mode and its packet. -/
theorem streamToken_sent {hk n h : Nat} (hsend : s.maySend h hk n = true) :
    let t := s.stream hk n
    let u := (s.sendToken h hk n).later 1 (.streamToken hk n)
    Scheduled s u (.streamToken hk n) ∧ (u.stream hk n).ahead = t.ahead - 1 ∧
      (u.stream hk n).done = t.done + 1 ∧
      (t.mode = .stopping → (u.stream hk n).mode = if t.ahead = 1 then .idle else .stopping) ∧
      (t.mode = .running → (u.stream hk n).mode =
        if t.ahead = 1 ∧ s.walkTotal hk n ≤ t.pos then .finished else .running) ∧
      (s.isQueue hk n = false → ∃ p, mapFind s.nextId u.packets = some p ∧ p.kind = 0 ∧ p.hall = hk ∧
        p.data = memBytes s.mem (s.ringKey hk n (t.pos - t.ahead)) (s.streamSize hk n)) := by
  intro t u
  have hpos : 0 < t.ahead := ahead_of_maySend hsend
  have hahead : t.ahead - 1 = 0 ↔ t.ahead = 1 := by omega
  have hcycle := cycle_sendToken s h hk n
  obtain ⟨b, hstream⟩ := stream_sendToken s h hk n
  have hpacket := packet_sendToken s h hk n
  unfold u
  generalize s.sendToken h hk n = v at *
  have hu : (v.later 1 (.streamToken hk n)).stream hk n = _ := hstream
  rw [hu]
  refine ⟨scheduled_later hcycle Nat.one_pos _, rfl, rfl, fun hmode => ?_, fun hmode => ?_, hpacket⟩
  · simp only [Stream.settledMode]
    rw [if_pos hmode]
    exact if_congr hahead rfl rfl
  · have hrun : t.mode ≠ .stopping := by simp [hmode]
    simp only [Stream.settledMode]
    rw [if_neg hrun]
    exact if_congr (by rw [and_comm]; exact and_congr_left' hahead) rfl hmode

/-- Settles O39: each event of a stream by the state between its tokens, and the token in hand by its access. -/
theorem streamsAct : Obligations.StreamsAct := by
  intro s hk n h i howner hlive t again hidle hfin
  refine ⟨streamToken_stops howner hlive hidle hfin, fun hbusy hsend => ?sends,
    fun hbusy hstop hsend hclosed hastray => ?begins,
    fun hbusy hwalk hi hpoison hshared key hkey hmerged hqueue => ?performs,
    fun hbusy hwalk hbehind => ?waits⟩
  case sends =>
    exact ⟨_, streamToken_sends howner hlive hidle hfin hbusy hsend, streamToken_sent hsend⟩
  case begins =>
    have hexec := streamToken_begins howner hlive hidle hfin hbusy hstop hsend hclosed hastray
    refine ⟨fun hbegin => ?_, fun hbegin => hexec.trans (if_neg (by simp [hbegin]))⟩
    exact ⟨_, hexec.trans (if_pos hbegin), beginToken_begins s h hk n⟩
  case performs =>
    obtain ⟨hdue, ⟨hdone, hpos⟩, hmem⟩ := performToken_performs hqueue hpoison hshared hkey hmerged
    have hexec := streamEvent_performs howner hlive hidle hfin hbusy hwalk hi
    rw [State.mem_moveToken, State.handKey] at hmem
    generalize s.performToken h hk n = u at *
    refine ⟨u, hexec, hdue, hdone, hpos, hmem.trans ?_⟩
    by_cases hsink : s.isSink hk n = true
    · simp only [if_pos hsink]
    · simp only [if_neg hsink]
      rfl
  case waits =>
    rw [execOrderedAccessPerform_busy howner hlive hbusy hwalk, if_pos hbehind]

end Sys2Proof.Machine

namespace Sys2Proof.Machine

variable {s u v w : State} {q : Issue} {i j : Instr}

/-! ### Commands of the grammar engines (R224, R225) -/

theorem InIssue.sendCommand (h : InIssue s v) (fn : Nat) (xa xb : Word64) : InIssue s (v.sendCommand fn xa xb) :=
  h.congr rfl

theorem InIssue.load (h : InIssue s v) : v.curK.load = s.curK.load := by rw [h.unwritten.units]

/-- A command leaves behind the context's earlier commands to its engine. -/
theorem sendCommand_sent (h : Prepared s v) (fn : Nat) (xa xb : Word64) :
    CommandSent s (v.sendCommand fn xa xb) (BitVec.ofNat 3 fn) xa xb := by
  obtain ⟨hcycle, hcore, hctx⟩ := h.place
  have hgcmds : v.gcmds = s.gcmds := h.keeps (·.gcmds) fun _ _ => rfl
  have hsent : mapFind v.nextId (v.sendCommand fn xa xb).gcmds = some _ := mapFind_put ..
  rw [h.nextId] at hsent
  refine ⟨⟨_, hsent, hcore, hctx, rfl, rfl, rfl, congrArg (Option.getD · 31) h.toInIssue.load,
    fun e he hec hex hw => ?_⟩, ?_, (h.toInIssue.sendCommand fn xa xb).unwritten⟩
  · refine List.mem_map_of_mem (List.mem_filter.2 ⟨hgcmds ▸ he, ?_⟩)
    simp [hec, hex, hw, hcore, hctx]
  · rw [← h.nextId]
    exact scheduled_later (u := { v.newId with gcmds := _ }) hcycle Nat.one_pos _

/-- A command that runs leaves past an elastic side effect (R301). -/
theorem commandForm_sends {fn : Nat} {a b : XReg} (hr : Runs s q i) (he : exec i s = commandForm q fn a b s) :
    CompletesWith i s q fun u => CommandSent s u (BitVec.ofNat 3 fn) (s.x a).v (s.x b).v := by
  have hp := Prepared.effect s
  refine completesWith_of_runs hr he (hp.toInIssue.sendCommand ..) ?_
  rw [State.countIssue_x, State.countIssue_x]
  exact sendCommand_sent hp fn ..

theorem gqry_sends {a b : XReg} (hr : Runs s q (.gqry q a b)) :
    CompletesWith (.gqry q a b) s q fun u => CommandSent s u 4 (s.x a).v (s.x b).v ∧ Deferred s u := by
  have hp := (Prepared.countIssue s).pushEntry s.nextId true
  refine completesWith_of_runs hr rfl (hp.toInIssue.sendCommand ..) ?_
  rw [State.countIssue_x, State.countIssue_x]
  refine ⟨sendCommand_sent hp 4 .., (congrArg Ctx.rq (s.countIssue.cur_pushEntry s.nextId true)).trans ?_⟩
  rw [s.countIssue_rq]

/-- Settles O25: each command passes its checks and leaves for its engine. -/
theorem grammarFormsSendCommands : Obligations.GrammarFormsSendCommands := by
  intro s q a b h hm ha xa xb slot hhigh
  refine ⟨fun hstub => ⟨fun hb hlow => ⟨fun hslot => ?gopen, fun hslot => ?gstep⟩, fun hb hslot hal hk => ?gmask,
    fun hslot => ?gclose⟩, fun hb hslot hlow hroom => ?gqry⟩
  case gopen =>
    exact commandForm_sends (fn := 0) (commandForm_runs h hm hstub rfl (gopenChecks_pass ha hb hhigh hlow hslot)) rfl
  case gstep =>
    exact commandForm_sends (fn := 1) (commandForm_runs h hm hstub rfl
      (commandChecks_pass ha hb hhigh (by decide) hslot (fun _ => hlow) nofun nofun)) rfl
  case gmask =>
    exact commandForm_sends (fn := 2) (commandForm_runs h hm hstub rfl
      (commandChecks_pass ha hb hhigh (by decide) hslot nofun nofun fun _ => ⟨hal, hk⟩)) rfl
  case gclose =>
    exact commandForm_sends (fn := 3) (b := 0) (commandForm_runs h hm hstub rfl
      (commandChecks_pass ha s.x_zero_clean hhigh (by decide) hslot nofun nofun nofun)) rfl
  case gqry =>
    exact gqry_sends (gqry_runs h hm hroom
      (commandChecks_pass ha hb hhigh (by decide) hslot nofun (fun _ => hlow) nofun))

end Sys2Proof.Machine

namespace Sys2Proof.Machine

variable {s u v w : State} {q : Issue} {i j : Instr}

/-! ### Results on their way to their areas (R226, R227) -/

theorem State.curK_of_setting (e : u.setting = v.setting) : u.cur = v.cur ∧ u.curK = v.curK := by
  simp only [State.setting, Prod.mk.injEq] at e
  obtain ⟨⟨-, hcore, hctx⟩, -, -, -, hcores⟩ := e
  simp only [State.cur, State.ctx, State.curK, State.core, hcore, hctx, hcores, and_self]

/-- The context and the core of a form whose result is under way to n bytes at lo (R226). -/
def State.withArea (s : State) (lo n : Nat) : State :=
  let u := s.newId.addRange s.nextId lo n true true
  u.setCur { u.cur with areas := setAdd s.nextId u.cur.areas }

theorem InIssue.withArea (h : InIssue s v) (lo n : Nat) : InIssue s (v.withArea lo n) :=
  (h.newId.addRange v.nextId lo n true true).setCur rfl rfl

theorem State.areas_withArea (s : State) (lo n : Nat) :
    (s.withArea lo n).cur.areas = setAdd s.nextId s.cur.areas := by
  rw [State.withArea, State.cur_setCur, State.cur_addRange]
  rfl

theorem State.score_withArea (s : State) (lo n : Nat) :
    (s.withArea lo n).curK.score = s.curK.score ++ [⟨s.nextId, lo, n, true, true⟩] := by
  rw [State.withArea, State.curK_setCur, Core.setCtx_score, State.curK_addRange]
  rfl

section startResult

variable (group : Nat) (i : Instr) (a area : Word64) (n : Nat) (block : List Byte) (po : Bool)

theorem State.startResult_eq (s : State) : s.startResult group i a area n block po =
    { s.withArea area.toNat n with
      results := mapPut s.nextId
        { id := s.nextId, core := s.curCore, ctx := s.curCtx, group := group, instr := i, a := a,
          area := area.toNat, block := block, blockPoison := po } (s.withArea area.toNat n).results } := rfl

/-- The result of a form whose issue has counted. -/
theorem startResult_underWay (s : State) :
    let u := (s.countIssue.startResult group i a area n block po).later 1 (.resultAreaWrite s.nextId)
    InIssue s u ∧ ResultUnderWay s u i area.toNat n block := by
  have hw : InIssue s (s.countIssue.withArea area.toNat n) := (InIssue.countIssue s).withArea area.toNat n
  rw [State.startResult_eq]
  intro u
  have hset : u.setting = (s.countIssue.withArea area.toNat n).setting := rfl
  obtain ⟨hcur, hcurK⟩ := State.curK_of_setting hset
  have hu : InIssue s u := hw.congr hset
  refine ⟨hu, ⟨_, mapFind_put .., rfl, rfl, rfl, rfl, rfl⟩, ?held, ?outstanding, ?written, hu.unwritten⟩
  case held =>
    rw [RangeTaken, hcurK, State.score_withArea, State.countIssue_score]
    rfl
  case outstanding =>
    rw [hcur, State.areas_withArea]
    exact (setHas_add _ _ _).2 (.inl rfl)
  case written =>
    exact scheduled_later (u := { s.countIssue.withArea area.toNat n with results := _ }) rfl Nat.one_pos _

end startResult

/-- A form of one result word that takes its value at issue (log 10). -/
theorem resultForm_sends {group : Nat} {a b : XReg} {checks : State → List (Bool × FaultInfo)}
    {f : State → State × Word64 × Bool} {x : Word64} {po : Bool} (hr : Runs s q i)
    (he : exec i s = resultForm q i group a b checks f s) (hf : f s.countIssue = (s.countIssue, x, po)) :
    CompletesWith i s q fun u => ResultUnderWay s u i (s.x b).v.toNat 8 (natToBytes 8 x.toNat) := by
  obtain ⟨hu, hresult⟩ := startResult_underWay group i (s.x a).v (s.x b).v 8 (natToBytes 8 x.toNat) po s
  refine completesWith_of_runs hr he ?_ ?_
  · rw [State.countIssue_x, State.countIssue_x, hf]
    exact hu
  · rw [State.countIssue_x, State.countIssue_x, hf]
    exact hresult

/-- A security form takes its block in at issue (R234, log 10). -/
theorem security_sends {a b : XReg} (block : Nat) (area : State → Nat) (hr : Runs s q i)
    (he : exec i s = issue q 1 (securityHeld a b block (area s) s) (s.securityChecks a b block (area s)) none
      (fun u => u.startSecurity i a b block (area u)) s) (harea : area s.countIssue = area s) :
    CompletesWith i s q fun u => ResultUnderWay s u i (s.x b).v.toNat (area s)
      (memBytes s.mem (tileKey s.curCore (s.x a).v.toNat) block) := by
  obtain ⟨hu, hresult⟩ := startResult_underWay 1 i (s.x a).v (s.x b).v (area s)
    (s.blockAt (s.x a).v.toNat block).1 (s.blockAt (s.x a).v.toNat block).2 s
  have heff : s.countIssue.startSecurity i a b block (area s.countIssue) =
      (s.countIssue.startResult 1 i (s.x a).v (s.x b).v (area s) (s.blockAt (s.x a).v.toNat block).1
        (s.blockAt (s.x a).v.toNat block).2).later 1 (.resultAreaWrite s.nextId) := by
    rw [State.startSecurity, State.countIssue_x, State.countIssue_x, harea]
    rfl
  refine completesWith_of_runs hr he ?_ ?_
  · rw [heff]
    exact hu
  · rw [heff]
    exact hresult

theorem State.sechArea_countIssue (s : State) (a : XReg) : s.countIssue.sechArea a = s.sechArea a := by
  rw [State.sechArea, State.countIssue_x]
  rfl

/-- Settles O27: the forms of one word by the value that each takes at issue, SECH and SECV by their block. -/
theorem systemReadsSendResults : Obligations.SystemReadsSendResults := by
  intro s q a b h hsys ha xa lo area sends
  refine ⟨fun harea => ⟨fun u sp off ht => ?cfgr, fun u ht => ?cfgcrc, fun hk ht => ?dmap⟩,
    fun hal => ⟨fun harea hin hfree => ?sech, fun harea hin hfree => ?secv⟩⟩
  case cfgr =>
    refine resultForm_sends (po := s.cfgPoisoned u sp off) (cfgr_runs h hsys ha harea (Option.isSome_of_eq_some ht))
      rfl ?_
    rw [State.countIssue_x, ht]
    rfl
  case cfgcrc =>
    refine resultForm_sends (po := false) (cfgcrc_runs h hsys ha harea (Option.isSome_of_eq_some ht)) rfl ?_
    rw [State.countIssue_x, ht, State.txn, State.countIssue_cur]
    rfl
  case dmap =>
    refine resultForm_sends (po := false) (dmap_runs h hsys ha harea (Option.isSome_of_eq_some ht)) rfl ?_
    rw [State.countIssue_x, ht]
    rfl
  case sech =>
    exact security_sends 32 (·.sechArea a)
      (security_runs h hsys ha 32 (·.sechArea a) rfl harea hal hin hfree) rfl (s.sechArea_countIssue a)
  case secv =>
    exact security_sends 208 (fun _ => 8) (security_runs h hsys ha 208 (fun _ => 8) rfl harea hal hin hfree) rfl rfl

end Sys2Proof.Machine

namespace Sys2Proof.Machine

variable {s u v w : State} {q : Issue} {i j : Instr}

/-! ### The forms that name a load (R228, R231, R232) -/

section handle

variable (h : s.issues) (hsys : isSystemCore s.curCore = true) {a b : XReg} (harea : AreaFree s b 8)
  {hd mask : Nat} (hn : NamesLoad s a mask hd)

include hn in
theorem handle_of_namesLoad : bits (s.x a).v 0 5 = hd := by
  obtain ⟨-, -, hhandle, -⟩ := hn
  rw [bits, pow_zero, Nat.div_one]
  exact hhandle

include h hsys harea hn

theorem handleFaults_pass : ∀ e ∈ s.handleFaults a b mask, e.1 = false := by
  have hhandle := handle_of_namesLoad hn
  obtain ⟨ha, hmask, -, hlt⟩ := hn
  simp only [State.handleFaults, handleChecks, List.cons_append, List.nil_append, List.forall_mem_cons,
    List.forall_mem_map, List.forall_mem_append, hhandle, hmask]
  refine ⟨privFaultOf_eq_false hsys, ha, ?_, areaChecks_pass harea, h.2, fun _ he => absurd he List.not_mem_nil⟩
  simp only [bne_self_eq_false, Bool.false_or, decide_eq_false_iff_not]
  omega

/-- A form that names a load completes with its effect on the handle that it names. -/
theorem handleForm_completes {group : Nat} {f : Nat → Word64 → State → State × Word64} {eff : State → State}
    {r : Answer} (he : r = handleForm q i group a b mask f s)
    (heff : (f hd (s.x a).v s.countIssue).1.sendResult group i (s.x a).v (s.x b).v
      (f hd (s.x a).v s.countIssue).2 false = eff s.countIssue) :
    r = .next (s.complete q 1 none eff) := by
  rw [he, handleForm, areaHeld_eq_false harea, firstFault_eq_none (handleFaults_pass h hsys harea hn),
    issue_completes h]
  refine congrArg _ (State.complete_congr (Eq.trans ?_ heff))
  dsimp only
  rw [State.countIssue_x, State.countIssue_x, handle_of_namesLoad hn]

end handle

/-! ### CFGCOMMIT and CFGABORT (R229, R231) -/

/-- What CFGCOMMIT does with the open transaction of its context, and the status that it reports (log 117). -/
theorem State.doCommit_eq (s : State) (h : Nat) (debug : Bool) : s.doCommit h debug =
    match s.cur.txn with
    | none => (s, 1)
    | some t =>
      if t.words.any (·.rejected) then (s, 2)
      else if (s.loadAt h).committed then (s, 3)
      else if t.wings.any fun w => (s.freeChannel w).isNone then (s, 4)
      else ((s.setCur { s.cur with txn := none }).commitLoad h (s.commitRecord t debug), 0) := by
  unfold State.doCommit State.commitStatus
  cases s.cur.txn with
  | none => rfl
  | some t =>
    dsimp only
    split_ifs <;> first | rfl | contradiction

theorem cfgcommit_acts (h : s.issues) (hsys : isSystemCore s.curCore = true) {a b : XReg} (harea : AreaFree s b 8)
    {hd : Nat} (hn : NamesLoad s a (2 ^ 8) hd) : exec (.cfgcommit q a b) s = .next (s.complete q 1 none fun u =>
      match s.cur.txn with
      | none => u.sendResult 0 (.cfgcommit q a b) (s.x a).v (s.x b).v 1 false
      | some t =>
        if t.words.any (·.rejected) then u.sendResult 0 (.cfgcommit q a b) (s.x a).v (s.x b).v 2 false
        else if (s.loadAt hd).committed then u.sendResult 0 (.cfgcommit q a b) (s.x a).v (s.x b).v 3 false
        else if t.wings.any fun w => (s.freeChannel w).isNone then
          u.sendResult 0 (.cfgcommit q a b) (s.x a).v (s.x b).v 4 false
        else ((u.setCur { u.cur with txn := none }).commitLoad hd
          (u.commitRecord t ((s.x a).v.getLsbD 8))).sendResult 0 (.cfgcommit q a b) (s.x a).v (s.x b).v 0 false) := by
  change execCfgcommit q a b s = _
  refine handleForm_completes h hsys harea hn rfl ?_
  have htxn : s.countIssue.cur.txn = s.cur.txn := by rw [State.countIssue_cur]
  have hload : s.countIssue.loadAt hd = s.loadAt hd := rfl
  have hfree : ∀ w, s.countIssue.freeChannel w = s.freeChannel w := fun _ => rfl
  dsimp only
  rw [State.doCommit_eq, htxn]
  cases s.cur.txn with
  | none => rfl
  | some t =>
    simp only [hload, hfree]
    split_ifs <;> rfl

theorem cfgabort_acts (h : s.issues) (hsys : isSystemCore s.curCore = true) {b : XReg} (harea : AreaFree s b 8) :
    exec (.cfgabort q b) s = .next (s.complete q 1 none fun u =>
      match s.cur.txn with
      | none => u.sendResult 0 (.cfgabort q b) (s.x 0).v (s.x b).v 1 false
      | some t => ((u.setCur { u.cur with txn := none }).rollback t).sendResult 0 (.cfgabort q b)
          (s.x 0).v (s.x b).v 0 false) := by
  have hchecks : firstFault (s.privFaultOf :: s.areaChecks b 8) = none :=
    firstFault_eq_none (List.forall_mem_cons.2 ⟨privFaultOf_eq_false hsys, areaChecks_pass harea⟩)
  have htxn : s.countIssue.cur.txn = s.cur.txn := by rw [State.countIssue_cur]
  dsimp only [exec, execCfgabort, resultForm, List.append_nil, List.nil_append, List.cons_append]
  rw [areaHeld_eq_false harea, hchecks, issue_completes h]
  refine congrArg _ (State.complete_congr ?_)
  rw [State.countIssue_x, State.countIssue_x, htxn]
  cases s.cur.txn <;> rfl

/-! ### ERET, FRZ and PREQ (R232) -/

theorem Load.not_committed_iff (l : Load) : (!l.committed) = true ↔ l.state = .free := by simp [Load.committed]

theorem eret_acts (h : s.issues) (hsys : isSystemCore s.curCore = true) {a b : XReg} (harea : AreaFree s b 8)
    {hd : Nat} (hn : NamesLoad s a (3 * 2 ^ 8) hd) : exec (.eret q a b) s = .next (s.complete q 1 none fun u =>
      if 1 < (s.x a).v.toNat / 2 ^ 8 % 4 then u.sendResult 2 (.eret q a b) (s.x a).v (s.x b).v 4 false
      else if (s.loadAt hd).state = .free then u.sendResult 2 (.eret q a b) (s.x a).v (s.x b).v 1 false
      else if (s.x a).v.toNat / 2 ^ 8 % 4 = 0 then
        (u.resumeLoad hd).1.sendResult 2 (.eret q a b) (s.x a).v (s.x b).v
          (BitVec.ofNat 64 (u.resumeLoad hd).2) false
      else ((u.dropLaunch hd).teardown hd).sendResult 2 (.eret q a b) (s.x a).v (s.x b).v 0 false) := by
  change execEret q a b s = _
  refine handleForm_completes h hsys harea hn rfl ?_
  have hact : bits (s.x a).v 8 2 = (s.x a).v.toNat / 2 ^ 8 % 4 := rfl
  have hload : s.countIssue.loadAt hd = s.loadAt hd := rfl
  dsimp only
  simp only [hact, hload, Load.not_committed_iff]
  split_ifs <;> rfl

theorem frz_acts (h : s.issues) (hsys : isSystemCore s.curCore = true) {a b : XReg} (harea : AreaFree s b 8)
    {hd : Nat} (hn : NamesLoad s a 0 hd) : exec (.frz q a b) s = .next (s.complete q 1 none fun u =>
      if (s.loadAt hd).state = .free then u.sendResult 2 (.frz q a b) (s.x a).v (s.x b).v 1 false
      else if (s.loadAt hd).state = .frozen then u.sendResult 2 (.frz q a b) (s.x a).v (s.x b).v 2 false
      else (u.freezeLoad hd).sendResult 2 (.frz q a b) (s.x a).v (s.x b).v 0 false) := by
  change execFrz q a b s = _
  refine handleForm_completes h hsys harea hn rfl ?_
  have hload : s.countIssue.loadAt hd = s.loadAt hd := rfl
  rw [hload]
  cases (s.loadAt hd).state <;> rfl

/-- The flags of a preemption leave the executing core's number as it is. -/
theorem State.curCore_beginPreempt (s : State) (h : Nat) (late : Option (List Nat)) :
    (s.beginPreempt h late).curCore = s.curCore ∧ (s.beginPreempt h late).curCtx = s.curCtx :=
  ⟨foldl_keeps (·.curCore) (f := fun s c => s.within 1 200 (.preemptFlagSet c)) (fun _ _ => rfl) _ _,
    foldl_keeps (·.curCtx) (f := fun s c => s.within 1 200 (.preemptFlagSet c)) (fun _ _ => rfl) _ _⟩

section startResult

variable (s : State) (group : Nat) (i : Instr) (a area : Word64) (n : Nat) (block : List Byte) (po : Bool)

@[simp] theorem State.curCore_startResult : (s.startResult group i a area n block po).curCore = s.curCore := rfl

@[simp] theorem State.curCtx_startResult : (s.startResult group i a area n block po).curCtx = s.curCtx := rfl

@[simp] theorem State.loadAt_startResult (h : Nat) :
    (s.startResult group i a area n block po).loadAt h = s.loadAt h := rfl

end startResult

theorem preq_acts (h : s.issues) (hsys : isSystemCore s.curCore = true) {a b : XReg} (harea : AreaFree s b 8)
    {hd : Nat} (hn : NamesLoad s a 0 hd) : exec (.preq q a b) s = .next (s.complete q 1 none fun u =>
      let waits := fun (u : State) => (u.startResult 2 (.preq q a b) (s.x a).v (s.x b).v 8 [] false).setLoad hd
        { u.loadAt hd with preqs := (u.loadAt hd).preqs ++ [(s.curCore, s.curCtx, u.nextId)] }
      match (s.loadAt hd).state with
      | .free => u.sendResult 2 (.preq q a b) (s.x a).v (s.x b).v 1 false
      | .suspended => u.sendResult 2 (.preq q a b) (s.x a).v (s.x b).v 2 false
      | .stopping | .stopped | .frozen => u.sendResult 2 (.preq q a b) (s.x a).v (s.x b).v 3 false
      | .preempting => waits u
      | .running | .residentIdle => waits (u.beginPreempt hd none)) := by
  obtain ⟨hcore, hctx⟩ := s.countIssue.curCore_beginPreempt hd none
  have hload : s.countIssue.loadAt hd = s.loadAt hd := rfl
  change execPreq q a b s = _
  rw [execPreq, areaHeld_eq_false harea, firstFault_eq_none (handleFaults_pass h hsys harea hn), issue_completes h]
  refine congrArg Host.Outcome.next (State.complete_congr ?_)
  rw [State.countIssue_x, State.countIssue_x, handle_of_namesLoad hn]
  simp only [State.doPreq, hload, State.curCore_startResult, State.curCtx_startResult, State.loadAt_startResult]
  cases (s.loadAt hd).state with
  | free | suspended | stopping | stopped | frozen | preempting => rfl
  | running | residentIdle =>
    dsimp only
    rw [hcore, hctx]
    rfl

/-- Settles O28: each form by its table, at the state in which its issue has counted. -/
theorem loadFormsAct : Obligations.LoadFormsAct := by
  intro s q a b h hi hsys harea xa xb l
  exact ⟨cfgcommit_acts hi hsys harea, cfgabort_acts hi hsys harea, eret_acts hi hsys harea,
    fun hn => ⟨frz_acts hi hsys harea hn, preq_acts hi hsys harea hn⟩⟩

end Sys2Proof.Machine

namespace Sys2Proof.Machine

variable {s u v w : State} {q : Issue} {i j : Instr}

/-! ### Configuration words (R228, R229) -/

theorem State.cfgAt_setCfg (ht : Tidy s) (unit space off : Nat) (x : Word64) :
    (s.setCfg unit space off x).cfgAt unit space off = x := mapGet_putD _ _ _ ht.cfgSorted

theorem State.cfgAt_setCfg_ne (s : State) {unit space off unit' space' off' : Nat}
    (h : cfgKey unit' space' off' ≠ cfgKey unit space off) (x : Word64) :
    (s.setCfg unit space off x).cfgAt unit' space' off' = s.cfgAt unit' space' off' :=
  mapGet_putD_ne _ _ h ..

theorem State.cfgAt_of_cfg (h : u.cfg = v.cfg) (unit space off : Nat) :
    u.cfgAt unit space off = v.cfgAt unit space off := by rw [State.cfgAt, h, State.cfgAt]

/-- A word of a core's own spaces lies in its table, and its units are a core. -/
theorem cfgTarget_core {a : Word64} {unit space off : Nat} (h : cfgTarget a = some (unit, space, off))
    (hspace : space < 6) : unit % 32 ≠ 31 ∧ off < 2 ^ 30 := by
  have hcore : bits a 34 5 = a.toNat / 2 ^ 34 % 32 := rfl
  have hoff := bits_lt a 0 30
  simp only [cfgTarget, Option.ite_none_right_eq_some, Option.some.injEq, Prod.mk.injEq] at h
  obtain ⟨⟨-, -, -, -, hunit⟩, rfl, rfl, rfl⟩ := h
  rw [if_pos hspace, hcore] at hunit
  exact ⟨by omega, hoff⟩

/-- A target's words within a transaction name the hall as being configured (R366). -/
theorem State.hallState_setHallState (ht : Tidy s) {hk : Nat} (hsys : isSystemHall hk = false) (n : Nat) :
    bits ((s.setHallState hk n).hallCfg hk 4088) 47 3 = n % 8 := by
  rw [State.setHallState, hsys, if_neg (by decide), State.hallCfg, State.setHallCfg, State.cfgAt_setCfg ht,
    bits_withBits _ (by decide)]
  rfl

theorem State.cfgAt_setHallState (s : State) {unit space off : Nat} (hspace : space < 6) (hoff : off < 2 ^ 30)
    (hk n : Nat) : (s.setHallState hk n).cfgAt unit space off = s.cfgAt unit space off := by
  unfold State.setHallState
  split
  · rfl
  · exact s.cfgAt_setCfg_ne (by unfold cfgKey; omega) _

theorem State.setHallState_keeps {β : Type} (g : State → β)
    (hg : ∀ (s : State) cfg, g { s with cfg := cfg } = g s) (s : State) (hk n : Nat) :
    g (s.setHallState hk n) = g s := by
  unfold State.setHallState
  split
  · rfl
  · exact hg s _

/-! ### A word of a transaction (R229) -/

/-- A write is noted in the open transaction. -/
def State.noteWrite (s : State) (e : CfgWrite) : State :=
  s.setCur { s.cur with txn := some { s.txn with words := s.txn.words ++ [e] } }

/-- A core is disarmed. -/
def State.disarm (s : State) (c : Nat) : State := s.setCore c { s.core c with armed := false }

/-- A word of a core: it is written in its fields and noted, its core is disarmed and its hall configured. -/
theorem State.writeConfig_eq (s : State) {unit space off : Nat} (hcore : unit % 32 ≠ 31)
    (husable : s.unitUsable unit = true) (a x : Word64) : s.writeConfig unit space off a x =
    (((s.cfgStore unit space off x).noteWrite
        { addr := a, data := (s.cfgStore unit space off x).cfgRead unit space off,
          rejected := (s.cfgStore unit space off x).cfgRead unit space off != x }).disarm unit).setHallState
      (hallOfUnit unit) 1 := by
  have hsystem : isSystemUnits unit = false := by
    rw [isSystemUnits, beq_eq_false_iff_ne.2 hcore, Bool.false_and]
  unfold State.writeConfig
  dsimp only
  rw [husable, if_pos rfl, hsystem, if_neg hcore, if_neg (by decide)]
  rfl

theorem State.armed_disarm (s : State) (c : Nat) : ((s.disarm c).core c).armed = false :=
  congrArg Core.armed (s.core_setCore c _)

theorem State.cur_disarm (s : State) (c : Nat) : (s.disarm c).cur = s.cur :=
  State.ctx_setCore_keeps (k := { s.core c with armed := false }) (fun _ => rfl) s.curCore s.curCtx

theorem State.cores_cfgStore (s : State) (unit space off : Nat) (x : Word64) :
    (s.cfgStore unit space off x).cores = s.cores := by
  unfold State.cfgStore
  split
  · exact storeMarked_keeps (·.cores) (fun _ _ _ _ _ => rfl) s _ (natToBytes 8 x.toNat) []
  · rfl

theorem State.load64_cfgStore (ht : Tidy s) {unit space off : Nat} (hspace : space = 0 ∨ space = 1) (x : Word64) :
    (s.cfgStore unit space off x).load64 (storeKey unit space off) = x := by
  have hstore : isStore space = true := by rcases hspace with rfl | rfl <;> rfl
  rw [State.cfgStore, hstore, if_pos rfl, State.load64, State.load_storeVal ht.memWf,
    Nat.mod_eq_of_lt (lt_of_lt_of_eq x.isLt (by norm_num))]
  exact BitVec.ofNat_toNat ..

theorem isStore_eq_false {space : Nat} (hlo : 2 ≤ space) (hhi : space ≤ 5) : isStore space = false := by
  simp only [isStore, Bool.or_eq_false_iff, beq_eq_false_iff_ne]
  omega

theorem State.cfgAt_cfgStore (ht : Tidy s) {unit space off : Nat} (hlo : 2 ≤ space) (hhi : space ≤ 5)
    (x : Word64) : (s.cfgStore unit space off x).cfgAt unit space off =
      (s.cfgAt unit space off &&& ~~~BitVec.ofNat 64 (s.cfgMask unit space off)) |||
        (x &&& BitVec.ofNat 64 (s.cfgMask unit space off)) := by
  rw [State.cfgStore, isStore_eq_false hlo hhi, if_neg (by decide), State.cfgAt_setCfg ht]

/-- Triggers and initial state read as they stand. -/
theorem State.cfgRead_plain (s : State) {space : Nat} (h : space = 3 ∨ space = 5) (unit off : Nat) :
    s.cfgRead unit space off = s.cfgAt unit space off := by
  rcases h with rfl | rfl <;> simp [State.cfgRead, isStore]

section writeConfig

variable {unit space off : Nat} (hcore : unit % 32 ≠ 31) (husable : s.unitUsable unit = true) (a x : Word64)
include hcore husable

theorem State.armed_writeConfig : ((s.writeConfig unit space off a x).core unit).armed = false := by
  rw [s.writeConfig_eq hcore husable, State.setHallState_keeps (fun t => (t.core unit).armed) fun _ _ => rfl]
  exact State.armed_disarm ..

theorem State.load64_writeConfig (key : Nat) :
    (s.writeConfig unit space off a x).load64 key = (s.cfgStore unit space off x).load64 key := by
  rw [s.writeConfig_eq hcore husable, State.setHallState_keeps (·.load64 key) fun _ _ => rfl]
  rfl

theorem State.cfgAt_writeConfig (hspace : space < 6) (hoff : off < 2 ^ 30) :
    (s.writeConfig unit space off a x).cfgAt unit space off = (s.cfgStore unit space off x).cfgAt unit space off := by
  rw [s.writeConfig_eq hcore husable, State.cfgAt_setHallState _ hspace hoff]
  rfl

theorem State.hallState_writeConfig (ht : Tidy s) (hsys : isSystemHall (hallOfUnit unit) = false) :
    bits ((s.writeConfig unit space off a x).hallCfg (hallOfUnit unit) 4088) 47 3 = 1 := by
  rw [s.writeConfig_eq hcore husable]
  exact State.hallState_setHallState (Tidy.setCore (Tidy.setCur ht.cfgStore)) hsys 1

theorem State.txn_writeConfig : (s.writeConfig unit space off a x).cur.txn =
    let back := (s.cfgStore unit space off x).cfgRead unit space off
    some { s.txn with words := s.txn.words ++ [{ addr := a, data := back, rejected := back != x }] } := by
  have hcur : (s.cfgStore unit space off x).cur = s.cur := by
    have hplace := State.standing_cfgStore s unit space off x
    simp only [State.standing, Prod.mk.injEq] at hplace
    obtain ⟨-, hc, hx, -⟩ := hplace
    rw [State.cur, hc, hx, State.ctx_of_cores (s.cores_cfgStore unit space off x), State.cur]
  rw [s.writeConfig_eq hcore husable, State.setHallState_keeps (·.cur) fun _ _ => rfl, State.cur_disarm,
    State.noteWrite, State.cur_setCur, State.txn, hcur, State.txn]

end writeConfig

/-! ### A route of a transaction (R253) -/

/-- The transaction keeps what a route entry held before its first write. -/
def Txn.keepRoute (t : Txn) (k : Nat) (old : Word64) : Txn :=
  { t with routes := if t.routes.any (·.1 == k) then t.routes else t.routes ++ [(k, old)] }

theorem Txn.mem_keepRoute (t : Txn) (k : Nat) (old : Word64) : ∃ e ∈ (t.keepRoute k old).routes, e.1 = k := by
  unfold Txn.keepRoute
  dsimp only
  split
  · next hany => simpa using hany
  · exact ⟨(k, old), by simp, rfl⟩

theorem State.writeRoute_eq (s : State) (hk rc : Nat) (x : Word64) : s.writeRoute hk rc x =
    { s.setCur { s.cur with txn := some (s.txn.keepRoute (hk * 256 + rc) (s.route hk rc)) } with
      routes := mapPutD 0 (hk * 256 + rc) (x &&& BitVec.ofNat 64 routeMask) s.routes } := rfl

theorem State.txn_writeRoute (s : State) (hk rc : Nat) (x : Word64) : ∃ t, (s.writeRoute hk rc x).cur.txn = some t ∧
    t.words = s.txn.words ∧ ∃ e ∈ t.routes, e.1 = hk * 256 + rc :=
  ⟨s.txn.keepRoute (hk * 256 + rc) (s.route hk rc), congrArg Ctx.txn (s.cur_setCur _), rfl, Txn.mem_keepRoute ..⟩

theorem InIssue.writeRoute (h : InIssue s v) (hk rc : Nat) (x : Word64) : InIssue s (v.writeRoute hk rc x) := by
  rw [State.writeRoute_eq]
  exact (h.setCur (t := { v.cur with txn := some (v.txn.keepRoute (hk * 256 + rc) (v.route hk rc)) }) rfl rfl).congr rfl

@[simp] theorem State.countIssue_txn (s : State) : s.countIssue.txn = s.txn := by
  rw [State.txn, State.countIssue_cur, State.txn]

/-- A word that is read back is not one of the executing context. -/
theorem State.readBack_countIssue (s : State) {unit space off : Nat} (hlo : 2 ≤ space) (hhi : space ≤ 5)
    (x : Word64) : (s.countIssue.cfgStore unit space off x).cfgRead unit space off =
      (s.cfgStore unit space off x).cfgRead unit space off := by
  have hstore := isStore_eq_false hlo hhi
  simp only [State.cfgStore, State.cfgRead, hstore, Bool.false_eq_true, if_false]
  rfl

/-! ### CFGW and RTW (R229, R235, R253) -/

section configuration

variable (h : s.issues) (hsys : isSystemCore s.curCore = true) {a b : XReg} (ha : (s.x a).po = false)
  (hb : (s.x b).po = false)
include h hsys ha hb

theorem cfgw_completes {unit space off : Nat} (ht : cfgTarget (s.x a).v = some (unit, space, off))
    (hfree : (s.targetFault unit space off (s.x a).v).1 = false) :
    exec (.cfgw q a b) s = .next (s.complete q 1 none fun u =>
      if actsAtOnce unit space off then
        (u.cfgStore unit space off (s.x b).v).systemWordWritten (hallOfUnit unit / 128) off (s.x b).v
      else u.writeConfig unit space off (s.x a).v (s.x b).v) := by
  refine (complete_of_runs (cfgw_runs h hsys ha ht hfree hb) rfl).trans
    (congrArg Host.Outcome.next (State.complete_congr ?_))
  rw [ht, State.countIssue_x]
  rfl

theorem cfgw_writes {unit space off : Nat} (ht : cfgTarget (s.x a).v = some (unit, space, off))
    (hfree : (s.targetFault unit space off (s.x a).v).1 = false) (hspace : space < 6) {P : State → Prop}
    (hP : P (s.countIssue.writeConfig unit space off (s.x a).v (s.x b).v)) : CompletesWith (.cfgw q a b) s q P := by
  have hlater : actsAtOnce unit space off = false := by
    rw [actsAtOnce, beq_eq_false_iff_ne.2 (Nat.ne_of_lt hspace), Bool.and_false, Bool.false_and]
  have hplace := State.standing_writeConfig s.countIssue unit space off (s.x a).v (s.x b).v
  simp only [State.standing, Prod.mk.injEq] at hplace
  obtain ⟨-, -, -, hldist, -⟩ := hplace
  refine ⟨_, (cfgw_completes h hsys ha hb ht hfree).trans ?_, ?_, hP⟩
  · rw [State.complete, hlater]
    rfl
  · rw [hldist, State.countIssue_cur]

theorem rtw_writes {hk rc : Nat} (ht : routeTarget (s.x a).v = some (hk, rc)) (hfree : s.routeHeld hk rc = false) :
    CompletesWith (.rtw q a b) s q fun u => NothingWritten s u ∧
      u.routes = mapPutD 0 (hk * 256 + rc) ((s.x b).v &&& BitVec.ofNat 64 routeMask) s.routes ∧
      ∃ t, u.cur.txn = some t ∧ t.words = s.txn.words ∧ ∃ e ∈ t.routes, e.1 = hk * 256 + rc := by
  have hu := InIssue.writeRoute (InIssue.countIssue s) hk rc (s.x b).v
  obtain ⟨t, htxn, hwords, hroute⟩ := State.txn_writeRoute s.countIssue hk rc (s.x b).v
  refine completesWith_of_runs (rtw_runs h hsys ha ht hfree hb) rfl ?_ ?_
  · rw [ht, State.countIssue_x]
    exact hu
  · rw [ht, State.countIssue_x]
    exact ⟨hu.unwritten, rfl, t, htxn, hwords.trans (congrArg Txn.words s.countIssue_txn), hroute⟩

end configuration

/-- Settles O26: a word of a core by its space, and a route entry. -/
theorem configurationWritesLand : Obligations.ConfigurationWritesLand := by
  intro s q a b unit space off hk rc h hsys ha hb xa x
  refine ⟨fun ht hfree => ⟨cfgw_completes h hsys ha hb ht hfree, fun htidy husable hspace => ?store,
    fun htidy husable hlo hhi => ⟨fun hplain => ?plain, ?word⟩⟩, rtw_writes h hsys ha hb⟩
  case store =>
    have hlt : space < 6 := by omega
    obtain ⟨hcore, -⟩ := cfgTarget_core ht hlt
    refine cfgw_writes h hsys ha hb ht hfree hlt ⟨?_, State.armed_writeConfig (s := s.countIssue) hcore husable ..⟩
    rw [State.load64_writeConfig (s := s.countIssue) hcore husable, State.load64_cfgStore htidy.countIssue hspace]
  case plain => rw [State.cfgRead_plain _ hplain, State.cfgAt_cfgStore htidy hlo hhi]
  case word =>
    have hlt : space < 6 := by omega
    obtain ⟨hcore, hoff⟩ := cfgTarget_core ht hlt
    refine cfgw_writes h hsys ha hb ht hfree hlt ⟨?_, State.armed_writeConfig (s := s.countIssue) hcore husable ..,
      State.hallState_writeConfig (s := s.countIssue) hcore husable _ _ htidy.countIssue, ?_⟩
    · rw [State.cfgAt_writeConfig (s := s.countIssue) hcore husable _ _ hlt hoff,
        State.cfgAt_cfgStore htidy.countIssue hlo hhi]
      rfl
    · rw [State.txn_writeConfig (s := s.countIssue) hcore husable, s.countIssue_txn, s.readBack_countIssue hlo hhi]

end Sys2Proof.Machine

namespace Sys2Proof.Machine

variable {s u v w : State} {q : Issue} {i j : Instr}

/-! ### MODE and SIG (R220, R221, R261) -/

theorem InIssue.at (h : InIssue s v) (due : Nat) (i : Instr) : InIssue s (v.at due i) := h.congr rfl

theorem mode_sends (h : s.issues) (hm : s.memHeld = false) (hstub : s.inStub = false) {m : BitVec 3} {l : Nat}
    (hl : s.curK.load = some l) (hbit : bitAt (s.actorWord s.curCore s.cur.actor 0) 58 = true)
    (hmode : m.toNat ∈ (s.loadAt l).modes) :
    CompletesWith (.mode q m) s q fun u => NothingWritten s u ∧ Scheduled s u (.drainStart l m) := by
  have hp := (Prepared.effect s).toInIssue
  obtain ⟨hcycle, -, -⟩ := hp.place
  have hu := hp.at (s.countIssue.elasticEffect.cycle + 1) (.drainStart l m)
  refine completesWith_of_runs (mode_runs h hm hstub hl hbit hmode) rfl ?_ ?_
  · rw [hl]
    exact hu
  · rw [hl]
    exact ⟨hu.unwritten, _, hcycle ▸ Nat.lt_succ_self _, State.mem_at ..⟩

section signals

variable (n : Nat)

theorem InIssue.sendSignal (h : InIssue s v) (c : Nat) : InIssue s (v.sendSignal c n) := h.congr rfl

theorem Scheduled.sendSignal (h : Scheduled s v i) (c : Nat) : Scheduled s (v.sendSignal c n) i :=
  Scheduled.later (u := { v.newId with sigs := _ }) (h.of_agenda rfl) 1 _

theorem InIssue.sendSignals (h : InIssue s v) (l : List Nat) :
    InIssue s (l.foldl (fun s c => s.sendSignal c n) v) := by
  induction l generalizing v with
  | nil => exact h
  | cons c l ih => exact ih (h.sendSignal n c)

theorem Scheduled.sendSignals (h : Scheduled s v i) (l : List Nat) :
    Scheduled s (l.foldl (fun s c => s.sendSignal c n) v) i := by
  induction l generalizing v with
  | nil => exact h
  | cons c l ih => exact ih (h.sendSignal n c)

/-- A token goes to each core that is named. -/
theorem scheduled_sendSignals (h : InIssue s v) {l : List Nat} {c : Nat} (hc : c ∈ l) :
    Scheduled s (l.foldl (fun s c => s.sendSignal c n) v) (.corridorArrival c n) := by
  induction l generalizing v with
  | nil => exact absurd hc List.not_mem_nil
  | cons d l ih =>
    rcases List.mem_cons.1 hc with rfl | hc
    · exact (scheduled_later (u := { v.newId with sigs := _ }) h.place.1 Nat.one_pos _).sendSignals n l
    · exact ih (h.sendSignal n d) hc

end signals

theorem sig_sends (h : s.issues) (hm : s.memHeld = false) (hstub : s.inStub = false) {n : BitVec 6} {l : Nat}
    (hl : s.curK.load = some l) (hsig : n.toNat ∈ (s.loadAt l).signals) :
    CompletesWith (.sig q n) s q fun u => NothingWritten s u ∧
      ∀ c ∈ (s.loadAt l).cores, bitAt (s.receiver c n.toNat) 0 = true → Scheduled s u (.corridorArrival c n.toNat) := by
  have hp := Prepared.effect s
  have hcores : (s.countIssue.elasticEffect.loadAt l).cores = (s.loadAt l).cores := by
    obtain ⟨d, k, hload⟩ := s.countIssue.loadAt_elasticEffect l
    rw [hload]
    rfl
  have hreceiver : ∀ c, s.countIssue.elasticEffect.receiver c n.toNat = s.receiver c n.toNat := fun c =>
    hp.keeps (·.receiver c n.toNat) fun _ _ => rfl
  refine completesWith_of_runs (sig_runs h hm hstub hl hsig) rfl ?_ ?_
  · rw [hl]
    exact hp.toInIssue.sendSignals ..
  · rw [hl]
    refine ⟨(hp.toInIssue.sendSignals ..).unwritten, fun c hc hvalid => ?_⟩
    refine scheduled_sendSignals n.toNat hp.toInIssue (List.mem_filter.2 ⟨hcores ▸ hc, ?_⟩)
    rw [hreceiver]
    exact hvalid

/-! ### Traps and breaks (R223) -/

/-- The USER_TRAP record: its detail word by the form and its code. -/
theorem trapInfo_eq (brk stop : Bool) (c : BitVec 5) : trapInfo brk stop c =
    { code := 15, detail := BitVec.ofNat 64
        (2 ^ 31 + ((if brk then 2 ^ 30 else 0) + (if stop then 32 else 0) + c.toNat)) } := by
  simp only [trapInfo, codeTrap, Nat.add_assoc]

theorem trapN_records (h : s.issues) (c : BitVec 5) : exec (.trapN q c) s =
    .next (s.complete q 1 none fun u => u.trapRecord (trapInfo false false c)) := issue_completes h

theorem trapS_taken (h : s.issues) (c : BitVec 5) :
    exec (.trapS q c) s = .next (s.takeFault (trapInfo false true c)) := by
  change execTrapS q c s = _
  rw [execTrapS, issue_faults h.1]

theorem State.countIssue_curK_load (s : State) : s.countIssue.curK.load = s.curK.load :=
  (InIssue.countIssue s).load

theorem brk_freezes (h : s.issues) {l : Nat} (hl : s.curK.load = some l) (hdebug : (s.loadAt l).debug = true) :
    exec (.brk q) s = .next (s.complete q 1 none fun u =>
      if (s.loadAt l).state = .frozen then (u.haltRecord (trapInfo true true 0)).stopLoad l 15
      else (u.haltRecord (trapInfo true true 0)).beginFreeze l (some 15)) := by
  have hload : s.countIssue.loadAt l = s.loadAt l := rfl
  change execBrk q s = _
  rw [execBrk, issue_completes h]
  refine congrArg Host.Outcome.next (State.complete_congr ?_)
  rw [s.countIssue_curK_load, hl]
  dsimp only
  rw [hload, hdebug, codeTrap]
  simp only [Bool.not_true, Bool.false_eq_true, if_false, beq_iff_eq]

theorem brk_passes (h : s.issues) (hdebug : ∀ l, s.curK.load = some l → (s.loadAt l).debug = false) :
    exec (.brk q) s = .next (s.moved q none) := by
  change execBrk q s = _
  rw [execBrk, issue_completes h]
  refine congrArg Host.Outcome.next (State.complete_congr ?_)
  rw [s.countIssue_curK_load]
  cases hl : s.curK.load with
  | none => rfl
  | some l =>
    have hload : (s.countIssue.loadAt l).debug = false := hdebug l hl
    dsimp only
    rw [hload]
    rfl

/-- Settles O23: MODE and SIG by what they send, the traps by their record, BRK by DEBUG. -/
theorem modesSignalsAndTrapsAct : Obligations.ModesSignalsAndTrapsAct := by
  refine ⟨fun s q m n l h hm hstub hl => ⟨mode_sends h hm hstub hl, sig_sends h hm hstub hl⟩, ?_⟩
  intro s q c h trap
  have hnone : trapInfo false false c = trap c.toNat := by simp [trapInfo_eq, trap]
  have hstop : trapInfo false true c = trap (32 + c.toNat) := by simp [trapInfo_eq, trap]
  have hbrk : trapInfo true true 0 = trap (2 ^ 30 + 32) := by simp [trapInfo_eq, trap]
  rw [← hnone, ← hstop, ← hbrk]
  exact ⟨trapN_records h c, trapS_taken h c, fun _ => brk_freezes h, brk_passes h⟩

end Sys2Proof.Machine

namespace Sys2Proof.Machine

variable {s u v w : State} {q : Issue} {i j : Instr}

/-! ### Words of an actor record (R241) -/

theorem State.actorWord_setActorWord (ht : Tidy s) (c a k : Nat) (x : Word64) :
    (s.setActorWord c a k x).actorWord c a k = x := State.cfgAt_setCfg ht ..

theorem State.actorWord_setActorWord_ne (s : State) {c a k l : Nat} (h : l ≠ k) (x : Word64) :
    (s.setActorWord c a k x).actorWord c a l = s.actorWord c a l :=
  s.cfgAt_setCfg_ne (by unfold cfgKey; omega) x

/-- A trigger entry is no word of an actor record. -/
theorem State.actorWord_setEntry (s : State) {e : Nat} (he : e < 16) (c a k : Nat) (x : Word64) :
    (s.setCfg c 3 e x).actorWord c a k = s.actorWord c a k :=
  s.cfgAt_setCfg_ne (by unfold cfgKey; omega) x

theorem mem_windows {e : Nat} : e ∈ windows ↔ e < 16 := by
  rw [windows, mem_steps]
  omega

/-- What no step over the members of a list moves, the fold does not move. -/
theorem foldl_keeps_of_mem {α β : Type} (g : State → β) {f : State → α → State} {l : List α}
    (hf : ∀ s, ∀ a ∈ l, g (f s a) = g s) (s : State) : g (l.foldl f s) = g s := by
  induction l generalizing s with
  | nil => rfl
  | cons a l ih =>
    rw [List.foldl_cons, ih fun s b hb => hf s b (List.mem_cons_of_mem _ hb)]
    exact hf s a List.mem_cons_self

/-! ### The retirement of an actor (R256) -/

section retireActor

variable {β : Type} (g : State → β) (hsent : ∀ (s : State) packets agenda fresh nextId,
  g { s with packets := packets, agenda := agenda, fresh := fresh, nextId := nextId } = g s)
include hsent

theorem State.sendClose_keeps (s : State) (c n : Nat) : g (s.sendClose c n) = g s := by
  unfold State.sendClose
  dsimp only
  split
  · exact hsent s _ _ _ _
  · split
    · exact hsent s _ _ _ _
    · rfl

/-- Beside its packets, the retirement of an actor writes its RTD and its trigger entries. -/
theorem State.retireActor_keeps {c a : Nat} (hrtd : ∀ (s : State) x, g (s.setActorWord c a 3 x) = g s)
    (hentry : ∀ (s : State) e x, e < 16 → g (s.setCfg c 3 e x) = g s) (s : State) : g (s.retireActor c a) = g s := by
  unfold State.retireActor
  extract_lets u v w
  have hv : g v = g u :=
    foldl_keeps_of_mem g (fun s e he => hentry s e _ (mem_windows.1 (List.mem_filter.1 he).1)) u
  have hw : g w = g v := foldl_keeps g (fun s n => State.sendClose_keeps g hsent s c n) _ v
  have hkeeps : g w = g s := hw.trans (hv.trans (hrtd s _))
  split
  · split
    · exact hkeeps
    · exact (hsent w w.packets _ _ w.nextId).trans hkeeps
  · exact hkeeps

end retireActor

theorem State.actorWord_retireActor (s : State) {c a k : Nat} (hk : k ≠ 3) :
    (s.retireActor c a).actorWord c a k = s.actorWord c a k :=
  State.retireActor_keeps (·.actorWord c a k) (fun _ _ _ _ _ => rfl)
    (fun s x => s.actorWord_setActorWord_ne hk x) (fun s _ x he => s.actorWord_setEntry he c a k x) s

/-! ### The end of a firing (R215, R246, R258) -/

/-- The counts of an actor after a firing: FIX of a non-elastic one, FCNT and PHC (R246). -/
def State.countFiring (s : State) (c a : Nat) : State :=
  let w := s.actorWord c a 0
  let s := if s.elastic c a then s else s.setActorWord c a 1 (s.actorWord c a 1 + 1)
  let s := s.setActorWord c a 2 (withBits (s.actorWord c a 2) 0 32 (s.fcnt c a + 1))
  s.setActorWord c a 0 (withBits w 30 3 ((bits w 30 3 + 1) % (bits w 27 3 + 1)))

/-- The end of a firing: its counts, then its context's stair, then a retirement that is due. -/
theorem State.endOfFiring_shape (s : State) : ∃ t : Ctx,
    s.endOfFiring = (s.countFiring s.curCore s.cur.actor).setCur t ∨
    s.endOfFiring = ((s.countFiring s.curCore s.cur.actor).setCur t).retireActor s.curCore s.cur.actor :=
  ⟨_, (Bool.eq_false_or_eq_true _).symm.imp (if_neg <| Bool.not_eq_true _ ▸ ·) (if_pos ·)⟩

section countFiring

variable (s : State) (c a : Nat)

theorem State.countFiring_keeps {β : Type} (g : State → β)
    (hg : ∀ (s : State) k x, g (s.setActorWord c a k x) = g s) : g (s.countFiring c a) = g s := by
  unfold State.countFiring
  extract_lets w u v
  have hu : g u = g s := by
    unfold u
    split
    · rfl
    · exact hg ..
  exact (hg ..).trans ((hg ..).trans hu)

variable {s} (ht : Tidy s)
include ht

/-- FIX advances in an actor that is not elastic, FCNT modulo 2^32, and PHC cycles (R246). -/
theorem State.countFiring_counts : (s.countFiring c a).actorWord c a 1 =
      s.actorWord c a 1 + (if s.elastic c a then 0 else 1) ∧
    (s.countFiring c a).fcnt c a = (s.fcnt c a + 1) % 2 ^ 32 ∧
    (s.countFiring c a).phc c a = (s.phc c a + 1) % (bits (s.actorWord c a 0) 27 3 + 1) := by
  unfold State.countFiring
  extract_lets w u v
  have hu : Tidy u := .ite ht ht.setActorWord
  have hfix : u.actorWord c a 1 = s.actorWord c a 1 + (if s.elastic c a then 0 else 1) := by
    unfold u
    split
    · exact (add_zero _).symm
    · exact State.actorWord_setActorWord ht ..
  have hcount : u.actorWord c a 2 = s.actorWord c a 2 := by
    unfold u
    split
    · rfl
    · exact s.actorWord_setActorWord_ne (by decide) _
  have hphase : bits (withBits w 30 3 ((bits w 30 3 + 1) % (bits w 27 3 + 1))) 30 3 =
      (bits w 30 3 + 1) % (bits w 27 3 + 1) := by
    have hlast := bits_lt w 27 3
    have hnext : (bits w 30 3 + 1) % (bits w 27 3 + 1) < bits w 27 3 + 1 := Nat.mod_lt _ (Nat.succ_pos _)
    rw [bits_withBits _ (by decide), Nat.mod_eq_of_lt (by omega)]
  refine ⟨?fix, ?fcnt, ?phc⟩
  case fix =>
    rw [State.actorWord_setActorWord_ne _ (by decide), State.actorWord_setActorWord_ne _ (by decide), hfix]
  case fcnt =>
    rw [State.fcnt, State.actorWord_setActorWord_ne _ (by decide), State.actorWord_setActorWord hu,
      bits_withBits _ (by decide), State.fcnt, State.fcnt, hcount]
  case phc => rw [State.phc, State.actorWord_setActorWord hu.setActorWord, hphase, State.phc]

end countFiring

/-- What the words of the ending actor and what its retirement sends do not move. -/
theorem State.endOfFiring_keeps {β : Type} (g : State → β) (hsent : ∀ (s : State) packets agenda fresh nextId,
      g { s with packets := packets, agenda := agenda, fresh := fresh, nextId := nextId } = g s)
    (hcfg : ∀ (s : State) cfg, g { s with cfg := cfg } = g s) (hcur : ∀ (s : State) t, g (s.setCur t) = g s)
    (s : State) : g s.endOfFiring = g s := by
  have hcount : g (s.countFiring s.curCore s.cur.actor) = g s :=
    s.countFiring_keeps _ _ g fun s k x => hcfg s _
  obtain ⟨t, he | he⟩ := s.endOfFiring_shape
  · rw [he, hcur, hcount]
  · rw [he, State.retireActor_keeps g hsent (fun s x => hcfg s _) (fun s e x _ => hcfg s _), hcur, hcount]

theorem State.actorWord_endOfFiring (s : State) {k : Nat} (hk : k ≠ 3) :
    s.endOfFiring.actorWord s.curCore s.cur.actor k =
      (s.countFiring s.curCore s.cur.actor).actorWord s.curCore s.cur.actor k := by
  have hctx : ∀ (u : State) t c a, (u.setCur t).actorWord c a k = u.actorWord c a k := fun _ _ _ _ => rfl
  obtain ⟨t, he | he⟩ := s.endOfFiring_shape
  · rw [he, hctx]
  · rw [he, State.actorWord_retireActor _ hk, hctx]

/-- A context that is idle after its FEND, parked there if it is asked to (R9, R215, R399, R455). -/
theorem State.cur_becomeIdle (s : State) : s.becomeIdle.cur.run = .idle ∧ s.becomeIdle.cur.loops = [] ∧
    s.becomeIdle.cur.park = if s.curK.preFlag || s.curK.stopFlag then some { kind := .fend } else none := by
  have hcur : ∃ t : Ctx, s.becomeIdle.cur = t ∧ t.run = .idle ∧ t.loops = [] ∧
      t.park = if s.curK.preFlag || s.curK.stopFlag then some { kind := .fend } else none :=
    ⟨_, s.cur_setCur _, rfl, rfl, rfl⟩
  obtain ⟨t, rfl, ht⟩ := hcur
  exact ht

end Sys2Proof.Machine

namespace Sys2Proof.Machine

variable {s u v w : State} {q : Issue} {i j : Instr}

/-! ### The waits and the checks of a landing (R215, R217) -/

theorem State.landingWaits_of_clear {tags : Nat → Prop} {f : Nat → Bool} (h : LandingClear s tags)
    (hf : ∀ n, f n = true → tags n) : s.landingWaits f = true := by
  obtain ⟨hrq, hpend, hareas, htags, hmq⟩ := h
  have hunits : (!s.ownsMatrix s.curCore s.curCtx || s.curK.mq.isEmpty) = true := by
    cases ho : s.ownsMatrix s.curCore s.curCtx with
    | false => rfl
    | true => rw [hmq ho]; rfl
  have hnone : (s.cur.tags.all fun g => !f g.1) = true :=
    List.all_eq_true.2 fun e he => by simpa using fun hfe => htags e he (hf _ hfe)
  simp [State.landingWaits, hunits, hnone, hpend, hareas, Ctx.allArrived, hrq]

theorem State.pendingFault_of_clear {tags : Nat → Prop} (h : LandingClear s tags) : s.pendingFault.1 = false := by
  simp [State.pendingFault, h.1]

theorem issueLanding_faults {len : Nat} {f : FaultInfo} {target : Option Int} {eff post : State → State}
    (h : s.running = true) : issueLanding q len false (some f) target eff post s = .next (s.takeFault f) := by
  simp [issueLanding, h]

/-- A landing whose waits are over and whose checks find nothing completes. -/
theorem issueLanding_passes {len : Nat} {hold : Bool} {l : List (Bool × FaultInfo)} {target : Option Int}
    {eff post : State → State} (h : s.running = true) (hhold : hold = false) (hl : ∀ e ∈ l, e.1 = false) :
    issueLanding q len hold (firstFault l) target eff post s =
      .next (post ((eff s).advance q len target)) := by
  rw [hhold, firstFault_eq_none hl, issueLanding_completes h]

/-! ### What the issue itself leaves of its context -/

theorem State.cur_advance_keeps {β : Type} (g : Ctx → β) (hg : ∀ (t : Ctx) pc wild prev ready loops stall y n,
      g { t with pc := pc, wild := wild, prevPc := prev, ready := ready, loops := loops, stall := stall,
                 yielding := y, yieldNew := n } = g t) (s : State) (len : Nat) (target : Option Int) :
    g (s.advance q len target).cur = g s.cur := by
  obtain ⟨pc, wild, prev, ready, loops, h⟩ := s.cur.stepPc_moved q len target s.cycle
  rw [State.advance_cur, h]
  exact hg s.cur pc wild prev ready loops _ _ _

theorem State.flags_advance (s : State) (len : Nat) (target : Option Int) :
    ((s.advance q len target).curK.preFlag, (s.advance q len target).curK.stopFlag) =
      (s.curK.preFlag, s.curK.stopFlag) := by
  rw [State.advance, State.curK_setCurK, Core.setCtx_units]

theorem State.flags_setCur (s : State) (t : Ctx) :
    ((s.setCur t).curK.preFlag, (s.setCur t).curK.stopFlag) = (s.curK.preFlag, s.curK.stopFlag) := by
  rw [State.curK_setCur, Core.setCtx_units]

/-! ### FEND (R215, R246, R258) -/

theorem State.cur_progress (s : State) (h : Option Nat) : (s.progress h).cur = s.cur := by cases h <;> rfl

theorem State.cfg_progress (s : State) (h : Option Nat) : (s.progress h).cfg = s.cfg := by cases h <;> rfl

theorem fend_ends (hrun : s.running = true) (hstub : s.inStub = false) (ht : Tidy s)
    (hclear : LandingClear s fun _ => True) (hw : ∀ w < 16, (s.windowMismatch w).1 = false)
    (hz : ∀ z < 32, (s.queueMismatch z).1 = false) : ∃ t, exec (.fend q) s = .next t ∧
      t.cur.run = .idle ∧ t.cur.loops = [] ∧
      t.cur.park = (if s.curK.preFlag || s.curK.stopFlag then some { kind := .fend } else none) ∧
      t.actorWord s.curCore s.cur.actor 1 =
        s.actorWord s.curCore s.cur.actor 1 + (if s.elastic s.curCore s.cur.actor then 0 else 1) ∧
      t.fcnt s.curCore s.cur.actor = (s.fcnt s.curCore s.cur.actor + 1) % 2 ^ 32 ∧
      t.phc s.curCore s.cur.actor = (s.phc s.curCore s.cur.actor + 1) %
        (bits (s.actorWord s.curCore s.cur.actor 0) 27 3 + 1) ∧ t.mem = s.mem := by
  have hhold : fendHeld s = false := by
    rw [fendHeld, State.landingWaits_of_clear hclear fun _ _ => trivial, Bool.not_true, Bool.and_false]
  have hchecks : ∀ e ∈ [(s.inStub, stubFault s.word), s.pendingFault] ++ windows.map s.windowMismatch ++
      (steps 0 1 32).map s.queueMismatch, e.1 = false := by
    intro e he
    simp only [List.mem_append, List.mem_cons, List.not_mem_nil, or_false, List.mem_map] at he
    rcases he with ((rfl | rfl) | ⟨w, hwin, rfl⟩) | ⟨z, hqueue, rfl⟩
    · exact hstub
    · exact State.pendingFault_of_clear hclear
    · exact hw w (mem_windows.1 hwin)
    · exact hz z (by have := mem_steps.1 hqueue; omega)
  have hexec := issueLanding_passes (q := q) (len := 1) (target := none) (eff := fun s => s)
    (post := fun s => (s.endOfFiring.becomeIdle).progress s.curK.load) hrun hhold hchecks
  generalize hv : s.advance q 1 none = v at hexec
  have hactor : v.cur.actor = s.cur.actor :=
    hv ▸ s.cur_advance_keeps (·.actor) (fun _ _ _ _ _ _ _ _ _ => rfl) 1 none
  have hcore : v.curCore = s.curCore := hv ▸ s.advance_curCore q 1 none
  have hcfg : v.cfg = s.cfg := hv ▸ rfl
  have hmem : v.mem = s.mem := hv ▸ rfl
  have htidy : Tidy v := hv ▸ ht.advance
  have hflags : (v.endOfFiring.curK.preFlag, v.endOfFiring.curK.stopFlag) =
      (s.curK.preFlag, s.curK.stopFlag) :=
    (State.endOfFiring_keeps (fun u => (u.curK.preFlag, u.curK.stopFlag)) (fun _ _ _ _ _ => rfl)
      (fun _ _ => rfl) State.flags_setCur v).trans (hv ▸ s.flags_advance 1 none)
  have hword : ∀ k, v.actorWord s.curCore s.cur.actor k = s.actorWord s.curCore s.cur.actor k :=
    fun k => State.cfgAt_of_cfg hcfg ..
  have hlast : ∀ k ≠ 3, (v.endOfFiring.becomeIdle.progress v.curK.load).actorWord s.curCore s.cur.actor k =
      (v.countFiring s.curCore s.cur.actor).actorWord s.curCore s.cur.actor k := fun k hk => by
    have hend := v.actorWord_endOfFiring hk
    rw [hcore, hactor] at hend
    exact (State.cfgAt_of_cfg (State.cfg_progress ..) ..).trans hend
  obtain ⟨hfix, hfcnt, hphc⟩ := State.countFiring_counts s.curCore s.cur.actor htidy
  obtain ⟨hidle, hloops, hpark⟩ := v.endOfFiring.cur_becomeIdle
  obtain ⟨hpre, hstop⟩ := Prod.mk.inj hflags
  refine ⟨_, hexec, ?_, ?_, ?_, ?_, ?_, ?_, ?_⟩
  · rw [State.cur_progress, hidle]
  · rw [State.cur_progress, hloops]
  · rw [State.cur_progress, hpark, hpre, hstop]
  · rw [hlast 1 (by decide), hfix, hword, State.elastic, hword, State.elastic]
  · rw [State.fcnt, hlast 2 (by decide), ← State.fcnt, hfcnt, State.fcnt, hword, State.fcnt]
  · rw [State.phc, hlast 0 (by decide), ← State.phc, hphc, State.phc, hword, State.phc]
  · rw [State.mem_progress]
    exact (State.endOfFiring_keeps (·.mem) (fun _ _ _ _ _ => rfl) (fun _ _ => rfl) (fun _ _ => rfl) v).trans hmem

/-! ### LAND and RESUME (R217, R218, R399) -/

section landing

variable (hrun : s.running = true)
include hrun

/-- What comes first among the checks is taken where no wait holds the landing. -/
theorem issueLanding_stub {hold : Bool} {l : List (Bool × FaultInfo)} {len : Nat} {target : Option Int}
    {eff post : State → State} (hhold : hold = false) :
    issueLanding q len hold (firstFault ((true, stubFault s.word) :: l)) target eff post s =
      .next (s.takeFault (stubFault s.word)) := by
  rw [hhold]
  exact issueLanding_faults hrun

theorem land_passes (hstub : s.inStub = false) {e : BitVec 8} {g : BitVec 4}
    (hclear : LandingClear s fun n => g.getLsbD n = true) (he : e.toNat < s.landings s.curCore s.cur.actor) :
    exec (.land q e g) s = .next
      (if s.curK.preFlag || s.curK.stopFlag then
        ((s.setCur { s.cur with ldist := 0 }).advance q 2 none).parkAt .land e s.cur.pc
      else (s.setCur { s.cur with ldist := 0 }).advance q 2 none) := by
  change execLand q e g s = _
  have hhold : landHeld e g s = false := by
    rw [landHeld, State.landingWaits_of_clear hclear fun _ h => h, Bool.not_true, Bool.and_false]
  have hchecks : ∀ c ∈ [(s.inStub, stubFault s.word), s.entryRange e, s.pendingFault], c.1 = false := by
    simp [hstub, State.pendingFault_of_clear hclear, State.entryRange, he]
  exact issueLanding_passes hrun hhold hchecks

theorem resume_returns (hstub : s.inStub = true) (hclear : LandingClear s fun _ => True) :
    let r := s.cur.resumeAt
    let pc := if r.kind = .ldf then r.pc.toNat else r.pc.toNat + 2
    ∃ t, exec (.resume q) s = .next t ∧ t.cur.run = .firing ∧ t.cur.loops = s.cur.savedLoops ∧
      t.cur.ldist = 0 ∧ t.cur.pc = BitVec.ofNat 13 pc ∧ t.cur.wild = decide (8192 ≤ pc) ∧
      t.mem = s.mem ∧ t.cur.regs = s.cur.regs := by
  intro r pc
  have hhold : resumeHeld s = false := by
    rw [resumeHeld, State.landingWaits_of_clear hclear fun _ _ => trivial, Bool.not_true, Bool.and_false]
  have hchecks : ∀ c ∈ [(!s.inStub, stubFault s.word), s.pendingFault], c.1 = false := by
    simp [hstub, State.pendingFault_of_clear hclear]
  have hkept : ((s.advance q 1 none).cur.resumeAt, (s.advance q 1 none).cur.savedLoops,
      (s.advance q 1 none).cur.regs) = (s.cur.resumeAt, s.cur.savedLoops, s.cur.regs) :=
    s.cur_advance_keeps (fun t => (t.resumeAt, t.savedLoops, t.regs)) (fun _ _ _ _ _ _ _ _ _ => rfl) 1 none
  obtain ⟨hresume, hloops, hregs⟩ : (s.advance q 1 none).cur.resumeAt = r ∧
      (s.advance q 1 none).cur.savedLoops = s.cur.savedLoops ∧ (s.advance q 1 none).cur.regs = s.cur.regs := by
    simpa only [Prod.mk.injEq] using hkept
  have hpc : (if (s.advance q 1 none).cur.resumeAt.kind == .ldf then (s.advance q 1 none).cur.resumeAt.pc.toNat
      else (s.advance q 1 none).cur.resumeAt.pc.toNat + 2) = pc := by
    simp only [hresume, beq_iff_eq]
    rfl
  change ∃ t, execResume q s = .next t ∧ _
  refine ⟨_, issueLanding_passes (q := q) (len := 1) (target := none) (eff := fun s => s) hrun hhold hchecks, ?_⟩
  dsimp only
  rw [State.cur_setCur, hpc]
  exact ⟨rfl, hloops, rfl, rfl, rfl, rfl, hregs⟩

end landing

/-- Settles O22: FEND counts its firing and idles its context; LAND passes or parks; RESUME returns. -/
theorem firingsEndParkAndResume : Obligations.FiringsEndParkAndResume := by
  unfold Obligations.FiringsEndParkAndResume
  refine ⟨?fend, ?landings⟩
  case fend =>
    intro s q hrun hstub ht hclear hw hz c a
    exact fend_ends hrun hstub ht hclear hw hz
  case landings =>
    intro s q e g hrun
    refine ⟨?land, ?resume, fun hstub => ?landInStub, fun hstub => ?fendInStub, fun hstub => ?resumeOutside⟩
    case land =>
      intro hstub hclear he u
      exact land_passes hrun hstub hclear he
    case resume =>
      intro hstub hclear
      exact resume_returns hrun hstub hclear
    case landInStub =>
      change execLand q e g s = _
      rw [execLand, hstub]
      exact issueLanding_stub hrun (by simp [landHeld, hstub])
    case fendInStub =>
      change execFend q s = _
      rw [execFend, hstub]
      exact issueLanding_stub hrun (by simp [fendHeld, hstub])
    case resumeOutside =>
      change execResume q s = _
      rw [execResume, hstub]
      exact issueLanding_stub hrun (by simp [resumeHeld, hstub])

end Sys2Proof.Machine

namespace Sys2Proof.Machine

variable {s u v w : State} {q : Issue} {i j : Instr}

/-- What one step of a fold establishes, and the others keep, holds at its end. -/
theorem foldl_establishes {σ α : Type} {I P : σ → Prop} {f : σ → α → σ} {l : List α} {a : α} (ha : a ∈ l)
    (hinv : ∀ s, ∀ b ∈ l, I s → I (f s b)) (hkeep : ∀ s, ∀ b ∈ l, I s → P s → P (f s b))
    (hset : ∀ s, I s → P (f s a)) (s : σ) (hs : I s) : P (l.foldl f s) := by
  induction l generalizing s with
  | nil => exact absurd ha List.not_mem_nil
  | cons b l ih =>
    have hinvl : ∀ s, ∀ c ∈ l, I s → I (f s c) := fun s c hc => hinv s c (List.mem_cons_of_mem _ hc)
    have hkeepl : ∀ s, ∀ c ∈ l, I s → P s → P (f s c) := fun s c hc => hkeep s c (List.mem_cons_of_mem _ hc)
    have hb := hinv s b List.mem_cons_self hs
    rcases List.mem_cons.1 ha with rfl | ha
    · exact (List.foldlRecOn (motive := fun s => I s ∧ P s) l f ⟨hb, hset s hs⟩
        fun s hp c hc => ⟨hinvl s c hc hp.1, hkeepl s c hc hp.1 hp.2⟩).2
    · exact ih ha hinvl hkeepl _ hb

/-! ### Signals (R221, R262) -/

theorem State.endSignal_keeps {β : Type} (g : State → β) (hg : ∀ (s : State) sigs, g { s with sigs := sigs } = g s)
    (s : State) (c n : Nat) : g (s.endSignal c n) = g s := by
  unfold State.endSignal
  split
  · exact hg ..
  · rfl

theorem corridorArrival_pends {c n : Nat} (hvalid : bitAt (s.receiver c n) 0 = true) :
    ∃ t, exec (.corridorArrival c n) s = .next t ∧ n ∈ (t.ctx c (bits (s.receiver c n) 1 2)).corridor ∧
      (s.cycle, Instr.corridorApply c (bits (s.receiver c n) 1 2)) ∈ t.agenda := by
  have hword : (s.endSignal c n).receiver c n = s.receiver c n :=
    s.endSignal_keeps (·.receiver c n) (fun _ _ => rfl) c n
  have hcycle : (s.endSignal c n).cycle = s.cycle := s.endSignal_keeps (·.cycle) (fun _ _ => rfl) c n
  refine ⟨_, if_pos (hword.symm ▸ hvalid), ?_, ?_⟩
  · rw [hword]
    change n ∈ (State.ctx (State.setCtx ..) c _).corridor
    rw [State.ctx_setCtx]
    exact List.contains_iff_mem.1 ((setHas_add n n (State.ctx ..).corridor).2 (.inl rfl))
  · rw [hword, hcycle]
    exact State.mem_at ..

theorem keyConst_predicate {k : Nat} (hk : k < 8) (hk0 : k ≠ 0) : keyConst (610 + k) = none := by
  rw [keyConst, if_neg (by omega), if_neg (by omega), if_neg (by omega)]

/-- A predicate that a signal names becomes true and clean, and no later signal unsets it. -/
theorem Ctx.reg_setReg_true {t : Ctx} {m k : Nat} (hm : m < 8) (hk : k < 8) (hk0 : k ≠ 0)
    (h : t.reg (610 + k) = ⟨1, false⟩) : (t.setReg (610 + m) ⟨1, false⟩).reg (610 + k) = ⟨1, false⟩ := by
  by_cases hkm : k = m
  · subst hkm
    exact Ctx.reg_setReg (by omega) (keyConst_predicate hk hk0) t _
  · rw [Ctx.reg_setReg_ne _ (by simp only [writeTarget]; split <;> omega), h]

theorem corridorApply_sets {c x : Nat} (hpend : (s.ctx c x).corridor ≠ [])
    (hrest : (s.ctx c x).run = .idle ∨ (s.ctx c x).park.isSome = true) :
    ∃ t, exec (.corridorApply c x) s = .next t ∧ (t.ctx c x).corridor = [] ∧ t.mem = s.mem ∧
      ∀ m ∈ (s.ctx c x).corridor, bits (s.receiver c m) 3 3 ≠ 0 →
        (t.ctx c x).reg (610 + bits (s.receiver c m) 3 3) = ⟨1, false⟩ := by
  have hidle : ((s.ctx c x).run == .idle || (s.ctx c x).park.isSome) = true := by simpa using hrest
  refine ⟨_, (if_neg hpend).trans (if_pos hidle), ?_, rfl, fun m hm hne => ?_⟩
  · rw [State.ctx_setCtx]
  · rw [State.ctx_setCtx]
    have hlt : bits (s.receiver c m) 3 3 < 8 := bits_lt ..
    exact foldl_establishes (I := fun _ => True)
      (f := fun (t : Ctx) n => t.setReg (610 + bits (s.receiver c n) 3 3) ⟨1, false⟩)
      (P := fun t : Ctx => t.reg (610 + bits (s.receiver c m) 3 3) = ⟨1, false⟩) hm (fun _ _ _ _ => trivial)
      (fun t n _ _ h => Ctx.reg_setReg_true (bits_lt ..) hlt hne h)
      (fun t _ => Ctx.reg_setReg (by omega) (keyConst_predicate hlt hne) t _)
      _ trivial

theorem corridorApply_waits {c x : Nat} (hpend : (s.ctx c x).corridor ≠ []) (hrun : (s.ctx c x).run ≠ .idle)
    (hpark : (s.ctx c x).park = none) :
    exec (.corridorApply c x) s = .next (s.retry (.corridorApply c x)) := by
  have hbusy : ¬ ((s.ctx c x).run == .idle || (s.ctx c x).park.isSome) = true := by simp [hrun, hpark]
  exact (if_neg hpend).trans (if_neg hbusy)

/-! ### The start of a drain (R221, R263) -/

theorem scheduled_retry (h : u.cycle = s.cycle) (i : Instr) : Scheduled s (u.retry i) i :=
  ⟨_, by omega, State.mem_at ..⟩

section drainStart

variable {h : Nat} {m : BitVec 3}

theorem drainStart_retargets (hd : (s.loadAt h).draining = true) :
    exec (.drainStart h m) s = .next (s.setLoad h { s.loadAt h with target := m }) := if_pos hd

theorem drainStart_of_same_mode (hd : (s.loadAt h).draining = false) (hm : m = (s.loadAt h).mode) :
    exec (.drainStart h m) s = .next s :=
  (if_neg (by simp [hd])).trans (if_pos (by simp [hm]))

theorem drainStart_starts (hd : (s.loadAt h).draining = false) (hstate : (s.loadAt h).state ≠ .free)
    (hm : m ≠ (s.loadAt h).mode) : ∃ t, exec (.drainStart h m) s = .next t ∧
      t.loadAt h = { s.loadAt h with draining := true, target := m, targets := false, drainAge := 0 } ∧
      Scheduled s t .drainTargetSet :=
  ⟨_, (if_neg (by simp [hd])).trans (if_neg (by simp [hm, Load.committed, hstate])), State.loadAt_setLoad ..,
    scheduled_retry rfl _⟩

end drainStart

/-! ### The targets of a drain (R263, R481) -/

theorem State.stream_lt {h : Nat} {e : Nat × Nat} (he : e ∈ s.streamsOf h) : e.2 < 32 := by
  obtain ⟨p, -, he⟩ := List.mem_flatMap.1 he
  obtain ⟨n, hn, rfl⟩ := List.mem_map.1 he
  have := mem_steps.1 (List.mem_filter.1 hn).1
  omega

theorem State.actor_lt {c a : Nat} (ha : a ∈ s.actorsOf c) : a < 8 := by
  have := mem_steps.1 (List.mem_filter.1 ha).1
  omega

theorem State.mem_allActors_of_plain {h : Nat} {e : Nat × Nat} (he : e ∈ s.plainActors h) :
    e ∈ s.allActors h := by
  obtain ⟨c, hc, he⟩ := List.mem_flatMap.1 he
  obtain ⟨a, ha, rfl⟩ := List.mem_map.1 he
  exact List.mem_flatMap.2 ⟨c, hc, List.mem_map.2 ⟨a, (List.mem_filter.1 ha).1, rfl⟩⟩

theorem State.allActors_lt {h : Nat} {e : Nat × Nat} (he : e ∈ s.allActors h) : e.2 < 8 := by
  obtain ⟨c, -, he⟩ := List.mem_flatMap.1 he
  obtain ⟨a, ha, rfl⟩ := List.mem_map.1 he
  exact State.actor_lt ha

/-- The words of two actor records are apart. -/
theorem State.actorWord_setActorWord_of_ne (s : State) {e b : Nat × Nat} (he : e.2 < 8) (hb : b.2 < 8)
    (h : b ≠ e) (k : Nat) (x : Word64) :
    (s.setActorWord b.1 b.2 k x).actorWord e.1 e.2 k = s.actorWord e.1 e.2 k := by
  refine s.cfgAt_setCfg_ne (fun heq => h ?_) x
  unfold cfgKey at heq
  exact Prod.ext (by omega) (by omega)

/-- The second word of an actor's record with 32 bits put. -/
def State.putCounts (lo : Nat) (val : State → Nat × Nat → Nat) (s : State) (e : Nat × Nat) : State :=
  s.setActorWord e.1 e.2 2 (withBits (s.actorWord e.1 e.2 2) lo 32 (val s e))

/-- A stream changed. -/
def State.putStream (val : State → Nat × Nat → Stream → Stream) (s : State) (e : Nat × Nat) : State :=
  s.setStream e.1 e.2 (val s e (s.stream e.1 e.2))

/-- The target of a stage queue's home put (R481). -/
def State.putQueueTarget (h : Nat) (val : State → Nat → Nat) (s : State) (z : Nat) : State :=
  { s with qtgt := mapPut (32 * h + z) (val s z) s.qtgt }

theorem State.bits_putCounts (ht : Tidy s) {lo : Nat} (hlo : lo + 32 ≤ 64) (val : State → Nat × Nat → Nat)
    (e : Nat × Nat) : bits ((s.putCounts lo val e).actorWord e.1 e.2 2) lo 32 = val s e % 2 ^ 32 := by
  rw [State.putCounts, State.actorWord_setActorWord ht, bits_withBits _ hlo]

/-- Each actor of a list keeps the counts that are put into its record. -/
theorem State.bits_foldl_putCounts (ht : Tidy s) {lo : Nat} (hlo : lo + 32 ≤ 64)
    {val : State → Nat × Nat → Nat} (hval : ∀ u : State, u.loads = s.loads → val u = val s)
    {l : List (Nat × Nat)} (hl : ∀ e ∈ l, e.2 < 8) {e : Nat × Nat} (he : e ∈ l) :
    bits ((l.foldl (State.putCounts lo val) s).actorWord e.1 e.2 2) lo 32 = val s e % 2 ^ 32 := by
  have hset : ∀ u : State, Tidy u ∧ u.loads = s.loads →
      bits ((u.putCounts lo val e).actorWord e.1 e.2 2) lo 32 = val s e % 2 ^ 32 :=
    fun u hu => by rw [State.bits_putCounts hu.1 hlo, hval u hu.2]
  refine foldl_establishes (I := fun u : State => Tidy u ∧ u.loads = s.loads)
    (P := fun u : State => bits (u.actorWord e.1 e.2 2) lo 32 = val s e % 2 ^ 32)
    (f := State.putCounts lo val) he (fun u b _ hu => ⟨hu.1.setActorWord, hu.2⟩) (fun u b hb hu h => ?_)
    hset s ⟨ht, rfl⟩
  by_cases hbe : b = e
  · subst hbe
    exact hset u hu
  · rw [State.putCounts, State.actorWord_setActorWord_of_ne _ (hl e he) (hl b hb) hbe 2, h]

/-- Each stream of a list is as it was put. -/
theorem State.stream_foldl_putStream (s : State) (val : State → Nat × Nat → Stream → Stream) (P : Stream → Prop)
    {l : List (Nat × Nat)} (hl : ∀ e ∈ l, e.2 < 32) {e : Nat × Nat} (he : e ∈ l)
    (hP : ∀ (u : State) t, u.loads = s.loads → P (val u e t)) :
    P ((l.foldl (State.putStream val) s).stream e.1 e.2) := by
  have hset : ∀ u : State, u.loads = s.loads → P ((u.putStream val e).stream e.1 e.2) :=
    fun u hu => by rw [State.putStream, State.stream_setStream]; exact hP u _ hu
  refine foldl_establishes (I := fun u : State => u.loads = s.loads) (P := fun u : State => P (u.stream e.1 e.2))
    (f := State.putStream val) he (fun _ _ _ hu => hu) (fun u b hb hu h => ?_) hset s rfl
  by_cases hbe : b = e
  · exact hbe ▸ hset u hu
  · have hkey : 64 * e.1 + e.2 ≠ 64 * b.1 + b.2 := fun heq =>
      hbe (by have := hl e he; have := hl b hb; exact Prod.ext (by omega) (by omega))
    have hkeep : (u.putStream val b).stream e.1 e.2 = u.stream e.1 e.2 :=
      mapGet_put_ne ({} : Stream) hkey (val u b (u.stream b.1 b.2)) u.streams
    exact hkeep ▸ h

theorem State.queueTarget_foldl (s : State) (h : Nat) {val : State → Nat → Nat}
    (hval : ∀ u : State, u.loads = s.loads → val u = val s) {l : List Nat} {j : Nat} (hj : j ∈ l) :
    mapGet 0 (32 * h + j) (l.foldl (State.putQueueTarget h val) s).qtgt = val s j := by
  have hset : ∀ u : State, u.loads = s.loads → mapGet 0 (32 * h + j) (u.putQueueTarget h val j).qtgt = val s j :=
    fun u hu => by rw [State.putQueueTarget, mapGet_put, hval u hu]
  refine foldl_establishes (I := fun u : State => u.loads = s.loads)
    (P := fun u : State => mapGet 0 (32 * h + j) u.qtgt = val s j)
    (f := State.putQueueTarget h val) hj (fun _ _ _ hu => hu) (fun u z _ hu hz => ?_) hset s rfl
  by_cases hzj : z = j
  · exact hzj ▸ hset u hu
  · exact (mapGet_put_ne 0 (by omega) _ u.qtgt).trans hz

theorem State.setTargets_eq (s : State) (h : Nat) : s.setTargets h =
    let k := s.drainPeriods h
    let a := (s.plainActors h).foldl (State.putCounts 32 fun u e => k * u.qActor h e.1 e.2) s
    let b := (s.streamsOf h).foldl (State.putStream fun u e t => { t with tgt := k * u.qStream h e.2 }) a
    let c := (s.stageQueues h).foldl (State.putQueueTarget h fun u z => k * u.qStage h z) b
    (c.setLoad h { c.loadAt h with targets := true }).retry .quiescentPoint := rfl

section periods

variable (hl : u.loads = v.loads) (h : Nat)
include hl

theorem State.qActor_of_loads : u.qActor h = v.qActor h := by
  funext c a
  simp only [State.qActor, State.loadAt, hl]

theorem State.qStream_of_loads : u.qStream h = v.qStream h := by
  funext n
  simp only [State.qStream, State.loadAt, hl]

theorem State.qStage_of_loads : u.qStage h = v.qStage h := by
  funext n
  simp only [State.qStage, State.loadAt, hl]

end periods

theorem drainTargetSet_sets {h : Nat} (hpause : s.loadWhere s.drainPaused = some h) :
    ∃ t, exec .drainTargetSet s = .next t ∧ t.loadAt h = { s.loadAt h with targets := true } ∧ t.mem = s.mem ∧
      Scheduled s t .quiescentPoint ∧
      (∀ e ∈ s.streamsOf h, (t.stream e.1 e.2).tgt = s.drainPeriods h * s.qStream h e.2) ∧
      (∀ j ∈ s.stageQueues h, mapGet 0 (32 * h + j) t.qtgt = s.drainPeriods h * s.qStage h j) ∧
      (Tidy s → ∀ e ∈ s.plainActors h,
        bits (t.actorWord e.1 e.2 2) 32 32 = s.drainPeriods h * s.qActor h e.1 e.2 % 2 ^ 32) := by
  have hexec : exec .drainTargetSet s = .next (s.setTargets h) := by
    change execDrainTargetSet s = _
    rw [execDrainTargetSet, hpause]
  refine ⟨_, hexec, ?_⟩
  rw [State.setTargets_eq]
  extract_lets k a b c
  have ha : (a.loads, a.mem, a.cycle) = (s.loads, s.mem, s.cycle) :=
    foldl_keeps (fun u : State => (u.loads, u.mem, u.cycle))
      (f := State.putCounts 32 fun u e => k * u.qActor h e.1 e.2) (fun _ _ => rfl) (s.plainActors h) s
  have hb : (b.loads, b.mem, b.cycle) = (a.loads, a.mem, a.cycle) :=
    foldl_keeps (fun u : State => (u.loads, u.mem, u.cycle))
      (f := State.putStream fun u e t => { t with tgt := k * u.qStream h e.2 }) (fun _ _ => rfl) (s.streamsOf h) a
  have hc : (c.loads, c.mem, c.cycle) = (b.loads, b.mem, b.cycle) :=
    foldl_keeps (fun u : State => (u.loads, u.mem, u.cycle))
      (f := State.putQueueTarget h fun u z => k * u.qStage h z) (fun _ _ => rfl) (s.stageQueues h) b
  obtain ⟨hloads, hmem, hcycle⟩ : c.loads = s.loads ∧ c.mem = s.mem ∧ c.cycle = s.cycle := by
    simpa only [Prod.mk.injEq] using hc.trans (hb.trans ha)
  have haloads : a.loads = s.loads := congrArg Prod.fst ha
  have hbloads : b.loads = s.loads := (congrArg Prod.fst hb).trans haloads
  have hstreams : c.streams = b.streams :=
    foldl_keeps (·.streams) (f := State.putQueueTarget h fun u z => k * u.qStage h z) (fun _ _ => rfl)
      (s.stageQueues h) b
  have hcfgc : c.cfg = b.cfg :=
    foldl_keeps (·.cfg) (f := State.putQueueTarget h fun u z => k * u.qStage h z) (fun _ _ => rfl)
      (s.stageQueues h) b
  have hcfgb : b.cfg = a.cfg :=
    foldl_keeps (·.cfg) (f := State.putStream fun u e t => { t with tgt := k * u.qStream h e.2 })
      (fun _ _ => rfl) (s.streamsOf h) a
  have hload : c.loadAt h = s.loadAt h := by rw [State.loadAt, hloads, State.loadAt]
  refine ⟨?load, hmem, scheduled_retry hcycle _, fun e he => ?streams, fun j hj => ?queues, fun ht e he => ?actors⟩
  case load =>
    exact (State.loadAt_setLoad ..).trans (congrArg (fun l : Load => { l with targets := true }) hload)
  case streams =>
    have hset := a.stream_foldl_putStream (fun u e t => { t with tgt := k * u.qStream h e.2 })
      (fun t => t.tgt = k * s.qStream h e.2) (fun e he => State.stream_lt he) he
      fun u t hu => by rw [State.qStream_of_loads (hu.trans haloads)]
    change (mapGet {} _ c.streams).tgt = _
    rw [hstreams]
    exact hset
  case queues =>
    have hset := b.queueTarget_foldl h (val := fun u z => k * u.qStage h z)
      (fun u hu => by funext z; rw [State.qStage_of_loads hu]) hj
    rw [← State.qStage_of_loads hbloads]
    exact hset
  case actors =>
    have hset := State.bits_foldl_putCounts ht (lo := 32) (by decide) (val := fun u e => k * u.qActor h e.1 e.2)
      (fun u hu => by funext e; rw [State.qActor_of_loads hu])
      (fun e he => State.allActors_lt (State.mem_allActors_of_plain he)) he
    change bits (c.actorWord e.1 e.2 2) 32 32 = _
    rw [State.actorWord, State.cfgAt_of_cfg (v := a) (hcfgc.trans hcfgb)]
    exact hset

/-! ### The quiescent point (R263, R264, R466, R481) -/

theorem mapGet_delRange {α : Type} (d : α) {a n k : Nat} (hk : a ≤ k) (hn : k < a + n) (m : List (Nat × α)) :
    mapGet d k (mapDelRange a n m) = d := by
  unfold mapGet
  induction m with
  | nil => rfl
  | cons e m ih =>
    rw [mapDelRange, List.filter_cons]
    split
    · next hout =>
      obtain ⟨j, v⟩ := e
      rw [mapFind_cons, if_neg (by rintro rfl; simp at hout; omega)]
      exact ih
    · exact ih

/-- A core's contexts with every stair 0. -/
def Core.zeroStairs (k : Core) : Core :=
  { k with c0 := { k.c0 with stair0 := 0, stair1 := 0, stair2 := 0, stair3 := 0 },
           c1 := { k.c1 with stair0 := 0, stair1 := 0, stair2 := 0, stair3 := 0 },
           c2 := { k.c2 with stair0 := 0, stair1 := 0, stair2 := 0, stair3 := 0 },
           c3 := { k.c3 with stair0 := 0, stair1 := 0, stair2 := 0, stair3 := 0 } }

theorem Core.stair_zeroStairs (k : Core) (x j : Nat) : (k.zeroStairs.ctx x).stair j = 0 := by
  have hctx : ∃ t : Ctx, k.zeroStairs.ctx x = { t with stair0 := 0, stair1 := 0, stair2 := 0, stair3 := 0 } := by
    unfold Core.ctx
    split_ifs
    all_goals exact ⟨_, rfl⟩
  obtain ⟨t, ht⟩ := hctx
  rw [ht, Ctx.stair]
  split_ifs
  all_goals rfl

/-- A core of a state with every stair 0. -/
def State.zeroStairs (s : State) (c : Nat) : State := s.setCore c (s.core c).zeroStairs

theorem State.stair_foldl_zeroStairs (s : State) {l : List Nat} {c : Nat} (hc : c ∈ l) (x j : Nat) :
    ((l.foldl State.zeroStairs s).ctx c x).stair j = 0 := by
  have hset : ∀ u : State, ((u.zeroStairs c).ctx c x).stair j = 0 := fun u => by
    rw [State.zeroStairs, State.ctx, State.core_setCore, Core.stair_zeroStairs]
  refine foldl_establishes (I := fun _ => True) (P := fun u : State => (u.ctx c x).stair j = 0)
    (f := State.zeroStairs) hc (fun _ _ _ _ => trivial) (fun u d _ _ h => ?_) (fun u _ => hset u) s trivial
  by_cases hdc : c = d
  · exact hdc ▸ hset u
  · rw [State.zeroStairs, State.ctx, State.core_setCore_ne _ _ hdc, ← State.ctx, h]

theorem State.atoms_endEpoch (s : State) (h : Nat) : ∀ e ∈ (s.endEpoch h).atoms, e.2.load ≠ some h := by
  intro e he
  obtain ⟨⟨k, a⟩, -, ha⟩ := List.mem_filterMap.1 he
  dsimp only at ha
  split at ha
  · cases ha
  · next hne =>
    cases ha
    exact hne

/-- The end of a drain, after its stairs and counts are 0: its queues' counts, its epoch and its mode. -/
def State.closeDrain (s : State) (h : Nat) (m : BitVec 3) : State :=
  let d := { s with qfcnt := mapDelRange (32 * h) 32 s.qfcnt, qtgt := mapDelRange (32 * h) 32 s.qtgt }
  (d.endEpoch h).setLoad h { (d.endEpoch h).loadAt h with
    mode := m, draining := false, targets := false, drainAge := 0 }

section closeDrain

variable (s : State) (h : Nat) (m : BitVec 3)

theorem State.closeDrain_keeps : (s.closeDrain h m).mem = s.mem ∧ (s.closeDrain h m).cores = s.cores ∧
    (s.closeDrain h m).cfg = s.cfg ∧ (s.closeDrain h m).streams = s.streams := ⟨rfl, rfl, rfl, rfl⟩

theorem State.loadAt_closeDrain : (s.closeDrain h m).loadAt h = { (s.endEpoch h).loadAt h with
    mode := m, draining := false, targets := false, drainAge := 0 } := State.loadAt_setLoad ..

theorem State.queueCounts_closeDrain {j : Nat} (hj : j < 32) :
    mapGet 0 (32 * h + j) (s.closeDrain h m).qfcnt = 0 ∧ mapGet 0 (32 * h + j) (s.closeDrain h m).qtgt = 0 :=
  ⟨mapGet_delRange 0 (Nat.le_add_right ..) (Nat.add_lt_add_left hj _) s.qfcnt,
    mapGet_delRange 0 (Nat.le_add_right ..) (Nat.add_lt_add_left hj _) s.qtgt⟩

theorem State.atoms_closeDrain : ∀ e ∈ (s.closeDrain h m).atoms, e.2.load ≠ some h :=
  State.atoms_endEpoch { s with qfcnt := _, qtgt := _ } h

end closeDrain

theorem State.reachQuiescent_eq (s : State) (h : Nat) : s.reachQuiescent h =
    let a := (s.loadAt h).cores.foldl State.zeroStairs s
    let b := (a.allActors h).foldl (State.putCounts 0 fun _ _ => 0) a
    let c := (b.streamsOf h).foldl
      (State.putStream fun _ _ t => { t with fcnt := 0, tgt := 0, cumulative := 0 }) b
    c.closeDrain h (s.loadAt h).target := rfl

theorem State.allActors_of_standing (hl : u.loads = v.loads) (hc : u.cfg = v.cfg) (h : Nat) :
    u.allActors h = v.allActors h := by
  simp only [State.allActors, State.actorsOf, State.actorWord, State.cfgAt_of_cfg hc, State.loadAt, hl]

theorem State.streamsOf_of_standing (hl : u.loads = v.loads)
    (hc : ∀ k, ∀ n < 32, u.hallCfg k (8 * n) = v.hallCfg k (8 * n)) (h : Nat) : u.streamsOf h = v.streamsOf h := by
  have hload : u.loadAt h = v.loadAt h := by rw [State.loadAt, hl, State.loadAt]
  unfold State.streamsOf
  rw [hload]
  congr 1
  funext e
  congr 1
  refine List.filter_congr fun n hn => ?_
  rw [hc e.phys n (by have := mem_steps.1 hn; omega)]

/-- No count of an actor is a word of a hall. -/
theorem State.hallCfg_putCounts (s : State) {lo : Nat} {val : State → Nat × Nat → Nat} {e : Nat × Nat}
    (he : e.2 < 8) (k : Nat) {n : Nat} (hn : n < 32) :
    (s.putCounts lo val e).hallCfg k (8 * n) = s.hallCfg k (8 * n) :=
  s.cfgAt_setCfg_ne (by unfold cfgKey; omega) _

theorem State.loads_endEpoch (h : u.loads = v.loads) (n : Nat) :
    (u.endEpoch n).loadAt n = (v.endEpoch n).loadAt n := by
  simp only [State.endEpoch, State.mapAtoms, State.loadAt, h]

theorem quiescentPoint_changes {h : Nat}
    (hquiet : (s.loadWhere fun h l => l.drains && l.targets && s.quiescent h) = some h) :
    ∃ t, exec .quiescentPoint s = .next t ∧ t.mem = s.mem ∧
      t.loadAt h = { (s.endEpoch h).loadAt h with
        mode := (s.loadAt h).target, draining := false, targets := false, drainAge := 0 } ∧
      (∀ e ∈ s.streamsOf h, (t.stream e.1 e.2).fcnt = 0 ∧ (t.stream e.1 e.2).tgt = 0) ∧
      (∀ j < 32, mapGet 0 (32 * h + j) t.qfcnt = 0 ∧ mapGet 0 (32 * h + j) t.qtgt = 0) ∧
      (∀ k ∈ (s.loadAt h).cores, ∀ x < 4, ∀ j < 4, (t.ctx k x).stair j = 0) ∧
      (Tidy s → ∀ e ∈ s.allActors h, bits (t.actorWord e.1 e.2 2) 0 32 = 0) ∧
      ∀ e ∈ t.atoms, e.2.load ≠ some h := by
  have hexec : exec .quiescentPoint s = .next (s.reachQuiescent h) := by
    change execQuiescentPoint s = _
    rw [execQuiescentPoint, hquiet]
  refine ⟨_, hexec, ?_⟩
  rw [State.reachQuiescent_eq]
  extract_lets a b c
  have ha : (a.loads, a.mem, a.cfg) = (s.loads, s.mem, s.cfg) :=
    foldl_keeps (fun u : State => (u.loads, u.mem, u.cfg)) (f := State.zeroStairs) (fun _ _ => rfl) (s.loadAt h).cores s
  have hb : (b.loads, b.mem, b.cores) = (a.loads, a.mem, a.cores) :=
    foldl_keeps (fun u : State => (u.loads, u.mem, u.cores)) (f := State.putCounts 0 fun _ _ => 0)
      (fun _ _ => rfl) (a.allActors h) a
  have hc : (c.loads, c.mem, c.cores, c.cfg) = (b.loads, b.mem, b.cores, b.cfg) :=
    foldl_keeps (fun u : State => (u.loads, u.mem, u.cores, u.cfg))
      (f := State.putStream fun _ _ t => { t with fcnt := 0, tgt := 0, cumulative := 0 })
      (fun _ _ => rfl) (b.streamsOf h) b
  simp only [Prod.mk.injEq] at ha hb hc
  obtain ⟨haloads, hamem, hacfg⟩ := ha
  obtain ⟨hbloads, hbmem, hbcores⟩ := hb
  obtain ⟨hcloads, hcmem, hccores, hccfg⟩ := hc
  have hactors : a.allActors h = s.allActors h := State.allActors_of_standing haloads hacfg h
  have hhall : ∀ k, ∀ n < 32, b.hallCfg k (8 * n) = s.hallCfg k (8 * n) := fun k n hn =>
    (foldl_keeps_of_mem (·.hallCfg k (8 * n)) (f := State.putCounts 0 fun _ _ => 0)
      (fun u e he => u.hallCfg_putCounts (State.allActors_lt he) k hn) a).trans (State.cfgAt_of_cfg hacfg ..)
  have hstreams : b.streamsOf h = s.streamsOf h := State.streamsOf_of_standing (hbloads.trans haloads) hhall h
  obtain ⟨hmem, hcores, hcfg, hkeptStreams⟩ := c.closeDrain_keeps h (s.loadAt h).target
  have hloads : c.loads = s.loads := hcloads.trans (hbloads.trans haloads)
  refine ⟨hmem.trans (hcmem.trans (hbmem.trans hamem)), ?load, fun e he => ?streams,
    fun j hj => c.queueCounts_closeDrain h _ hj, fun k hk x _ j _ => ?stairs, fun ht e he => ?actors,
    c.atoms_closeDrain h _⟩
  case load => rw [State.loadAt_closeDrain, State.loads_endEpoch hloads]
  case streams =>
    have hzero := b.stream_foldl_putStream (fun _ _ t => { t with fcnt := 0, tgt := 0, cumulative := 0 })
      (fun t => t.fcnt = 0 ∧ t.tgt = 0) (fun e he => State.stream_lt he) (hstreams ▸ he) fun _ _ _ => ⟨rfl, rfl⟩
    rw [State.stream, hkeptStreams]
    exact hzero
  case stairs =>
    have hzero := s.stair_foldl_zeroStairs hk x j
    rw [State.ctx, State.core, hcores, hccores, hbcores]
    exact hzero
  case actors =>
    have hta : Tidy a := ⟨hamem ▸ ht.1, hacfg ▸ ht.2⟩
    have hzero := State.bits_foldl_putCounts hta (lo := 0) (by decide) (val := fun _ _ => 0) (fun _ _ => rfl)
      (fun e he => State.allActors_lt he) (hactors ▸ he)
    rw [State.actorWord, State.cfgAt_of_cfg (v := b) (hcfg.trans hccfg)]
    exact hzero.trans (Nat.zero_mod _)

/-- Settles O38: signals pend and set predicates; drains start, get targets and reach the quiescent point. -/
theorem signalsAndModesTakeEffect : Obligations.SignalsAndModesTakeEffect := by
  unfold Obligations.SignalsAndModesTakeEffect
  refine ⟨?signals, ?drains⟩
  case signals =>
    intro s c x n w o
    exact ⟨corridorArrival_pends, corridorApply_sets, corridorApply_waits⟩
  case drains =>
    intro s h m l
    exact ⟨drainStart_retargets, drainStart_of_same_mode, drainStart_starts, drainTargetSet_sets,
      quiescentPoint_changes⟩

end Sys2Proof.Machine

namespace Sys2Proof.Machine

variable {s u v w : State} {q : Issue} {i j : Instr}

/-! ### The results of system forms (R226, R227, R234) -/

/-- A result's ranges, its area and its record released (R226). -/
def State.release (s : State) (id c x : Nat) : State :=
  let b := s.dropRanges c id
  let u := b.setCtx c x { b.ctx c x with areas := setDel id (b.ctx c x).areas }
  { u with results := mapDel id u.results }

theorem State.release_ends (s : State) (id c x : Nat) : (s.release id c x).results = mapDel id s.results ∧
    (∀ e ∈ ((s.release id c x).core c).score, e.id ≠ id) ∧
    setHas id ((s.release id c x).ctx c x).areas = false := by
  have hscore : ∀ (u : State) t, ((u.setCtx c x t).core c).score = (u.core c).score := fun u t => by
    rw [State.setCtx, State.core_setCore, Core.setCtx_units]
  have hdropped : ((s.dropRanges c id).core c).score = (s.core c).score.filter (·.id != id) := by
    rw [State.dropRanges, State.core_setCore]
  refine ⟨rfl, fun e he => ?_, ?_⟩
  · have hmem : e ∈ (s.core c).score.filter (·.id != id) := hdropped ▸ hscore (s.dropRanges c id) _ ▸ he
    simpa using (List.mem_filter.1 hmem).2
  · change setHas id (State.ctx (State.setCtx ..) c x).areas = false
    rw [State.ctx_setCtx]
    exact setHas_setDel_self id _

section resultAreaWrite

variable {id : Nat} {r : Result} (hr : mapFind id s.results = some r)
include hr

/-- A result that is written leaves nothing behind but its bytes: its record, its ranges and its area are gone. -/
theorem State.writeResult_ends (d : List Byte) (po : List Nat) :
    (s.writeResult id d po).results = mapDel id s.results ∧
    (∀ e ∈ ((s.writeResult id d po).core r.core).score, e.id ≠ id) ∧
    setHas id ((s.writeResult id d po).ctx r.core r.ctx).areas = false ∧
    (s.writeResult id d po).mem = memSetBytes s.mem (tileKey r.core r.area) d := by
  have hstored : (s.storeMarked (tileKey r.core r.area) d po).results = s.results :=
    storeMarked_keeps (·.results) (fun _ _ _ _ _ => rfl) s _ d po
  obtain ⟨hresults, hscore, hareas⟩ := (s.storeMarked (tileKey r.core r.area) d po).release_ends id r.core r.ctx
  rw [hstored] at hresults
  rw [State.writeResult_mem, hr, State.writeResult, hr]
  exact ⟨hresults, hscore, hareas, rfl⟩

/-- The forms but SECH, SECV and FRZ took their result at their issue. -/
theorem resultAreaWrite_of_taken (hfirst : s.resultBehind r = false)
    (hplain : ∀ q a b, r.instr ≠ .sech q a b ∧ r.instr ≠ .secv q a b ∧ r.instr ≠ .frz q a b) :
    exec (.resultAreaWrite id) s =
      .next (s.writeResult id r.block (if r.blockPoison then [0] else [])) := by
  change execResultAreaWrite id s = _
  simp only [execResultAreaWrite, hr, hfirst, Bool.false_eq_true, if_false]
  split
  · next h => exact absurd h (hplain _ _ _).1
  · next h => exact absurd h (hplain _ _ _).2.1
  · next h => exact absurd h (hplain _ _ _).2.2
  · rfl

theorem resultAreaWrite_of_freeze (hfirst : s.resultBehind r = false) {a b : XReg} (hi : r.instr = .frz q a b) :
    exec (.resultAreaWrite id) s =
      if s.freezeUnderWay (bits r.a 0 5) then .next (s.retry (.resultAreaWrite id))
      else .next (s.writeResult id r.block) := by
  change execResultAreaWrite id s = _
  simp only [execResultAreaWrite, hr, hfirst, hi, Bool.false_eq_true, if_false]

theorem resultAreaWrite_of_hash (hfirst : s.resultBehind r = false) {a b : XReg} (hi : r.instr = .sech q a b) :
    exec (.resultAreaWrite id) s = .next ((s.sechResult r.block r.blockPoison).1.writeResult id
      (s.sechResult r.block r.blockPoison).2) := by
  change execResultAreaWrite id s = _
  simp only [execResultAreaWrite, hr, hfirst, hi, Bool.false_eq_true, if_false]

theorem resultAreaWrite_of_verify (hfirst : s.resultBehind r = false) {a b : XReg} (hi : r.instr = .secv q a b) :
    exec (.resultAreaWrite id) s = .next (s.writeResult id (s.secvResult r.block r.blockPoison)) := by
  change execResultAreaWrite id s = _
  simp only [execResultAreaWrite, hr, hfirst, hi, Bool.false_eq_true, if_false]

theorem resultAreaWrite_behind (hbehind : s.resultBehind r = true) :
    exec (.resultAreaWrite id) s = .next (s.retry (.resultAreaWrite id)) := by
  change execResultAreaWrite id s = _
  rw [execResultAreaWrite, hr]
  exact if_pos hbehind

end resultAreaWrite

/-! ### Sessions (R317, R321, R322) -/

theorem State.session_setSession (s : State) (wing n : Nat) (t : Session) :
    (s.setSession wing n t).session wing n = t := mapGet_put ..

/-- LAST and LCMD are all that a report changes of its session. -/
theorem Session.report_keeps {β : Type} (g : Session → β) (hg : ∀ (t : Session) last lcmd,
      g { t with last := last, lcmd := lcmd } = g t) (t before : Session) (fn : BitVec 3) (st : Nat) :
    g (t.report before fn st) = g t := by
  unfold Session.report
  split
  · rfl
  · exact hg ..

section grammarRace

variable (s : State) (wing n c x : Nat)

/-- A race is noted in its session and in its load's record (R321). -/
theorem State.grammarRace_eq : ∃ users raced l,
    s.grammarRace wing n c x = s ∨
    s.grammarRace wing n c x = { s.setSession wing n { s.session wing n with
      users := users, raced := raced } with loads := l } := by
  unfold State.grammarRace
  extract_lets t users race a
  split
  · exact ⟨[], false, [], .inl rfl⟩
  · split
    · obtain ⟨d, k, hd⟩ := a.detEvent_eq t.owner 8 (BitVec.ofNat 8 x) (BitVec.ofNat 16 (16 * wing))
        (BitVec.ofNat 16 n) ((s.ctx c x).fix.setWidth 32)
      rw [hd]
      exact ⟨_, _, _, .inr rfl⟩
    · exact ⟨_, _, _, .inr rfl⟩

theorem State.session_grammarRace {β : Type} (g : Session → β)
    (hg : ∀ (t : Session) users raced, g { t with users := users, raced := raced } = g t) :
    g ((s.grammarRace wing n c x).session wing n) = g (s.session wing n) := by
  obtain ⟨users, raced, l, he | he⟩ := s.grammarRace_eq wing n c x
  · rw [he]
  · rw [he]
    exact (congrArg g (State.session_setSession ..)).trans (hg ..)

theorem State.mem_grammarRace : (s.grammarRace wing n c x).mem = s.mem := by
  obtain ⟨users, raced, l, he | he⟩ := s.grammarRace_eq wing n c x
  · rw [he]
  · rw [he]
    rfl

end grammarRace

/-! ### The engine's fault (R483, R486) -/

section faultOutside

variable (s : State) (hk h : Nat) (f : FaultInfo)

theorem State.faultOutside_keeps {β : Type} (g : State → β)
    (hlog : ∀ (s : State) mem poison dirty saved full cfg, g { s with
      mem := mem, poison := poison, dirty := dirty, saved := saved, full := full, cfg := cfg } = g s)
    (hmsix : ∀ (s : State) msixPending hostOut, g { s with
      msixPending := msixPending, hostOut := hostOut } = g s)
    (hcores : ∀ (s : State) cores results, g { s with cores := cores, results := results } = g s)
    (hload : ∀ (s : State) loads launches agenda fresh, g { s with
      loads := loads, launches := launches, agenda := agenda, fresh := fresh } = g s) :
    g (s.faultOutside hk h f) = g s := by
  unfold State.faultOutside
  extract_lets second core place
  have hlogged : g (s.logFault place f none) = g s := State.logFault_keeps g hlog hmsix s place f none
  have hpreqs : g ((s.logFault place f none).failPreqs h) = g (s.logFault place f none) :=
    (hload _ _ (State.launches _) (State.agenda _) (State.fresh _)).trans
      (foldl_keeps g (fun s (q : Nat × Nat × Nat) => writeResult_keeps g
        (fun s mem poison dirty saved => hlog s mem poison dirty saved s.full s.cfg) hcores s q.2.2 _ []) _ _)
  exact (State.stopLoad_keeps g hload hpreqs f.code).trans hlogged

theorem State.faultOutside_stops (hrun : (s.loadAt h).state = .running) :
    ((s.faultOutside hk h f).loadAt h).state = .stopping ∧
      ((s.faultOutside hk h f).loadAt h).code = some (BitVec.ofNat 8 f.code) := by
  unfold State.faultOutside
  extract_lets second core place
  have hloads : (s.logFault place f none).loads = s.loads :=
    State.logFault_keeps (·.loads) (fun _ _ _ _ _ _ _ => rfl) (fun _ _ _ => rfl) s place f none
  refine State.stopLoad_running ?_ f.code
  rw [State.loadAt, hloads]
  exact hrun

theorem State.sessions_engineFault (wing addr : Nat) : (s.engineFault wing h addr).sessions = s.sessions :=
  s.faultOutside_keeps _ h _ (·.sessions) (fun _ _ _ _ _ _ _ => rfl) (fun _ _ _ => rfl) (fun _ _ _ => rfl)
    (fun _ _ _ _ _ => rfl)

end faultOutside

/-! ### The mask of a GMASK (R318) -/

theorem State.mem_storeFull (s : State) (key n : Nat) (d : List Byte) (po : List Nat) :
    ((s.storeMarked key d po).setFull key n).mem = memSetBytes s.mem key d := by
  rw [State.setFull_mem, State.storeMarked_mem]

section writeMask

variable {xb : Word64} {key : Nat} (hk : s.sharedKey xb 32768 = some key)
include hk

theorem State.mem_writeMask (m : Nat) :
    (s.writeMask xb (some m)).mem = memSetBytes s.mem key (natToBytes 32768 m) := by
  rw [State.writeMask, hk]
  exact State.mem_storeFull ..

theorem State.mem_writeMask_free : ∃ d : List Byte, d.length = 32768 ∧
    (s.writeMask xb none).mem = memSetBytes s.mem key d := by
  have hlen := length_flatMap_steps (f := fun i => natToBytes 8 (Config.freeBits i).toNat)
    (fun _ => natToBytes_length 8 _) s.fresh 4096
  refine ⟨_, hlen, ?_⟩
  simp only [State.writeMask, hk, State.mem_storeFull]

theorem State.sendMask_writes (wing : Nat) {c : GramCmd} (hc : c.b = xb) (m : Option Nat) :
    s.sendMask wing c m = s.writeMask xb m := by
  rw [State.sendMask, hc, hk]
  rfl

end writeMask

end Sys2Proof.Machine

namespace Sys2Proof.Machine

variable {s u v w : State} {q : Issue} {i j : Instr}

theorem State.sessions_writeMask (s : State) (xb : Word64) (m : Option Nat) :
    (s.writeMask xb m).sessions = s.sessions := by
  have hstored : ∀ key n d po, ((s.storeMarked key d po).setFull key n).sessions = s.sessions :=
    fun key _ d po => storeMarked_keeps (·.sessions) (fun _ _ _ _ _ => rfl) s key d po
  unfold State.writeMask
  split
  · rfl
  · split
    · exact hstored ..
    · simp only [hstored]

theorem State.sessions_sendMask (s : State) (wing : Nat) (c : GramCmd) (m : Option Nat) :
    (s.sendMask wing c m).sessions = s.sessions := by
  unfold State.sendMask
  split
  · exact s.sessions_engineFault ..
  · exact s.sessions_writeMask ..

/-! ### Grammar commands at their engine (R317 to R322) -/

section commands

variable {c : GramCmd}

/-- A command meets a session that another load owns. -/
def State.foreign (s : State) (c : GramCmd) : Prop :=
  (s.session (bits c.a 8 2) (bits c.a 0 8)).state ≠ .closed ∧
    (s.session (bits c.a 8 2) (bits c.a 0 8)).owner ≠ c.load

section foreign

variable (hf : s.foreign c)
include hf

theorem State.foreign_test : ((s.session (bits c.a 8 2) (bits c.a 0 8)).state != .closed &&
    (s.session (bits c.a 8 2) (bits c.a 0 8)).owner != c.load) = true := by
  simp [hf.1, hf.2]

theorem State.performCommand_foreign (hq : c.fn ≠ 4) : s.performCommand c =
    if c.fn = 2 then s.sendMask (bits c.a 8 2) c (some 0) else s := by
  simp only [State.performCommand, if_neg hq, State.foreign_test hf, if_true]

theorem State.performCommand_foreign_query (hq : c.fn = 4) : s.performCommand c =
    s.within 1 64 (.deferredResultArrival c.core c.ctx c.id 0 false) := by
  simp [State.performCommand, hq, hf.1, hf.2]

end foreign

section own

variable (hown : (s.session (bits c.a 8 2) (bits c.a 0 8)).state = .closed ∨
  (s.session (bits c.a 8 2) (bits c.a 0 8)).owner = c.load)
include hown

theorem State.own_test : ((s.session (bits c.a 8 2) (bits c.a 0 8)).state != .closed &&
    (s.session (bits c.a 8 2) (bits c.a 0 8)).owner != c.load) = false := by
  rcases hown with h | h
  · simp [h]
  · simp [h]

theorem State.performCommand_query (hq : c.fn = 4) : s.performCommand c =
    s.within 1 64 (.deferredResultArrival c.core c.ctx c.id
      ((s.session (bits c.a 8 2) (bits c.a 0 8)).query (bits c.b 0 2)) false) := by
  simp [State.performCommand, hq, State.own_test hown]

theorem State.performCommand_open (hq : c.fn = 0) : s.performCommand c =
    let t := s.session (bits c.a 8 2) (bits c.a 0 8)
    let slot := s.slotWord (wingOfCore c.core) c.load (bits c.a 10 3)
    if t.state = .closed && s.slotAstray slot then s.engineFault (bits c.a 8 2) c.load (bits slot 0 52)
    else
      let r := if t.state = .closed then s.openSession t c.load (bits c.a 10 3) slot c.b else (t, stBusy)
      s.setSession (bits c.a 8 2) (bits c.a 0 8) (r.1.report t 0 r.2) := by
  simp only [State.performCommand, hq, State.own_test hown]
  rfl

theorem State.performCommand_step (hq : c.fn = 1) : s.performCommand c =
    let t := s.session (bits c.a 8 2) (bits c.a 0 8)
    (s.setSession (bits c.a 8 2) (bits c.a 0 8) ((s.gstep t (bits c.b 0 32)).1.report t 1
      (s.gstep t (bits c.b 0 32)).2)).grammarRace (bits c.a 8 2) (bits c.a 0 8) c.core c.ctx := by
  simp only [State.performCommand, hq, State.own_test hown]
  rfl

theorem State.performCommand_mask (hq : c.fn = 2) : s.performCommand c =
    let t := s.session (bits c.a 8 2) (bits c.a 0 8)
    (s.setSession (bits c.a 8 2) (bits c.a 0 8) ((s.gmask t).1.report t 2 (s.gmask t).2.1)).sendMask
      (bits c.a 8 2) c (s.gmask t).2.2 := by
  simp only [State.performCommand, hq, State.own_test hown]
  rfl

theorem State.performCommand_close (hq : c.fn = 3) : s.performCommand c =
    let t := s.session (bits c.a 8 2) (bits c.a 0 8)
    (s.setSession (bits c.a 8 2) (bits c.a 0 8) (({ t with state := .closed } : Session).report t 3
      (if t.state = .closed then stNotOpen else stOk))).grammarRace (bits c.a 8 2) (bits c.a 0 8) c.core c.ctx := by
  simp only [State.performCommand, hq, State.own_test hown]
  rfl

section opening

variable (hq : c.fn = 0)
include hq

theorem State.performCommand_open_of_open
    (ho : (s.session (bits c.a 8 2) (bits c.a 0 8)).state ≠ .closed) : s.performCommand c =
    let t := s.session (bits c.a 8 2) (bits c.a 0 8)
    s.setSession (bits c.a 8 2) (bits c.a 0 8) (t.report t 0 stBusy) := by
  rw [State.performCommand_open hown hq]
  simp [ho]

variable (hc : (s.session (bits c.a 8 2) (bits c.a 0 8)).state = .closed)
include hc

theorem State.performCommand_open_of_closed
    (ha : s.slotAstray (s.slotWord (wingOfCore c.core) c.load (bits c.a 10 3)) = false) : s.performCommand c =
    let t := s.session (bits c.a 8 2) (bits c.a 0 8)
    let r := s.openSession t c.load (bits c.a 10 3) (s.slotWord (wingOfCore c.core) c.load (bits c.a 10 3)) c.b
    s.setSession (bits c.a 8 2) (bits c.a 0 8) (r.1.report t 0 r.2) := by
  rw [State.performCommand_open hown hq]
  simp [hc, ha]

theorem State.performCommand_open_astray
    (ha : s.slotAstray (s.slotWord (wingOfCore c.core) c.load (bits c.a 10 3)) = true) : s.performCommand c =
    s.engineFault (bits c.a 8 2) c.load
      (bits (s.slotWord (wingOfCore c.core) c.load (bits c.a 10 3)) 0 52) := by
  rw [State.performCommand_open hown hq]
  simp [hc, ha]

end opening

end own

end commands

/-- A slot whose BASE is no address of a header names no image (R310, R486). -/
theorem State.openSession_astray {t : Session} {h n : Nat} {slot seq : Word64} (ha : s.slotAstray slot = true) :
    (s.openSession t h n slot seq).1 = t := by
  simp only [State.slotAstray, Bool.and_eq_true, Option.isNone_iff_eq_none] at ha
  have hbase : s.imageBase slot = none := by
    simp only [State.imageBase, ha.1, ha.2, if_true]
  simp only [State.openSession, hbase, Option.bind_none]

section effects

variable {c : GramCmd}

/-- What a GOPEN of the session's load, or on a closed session, does (R319). -/
theorem State.open_effect (hq : c.fn = 0) (hown : (s.session (bits c.a 8 2) (bits c.a 0 8)).state = .closed ∨
      (s.session (bits c.a 8 2) (bits c.a 0 8)).owner = c.load) :
    let o := s.session (bits c.a 8 2) (bits c.a 0 8)
    let slot := s.slotWord (wingOfCore c.core) c.load (bits c.a 10 3)
    let t := s.performCommand c
    (t.session (bits c.a 8 2) (bits c.a 0 8)).state = (if o.state = .closed then
      (s.openSession o c.load (bits c.a 10 3) slot c.b).1.state else o.state) ∧
    (o.state ≠ .closed ∨ s.slotAstray slot = false → t.mem = s.mem) ∧
    (o.state = .closed → s.slotAstray slot = true → t.sessions = s.sessions ∧
      ((s.loadAt c.load).state = .running → (t.loadAt c.load).state = .stopping ∧
        (t.loadAt c.load).code = some (BitVec.ofNat 8 codeRange))) := by
  intro o slot t
  have hreport : ∀ (x : Session) st, (x.report o 0 st).state = x.state := fun x st =>
    Session.report_keeps (·.state) (fun _ _ _ => rfl) x o 0 st
  by_cases hc : o.state = .closed
  · rw [if_pos hc]
    cases ha : s.slotAstray slot with
    | false =>
      have ht : t = _ := State.performCommand_open_of_closed hown hq hc ha
      rw [ht]
      refine ⟨?_, fun _ => rfl, nofun⟩
      rw [State.session_setSession, hreport]
    | true =>
      have ht : t = _ := State.performCommand_open_astray hown hq hc ha
      rw [ht]
      have hsessions := s.sessions_engineFault c.load (bits c.a 8 2) (bits slot 0 52)
      refine ⟨?_, fun h => absurd hc (h.resolve_right nofun), fun _ _ => ⟨hsessions, fun hrun =>
        s.faultOutside_stops (systemHall (bits c.a 8 2)) c.load _ hrun⟩⟩
      rw [State.session, hsessions, State.openSession_astray ha]
      rfl
  · have ht : t = _ := State.performCommand_open_of_open hown hq hc
    rw [if_neg hc, ht]
    refine ⟨?_, fun _ => rfl, fun h => absurd h hc⟩
    rw [State.session_setSession, hreport]

/-- What a GMASK writes, and of its session counts (R318). -/
theorem State.mask_effect (hq : c.fn = 2) (hown : (s.session (bits c.a 8 2) (bits c.a 0 8)).state = .closed ∨
      (s.session (bits c.a 8 2) (bits c.a 0 8)).owner = c.load) :
    let o := s.session (bits c.a 8 2) (bits c.a 0 8)
    let t := s.performCommand c
    (t.session (bits c.a 8 2) (bits c.a 0 8)).state = (s.gmask o).1.state ∧
    (t.session (bits c.a 8 2) (bits c.a 0 8)).masks = (s.gmask o).1.masks ∧
    (∀ key v, s.sharedKey c.b 32768 = some key → (s.gmask o).2.2 = some v →
      t.mem = memSetBytes s.mem key (natToBytes 32768 v)) ∧
    (∀ key, s.sharedKey c.b 32768 = some key → (s.gmask o).2.2 = none →
      ∃ d : List Byte, d.length = 32768 ∧ t.mem = memSetBytes s.mem key d) := by
  intro o t
  have ht : t = (s.setSession (bits c.a 8 2) (bits c.a 0 8) ((s.gmask o).1.report o 2 (s.gmask o).2.1)).sendMask
      (bits c.a 8 2) c (s.gmask o).2.2 := State.performCommand_mask hown hq
  generalize hu : s.setSession (bits c.a 8 2) (bits c.a 0 8)
    ((s.gmask o).1.report o 2 (s.gmask o).2.1) = u at ht
  have hmem : u.mem = s.mem := hu ▸ rfl
  have hkey : u.sharedKey c.b 32768 = s.sharedKey c.b 32768 := hu ▸ rfl
  have hsession : t.session (bits c.a 8 2) (bits c.a 0 8) = (s.gmask o).1.report o 2 (s.gmask o).2.1 := by
    rw [ht, State.session, u.sessions_sendMask, ← State.session, ← hu, State.session_setSession]
  have hkept : ∀ {β : Type} (g : Session → β), (∀ (t : Session) last lcmd,
      g { t with last := last, lcmd := lcmd } = g t) →
      g (t.session (bits c.a 8 2) (bits c.a 0 8)) = g (s.gmask o).1 := fun g hg => by
    rw [hsession, Session.report_keeps g hg]
  refine ⟨hkept (·.state) fun _ _ _ => rfl, hkept (·.masks) fun _ _ _ => rfl, fun key v hk hv => ?_,
    fun key hk hv => ?_⟩
  · rw [ht, hv, State.sendMask_writes (hkey.trans hk) _ rfl, State.mem_writeMask (hkey.trans hk), hmem]
  · rw [ht, hv, State.sendMask_writes (hkey.trans hk) _ rfl, ← hmem]
    exact State.mem_writeMask_free (hkey.trans hk)

theorem State.step_effect (hq : c.fn = 1) (hown : (s.session (bits c.a 8 2) (bits c.a 0 8)).state = .closed ∨
      (s.session (bits c.a 8 2) (bits c.a 0 8)).owner = c.load) :
    let o := s.session (bits c.a 8 2) (bits c.a 0 8)
    let t := s.performCommand c
    (t.session (bits c.a 8 2) (bits c.a 0 8)).state = (s.gstep o (bits c.b 0 32)).1.state ∧
    (t.session (bits c.a 8 2) (bits c.a 0 8)).stack = (s.gstep o (bits c.b 0 32)).1.stack ∧
    (t.session (bits c.a 8 2) (bits c.a 0 8)).pda = (s.gstep o (bits c.b 0 32)).1.pda ∧ t.mem = s.mem := by
  intro o t
  have ht : t = _ := State.performCommand_step hown hq
  have hkept : ∀ {β : Type} (g : Session → β), (∀ (t : Session) last lcmd,
      g { t with last := last, lcmd := lcmd } = g t) → (∀ (t : Session) users raced,
      g { t with users := users, raced := raced } = g t) →
      g (t.session (bits c.a 8 2) (bits c.a 0 8)) = g (s.gstep o (bits c.b 0 32)).1 := fun g hlast husers => by
    rw [ht, State.session_grammarRace _ _ _ _ _ g husers, State.session_setSession, Session.report_keeps g hlast]
  refine ⟨hkept (·.state) (fun _ _ _ => rfl) fun _ _ _ => rfl, hkept (·.stack) (fun _ _ _ => rfl) fun _ _ _ => rfl,
    hkept (·.pda) (fun _ _ _ => rfl) fun _ _ _ => rfl, ?_⟩
  rw [ht, State.mem_grammarRace]
  rfl

theorem State.close_effect (hq : c.fn = 3) (hown : (s.session (bits c.a 8 2) (bits c.a 0 8)).state = .closed ∨
      (s.session (bits c.a 8 2) (bits c.a 0 8)).owner = c.load) :
    ((s.performCommand c).session (bits c.a 8 2) (bits c.a 0 8)).state = .closed ∧
      (s.performCommand c).mem = s.mem := by
  rw [State.performCommand_close hown hq]
  refine ⟨?_, ?_⟩
  · rw [State.session_grammarRace _ _ _ _ _ (·.state) fun _ _ _ => rfl, State.session_setSession]
    exact Session.report_keeps (·.state) (fun _ _ _ => rfl) ..
  · rw [State.mem_grammarRace]
    rfl

end effects

/-! ### What a command leaves (R317, R322) -/

theorem scheduled_within (h : u.cycle = s.cycle) {lo hi : Nat} (hlo : 0 < lo) (hhi : 0 < hi) (i : Instr) :
    Scheduled s (u.within lo hi i) i :=
  ⟨_, by omega, State.mem_at ..⟩

/-- A query changes nothing but what it has scheduled (R322). -/
theorem State.query_effect (s : State) (c : GramCmd) (x : Word64) :
    let t := s.within 1 64 (.deferredResultArrival c.core c.ctx c.id x false)
    t.mem = s.mem ∧ t.sessions = s.sessions ∧
      Scheduled s t (.deferredResultArrival c.core c.ctx c.id x false) :=
  ⟨rfl, rfl, scheduled_within rfl (by decide) (by decide) _⟩

/-- A command of another load than the session's own: nothing of the session changes (R317). -/
theorem State.foreign_effect {c : GramCmd} (hf : s.foreign c) :
    (s.performCommand c).sessions = s.sessions ∧ (c.fn ≠ 2 → (s.performCommand c).mem = s.mem) ∧
    (c.fn = 2 → ∀ key, s.sharedKey c.b 32768 = some key →
      (s.performCommand c).mem = memSetBytes s.mem key (natToBytes 32768 0)) ∧
    (c.fn = 4 → Scheduled s (s.performCommand c) (.deferredResultArrival c.core c.ctx c.id 0 false)) := by
  by_cases hq : c.fn = 4
  · have ht := State.performCommand_foreign_query hf hq
    obtain ⟨hmem, hsessions, hsched⟩ := s.query_effect c 0
    rw [ht]
    exact ⟨hsessions, fun _ => hmem, fun h => absurd (hq ▸ h) (by decide), fun _ => hsched⟩
  · have ht := State.performCommand_foreign hf hq
    rw [ht]
    by_cases hm : c.fn = 2
    · rw [if_pos hm]
      refine ⟨s.sessions_sendMask .., fun h => absurd hm h, fun _ key hk => ?_, fun h => absurd h hq⟩
      rw [State.sendMask_writes hk _ rfl, State.mem_writeMask hk]
    · rw [if_neg hm]
      exact ⟨rfl, fun _ => rfl, fun h => absurd h hm, fun h => absurd h hq⟩

theorem grammarCommandPerform_performs {id : Nat} {c : GramCmd} (hc : mapFind id s.gcmds = some c)
    (hafter : ∀ i ∈ c.after, mapFind i s.gcmds = none) : exec (.grammarCommandPerform id) s =
      .next { s.performCommand c with gcmds := mapDel id s.gcmds } := by
  have hnone : ¬ (c.after.any fun i => (mapFind i s.gcmds).isSome) = true := by
    simpa using hafter
  change execGrammarCommandPerform id s = _
  rw [execGrammarCommandPerform, hc]
  exact if_neg hnone

/-- Settles O37: results are written in order; a grammar command acts on its session. -/
theorem resultsAndCommandsPerform : Obligations.ResultsAndCommandsPerform := by
  unfold Obligations.ResultsAndCommandsPerform
  intro s id r c
  refine ⟨fun hr hfirst => ⟨fun hplain => ?taken, fun q a b hi => resultAreaWrite_of_freeze hr hfirst hi,
    fun q a b hi => resultAreaWrite_of_hash hr hfirst hi, fun q a b hi => resultAreaWrite_of_verify hr hfirst hi⟩,
    fun hr hbehind => resultAreaWrite_behind hr hbehind, fun hc hafter => ?command⟩
  case taken => exact ⟨_, resultAreaWrite_of_taken hr hfirst hplain, State.writeResult_ends hr ..⟩
  case command =>
    intro wing n o
    refine ⟨_, grammarCommandPerform_performs hc hafter, rfl, fun hown => ⟨?opened, ?masked, ?stepped, ?closed, ?asked⟩,
      fun hopen hother => ?foreign⟩
    case opened =>
      intro slot hq
      exact State.open_effect hq hown
    case masked =>
      intro hq
      exact State.mask_effect hq hown
    case stepped =>
      intro hq
      exact State.step_effect hq hown
    case closed =>
      intro hq
      exact State.close_effect hq hown
    case asked =>
      intro hq
      have ht := State.performCommand_query hown hq
      rw [ht]
      exact s.query_effect c (o.query (bits c.b 0 2))
    case foreign =>
      exact State.foreign_effect (c := c) ⟨hopen, hother⟩

end Sys2Proof.Machine
